-- ==== Sys2Proof/Word.lean ====
section
/-!
DEFINITION. The widths the manual counts in (R7, R28, R228) and nothing else.
-/

namespace Sys2Proof

/-- A doubleword: a scalar register, a record word, an instruction word. -/
abbrev Word := BitVec 64

/-- A byte. -/
abbrev Byte := BitVec 8

/-- A scratchpad row or a vector register: 512 bytes, byte 0 at the lowest address (R7, R28, R227). -/
abbrev Row := BitVec 4096

/-- A mask register: one bit for each byte of a vector register (R228). -/
abbrev Mask := BitVec 512

end Sys2Proof
end

