-- ==== Sys2Proof/Machine/Bits.lean ====
section
/-!
DEFINITION. Bit fields, extension and byte order (R7, R182): the helpers every other file uses.
-/

namespace Sys2Proof.Bits

/-- Bits `lo + w - 1` down to `lo` of a value, as in `x[h:l]` (R7). -/
def field {n : Nat} (v : BitVec n) (lo w : Nat) : BitVec w := v.extractLsb' lo w

/-- The same as a number. -/
def nfield {n : Nat} (v : BitVec n) (lo w : Nat) : Nat := (v.toNat >>> lo) % 2 ^ w

/-- One bit. -/
def bit {n : Nat} (v : BitVec n) (i : Nat) : Bool := v.getLsbD i

/-- A value with a field replaced. -/
def setField {n : Nat} (v : BitVec n) (lo w : Nat) (x : BitVec w) : BitVec n :=
  (v &&& ~~~((BitVec.allOnes w).setWidth n <<< lo)) ||| (x.setWidth n <<< lo)

/-- A value with one bit replaced. -/
def setBit {n : Nat} (v : BitVec n) (i : Nat) (b : Bool) : BitVec n := setField v i 1 (BitVec.ofBool b)

/-- A number placed at a bit position, for building words. -/
def at' (x lo : Nat) : Nat := x <<< lo

/-- The integer a 64-bit address sum is made of: a register read as unsigned plus a signed offset (R206). -/
def addrU {n : Nat} (a : Word) (off : BitVec n) : Int := (a.toNat : Int) + off.toInt

/-- The low `k` bits sign-extended to a doubleword (R182 sext). -/
def sext (v : Word) (k : Nat) : Word := (v.setWidth k).signExtend 64

/-- The low `k` bits zero-extended to a doubleword (R182 zext). -/
def zext (v : Word) (k : Nat) : Word := (v.setWidth k).setWidth 64

/-- Bytes of a value, lowest first (R7). -/
def toBytes {n : Nat} (v : BitVec n) (len : Nat) : List Byte := (List.range len).map fun i => v.extractLsb' (8 * i) 8

/-- The number that bytes spell, lowest first (R7). -/
def natOfBytes : List Byte → Nat
  | [] => 0
  | b :: r => b.toNat + 256 * natOfBytes r

/-- The doubleword that up to eight bytes spell. -/
def wordOfBytes (bs : List Byte) : Word := BitVec.ofNat 64 (natOfBytes bs)

/-- Element `i` of width `w` of a row or register (R227). -/
def elem (r : Row) (w i : Nat) : Nat := (r.toNat >>> (w * i)) % 2 ^ w

/-- A row from its elements of width `w`, lowest index first. -/
def natOfElems (w : Nat) : List Nat → Nat
  | [] => 0
  | x :: r => x % 2 ^ w + (natOfElems w r) <<< w

/-- A row from its elements. -/
def rowOfElems (w : Nat) (xs : List Nat) : Row := BitVec.ofNat 4096 (natOfElems w xs)

/-- All elements of width `w` of a row. -/
def elems (r : Row) (w : Nat) : List Nat := (List.range (4096 / w)).map (elem r w)

/-- The row with element `i` of width `w` replaced. -/
def setElem (r : Row) (w i x : Nat) : Row := setField r (w * i) w (BitVec.ofNat w x)

/-- Bytes `lo` to `lo + len - 1` of a row. -/
def rowBytes (r : Row) (lo len : Nat) : List Byte := (List.range len).map fun i => r.extractLsb' (8 * (lo + i)) 8

/-- The row with bytes replaced from byte `lo` up. -/
def setRowBytes (r : Row) (lo : Nat) (bs : List Byte) : Row :=
  setField r (8 * lo) (8 * bs.length) (BitVec.ofNat (8 * bs.length) (natOfBytes bs))

/-- The least multiple of `n` not below `a`, in units of `n`. -/
def ceilDiv (a n : Nat) : Nat := (a + n - 1) / n

/-- The bits of a mask from booleans, lowest first. -/
def natOfBools : List Bool → Nat
  | [] => 0
  | b :: r => (if b then 1 else 0) + 2 * natOfBools r

/-- Population count. -/
def popCount {n : Nat} (v : BitVec n) : Nat := (List.range n).foldl (fun c i => if v.getLsbD i then c + 1 else c) 0

/-- The value with bits in reverse order (R188 BREV). -/
def reverseBits (v : Word) : Word := BitVec.ofNat 64 (natOfBools ((List.range 64).map fun i => v.getLsbD (63 - i)))

/-- Leading zeros from bit 63 down; 64 for zero (R188 CLZ). -/
def leadingZeros (v : Word) : Nat := if v = 0 then 64 else 63 - Nat.log2 v.toNat

/-- Trailing zeros; 64 for zero (R188 CTZ). -/
def trailingZeros (v : Word) : Nat := ((List.range 64).find? fun i => v.getLsbD i).getD 64

/-- One step of the reflected CRC-32C over one byte (R91): eight shifts with the Castagnoli polynomial. -/
def crcByte (c : BitVec 32) (b : Byte) : BitVec 32 :=
  (List.range 8).foldl (fun x _ => if x.getLsbD 0 then (x >>> 1) ^^^ 0x82F63B78 else x >>> 1) (c ^^^ b.setWidth 32)

/-- CRC-32C of a run of bytes (R91): initial value and final xor all ones. -/
def crc32c (bs : List Byte) : BitVec 32 := ~~~ (bs.foldl crcByte 0xFFFFFFFF)

end Sys2Proof.Bits
end

