-- ==== Sys2Proof/Syntax.lean ====
section
/-!
DEFINITION. The one inductive of what the device does: one constructor per row of the opcode table.
A row with a place in the opcode map (R175 to R178) is an instruction of a core, with its operands.
Every other row is a step of the device named in spec/95: its arguments name the unit it happens at and,
where an agent outside the device decides something (host, peer chip, physics), what that agent supplies.
-/

namespace Sys2Proof

/-- Scalar register number, R160. -/
abbrev SReg := Fin 32
/-- Capability register number, R160. -/
abbrev CReg := Fin 16
/-- Predicate number, R160. -/
abbrev PReg := Fin 16
/-- Mask register number, R160. -/
abbrev MReg := Fin 16
/-- Region register number, R160. -/
abbrev GReg := Fin 32
/-- Branch target register number, R160. -/
abbrev BReg := Fin 8
/-- Vector name: v0-v511 are 0-511, o0-o95 are 512-607, y0-y31 are 608-639, R161. -/
abbrev VReg := Fin 640
/-- The predicate of the .NB form, when the word has nb = 1, R259. -/
abbrev NB := Option PReg
/-- Step code of a walked slot, R260. -/
abbrev Step := BitVec 3
/-- A run of bytes, lowest address first, R7. -/
abbrev Bytes := List (BitVec 8)
/-- Die numbers in order of preference, R132. -/
abbrev Dies := List Nat
/-- Block or word indices. -/
abbrev Blocks := List Nat

/-- Element types by type code, R42. -/
inductive Ty where
  | i8 | i16 | i32 | i64 | n8 | n16 | n32 | n64
  | f4 | e4m3 | e5m2 | bf16 | f16 | f32 | f64 | a56
  deriving DecidableEq, Repr

/-- Rounding modes, R43. -/
inductive Rnd where
  | rne | rtz | rup | rdn | rsr
  deriving DecidableEq, Repr

/-- Orderings of template TM, R164. -/
inductive Ord where
  | rlx | acq | rel | ar
  deriving DecidableEq, Repr

/-- Scopes, R164, R356. -/
inductive Scope where
  | core | team | chip | dom | sys
  deriving DecidableEq, Repr

/-- Integer conditions, R197. -/
inductive ICond where
  | eq | ne | lt | ltu | ge | geu | le | leu | gt | gtu | tst | ntst
  deriving DecidableEq, Repr

/-- Scalar float conditions, R198. -/
inductive FCond where
  | eq | ne | lt | le | un | ord
  deriving DecidableEq, Repr

/-- Lane compare conditions, R241. -/
inductive VCond where
  | eq | ne | lt | le | gt | ge | un | ord | tst | ntst
  deriving DecidableEq, Repr

/-- The queues of a core, R66, R308: one per engine, and one per copy channel. -/
inductive Queue where
  | matrix | stream | transpose | copy (c : Fin 4) | walker | board
  deriving DecidableEq, Repr

/-- The masters that R437 freezes one by one: the sequencer, or one engine. -/
inductive Master where
  | thread | engine (q : Queue)
  deriving DecidableEq, Repr

/-- A host access through BAR2, R97: a read of so many bytes, or a write. -/
inductive HostAcc where
  | read (len : Nat) | write (data : Bytes)
  deriving DecidableEq, Repr

/-- A register a write can name that has no row of its own: BAR0 of a function (R97), the VF Enable bit of
SR-IOV (R124), or the device register space (R125), from M-mode or not. -/
inductive HostReg where
  | bar0 (fn off : Nat) | vfEnable (fn : Nat) | dev (off : Nat) (mmode : Bool)
  deriving DecidableEq, Repr

/-- What the error-correcting code of a word finds, R487. -/
inductive EccErr where
  | none | corrected | uncorrectable
  deriving DecidableEq, Repr

/-- A protected word of a core's arrays, R487, R512: a tile entry, a plane cell, or a physical row. -/
inductive EngWord where
  | tile (t : Fin 4) (i j : Fin 128) | plane (p : Fin 2) (cell : Nat) | row (phys : Nat)
  deriving DecidableEq, Repr

/-- Words found bad. -/
abbrev EngWords := List EngWord

/-- A party about to enter the active-region directory, R362: an access-unit operation, a task, or a
combining-buffer entry, by position or sequence number. -/
inductive DirParty where
  | op (k : Nat) | task (seq : BitVec 32) | red (k : Nat)
  deriving DecidableEq, Repr

/-- Who waits on the host over PCIe, R376, R122. -/
inductive HostParty where
  | op (core k : Nat) | task (core : Nat) (seq : BitVec 32) | service (fn q : Nat) (idx : BitVec 32)
  deriving DecidableEq, Repr

/-- The cause, reason and detail of a fault an engine meets, R426. -/
structure TaskFault where
  cause : BitVec 8
  reason : BitVec 8
  detail : Word
  deriving DecidableEq, Repr

/-- A record on its way to another window with the capabilities captured at the sender (R407): boxes 0-5,
guard word, word 9, word 10. -/
structure RemoteRec where
  words : List Word
  caps : List (BitVec 128)
  deriving DecidableEq, Repr

/-- Records posted together into a window, R298, R406. `tenant` owns the flow. -/
structure PostMsg where
  srcChip : Nat
  srcCore : Nat
  tenant : Nat
  bundle : Bool
  recs : List RemoteRec
  deriving DecidableEq, Repr

/-- A flow, R399. -/
structure FlowId where
  srcChip : Nat
  srcCore : Nat
  dstChip : Nat
  cls : Fin 4
  ordered : Bool
  deriving DecidableEq, Repr

/-- Read-modify-write operations of R378, and the two signal updates of R383. -/
inductive RmwOp where
  | add | min | max | and | or | xor | xchg | cas | cas2 | sigadd | sigset
  deriving DecidableEq, Repr

/-- What a class 1 access does at the home chip, R402. -/
inductive RemOp where
  | read (len : Nat) | write (data : Bytes) | rmw (op : RmwOp) (t : Ty) (b d : BitVec 128)
  deriving DecidableEq, Repr

/-- A line of a collective step, R415: the flag word, the payload and what travels with them. `xfer` numbers
the transfer of the sender's walk, so that a chunk is known (R416). -/
structure Line where
  group : Nat
  version : BitVec 32
  step : BitVec 32
  sender : Nat
  chan : Fin 4
  toOff : Nat
  xfer : Nat
  flag : Word
  payload : Bytes
  stamp : Word
  deriving DecidableEq, Repr

/-- Granules of an object that a task's footprint takes at another chip, R360, R361: through a capability, `count` from `lo` on. -/
structure RemFoot where
  cap : BitVec 128
  lo : Nat
  count : Nat
  writes : Bool
  deriving DecidableEq, Repr

/-- The body of a message, R399: an access says whether it is marked and whether a task makes it (R360, R402); a notice
has kind 0 absent-pending, 1 present, 2 withdrawn (R410); an installation carries a version, its timer limit, its members
and those it withdraws (R409). -/
inductive MsgBody where
  | post (core : Nat) (m : PostMsg)
  | access (cap : BitVec 128) (tenant off : Nat) (op : RemOp) (marked task : Bool)
  | line (core tenant : Nat) (l : Line)
  | notice (tenant group member kind : Nat)
  | install (tenant group : Nat) (ver timeout : BitVec 32) (members : List (Nat × Nat)) (withdrawn : List Nat)
  /-- the part of a task's footprint that the destination's directories hold, by post sequence number and user tag, R361, R362 -/
  | enter (tenant party : Nat) (tag : BitVec 64) (feet : List RemFoot)
  /-- its removal, by the home core of the window, but for the footprints that stay as read entries, R362 -/
  | leave (home party : Nat) (keep : List RemFoot)
  deriving DecidableEq, Repr

/-- A message of a flow with its sequence number, the home core of the window that sends it and its stamp, R398, R399, R455. -/
structure FlowMsg where
  flow : FlowId
  seq : BitVec 32
  home : Nat
  stamp : Word
  body : MsgBody
  deriving DecidableEq, Repr

/-- One merging slot of the Jedom switches, R423: an element word of a reduction window, and for a collective
line its group, step and version. -/
structure SwitchKey where
  tenant : Nat
  win : Nat
  off : Nat
  op : RmwOp
  t : Ty
  coll : Option (Nat × BitVec 32 × BitVec 32)
  deriving DecidableEq, Repr

/-- One contribution to a slot, R423; of a collective step, the line it belongs to and the element words of that line. -/
structure Contribution where
  member : Nat
  val : Word
  stamp : Word
  line : BitVec 32
  words : Nat
  deriving DecidableEq, Repr

/-- One constructor per row of the opcode table. -/
inductive Instr where
  /-- COLD_RESET, R10: Package power-up or host fundamental reset resets every field and starts the bring-up sequence. -/
  | coldReset
  /-- PARTITION_RESET, R10: Firmware resets one partition's cores, engines, stack and channels; HBM contents stay. -/
  | partitionReset (die : Nat)
  /-- FLR_VF, R129: A PCIe FLR of a VF stops its tenant's teams, discards its records, scrubs its cores and frees its objects, keys and plug-in. -/
  | flrVf (fn : Nat)
  /-- FLR_PF, R129: A PCIe FLR of the PF does the same for the PF's tenant and, by clearing VF Enable, for every VF's tenant. -/
  | flrPf
  /-- PCIE_LINK_TRAINING, R514: The PCIe LTSSM trains to L0, after which the PF configuration space and FWSTAT are reachable. -/
  | pcieLinkTraining
  /-- JEDOM_PORT_TRAINING, R515: A Jedom port trains through detect, bit lock, equalise and deskew to up or failed. -/
  | jedomPortTraining (port : Nat) (chip : BitVec 10) (peerPort : BitVec 5) (lanes : BitVec 4)
  /-- JEDOM_CRC_RETRAIN, R515: More than 16 flit CRC errors within 1 ms make a Jedom port retrain; until it is up again it carries no flits. -/
  | jedomCrcRetrain (port errs : Nat)
  /-- CXL_LINK_TRAINING, R514: The CXL link trains and the lower tier is enumerated. -/
  | cxlLinkTraining (up : Bool)
  /-- ETHERNET_LINK_TRAINING, R514: The Ethernet ports auto-negotiate and link-train. -/
  | ethernetLinkTraining (up : BitVec 8)
  /-- LINK_RETRANSMISSION, R487: The link layer retransmits a Jedom flit, PCIe TLP or Ethernet frame after a CRC error, counted against the PF. -/
  | linkRetransmission
  /-- FWLOCK_LOCK, R133: The locking write of FWLOCK closes BAR4, fixes size_mib and starts verification. -/
  | fwlockLock (v : Word)
  /-- BAR2_ACCESS, R97: A host access through BAR2 reaches a queue's ring object as the function's tenant, or is dropped. -/
  | bar2Access (fn q off : Nat) (acc : HostAcc)
  /-- HQ_DOORBELL, R100: A write to HQTAIL is accepted if it stays within the ring size, otherwise it is ignored with err_code 0x21. -/
  | hqDoorbell (fn q : Nat) (v : BitVec 32)
  /-- QUEUE_ENABLE, R99: Setting HQCTL.enable lets the front end consume from the queue. -/
  | queueEnable (fn q : Nat) (v : Word)
  /-- QUEUE_DISABLE, R100: Clearing HQCTL.enable stops consumption after the record in progress and abandons a held wait. -/
  | queueDisable (fn q : Nat) (v : Word)
  /-- QUEUE_RESUME, R99: Writing 1 to HQSTAT.resume clears err_code and restarts a halted queue at HQHEAD with a fresh series of reads. -/
  | queueResume (fn q : Nat)
  /-- ATTESTATION_REQUEST, R137: Writing 1 to mailbox byte 0x20 after a nonce starts a signed measurement report. -/
  | attestationRequest (fn : Nat)
  /-- ATTESTATION_REPORT_READY, R137: The report is placed at mailbox bytes 0x40-0x107 and byte 0x20 reads 2. -/
  | attestationReportReady (fn : Nat)
  /-- SPDM_REQUEST, R137: The PF's SPDM 1.2 responder over PCIe DOE answers a measurement request. -/
  | spdmRequest (nonce : Bytes)
  /-- ERROR_COUNTER_READ, R489: Writing 3 to mailbox byte 0x20 starts a snapshot read of the function's error counters. -/
  | errorCounterRead (fn : Nat)
  /-- COUNTER_SNAPSHOT_READY, R489: The counters are placed at bytes 0x40-0xBF and byte 0x20 reads 4. -/
  | counterSnapshotReady (fn : Nat)
  /-- REGISTER_WRITE, R9: A write to a register without a row of its own updates its fields per their Access codes. -/
  | registerWrite (reg : HostReg) (v : Word)
  /-- RECORD_SEAL_READ, R107: The front end reads word 15 and bytes 0-119 of the next record of a running queue and consumes it if sealed. -/
  | recordSealRead (fn q : Nat)
  /-- SEAL_REFETCH, R107: After 1 us the front end re-reads an unsealed record slot, counting re-reads in HQSTAT.refetch. -/
  | sealRefetch (fn q : Nat)
  /-- NOOP_RECORD, R117: A no-op launch record completes at consumption. -/
  | noopRecord (fn q : Nat) (idx : BitVec 32)
  /-- KERNEL_RECORD, R112: A kernel record is checked, its capabilities resolved and its launch handed to the scheduler. -/
  | kernelRecord (fn q : Nat) (idx : BitVec 32)
  /-- WAIT_REF_SATISFIED, R112: A launch's wait_ref signal reaches wait_val and its teams become eligible for placement. -/
  | waitRefSatisfied (launch : Nat)
  /-- COLLECTIVE_STEP_RECORD, R114: The front end builds a COLL task and posts it into a reserved remote entry of the named core's window. -/
  | collectiveStepRecord (fn q : Nat) (idx : BitVec 32)
  /-- SIGNAL_ADD_RECORD, R115: A signal record with op add performs SIGADD at system scope with release. -/
  | signalAddRecord (fn q : Nat) (idx : BitVec 32)
  /-- SIGNAL_SET_RECORD, R115: A signal record with op set performs SIGSET at system scope with release. -/
  | signalSetRecord (fn q : Nat) (idx : BitVec 32)
  /-- SIGNAL_WAIT_RECORD, R115: A signal record with op wait holds consumption in state blocked until the word reaches the value. -/
  | signalWaitRecord (fn q : Nat)
  /-- SIGNAL_WAIT_SATISFIED, R115: The waited word reaches the value and the record is consumed with acquire and completes. -/
  | signalWaitSatisfied (fn q : Nat)
  /-- SIGNAL_WAIT_TIMEOUT, R115: timeout_us expires first and the wait record is consumed with status 0x0A. -/
  | signalWaitTimeout (fn q : Nat)
  /-- MEMBERSHIP_REPLACE_RECORD, R116: Installs a new member table as version expect+1, or completes with 0x07 on a version mismatch. -/
  | membershipReplaceRecord (fn q : Nat) (idx : BitVec 32)
  /-- MEMBERSHIP_WITHDRAW_RECORD, R116: Installs a version that withdraws one member, or completes with 0x07 on a version mismatch. -/
  | membershipWithdrawRecord (fn q : Nat) (idx : BitVec 32)
  /-- MEMBERSHIP_ADD_RECORD, R116: Installs a version with members appended, or completes with 0x07 on a version mismatch. -/
  | membershipAddRecord (fn q : Nat) (idx : BitVec 32)
  /-- SNAPSHOT_RECORD, R461: A snapshot record with query 0 issues SNAP for the tenant and completes at the cut or when the generation is durable. -/
  | snapshotRecord (fn q : Nat) (idx : BitVec 32)
  /-- SNAPSHOT_QUERY_RECORD, R461: A snapshot record with query 1 queries generation current-1 and writes the result word to word 13. -/
  | snapshotQueryRecord (fn q : Nat) (idx : BitVec 32)
  /-- CREATE_OBJECT, R120: Service 0x0001 allocates an object id and table entry, with zero-filled frames if resident. -/
  | createObject (fn q : Nat) (idx : BitVec 32)
  /-- DESTROY_OBJECT, R120: Service 0x0002 removes an object's entry and frees its frames, keeping undrained frozen grains until drained. -/
  | destroyObject (fn q : Nat) (idx : BitVec 32)
  /-- WRITE_CAPABILITY_ENTRY, R121: Service 0x0003 installs a well-formed capability in the tenant's table. -/
  | writeCapabilityEntry (fn q : Nat) (idx : BitVec 32)
  /-- COPY_HOST_TO_OBJECT, R122: Service 0x0004: the front end reads host memory and writes the object. -/
  | copyHostToObject (fn q : Nat) (idx : BitVec 32)
  /-- COPY_OBJECT_TO_HOST, R122: Service 0x0005: the front end reads the object and posts writes to host memory. -/
  | copyObjectToHost (fn q : Nat) (idx : BitVec 32)
  /-- READ_REGISTER, R123: Service 0x0006 returns the value of a device register selected by id and index. -/
  | readRegister (fn q : Nat) (idx : BitVec 32)
  /-- WRITE_PARTITION_ASSIGNMENT, R127: Writing a partition assignment changes its holder or slicing, carried out as a slice turn. -/
  | writePartitionAssignment (fn q : Nat) (idx : BitVec 32)
  /-- WRITE_PLACEMENT_WEIGHT, R145: Sets a queue's placement weight, refusing 0 or values above 16. -/
  | writePlacementWeight (fn q : Nat) (idx : BitVec 32)
  /-- WRITE_SBCFG, R288: Sets a core's remote-post reservation rres for later posts, ignoring values above 256. -/
  | writeSbcfg (fn q : Nat) (idx : BitVec 32)
  /-- WRITE_CWCFG, R413: Sets a core's chunk-slot depths, effective when the channel holds no chunk. -/
  | writeCwcfg (fn q : Nat) (idx : BitVec 32)
  /-- WRITE_SNCFG, R467: Sets the lower-tier target, undertow share and reserve percentage, ignoring out-of-range values. -/
  | writeSncfg (fn q : Nat) (idx : BitVec 32)
  /-- WRITE_ISLCFG, R511: Sets an island's target frequency and retention threshold, starting a frequency change. -/
  | writeIslcfg (fn q : Nat) (idx : BitVec 32)
  /-- WRITE_PWRCAP, R510: Sets the package power cap, ignoring values above 3,600 W. -/
  | writePwrcap (fn q : Nat) (idx : BitVec 32)
  /-- DEBUG_ENABLE, R516: The monitor sets or clears dbg_en for partitions held by the PF's tenant or by none. -/
  | debugEnable (fn q : Nat) (idx : BitVec 32)
  /-- DEBUG_FREEZE_PARTITION, R517: Setting a frz bit stops every clock of the partition between groups. -/
  | debugFreezePartition (fn q : Nat) (idx : BitVec 32)
  /-- DEBUG_FREEZE_DEVICE, R517: Setting frz_all stops every clock of the device except the debug path. -/
  | debugFreezeDevice (fn q : Nat) (idx : BitVec 32)
  /-- DEBUG_THAW, R517: Clearing a freeze bit resumes every clock in the cycle in which the freeze began. -/
  | debugThaw (fn q : Nat) (idx : BitVec 32)
  /-- SCAN_SHIFT, R517: The IEEE 1149.1 port shifts out a frozen partition's scan chains, recirculating each bit. -/
  | scanShift (part bits : Nat)
  /-- DEBUG_RELEASE, R517: The debug port releases a core stopped by BRK. -/
  | debugRelease (core : Nat)
  /-- PROVISION_FUNCTION, R124: Service 0x0008 adds PF queues or creates a tenant, keys, rings and FNINFO for a VF. -/
  | provisionFunction (fn q : Nat) (idx : BitVec 32)
  /-- UNPROVISION_FUNCTION, R124: Service 0x0009 applies the effects of the VF's FLR and leaves it unbound. -/
  | unprovisionFunction (fn q : Nat) (idx : BitVec 32)
  /-- WRITE_PEER_MAP_ENTRY, R124: Service 0x000A writes a peer-map entry, remapping it under R397 if phys changes. -/
  | writePeerMapEntry (fn q : Nat) (idx : BitVec 32)
  /-- WRITE_REDUCTION_WINDOW, R124: Service 0x000B installs a reduction window in every Jedom switch of the domain. -/
  | writeReductionWindow (fn q : Nat) (idx : BitVec 32)
  /-- LOAD_POLICY_PLUGIN, R124: Service 0x000C loads a tenant's U-mode plug-in image, measured into MEAS1 before it first runs. -/
  | loadPolicyPlugin (fn q : Nat) (idx : BitVec 32)
  /-- RECORD_COMPLETION, R110: A record completes: its signal is applied, its completion word written, a system-scope release made and HQDONE advanced. -/
  | recordCompletion (fn q : Nat) (idx : BitVec 32)
  /-- LAUNCH_COMPLETE, R476: A kernel launch completes once its cores halted, tasks retired, buffers flushed and entries removed; done_ref is applied. -/
  | launchComplete (launch : Nat)
  /-- SLICE_TURN, R127: A sliced partition's weight expires; the outgoing tenant is pre-empted, saved and scrubbed, and the incoming one restored. -/
  | sliceTurn (part : Nat)
  /-- PLUGIN_CALL, R132: The scheduler calls a tenant's plug-in under PMP entries 12-14 to rank placement candidates. -/
  | pluginCall (tenant : Nat) (dies : Dies)
  /-- PLUGIN_BUDGET_EXPIRY, R132: The 20 us budget expires; the monitor ends the call and disables the plug-in. -/
  | pluginBudgetExpiry (tenant : Nat)
  /-- PLUGIN_FAULT, R132: A plug-in access fault or invalid ranking ends the call and disables the plug-in. -/
  | pluginFault (tenant : Nat)
  /-- SCHEDULER_PMP_FAULT, R437: A PMP access fault by S-mode code freezes its scheduler core until cold reset. -/
  | schedulerPmpFault (core : Nat)
  /-- PLACEMENT_DECISION, R147: The scheduler places, reserves for or pre-empts toward the highest-class pending team. -/
  | placementDecision
  /-- ROTATION_INTERVAL_EXPIRY, R150: After 2 ms pending behind same-class teams, a non-persistent running team is pre-empted. -/
  | rotationIntervalExpiry (team : Nat)
  /-- TEAM_PLACE, R147: A team is placed once all its reserved cores are free, with team registers and start state set. -/
  | teamPlace (team : Nat)
  /-- TEAM_END, R141: A team ends when every member has halted and every posted task has retired, freeing its cores. -/
  | teamEnd (team : Nat)
  /-- FORCED_PREEMPTION_TIMEOUT, R446: The forced pre-emption timeout expires and a forced save begins at the next group boundary. -/
  | forcedPreemptionTimeout (team : Nat)
  /-- SAVE_COMPLETE, R449: A team's image is written and its cores are freed. -/
  | saveComplete (team : Nat)
  /-- TEAM_RESUME, R451: Firmware restores rows, registers, window, directory entries, rings and steps and continues the team. -/
  | teamResume (team : Nat)
  /-- GROUP_ISSUE, R169: A group of instructions reads sources, passes issue checks and takes effect as a unit. -/
  | groupIssue (core : Nat)
  /-- ICACHE_LINE_FILL, R157: A missing 128-byte line is filled from the code object. -/
  | icacheLineFill (core line : Nat)
  /-- LOAD_RETURN, R438: A load's value returns into the data queues and its destination becomes ready. -/
  | loadReturn (core k : Nat)
  /-- MEMORY_REQUEST_SEND, R353: The decoupled access unit sends its next operation toward a port once ordering allows. -/
  | memoryRequestSend (core k : Nat)
  /-- ROUTE_LOOKUP, R375: A route-cache miss is resolved from the object table so an atomic group may issue. -/
  | routeLookup (core obj : Nat)
  /-- EXTENT_TABLE_WALK, R17: A channel walks the object table on an extent-cache miss. -/
  | extentTableWalk (chan obj ext : Nat)
  /-- EXTENT_INVALIDATE, R17: Firmware invalidates an extent in every channel after chunks that translated it finish. -/
  | extentInvalidate (obj ext : Nat)
  /-- MEMORY_PORT_REQUEST, R16: A memory port checks ownership, size and residence of an access and performs it at the extent's frame. -/
  | memoryPortRequest (core k : Nat)
  /-- PAGE_FAULT_SERVICE, R438: Firmware makes the extent resident and resumes the halted party, or turns the fault into an object fault. -/
  | pageFaultService (obj ext : Nat)
  /-- RESERVE_STALL_EXPIRY, R469: A write waiting 500 us for a reserve grain aborts the longest-waiting tenant's frozen generation. -/
  | reserveStallExpiry (stack : Nat)
  /-- EXTENT_MIGRATION, R440: Firmware marks an extent migrating and its tide engine copies it while holding writes. -/
  | extentMigration (obj ext stack : Nat)
  /-- MIGRATION_COPY_COMPLETE, R440: Firmware switches the entry, invalidates caches, drains the hold buffer to the new frame and frees the old. -/
  | migrationCopyComplete (obj ext : Nat)
  /-- FRAME_RETIREMENT, R441: A frame is retired by migration, marking uncorrectable blocks poisoned in the new frame. -/
  | frameRetirement (frame : Nat) (bad : Blocks)
  /-- MEMORY_SCRUB, R488: A stack's scrubber reads a block, correcting or marking it poisoned. -/
  | memoryScrub (block : Nat) (err : EccErr)
  /-- ROW_SWEEP, R488: A core sweeps a physical row in idle cycles, correcting errors. -/
  | rowSweep (core row : Nat) (err : EccErr)
  /-- DIRECTORY_INSERT, R363: A party's entry is compared with other windows' entries and inserted, waiting when full. -/
  | directoryInsert (core : Nat) (p : DirParty)
  /-- ENTRY_SETTLED, R307: Four cycles after its post an entry satisfies the settling condition and may become Ready. -/
  | entrySettled (core : Nat) (seq : BitVec 32)
  /-- RELEASE_AGE_EXPIRY, R153: A task ready for 4,096 cycles gains first preference for release. -/
  | releaseAgeExpiry (core : Nat) (seq : BitVec 32)
  /-- TASK_RELEASE, R308: The scoreboard releases one Ready task per queue per cycle, chosen under R153. -/
  | taskRelease (core : Nat) (q : Queue)
  /-- TASK_COMPLETE, R308: An engine completes a task after its occupancy cycles or its last accepted access. -/
  | taskComplete (core : Nat) (seq : BitVec 32)
  /-- TASK_RETIRE, R309: A task's renames commit, rows free, mailboxes rise, its id completes and dependences are removed. -/
  | taskRetire (core : Nat) (seq : BitVec 32)
  /-- UNIT_EVALUATION, R316: A guarded unit compares its residual and breaches with its tolerance and commits or fails. -/
  | unitEvaluation (core : Nat) (seq : BitVec 32)
  /-- REMOTE_POST_ARRIVAL, R298: A remote record or bundle enters the window whole if remote entries are free, or is refused full. -/
  | remotePostArrival (core : Nat) (msg : PostMsg)
  /-- STALL_REPORT, R322: A window externally stalled for 10 ms sends firmware one report. -/
  | stallReport (core : Nat)
  /-- MLDST_TASK, R266: The plane loader loads the shadow plane's cells and scales. -/
  | mldstTask (core : Nat) (seq : BitVec 32)
  /-- MSWAP_TASK, R267: The two planes exchange after earlier loads and stream rows. -/
  | mswapTask (core : Nat) (seq : BitVec 32)
  /-- MZERO_TASK, R268: A tile box is zeroed and the tile's mode set. -/
  | mzeroTask (core : Nat) (seq : BitVec 32)
  /-- MSTREAM_TASK, R269: A rows are streamed against the active plane, accumulating into the tile. -/
  | mstreamTask (core : Nat) (seq : BitVec 32)
  /-- MDRAIN_TASK, R273: Tile entries are converted, optionally through an epilogue program, into scratchpad. -/
  | mdrainTask (core : Nat) (seq : BitVec 32)
  /-- MEPI_TASK, R275: An epilogue program is validated and loaded into a store slot. -/
  | mepiTask (core : Nat) (seq : BitVec 32)
  /-- SMAP_TASK, R282: The stream engine maps input rows elementwise into the destination. -/
  | smapTask (core : Nat) (seq : BitVec 32)
  /-- SRED_TASK, R283: The stream engine reduces rows in a fixed tree and order. -/
  | sredTask (core : Nat) (seq : BitVec 32)
  /-- XPOSE_TASK, R284: The transpose engine moves elements between rows and columns. -/
  | xposeTask (core : Nat) (seq : BitVec 32)
  /-- TSTART_TASK, R443: A tile-start marker begins a segment, clears loaded bits and checkpoints or empties the buffer. -/
  | tstartTask (core : Nat) (seq : BitVec 32)
  /-- COPY_TASK, R326: The copy engine starts a copy, reading guard word and records and checking totals. -/
  | copyTask (core : Nat) (seq : BitVec 32)
  /-- GATHER_TASK, R327: The copy engine walks an indirect source layout. -/
  | gatherTask (core : Nat) (seq : BitVec 32)
  /-- SCATTER_TASK, R327: The copy engine walks an indirect destination layout. -/
  | scatterTask (core : Nat) (seq : BitVec 32)
  /-- SUBSCR_TASK, R340: A subscription reads its loop nest and hands its ring to the tide engine. -/
  | subscrTask (core : Nat) (seq : BitVec 32)
  /-- COLL_TASK, R414: A collective step captures its version, opens its receive side and runs its send walk. -/
  | collTask (core : Nat) (seq : BitVec 32)
  /-- RINGPOP_TASK, R345: A ring pop completes in the scoreboard once its item is filled. -/
  | ringpopTask (core : Nat) (seq : BitVec 32)
  /-- RINGPUSH_TASK, R345: A ring push completes in the scoreboard once its slot's earlier item is drained. -/
  | ringpushTask (core : Nat) (seq : BitVec 32)
  /-- ENGINE_FAULT, R434: A task faults, its queue halts and the fault goes to the window's thread as an engine trap. -/
  | engineFault (core : Nat) (seq : BitVec 32) (cause : TaskFault)
  /-- ROLLBACK_EVENT, R444: A residue mismatch or uncorrectable word restores checkpointed tiles and replays the segment, or faults. -/
  | rollbackEvent (core : Nat)
  /-- SOFT_ERROR_REPLAY, R445: A copy, stream or transpose task that consumes an uncorrectable word is replayed once. -/
  | softErrorReplay (core : Nat) (seq : BitVec 32)
  /-- COPY_CHUNK, R331: A channel begins a chunk of at most 64 KiB, translating its extents once. -/
  | copyChunk (core chan : Nat)
  /-- COPY_REQUEST_ISSUE, R333: A channel issues a request of at most 64 bytes when a tag is free, by priority. -/
  | copyRequestIssue (core chan : Nat)
  /-- REQUEST_RESPONSE, R332: A request's response returns and frees its tag. -/
  | requestResponse (core chan : Nat)
  /-- TIDE_FILL_ITEM, R343: A flood tide engine fills one ring item from the object. -/
  | tideFillItem (core : Nat) (ring : Fin 16)
  /-- TIDE_DRAIN_ITEM, R343: An ebb tide engine drains one ring item into the object. -/
  | tideDrainItem (core : Nat) (ring : Fin 16)
  /-- RED_FLUSH_AGE, R381: A combining-buffer entry 512 cycles old is flushed to its performing point. -/
  | redFlushAge (core k : Nat)
  /-- SIGWAIT_POLL, R384: A waiting SIGWAIT re-reads its word at least every 1,024 cycles. -/
  | sigwaitPoll (core : Nat)
  /-- RV_REGISTER, R390: An outstanding arrival or leave registers once its earlier accesses and counted tasks are done. -/
  | rvRegister (core pt : Nat)
  /-- SYSC_RETURN, R221: The scheduler returns from a SYSC service with its result in s1. -/
  | syscReturn (core : Nat)
  /-- WFE_WAKE, R223: A WFE completes on a nonzero masked mailbox, any increment or a pending pre-emption. -/
  | wfeWake (core : Nat)
  /-- PEER_REMAP, R397: Firmware drains, rewrites and reopens a peer-map entry under live traffic. -/
  | peerRemap (tenant lid : Nat) (phys : BitVec 10) (far : Bool)
  /-- FLOW_MESSAGE_DELIVERY, R400: The reorder buffer delivers a flow message exactly once, in order on ordered flows. -/
  | flowMessageDelivery (msg : FlowMsg)
  /-- REMOTE_ACCESS, R402: A class 1 access is checked and performed at the home chip's port and acknowledged. -/
  | remoteAccess (msg : FlowMsg)
  /-- FLOW_ACK, R401: An acknowledgement of a delivered message reaches its sender. -/
  | flowAck (core : Nat) (flow : FlowId) (seq : BitVec 32)
  /-- FLOW_REFUSAL, R401: A refusal with a reason reaches its sender, which retries, drops, holds or faults. -/
  | flowRefusal (core : Nat) (flow : FlowId) (seq : BitVec 32) (reason : BitVec 4)
  /-- FLOW_RETRY, R401: 2 us after a full or held refusal the sender resends in sequence. -/
  | flowRetry (core : Nat) (flow : FlowId) (seq : BitVec 32)
  /-- FLOW_END, R403: Firmware ends a flow held after reason moved, raising fabric fault 0x02. -/
  | flowEnd (core : Nat) (flow : FlowId)
  /-- POSTR_SEND, R406: Queued POSTR records leave the outbound buffer after earlier accesses are performed. -/
  | postrSend (core : Nat)
  /-- COLL_LINE_ARRIVAL, R416: A collective line takes a chunk slot, is applied, or is refused. -/
  | collLineArrival (core : Nat) (ln : Line)
  /-- COLL_LINE_APPLY, R417: An open receive side applies a line in ascending member order. -/
  | collLineApply (core : Nat) (seq : BitVec 32)
  /-- COLL_END_LINE, R416: An end line carrying a line count arrives and is recorded or refused. -/
  | collEndLine (core : Nat) (ln : Line)
  /-- STEP_TIMER_EXPIRY, R419: A step timer expires and unsettled members are timed out. -/
  | stepTimerExpiry (core : Nat) (seq : BitVec 32)
  /-- MEMBERSHIP_INSTALL, R409: A chip installs a new group version once it holds no open step under its older version. -/
  | membershipInstall (tenant group : Nat) (ver : BitVec 32)
  /-- ABSENT_PENDING_NOTICE, R410: A member pre-empted with an unretired COLL becomes absent-pending and pauses step timers. -/
  | absentPendingNotice (tenant group member : Nat)
  /-- PRESENT_NOTICE, R410: A resumed member becomes present again. -/
  | presentNotice (tenant group member : Nat)
  /-- WITHDRAWN_NOTICE, R410: A member becomes withdrawn; held lines to it are dropped and its steps close. -/
  | withdrawnNotice (tenant group member : Nat)
  /-- SWITCH_CONTRIBUTION, R423: A switch merges a RED or COLL add contribution exactly and delivers a complete line. -/
  | switchContribution (slot : SwitchKey) (c : Contribution)
  /-- SWITCH_RED_DELIVERY, R423: A merged RED result is delivered to the home port within 512 cycles. -/
  | switchRedDelivery (slot : SwitchKey)
  /-- SWITCH_LEASE_EXPIRY, R423: A slot's 50 ms lease expires; contributions are refused retry. -/
  | switchLeaseExpiry (slot : SwitchKey)
  /-- TRAP_ENTRY, R431: A delegated trap flushes reductions, writes the frame and enters the handler. -/
  | trapEntry (core : Nat)
  /-- LAUNCH_ABORT, R427: An undelegated trap ends the launch with status 0x05. -/
  | launchAbort (core : Nat)
  /-- MASTER_FREEZE, R437: A capability fault or bound trap gates its master's clocks and tells firmware. -/
  | masterFreeze (core : Nat) (master : Master)
  /-- FREEZE_SERVICE, R437: Within 20 us firmware records state, unfreezes and delivers the fault. -/
  | freezeService (core : Nat) (master : Master)
  /-- CHIP_GENERATION_SET, R462: A chip sets its chip generation to G+1 and acknowledges to the home. -/
  | chipGenerationSet (tenant chip : Nat) (gen : Word)
  /-- CUT_NOTICE, R462: A cut notice raises a window's stamp to G+1. -/
  | cutNotice (core : Nat) (gen : Word)
  /-- CHIP_CUT_COMPLETE, R463: A chip reports its cut complete; when all report, the generation passes to draining. -/
  | chipCutComplete (tenant chip : Nat)
  /-- UNDERTOW_COPY, R466: A tide engine copies an undrained frozen grain to the lower tier. -/
  | undertowCopy (tenant obj grain : Nat) (ok : Bool)
  /-- GENERATION_DURABLE, R466: All chips drained; the generation is durable and its manifest written. -/
  | generationDurable (tenant : Nat)
  /-- GENERATION_ABORT, R470: A frozen generation is aborted and strata merge. -/
  | generationAbort (tenant : Nat) (reason : BitVec 8)
  /-- ISLAND_FREQUENCY_SWITCH, R511: An island switches frequency between cycles within 20 us. -/
  | islandFrequencySwitch (island : Nat)
  /-- POWER_CAP_ENFORCE, R510: Firmware lowers island frequencies to hold package power at the cap. -/
  | powerCapEnforce (watts island : Nat)
  /-- THERMAL_THROTTLE, R510: A die above 105 C forces its islands to 200 MHz. -/
  | thermalThrottle (die : Nat) (tempC : Int)
  /-- THERMAL_RECOVERY, R510: The die falls below 95 C and the forced frequency ends. -/
  | thermalRecovery (die : Nat) (tempC : Int)
  /-- RETENTION_ENTRY, R512: An idle matrix block re-encodes to BCH and lowers voltage. -/
  | retentionEntry (core : Nat)
  /-- RETENTION_EXIT, R512: A matrix release or save raises voltage and re-encodes, correcting errors. -/
  | retentionExit (core corrected : Nat) (bad : EngWords)
  /-- ADD, R184: 64-bit add. -/
  | add (d a b : SReg)
  /-- SUB, R184: 64-bit subtract. -/
  | sub (d a b : SReg)
  /-- MUL, R184: Low 64 bits of product. -/
  | mul (d a b : SReg)
  /-- MULH, R184: High 64 bits of signed product. -/
  | mulh (d a b : SReg)
  /-- MULHU, R184: High 64 bits of unsigned product. -/
  | mulhu (d a b : SReg)
  /-- DIV, R185: Signed quotient, never trapping. -/
  | div (d a b : SReg)
  /-- DIVU, R185: Unsigned quotient, never trapping. -/
  | divu (d a b : SReg)
  /-- REM, R185: Signed remainder. -/
  | rem (d a b : SReg)
  /-- REMU, R185: Unsigned remainder. -/
  | remu (d a b : SReg)
  /-- AND, R184: Bitwise and. -/
  | and (d a b : SReg)
  /-- OR, R184: Bitwise or. -/
  | or (d a b : SReg)
  /-- XOR, R184: Bitwise xor. -/
  | xor (d a b : SReg)
  /-- ANDN, R184: A and not B. -/
  | andn (d a b : SReg)
  /-- SHL, R184: Shift left by B[5:0]. -/
  | shl (d a b : SReg)
  /-- SHR, R184: Logical shift right. -/
  | shr (d a b : SReg)
  /-- SRA, R184: Arithmetic shift right. -/
  | sra (d a b : SReg)
  /-- ROL, R184: Rotate left. -/
  | rol (d a b : SReg)
  /-- ROR, R184: Rotate right. -/
  | ror (d a b : SReg)
  /-- MIN, R184: Signed minimum. -/
  | min (d a b : SReg)
  /-- MAX, R184: Signed maximum. -/
  | max (d a b : SReg)
  /-- MINU, R184: Unsigned minimum. -/
  | minu (d a b : SReg)
  /-- MAXU, R184: Unsigned maximum. -/
  | maxu (d a b : SReg)
  /-- ADDS, R184: Saturating signed add, setting SAT. -/
  | adds (d a b : SReg)
  /-- SUBS, R184: Saturating signed subtract, setting SAT. -/
  | subs (d a b : SReg)
  /-- ADDI, R186: Add sign-extended 32-bit immediate. -/
  | addi (d a : SReg) (imm : BitVec 32)
  /-- ANDI, R186: And with immediate. -/
  | andi (d a : SReg) (imm : BitVec 32)
  /-- ORI, R186: Or with immediate. -/
  | ori (d a : SReg) (imm : BitVec 32)
  /-- XORI, R186: Xor with immediate. -/
  | xori (d a : SReg) (imm : BitVec 32)
  /-- SHLI, R186: Shift left by immediate 0-63. -/
  | shli (d a : SReg) (imm : BitVec 32)
  /-- SHRI, R186: Logical shift right by immediate. -/
  | shri (d a : SReg) (imm : BitVec 32)
  /-- SRAI, R186: Arithmetic shift right by immediate. -/
  | srai (d a : SReg) (imm : BitVec 32)
  /-- RORI, R186: Rotate right by immediate. -/
  | rori (d a : SReg) (imm : BitVec 32)
  /-- CLZ, R188: Count leading zeros. -/
  | clz (d a : SReg)
  /-- CTZ, R188: Count trailing zeros. -/
  | ctz (d a : SReg)
  /-- POPC, R188: Count one bits. -/
  | popc (d a : SReg)
  /-- BREV, R188: Reverse bits. -/
  | brev (d a : SReg)
  /-- BSWAP, R188: Reverse bytes. -/
  | bswap (d a : SReg)
  /-- BILV2, R189: Interleave bits of two operands. -/
  | bilv2 (d a b : SReg)
  /-- BILV3, R189: Interleave bits of three operands. -/
  | bilv3 (d a b c : SReg)
  /-- BDIL2, R190: De-interleave phase k of two. -/
  | bdil2 (d a : SReg) (k : BitVec 2)
  /-- BDIL3, R190: De-interleave phase k of three. -/
  | bdil3 (d a : SReg) (k : BitVec 2)
  /-- EXT, R191: Extract sign-extended field. -/
  | ext (d a : SReg) (pos : BitVec 6) (len : BitVec 7)
  /-- EXTZ, R191: Extract zero-extended field. -/
  | extz (d a : SReg) (pos : BitVec 6) (len : BitVec 7)
  /-- INS, R191: Insert field into destination. -/
  | ins (d a : SReg) (pos : BitVec 6) (len : BitVec 7)
  /-- SEL, R192: Select by predicate. -/
  | sel (d a b : SReg) (p : PReg)
  /-- FADD, R194: Scalar float add, one rounding. -/
  | fadd (t : Ty) (r : Rnd) (d a b : SReg)
  /-- FSUB, R194: Scalar float subtract. -/
  | fsub (t : Ty) (r : Rnd) (d a b : SReg)
  /-- FMUL, R194: Scalar float multiply. -/
  | fmul (t : Ty) (r : Rnd) (d a b : SReg)
  /-- FDIV, R194: Scalar float divide. -/
  | fdiv (t : Ty) (r : Rnd) (d a b : SReg)
  /-- FSQRT, R194: Scalar float square root. -/
  | fsqrt (t : Ty) (r : Rnd) (d a : SReg)
  /-- FMA, R194: Scalar fused multiply-add. -/
  | fma (t : Ty) (r : Rnd) (d a b c : SReg)
  /-- FMIN, R195: Float minimum. -/
  | fmin (t : Ty) (d a b : SReg)
  /-- FMAX, R195: Float maximum. -/
  | fmax (t : Ty) (d a b : SReg)
  /-- FCVT, R196: Float-to-float conversion. -/
  | fcvt (td ta : Ty) (r : Rnd) (d a : SReg)
  /-- FCVTI, R196: Float-to-integer conversion. -/
  | fcvti (td ta : Ty) (r : Rnd) (d a : SReg)
  /-- ICVTF, R196: Integer-to-float conversion. -/
  | icvtf (td ta : Ty) (r : Rnd) (d a : SReg)
  /-- FCLASS, R195: Classify float into one-hot mask. -/
  | fclass (t : Ty) (d a : SReg)
  /-- FCMP, R198: Float compare into predicate. -/
  | fcmp (c : FCond) (t : Ty) (p : PReg) (a b : SReg)
  /-- CMP, R197: Integer compare into predicate. -/
  | cmp (c : ICond) (p : PReg) (a b : SReg)
  /-- CMPI, R197: Compare with 32-bit immediate. -/
  | cmpi (c : ICond) (p : PReg) (a : SReg) (imm : BitVec 32)
  /-- PAND, R199: Predicate and. -/
  | pand (d a b : PReg)
  /-- POR, R199: Predicate or. -/
  | por (d a b : PReg)
  /-- PXOR, R199: Predicate xor. -/
  | pxor (d a b : PReg)
  /-- PANDN, R199: Predicate and-not. -/
  | pandn (d a b : PReg)
  /-- MFP, R200: Move predicates to scalar. -/
  | mfp (d : SReg)
  /-- MTP, R200: Move scalar bits into selected predicates. -/
  | mtp (a b : SReg)
  /-- MFS, R201: Read a special register. -/
  | mfs (d : SReg) (sr : BitVec 12)
  /-- MTS, R201: Write a special register under its rules. -/
  | mts (sr : BitVec 12) (a : SReg)
  /-- CLD, R204: Load a capability-table entry. -/
  | cld (d : CReg) (a : SReg) (idx : BitVec 12)
  /-- CDER, R205: Derive a narrower capability. -/
  | cder (d a : CReg) (b c : SReg) (mask : BitVec 8)
  /-- CRST, R205: Restrict a capability's rights. -/
  | crst (d a : CReg) (mask : BitVec 8)
  /-- CNULL, R205: Null a capability register. -/
  | cnull (d : CReg)
  /-- LD, R206: Scalar load from device memory. -/
  | ld (t : Ty) (o : Ord) (sc : Scope) (d : SReg) (c : CReg) (a : SReg) (off : BitVec 20)
  /-- ST, R206: Scalar store to device memory. -/
  | st (t : Ty) (o : Ord) (sc : Scope) (c : CReg) (a : SReg) (off : BitVec 20) (d : SReg)
  /-- LDX, R206: Scalar load from scratchpad. -/
  | ldx (t : Ty) (d a b : SReg) (off : BitVec 20)
  /-- STX, R206: Scalar store to scratchpad. -/
  | stx (t : Ty) (a b : SReg) (off : BitVec 20) (d : SReg)
  /-- PREPT, R211: Prepare branch target. -/
  | prept (b : BReg) (off : BitVec 40)
  /-- BR, R212: Branch after two delay groups. -/
  | br (b : BReg) (hint : Bool)
  /-- CALL, R213: Call with pending link write. -/
  | call (b l : BReg) (hint : Bool)
  /-- RET, R214: Return transfer. -/
  | ret (b : BReg)
  /-- LOOP, R216: Start a hardware loop from a scalar count. -/
  | loop (a : SReg) (off : BitVec 20)
  /-- LOOPM, R216: Start a hardware loop from a mailbox, clearing it. -/
  | loopm (mb : Fin 16) (off : BitVec 20)
  /-- LOOPM_K, R216: Start a hardware loop from a mailbox without clearing. -/
  | loopmK (mb : Fin 16) (off : BitVec 20)
  /-- TRAP, R220: Raise a software trap. -/
  | trap (x : BitVec 16)
  /-- ERET, R433: Apply frame action and return from handler. -/
  | eret
  /-- SYSC, R221: Call a scheduler service. -/
  | sysc (x : BitVec 16)
  /-- SAFEPT, R222: Mark a safe point. -/
  | safept (map : BitVec 12)
  /-- WFE, R223: Wait for a mailbox event. -/
  | wfe (x : BitVec 16)
  /-- BRK, R224: Debug stop or breakpoint trap. -/
  | brk (x : BitVec 16)
  /-- HALT, R225: End the core's program, leaving every point. -/
  | halt
  /-- RVINIT, R389: Set a point's members. -/
  | rvinit (pt : BitVec 5) (a : SReg)
  /-- RVARRIVE, R390: Arrive at a phase. -/
  | rvarrive (pt : BitVec 5) (em : BitVec 6) (d : SReg)
  /-- RVWAIT, R391: Wait for a phase to complete. -/
  | rvwait (pt : BitVec 5) (a d : SReg)
  /-- RVARW, R391: Arrive and wait. -/
  | rvarw (pt : BitVec 5) (em : BitVec 6) (d : SReg)
  /-- RVLEAVE, R392: Leave one point. -/
  | rvleave (pt : BitVec 5)
  /-- RVLEAVE_ALL, R392: Leave every point. -/
  | rvleaveAll
  /-- SIGADD, R383: Add to a signal word. -/
  | sigadd (t : Ty) (o : Ord) (sc : Scope) (d : SReg) (c : CReg) (a b : SReg) (off : BitVec 20)
  /-- SIGSET, R383: Set a signal word. -/
  | sigset (t : Ty) (o : Ord) (sc : Scope) (d : SReg) (c : CReg) (a b : SReg) (off : BitVec 20)
  /-- SIGWAIT, R384: Wait until a signal word is satisfied. -/
  | sigwait (t : Ty) (o : Ord) (sc : Scope) (d : SReg) (c : CReg) (a b : SReg) (off : BitVec 20)
  /-- AMO_ADD, R379: Atomic fetch-add. -/
  | amoAdd (t : Ty) (o : Ord) (sc : Scope) (d : SReg) (c : CReg) (a b : SReg) (off : BitVec 16)
  /-- AMO_MIN, R379: Atomic fetch-min. -/
  | amoMin (t : Ty) (o : Ord) (sc : Scope) (d : SReg) (c : CReg) (a b : SReg) (off : BitVec 16)
  /-- AMO_MAX, R379: Atomic fetch-max. -/
  | amoMax (t : Ty) (o : Ord) (sc : Scope) (d : SReg) (c : CReg) (a b : SReg) (off : BitVec 16)
  /-- AMO_AND, R379: Atomic fetch-and. -/
  | amoAnd (t : Ty) (o : Ord) (sc : Scope) (d : SReg) (c : CReg) (a b : SReg) (off : BitVec 16)
  /-- AMO_OR, R379: Atomic fetch-or. -/
  | amoOr (t : Ty) (o : Ord) (sc : Scope) (d : SReg) (c : CReg) (a b : SReg) (off : BitVec 16)
  /-- AMO_XOR, R379: Atomic fetch-xor. -/
  | amoXor (t : Ty) (o : Ord) (sc : Scope) (d : SReg) (c : CReg) (a b : SReg) (off : BitVec 16)
  /-- AMO_XCHG, R379: Atomic exchange. -/
  | amoXchg (t : Ty) (o : Ord) (sc : Scope) (d : SReg) (c : CReg) (a b : SReg) (off : BitVec 16)
  /-- AMO_CAS, R379: Atomic compare-and-swap. -/
  | amoCas (t : Ty) (o : Ord) (sc : Scope) (d : SReg) (c : CReg) (a b : SReg) (off : BitVec 16)
  /-- AMO_CAS2, R379: 128-bit compare-and-swap. -/
  | amoCas2 (t : Ty) (o : Ord) (sc : Scope) (d : SReg) (c : CReg) (a b : SReg) (off : BitVec 16)
  /-- RED_ADD, R380: Buffered reduction add. -/
  | redAdd (t : Ty) (o : Ord) (sc : Scope) (c : CReg) (a b : SReg) (off : BitVec 16)
  /-- RED_MIN, R380: Buffered reduction min. -/
  | redMin (t : Ty) (o : Ord) (sc : Scope) (c : CReg) (a b : SReg) (off : BitVec 16)
  /-- RED_MAX, R380: Buffered reduction max. -/
  | redMax (t : Ty) (o : Ord) (sc : Scope) (c : CReg) (a b : SReg) (off : BitVec 16)
  /-- RED_AND, R380: Buffered reduction and. -/
  | redAnd (t : Ty) (o : Ord) (sc : Scope) (c : CReg) (a b : SReg) (off : BitVec 16)
  /-- RED_OR, R380: Buffered reduction or. -/
  | redOr (t : Ty) (o : Ord) (sc : Scope) (c : CReg) (a b : SReg) (off : BitVec 16)
  /-- RED_XOR, R380: Buffered reduction xor. -/
  | redXor (t : Ty) (o : Ord) (sc : Scope) (c : CReg) (a b : SReg) (off : BitVec 16)
  /-- FENCE, R385: Memory fence. -/
  | fence (o : Ord) (sc : Scope)
  /-- SNAP, R459: Open a snapshot cut, waiting for a frozen generation. -/
  | snap (d : SReg) (c : CReg) (p : PReg)
  /-- SNAP_NW, R459: Open a cut or return busy without waiting. -/
  | snapNw (d : SReg) (c : CReg) (p : PReg)
  /-- SNAPQ, R460: Query a generation's state. -/
  | snapq (d : SReg) (c : CReg) (a : SReg)
  /-- VADD, R239: Elementwise add. -/
  | vadd (t : Ty) (r : Rnd) (d a b : VReg) (m : MReg)
  /-- VADDS, R239: Saturating integer add. -/
  | vadds (t : Ty) (d a b : VReg) (m : MReg)
  /-- VSUB, R239: Elementwise subtract. -/
  | vsub (t : Ty) (r : Rnd) (d a b : VReg) (m : MReg)
  /-- VSUBS, R239: Saturating integer subtract. -/
  | vsubs (t : Ty) (d a b : VReg) (m : MReg)
  /-- VMUL, R239: Elementwise multiply. -/
  | vmul (t : Ty) (r : Rnd) (d a b : VReg) (m : MReg)
  /-- VFMA, R239: Fused multiply-add. -/
  | vfma (t : Ty) (r : Rnd) (d a b : VReg) (m : MReg)
  /-- VFMS, R239: Fused multiply-subtract. -/
  | vfms (t : Ty) (r : Rnd) (d a b : VReg) (m : MReg)
  /-- VMIN, R239: Elementwise minimum. -/
  | vmin (t : Ty) (d a b : VReg) (m : MReg)
  /-- VMAX, R239: Elementwise maximum. -/
  | vmax (t : Ty) (d a b : VReg) (m : MReg)
  /-- VABS, R239: Absolute value. -/
  | vabs (t : Ty) (d a : VReg) (m : MReg)
  /-- VNEG, R239: Negate. -/
  | vneg (t : Ty) (d a : VReg) (m : MReg)
  /-- VAND, R239: Bitwise and. -/
  | vand (t : Ty) (d a b : VReg) (m : MReg)
  /-- VOR, R239: Bitwise or. -/
  | vor (t : Ty) (d a b : VReg) (m : MReg)
  /-- VXOR, R239: Bitwise xor. -/
  | vxor (t : Ty) (d a b : VReg) (m : MReg)
  /-- VANDN, R239: Bitwise and-not. -/
  | vandn (t : Ty) (d a b : VReg) (m : MReg)
  /-- VSHL, R239: Shift left. -/
  | vshl (t : Ty) (d a b : VReg) (m : MReg)
  /-- VSHR, R239: Logical shift right. -/
  | vshr (t : Ty) (d a b : VReg) (m : MReg)
  /-- VSRA, R239: Arithmetic shift right. -/
  | vsra (t : Ty) (d a b : VReg) (m : MReg)
  /-- VCMP, R241: Compare into mask. -/
  | vcmp (c : VCond) (t : Ty) (d : MReg) (a b : VReg) (m : MReg)
  /-- VSEL, R242: Select by mask. -/
  | vsel (t : Ty) (d a b : VReg) (m : MReg)
  /-- VCVT, R244: Elementwise conversion. -/
  | vcvt (td ts : Ty) (r : Rnd) (d a b : VReg) (k : BitVec 3) (m : MReg)
  /-- VPK4, R245: Convert to INT4. -/
  | vpk4 (ts : Ty) (r : Rnd) (d a b : VReg) (k : BitVec 3) (m : MReg)
  /-- VUPK4, R245: Convert from INT4. -/
  | vupk4 (td : Ty) (r : Rnd) (d a : VReg) (k : BitVec 3) (m : MReg)
  /-- VRCP, R246: Reciprocal. -/
  | vrcp (t : Ty) (r : Rnd) (d a : VReg) (m : MReg)
  /-- VRSQ, R246: Reciprocal square root. -/
  | vrsq (t : Ty) (r : Rnd) (d a : VReg) (m : MReg)
  /-- VEXP2, R246: Power of two. -/
  | vexp2 (t : Ty) (r : Rnd) (d a : VReg) (m : MReg)
  /-- VLOG2, R246: Base-2 logarithm. -/
  | vlog2 (t : Ty) (r : Rnd) (d a : VReg) (m : MReg)
  /-- VSIN, R246: sin(pi*a). -/
  | vsin (t : Ty) (r : Rnd) (d a : VReg) (m : MReg)
  /-- VTLU, R248: Piecewise-linear table lookup. -/
  | vtlu (t : Ty) (r : Rnd) (d a o : VReg) (m : MReg)
  /-- VRINT, R247: Round to integral. -/
  | vrint (t : Ty) (r : Rnd) (d a : VReg) (m : MReg)
  /-- VSETT, R232: Write %vt. -/
  | vsett (t : Ty) (r : Rnd) (ct : Ty) (e : BitVec 5)
  /-- VBCST, R249: Broadcast a scalar. -/
  | vbcst (t : Ty) (d : VReg) (a : SReg) (m : MReg)
  /-- VEXT, R249: Extract element to scalar. -/
  | vext (t : Ty) (d : SReg) (a : VReg) (b : SReg)
  /-- VINS, R249: Insert scalar into element. -/
  | vins (t : Ty) (d : VReg) (a b : SReg)
  /-- VPERM, R250: Permute elements. -/
  | vperm (t : Ty) (d a b : VReg) (m : MReg)
  /-- VSLDU, R250: Slide up. -/
  | vsldu (t : Ty) (d a b : VReg) (k : BitVec 7) (m : MReg)
  /-- VSLDD, R250: Slide down. -/
  | vsldd (t : Ty) (d a b : VReg) (k : BitVec 7) (m : MReg)
  /-- VCMPR, R251: Compress enabled elements. -/
  | vcmpr (t : Ty) (d a : VReg) (m : MReg)
  /-- VXPND, R251: Expand into enabled elements. -/
  | vxpnd (t : Ty) (d a : VReg) (m : MReg)
  /-- VIOTA, R251: Prefix count of enabled elements. -/
  | viota (t : Ty) (d : VReg) (m : MReg)
  /-- VRED_SUM, R252: Tree sum reduction. -/
  | vredSum (t : Ty) (d : SReg) (a : VReg) (m : MReg)
  /-- VRED_MIN, R252: Minimum reduction. -/
  | vredMin (t : Ty) (d : SReg) (a : VReg) (m : MReg)
  /-- VRED_MAX, R252: Maximum reduction. -/
  | vredMax (t : Ty) (d : SReg) (a : VReg) (m : MReg)
  /-- VRED_AND, R252: And reduction. -/
  | vredAnd (t : Ty) (d : SReg) (a : VReg) (m : MReg)
  /-- VRED_OR, R252: Or reduction. -/
  | vredOr (t : Ty) (d : SReg) (a : VReg) (m : MReg)
  /-- VRED_XOR, R252: Xor reduction. -/
  | vredXor (t : Ty) (d : SReg) (a : VReg) (m : MReg)
  /-- VRED_SUMS, R252: Saturating sum reduction. -/
  | vredSums (t : Ty) (d : SReg) (a : VReg) (m : MReg)
  /-- VANY, R253: Any-vote into predicate. -/
  | vany (t : Ty) (d : PReg) (a m : MReg)
  /-- VALL, R253: All-vote into predicate. -/
  | vall (t : Ty) (d : PReg) (a m : MReg)
  /-- VMPOP, R253: Count set mask elements. -/
  | vmpop (t : Ty) (d : SReg) (a m : MReg)
  /-- MLOG_AND, R243: Mask and. -/
  | mlogAnd (d a b : MReg)
  /-- MLOG_OR, R243: Mask or. -/
  | mlogOr (d a b : MReg)
  /-- MLOG_XOR, R243: Mask xor. -/
  | mlogXor (d a b : MReg)
  /-- MLOG_ANDN, R243: Mask and-not. -/
  | mlogAndn (d a b : MReg)
  /-- MLOG_NOT, R243: Mask not. -/
  | mlogNot (d a : MReg)
  /-- VLD, R255: Load a scratchpad row. -/
  | vld (t : Ty) (d : VReg) (a : SReg) (off : BitVec 20) (m : MReg)
  /-- VST, R255: Store a scratchpad row. -/
  | vst (t : Ty) (a : SReg) (off : BitVec 20) (v : VReg) (m : MReg)
  /-- VST_B, R257: Row store with bound check. -/
  | vstB (t : Ty) (a : SReg) (off : BitVec 20) (v : VReg) (m : MReg) (k : Fin 16)
  /-- MLDST, R261: Post a plane-load task. -/
  | mldst (nb : NB) (ga gb : GReg) (sx sy : SReg) (st0 st1 : Step) (ts : Bool) (stage : BitVec 3)
  /-- MSWAP, R261: Post a plane-swap task. -/
  | mswap (nb : NB) (ts : Bool) (stage : BitVec 3)
  /-- MZERO, R261: Post a tile-zero task. -/
  | mzero (nb : NB) (ga : GReg) (sy : SReg) (ts : Bool) (stage : BitVec 3)
  /-- MSTREAM, R261: Post a stream task. -/
  | mstream (nb : NB) (ga gb gc : GReg) (sx sy : SReg) (st0 st2 : Step) (ts : Bool) (stage : BitVec 3)
  /-- MDRAIN, R261: Post a drain task. -/
  | mdrain (nb : NB) (ga gb gc : GReg) (sx sy : SReg) (st1 : Step) (ts : Bool) (stage : BitVec 3)
  /-- MEPI, R261: Post an epilogue-load task. -/
  | mepi (nb : NB) (ga : GReg) (sx sy : SReg) (ts : Bool) (stage : BitVec 3)
  /-- SMAP, R261: Post a stream map task. -/
  | smap (nb : NB) (ga gb gc gx : GReg) (sx sy : SReg) (st0 st1 st2 : Step) (stage : BitVec 3)
  /-- SRED, R261: Post a stream reduce task. -/
  | sred (nb : NB) (ga gb : GReg) (sx sy : SReg) (st0 : Step) (stage : BitVec 3)
  /-- XPOSE, R261: Post a transpose task. -/
  | xpose (nb : NB) (ga gb : GReg) (sx sy : SReg) (st0 st1 : Step) (stage : BitVec 3)
  /-- COPY, R325: Post a copy task. -/
  | copy (nb : NB) (ga gb : GReg) (sx sy sz sw : SReg) (ord : Bool) (stage : BitVec 3)
  /-- GATHER, R325: Post a gather task. -/
  | gather (nb : NB) (ga gb gc : GReg) (sx sy sz sw : SReg) (ord : Bool) (stage : BitVec 3)
  /-- SCATTER, R325: Post a scatter task. -/
  | scatter (nb : NB) (ga gb gc : GReg) (sx sy sz sw : SReg) (ord : Bool) (stage : BitVec 3)
  /-- SUBSCR, R339: Post a ring subscription, opening the ring. -/
  | subscr (nb : NB) (ga gb : GReg) (sx sy sz : SReg) (stage : BitVec 3)
  /-- RINGPOP, R345: Post a ring pop, binding and advancing P. -/
  | ringpop (nb : NB) (ga : GReg) (sx : SReg) (stage : BitVec 3)
  /-- RINGPUSH, R345: Post a ring push, binding and advancing Q. -/
  | ringpush (nb : NB) (ga : GReg) (sx : SReg) (stage : BitVec 3)
  /-- COLL, R411: Post a collective step. -/
  | coll (nb : NB) (ga gb : GReg) (sx sy sz : SReg) (ord : Bool) (stage : BitVec 3)
  /-- POSTM, R296: Post sealed records from a record area. -/
  | postm (nb : NB) (ga : GReg) (sx sy : SReg)
  /-- POSTR, R406: Post sealed records into a remote window. -/
  | postr (nb : NB) (ga : GReg) (sx sy sr : SReg) (ord : Bool)
  /-- BUNDLE, R310: Open a bundle. -/
  | bundle
  /-- BEND, R310: Close a bundle. -/
  | bend
  /-- GUARD, R311: Open a guarded unit with commit boxes. -/
  | guard (nb : NB) (k : Fin 16) (ga gb gc gd ge gf : GReg)
  /-- GCHECK, R312: Mark the check section. -/
  | gcheck
  /-- GEXACT, R312: Mark the exact section. -/
  | gexact
  /-- GEND, R312: End the guarded unit. -/
  | gend
  /-- TSTART, R318: Post a tile-start marker. -/
  | tstart (nb : NB) (ga : GReg)
  /-- RGLD, R294: Load a region register from memory. -/
  | rgld (o : Ord) (sc : Scope) (d : GReg) (c : CReg) (a b : SReg) (off : BitVec 20)
  /-- TWAIT, R320: Wait for earlier posts on masked engines to retire. -/
  | twait (em : BitVec 6)
  /-- LI, R187: Load 64-bit immediate. -/
  | li (d : SReg) (x : Word)
  /-- ADDL, R187: Add 64-bit immediate. -/
  | addl (d a : SReg) (x : Word)
  /-- ANDL, R187: And 64-bit immediate. -/
  | andl (d a : SReg) (x : Word)
  /-- ORL, R187: Or 64-bit immediate. -/
  | orl (d a : SReg) (x : Word)
  /-- XORL, R187: Xor 64-bit immediate. -/
  | xorl (d a : SReg) (x : Word)
  /-- CMPL, R187: Compare with 64-bit immediate. -/
  | cmpl (c : ICond) (p : PReg) (a : SReg) (x : Word)
  /-- LDL, R206: Load with 48-bit offset. -/
  | ldl (t : Ty) (o : Ord) (sc : Scope) (d : SReg) (c : CReg) (a : SReg) (x : BitVec 48)
  /-- STL, R206: Store with 48-bit offset. -/
  | stl (t : Ty) (o : Ord) (sc : Scope) (c : CReg) (a : SReg) (x : BitVec 48) (d : SReg)
  /-- RGSET, R293: Write a region register. -/
  | rgset (d : GReg) (x : Word)
  /-- VLI, R249: Broadcast 64-bit immediate. -/
  | vli (d : VReg) (x : Word)
  /-- SNOP, R177: Scalar slot no-op. -/
  | snop
  /-- ADD_SLOT, R177: Slot form of ADD. -/
  | addSlot (d a b : SReg)
  /-- SUB_SLOT, R177: Slot form of SUB. -/
  | subSlot (d a b : SReg)
  /-- AND_SLOT, R177: Slot form of AND. -/
  | andSlot (d a b : SReg)
  /-- OR_SLOT, R177: Slot form of OR. -/
  | orSlot (d a b : SReg)
  /-- XOR_SLOT, R177: Slot form of XOR. -/
  | xorSlot (d a b : SReg)
  /-- ANDN_SLOT, R177: Slot form of ANDN. -/
  | andnSlot (d a b : SReg)
  /-- SHL_SLOT, R177: Slot form of SHL. -/
  | shlSlot (d a b : SReg)
  /-- SHR_SLOT, R177: Slot form of SHR. -/
  | shrSlot (d a b : SReg)
  /-- SRA_SLOT, R177: Slot form of SRA. -/
  | sraSlot (d a b : SReg)
  /-- MIN_SLOT, R177: Slot form of MIN. -/
  | minSlot (d a b : SReg)
  /-- MAX_SLOT, R177: Slot form of MAX. -/
  | maxSlot (d a b : SReg)
  /-- MINU_SLOT, R177: Slot form of MINU. -/
  | minuSlot (d a b : SReg)
  /-- MAXU_SLOT, R177: Slot form of MAXU. -/
  | maxuSlot (d a b : SReg)
  /-- MUL_SLOT, R186: Slot form of MUL. -/
  | mulSlot (d a b : SReg)
  /-- ADDI_SLOT, R186: Slot ADDI with imm5. -/
  | addiSlot (d a : SReg) (imm : BitVec 5)
  /-- SHLI_SLOT, R186: Slot SHLI with imm5. -/
  | shliSlot (d a : SReg) (imm : BitVec 5)
  /-- SHRI_SLOT, R186: Slot SHRI with imm5. -/
  | shriSlot (d a : SReg) (imm : BitVec 5)
  /-- SRAI_SLOT, R186: Slot SRAI with imm5. -/
  | sraiSlot (d a : SReg) (imm : BitVec 5)
  /-- CMP_EQ_SLOT, R197: Slot compare equal. -/
  | cmpEqSlot (p : PReg) (a b : SReg)
  /-- CMP_NE_SLOT, R197: Slot compare not equal. -/
  | cmpNeSlot (p : PReg) (a b : SReg)
  /-- CMP_LT_SLOT, R197: Slot signed less-than. -/
  | cmpLtSlot (p : PReg) (a b : SReg)
  /-- CMP_LTU_SLOT, R197: Slot unsigned less-than. -/
  | cmpLtuSlot (p : PReg) (a b : SReg)
  /-- CMP_GE_SLOT, R197: Slot signed greater-or-equal. -/
  | cmpGeSlot (p : PReg) (a b : SReg)
  /-- CMP_GEU_SLOT, R197: Slot unsigned greater-or-equal. -/
  | cmpGeuSlot (p : PReg) (a b : SReg)
  /-- CMPI_EQ_SLOT, R197: Slot compare equal with imm5. -/
  | cmpiEqSlot (p : PReg) (a : SReg) (imm : BitVec 5)
  /-- PAND_SLOT, R199: Slot predicate and. -/
  | pandSlot (d a b : PReg)
  /-- POR_SLOT, R199: Slot predicate or. -/
  | porSlot (d a b : PReg)
  /-- PXOR_SLOT, R199: Slot predicate xor. -/
  | pxorSlot (d a b : PReg)
  /-- PANDN_SLOT, R199: Slot predicate and-not. -/
  | pandnSlot (d a b : PReg)
  /-- VNOP, R178: Vector slot no-op. -/
  | vnop
  /-- VMOV, R233: Copy a whole vector register. -/
  | vmov (d a : VReg)
  /-- VADD_SLOT, R233: Slot VADD under %vt. -/
  | vaddSlot (d a b : VReg)
  /-- VSUB_SLOT, R233: Slot VSUB. -/
  | vsubSlot (d a b : VReg)
  /-- VMUL_SLOT, R233: Slot VMUL. -/
  | vmulSlot (d a b : VReg)
  /-- VFMA_SLOT, R233: Slot VFMA. -/
  | vfmaSlot (d a b : VReg)
  /-- VFMS_SLOT, R233: Slot VFMS. -/
  | vfmsSlot (d a b : VReg)
  /-- VMIN_SLOT, R233: Slot VMIN. -/
  | vminSlot (d a b : VReg)
  /-- VMAX_SLOT, R233: Slot VMAX. -/
  | vmaxSlot (d a b : VReg)
  /-- VABS_SLOT, R233: Slot VABS. -/
  | vabsSlot (d a : VReg)
  /-- VNEG_SLOT, R233: Slot VNEG. -/
  | vnegSlot (d a : VReg)
  /-- VAND_SLOT, R233: Slot VAND. -/
  | vandSlot (d a b : VReg)
  /-- VOR_SLOT, R233: Slot VOR. -/
  | vorSlot (d a b : VReg)
  /-- VXOR_SLOT, R233: Slot VXOR. -/
  | vxorSlot (d a b : VReg)
  /-- VANDN_SLOT, R233: Slot VANDN. -/
  | vandnSlot (d a b : VReg)
  /-- VSHL_SLOT, R233: Slot VSHL. -/
  | vshlSlot (d a b : VReg)
  /-- VSHR_SLOT, R233: Slot VSHR. -/
  | vshrSlot (d a b : VReg)
  /-- VSRA_SLOT, R233: Slot VSRA. -/
  | vsraSlot (d a b : VReg)
  /-- VRCP_SLOT, R233: Slot VRCP. -/
  | vrcpSlot (d a : VReg)
  /-- VRSQ_SLOT, R233: Slot VRSQ. -/
  | vrsqSlot (d a : VReg)
  /-- VEXP2_SLOT, R233: Slot VEXP2. -/
  | vexp2Slot (d a : VReg)
  /-- VLOG2_SLOT, R233: Slot VLOG2. -/
  | vlog2Slot (d a : VReg)
  /-- VSIN_SLOT, R233: Slot VSIN. -/
  | vsinSlot (d a : VReg)
  /-- VRINT_SLOT, R233: Slot VRINT. -/
  | vrintSlot (d a : VReg)
  /-- VCMP_EQ_SLOT, R233: Slot compare equal into mask. -/
  | vcmpEqSlot (d : MReg) (a b : VReg)
  /-- VCMP_NE_SLOT, R233: Slot compare not equal. -/
  | vcmpNeSlot (d : MReg) (a b : VReg)
  /-- VCMP_LT_SLOT, R233: Slot compare less-than. -/
  | vcmpLtSlot (d : MReg) (a b : VReg)
  /-- VCMP_LE_SLOT, R233: Slot compare less-or-equal. -/
  | vcmpLeSlot (d : MReg) (a b : VReg)
  /-- VSLDU_SLOT, R233: Slot slide up by 1. -/
  | vslduSlot (d a b : VReg)
  /-- VSLDD_SLOT, R233: Slot slide down by 1. -/
  | vslddSlot (d a b : VReg)
  /-- VPERM_SLOT, R233: Slot permute. -/
  | vpermSlot (d a b : VReg)
  /-- VTLU_SLOT, R233: Slot table lookup. -/
  | vtluSlot (d a b : VReg)
  /-- VCVT_SLOT, R233: Slot conversion from %vt.type to ctype. -/
  | vcvtSlot (d a b : VReg)
  /-- VADDS_SLOT, R233: Slot saturating add. -/
  | vaddsSlot (d a b : VReg)
  /-- VSUBS_SLOT, R233: Slot saturating subtract. -/
  | vsubsSlot (d a b : VReg)
  /-- BAR4_WRITE, R133: Until FWLOCK is locked, a host write through the PF's BAR4 writes image bytes into the firmware carve-out. -/
  | bar4Write (off : Nat) (data : Bytes)
  /-- PCIE_COMPLETION_TIMEOUT, R376: A host-routed read or acceptance read, or a front-end host read, receives no completion in time and raises an object fault or completes the service with 0x0D. -/
  | pcieCompletionTimeout (p : HostParty)
  deriving DecidableEq, Repr

end Sys2Proof
end

