-- ==== Sys2Proof/Machine/Flags.lean ====
section
/-!
DEFINITION. The exception flags of `%fflags` (R57) and the integer-saturation flags of `%aflags` (R58).
-/

namespace Sys2Proof.Machine

/-- The six flags of R57: SAT 5, NV 4, DZ 3, OF 2, UF 1, NX 0. -/
abbrev FFlags := BitVec 6

namespace FFlags

/-- An integer conversion or saturating integer operation changed a value (R57). -/
def sat : FFlags := 0x20
/-- Invalid (R57). -/
def nv : FFlags := 0x10
/-- A finite nonzero value divided by zero (R57). -/
def dz : FFlags := 0x08
/-- Overflow (R52, R57). -/
def of : FFlags := 0x04
/-- Tiny and inexact result of a floating-point target (R51, R57). -/
def uf : FFlags := 0x02
/-- Inexact (R51, R57). -/
def nx : FFlags := 0x01

/-- A flag raised under a condition. -/
def when (b : Bool) (f : FFlags) : FFlags := if b then f else 0

/-- The flags of several elements together (R57: ORed in). -/
def all (fs : List FFlags) : FFlags := fs.foldl (· ||| ·) 0

end FFlags

end Sys2Proof.Machine
end

