-- ==== Sys2Proof/Machine/Num.lean ====
section
/-!
DEFINITION. Number formats, rounding and exact arithmetic of spec/02 (R42 to R63). A floating value is held
exactly: a sign, a magnitude and a power of two. Every operation computes exactly (division and square root
to 128 bits beyond the leading one with a sticky half unit, which no rounding boundary reaches) and rounds
once.
-/

namespace Sys2Proof.Machine

open Sys2Proof.Bits

/-- A floating-point format of R45. `top` is the largest finite code without its sign. -/
structure Fmt where
  expBits : Nat
  fracBits : Nat
  bias : Nat
  top : Nat
  nanCode : Option Nat
  hasInf : Bool
  saturates : Bool
  deriving DecidableEq, Repr

namespace Fmt

/-- FP4 E2M1, R45. -/
def f4 : Fmt := ⟨2, 1, 1, 7, none, false, true⟩
/-- FP8 E4M3, R45, R46. -/
def e4m3 : Fmt := ⟨4, 3, 7, 0x7E, some 0x7F, false, true⟩
/-- FP8 E5M2, R45, R46; it saturates on overflow and has infinities (R52). -/
def e5m2 : Fmt := ⟨5, 2, 15, 0x7B, some 0x7E, true, true⟩
/-- bfloat16. -/
def bf16 : Fmt := ⟨8, 7, 127, 0x7F7F, some 0x7FC0, true, false⟩
/-- binary16. -/
def f16 : Fmt := ⟨5, 10, 15, 0x7BFF, some 0x7E00, true, false⟩
/-- binary32. -/
def f32 : Fmt := ⟨8, 23, 127, 0x7F7FFFFF, some 0x7FC00000, true, false⟩
/-- binary64. -/
def f64 : Fmt := ⟨11, 52, 1023, 0x7FEFFFFFFFFFFFFF, some 0x7FF8000000000000, true, false⟩
/-- ACC56, R45, R47. -/
def a56 : Fmt := ⟨10, 45, 511, 0x7FDFFFFFFFFFFF, some 0x7FF00000000000, true, false⟩

/-- Bits of an encoding. -/
def bits (f : Fmt) : Nat := f.expBits + f.fracBits + 1

/-- The smallest normal exponent. -/
def emin (f : Fmt) : Int := 1 - (f.bias : Int)

/-- The code of infinity without its sign: the one after the largest finite code. -/
def infCode (f : Fmt) : Nat := f.top + 1

/-- The encoding of a sign and a code without sign. -/
def enc (f : Fmt) (neg : Bool) (code : Nat) : Nat := code + (if neg then 2 ^ (f.bits - 1) else 0)

/-- `nan_result` without its flag (R46, R52): +0 where the format has no NaN. -/
def nanBits (f : Fmt) : Nat := f.nanCode.getD 0

/-- The flag of `nan_result` (R52). -/
def nanFlag (f : Fmt) : FFlags := if f.nanCode.isSome then 0 else FFlags.nv

end Fmt

end Sys2Proof.Machine

namespace Sys2Proof

/-- The floating-point format of a type code (R42). -/
def Ty.fmt? : Ty → Option Machine.Fmt
  | .f4 => some .f4 | .e4m3 => some .e4m3 | .e5m2 => some .e5m2 | .bf16 => some .bf16
  | .f16 => some .f16 | .f32 => some .f32 | .f64 => some .f64 | .a56 => some .a56
  | .i8 | .i16 | .i32 | .i64 | .n8 | .n16 | .n32 | .n64 => none

/-- Bits an element occupies; ACC56 is held in 64 (R42). -/
def Ty.width : Ty → Nat
  | .i8 | .n8 | .e4m3 | .e5m2 => 8
  | .i16 | .n16 | .bf16 | .f16 => 16
  | .i32 | .n32 | .f32 => 32
  | .i64 | .n64 | .f64 | .a56 => 64
  | .f4 => 4

/-- A signed integer type (R42). -/
def Ty.signed : Ty → Bool
  | .i8 | .i16 | .i32 | .i64 => true
  | _ => false

/-- A floating-point type (R42). -/
def Ty.isFloat (t : Ty) : Bool := t.fmt?.isSome

/-- An integer type (R42). -/
def Ty.isInt (t : Ty) : Bool := !t.isFloat

/-- The least integer of an integer type (R44). -/
def Ty.lo (t : Ty) : Int := if t.signed then -(2 ^ (t.width - 1) : Nat) else 0

/-- The greatest integer of an integer type (R44). -/
def Ty.hi (t : Ty) : Int := if t.signed then (2 ^ (t.width - 1) : Nat) - 1 else (2 ^ t.width : Nat) - 1

namespace Machine

/-- A value as R45 gives it: exact. `fin neg m e` is (-1)^neg * m * 2^e; m = 0 is a zero with a sign. -/
inductive FVal where
  | nan
  | inf (neg : Bool)
  | fin (neg : Bool) (m : Nat) (e : Int)
  deriving DecidableEq, Repr

/-- One step of a generator (R54). -/
def xorshift (x0 : BitVec 32) : BitVec 32 :=
  let x1 := x0 ^^^ (x0 <<< 13)
  let x2 := x1 ^^^ (x1 >>> 17)
  x2 ^^^ (x2 <<< 5)

/-- `seed_lane(S, i)` (R54). -/
def seedLane (s : BitVec 32) (i : Nat) : BitVec 32 :=
  let x := s ^^^ (BitVec.ofNat 32 (0x9E3779B9 * i))
  if x = 0 then 0x9E3779B9 else x

/-- What one rounding gives: the encoding, its flags, the generator after it. -/
structure Rounded where
  bits : Nat
  flags : FFlags
  gen : BitVec 32
  deriving DecidableEq, Repr

/-- The sign of a code and the code without it. -/
def Fmt.split (f : Fmt) (bits : Nat) : Bool × Nat :=
  let b := bits % 2 ^ f.bits
  (decide (2 ^ (f.bits - 1) ≤ b), b % 2 ^ (f.bits - 1))

/-- The value of an encoding (R45). -/
def Fmt.value (f : Fmt) (bits : Nat) : FVal :=
  let (neg, code) := f.split bits
  if code ≤ f.top then
    let ex := code / 2 ^ f.fracBits
    let fr := code % 2 ^ f.fracBits
    if ex = 0 then .fin neg fr (f.emin - f.fracBits)
    else .fin neg (2 ^ f.fracBits + fr) ((ex : Int) - f.bias - f.fracBits)
  else if f.hasInf && code == f.infCode then .inf neg else .nan

/-- A value scaled to an integer multiple of `2^q`: the whole part, the remainder and the remainder's width. -/
def quantum (m : Nat) (e q : Int) : Nat × Nat × Nat :=
  if q ≤ e then (m <<< (e - q).toNat, 0, 0)
  else let sh := (q - e).toNat; (m >>> sh, m % 2 ^ sh, sh)

/-- Whether a magnitude between two neighbours goes to the upper one (R51); `u` is the draw of `.RSR`. -/
def roundsUp (mode : Rnd) (neg odd : Bool) (rem sh : Nat) (u : BitVec 32) : Bool :=
  match mode with
  | .rne => decide (2 ^ sh < 2 * rem) || (decide (2 * rem = 2 ^ sh) && odd)
  | .rtz => false
  | .rup => !neg
  | .rdn => neg
  | .rsr => decide (u.toNat * 2 ^ sh < rem * 2 ^ 32)

/-- The code of R52's overflow column for a finite value. -/
def Fmt.overflowCode (f : Fmt) (mode : Rnd) (neg : Bool) : Nat :=
  if f.saturates then f.top
  else match mode with
    | .rne | .rsr => f.infCode
    | .rtz => f.top
    | .rup => if neg then f.top else f.infCode
    | .rdn => if neg then f.infCode else f.top

/-- `round_to` of a nonzero finite value (R51, R52). The codes of a format continue past `top` with the
spacing of an unbounded exponent, so overflow is a comparison of codes. -/
def Fmt.roundFin (f : Fmt) (mode : Rnd) (neg : Bool) (m : Nat) (e : Int) (g : BitVec 32) : Rounded :=
  let ex := max ((Nat.log2 m : Int) + e) f.emin
  let (n, rem, sh) := quantum m e (ex - f.fracBits)
  let code := (ex + f.bias - 1).toNat * 2 ^ f.fracBits + n
  if rem = 0 ∧ code ≤ f.top then ⟨f.enc neg code, 0, g⟩
  else
    let g' := if mode = .rsr then xorshift g else g
    let code' := if roundsUp mode neg (code % 2 == 1) rem sh g' then code + 1 else code
    let ovf := if mode = .rsr then decide (f.top < code) || (code == f.top && rem != 0) else decide (f.top < code')
    let out := if f.top < code ∨ f.top < code' then f.overflowCode mode neg else code'
    ⟨f.enc neg out, FFlags.nx ||| FFlags.when ovf .of ||| FFlags.when (decide (out < 2 ^ f.fracBits)) .uf, g'⟩

/-- `round_to` (R51, R52). -/
def Fmt.round (f : Fmt) (mode : Rnd) (x : FVal) (g : BitVec 32) : Rounded :=
  match x with
  | .nan => ⟨f.nanBits, f.nanFlag, g⟩
  | .inf neg => if f.hasInf then ⟨f.enc neg f.infCode, 0, g⟩ else ⟨f.enc neg f.top, FFlags.nv, g⟩
  | .fin neg m e => if m = 0 then ⟨f.enc neg 0, 0, g⟩ else f.roundFin mode neg m e g

/-- An integer clamped to a range. -/
def clampInt (lo hi x : Int) : Int := if x < lo then lo else if hi < x then hi else x

/-- The result of rounding to an integer. -/
structure RoundedInt where
  val : Int
  flags : FFlags
  gen : BitVec 32
  deriving DecidableEq, Repr

/-- `round_to` for an integer target with its range (R51, R52). A value out of range saturates with NV; NX is
set whenever the value differs from the representable value next below it in magnitude, which is the letter of
R51. -/
def roundToInt (lo hi : Int) (mode : Rnd) (x : FVal) (g : BitVec 32) : RoundedInt :=
  match x with
  | .nan => ⟨0, FFlags.nv, g⟩
  | .inf neg => ⟨if neg then lo else hi, FFlags.nv, g⟩
  | .fin neg m e =>
    let (n, rem, sh) := quantum m e 0
    let limit : Nat := if neg then (-lo).toNat else hi.toNat
    if rem = 0 ∧ n ≤ limit then ⟨if neg then -(n : Int) else n, 0, g⟩
    else
      let g' := if mode = .rsr then xorshift g else g
      let n' := if roundsUp mode neg (n % 2 == 1) rem sh g' then n + 1 else n
      let v : Int := if neg then -(n' : Int) else n'
      ⟨clampInt lo hi v, FFlags.nx ||| FFlags.when (decide (v < lo ∨ hi < v)) .nv, g'⟩

/-- A finite value rounded to an integral value of the same format (R247 uses it): the rounded magnitude. -/
def roundIntegral (mode : Rnd) (neg : Bool) (m : Nat) (e : Int) (g : BitVec 32) : Nat × FFlags × BitVec 32 :=
  let (n, rem, sh) := quantum m e 0
  if rem = 0 then (n, 0, g)
  else
    let g' := if mode = .rsr then xorshift g else g
    (if roundsUp mode neg (n % 2 == 1) rem sh g' then n + 1 else n, FFlags.nx, g')

namespace FVal

/-- An integer as an exact value; the integer zero is +0. -/
def ofInt (x : Int) : FVal := .fin (decide (x < 0)) x.natAbs 0

/-- The value is a NaN. -/
def isNan : FVal → Bool
  | .nan => true
  | _ => false

/-- The value is a zero. -/
def isZero : FVal → Bool
  | .fin _ 0 _ => true
  | _ => false

/-- The sign changed; a NaN stays one. -/
def negate : FVal → FVal
  | .nan => .nan
  | .inf n => .inf (!n)
  | .fin n m e => .fin (!n) m e

/-- The magnitude. -/
def abs : FVal → FVal
  | .nan => .nan
  | .inf _ => .inf false
  | .fin _ m e => .fin false m e

/-- The value times a power of two, exactly. -/
def scale (x : FVal) (k : Int) : FVal :=
  match x with
  | .fin n m e => .fin n m (e + k)
  | y => y

/-- The signed integer a finite value is at a given power of two not above its own. -/
def signedAt (neg : Bool) (m : Nat) (e q : Int) : Int :=
  let n : Int := (m <<< (e - q).toNat : Nat)
  if neg then -n else n

/-- The exact sum (R48, R61): ∞ - ∞ is a NaN and raises NV; the sign of a zero sum follows the mode. -/
def add (mode : Rnd) (x y : FVal) : FVal × FFlags :=
  match x, y with
  | .nan, _ => (.nan, 0)
  | _, .nan => (.nan, 0)
  | .inf a, .inf b => if a = b then (.inf a, 0) else (.nan, FFlags.nv)
  | .inf a, .fin .. => (.inf a, 0)
  | .fin .., .inf b => (.inf b, 0)
  | .fin a m e, .fin b n k =>
    if m = 0 ∧ n = 0 then (.fin (if a = b then a else decide (mode = .rdn)) 0 0, 0)
    else
      let q := if m = 0 then k else if n = 0 then e else min e k
      let z := (if m = 0 then 0 else signedAt a m e q) + (if n = 0 then 0 else signedAt b n k q)
      if z = 0 then (.fin (decide (mode = .rdn)) 0 0, 0) else (.fin (decide (z < 0)) z.natAbs q, 0)

/-- The exact product: 0 × ∞ is a NaN and raises NV. -/
def mul (x y : FVal) : FVal × FFlags :=
  match x, y with
  | .nan, _ => (.nan, 0)
  | _, .nan => (.nan, 0)
  | .inf a, .inf b => (.inf (a != b), 0)
  | .inf a, .fin b n _ => if n = 0 then (.nan, FFlags.nv) else (.inf (a != b), 0)
  | .fin a m _, .inf b => if m = 0 then (.nan, FFlags.nv) else (.inf (a != b), 0)
  | .fin a m e, .fin b n k => (.fin (a != b) (m * n) (e + k), 0)

/-- `x * y + z` exactly. R194 and R240 say both that 0 × ∞ within a fused operation sets NV and that a NaN operand raises no flag:
with a NaN for `z` the product is made first and NV stands. DEDUCED (log 101). -/
def fma (mode : Rnd) (x y z : FVal) : FVal × FFlags :=
  let (p, f) := mul x y
  let (s, h) := add mode p z
  (s, f ||| h)

/-- A magnitude known to lie strictly between `q` and `q + 1` units, or to be `q` exactly, as a value a
rounding can use: the half unit stands for the remainder. -/
def sticky (neg : Bool) (q : Nat) (exact : Bool) (e : Int) : FVal := .fin neg (2 * q + (if exact then 0 else 1)) (e - 1)

/-- The quotient, exact or with its sticky half unit: x / 0 raises DZ, 0 / 0 and ∞ / ∞ raise NV. -/
def div (x y : FVal) : FVal × FFlags :=
  match x, y with
  | .nan, _ => (.nan, 0)
  | _, .nan => (.nan, 0)
  | .inf _, .inf _ => (.nan, FFlags.nv)
  | .inf a, .fin b _ _ => (.inf (a != b), 0)
  | .fin a _ _, .inf b => (.fin (a != b) 0 0, 0)
  | .fin a m e, .fin b n k =>
    if n = 0 then (if m = 0 then (.nan, FFlags.nv) else (.inf (a != b), FFlags.dz))
    else if m = 0 then (.fin (a != b) 0 0, 0)
    else
      let s := Nat.log2 n + 128
      let z := m <<< s
      (sticky (a != b) (z / n) (z % n == 0) (e - k - s), 0)

/-- The integer square root, bit by bit from bit `k` down. -/
def isqrt (x : Nat) : Nat → Nat → Nat
  | 0, r => if (r + 1) * (r + 1) ≤ x then r + 1 else r
  | k + 1, r =>
    let t := r + 2 ^ (k + 1)
    isqrt x k (if t * t ≤ x then t else r)

/-- The square root of a natural number, rounded down. -/
def natSqrt (x : Nat) : Nat := isqrt x (Nat.log2 x / 2) 0

/-- The square root, exact or with its sticky half unit: a negative value gives a NaN with NV, -0 stays. -/
def sqrt (x : FVal) : FVal × FFlags :=
  match x with
  | .nan => (.nan, 0)
  | .inf n => if n then (.nan, FFlags.nv) else (.inf false, 0)
  | .fin n m e =>
    if m = 0 then (.fin n 0 0, 0)
    else if n then (.nan, FFlags.nv)
    else
      let s := 256 + (if e % 2 = 0 then 0 else 1)
      let z := m <<< s
      let r := natSqrt z
      (sticky false r (r * r == z) ((e - s) / 2), 0)

/-- -1, 0 or 1 as one finite or infinite value is below, equal to or above another; zeros of both signs are
equal. None where either is a NaN. -/
def cmp (x y : FVal) : Option Int :=
  match x, y with
  | .nan, _ => none
  | _, .nan => none
  | .inf a, .inf b => some (if a = b then 0 else if a then -1 else 1)
  | .inf a, .fin .. => some (if a then -1 else 1)
  | .fin .., .inf b => some (if b then 1 else -1)
  | .fin a m e, .fin b n k =>
    let q := min e k
    let d := signedAt a m e q - signedAt b n k q
    some (if d < 0 then -1 else if d = 0 then 0 else 1)

/-- The sign bit. -/
def sign : FVal → Bool
  | .nan => false
  | .inf n => n
  | .fin n _ _ => n

/-- Strictly below in the order of minimum and maximum: -0 is below +0 (R62). -/
def below (x y : FVal) : Bool :=
  match cmp x y with
  | some d => decide (d < 0) || (d == 0 && x.sign && !y.sign)
  | none => false

/-- Minimum (R62): a NaN operand gives a NaN. -/
def min (x y : FVal) : FVal := if x.isNan || y.isNan then .nan else if below y x then y else x

/-- Maximum (R62). -/
def max (x y : FVal) : FVal := if x.isNan || y.isNan then .nan else if below x y then y else x

end FVal

/-- The integer of `w` bits in two's complement or plain binary (R44). -/
def intOf (signed : Bool) (w bits : Nat) : Int :=
  let b := bits % 2 ^ w
  if signed ∧ 2 ^ (w - 1) ≤ b then (b : Int) - (2 ^ w : Nat) else b

/-- An integer as `w` bits. -/
def bitsOfInt (w : Nat) (x : Int) : Nat := (x % (2 ^ w : Nat)).toNat

/-- An encoding as the element holds it: ACC56 fills bits 63:56 with copies of bit 55 (R47). -/
def held (t : Ty) (bits : Nat) : Nat :=
  if t = .a56 ∧ 2 ^ 55 ≤ bits % 2 ^ 56 then bits % 2 ^ 56 + 0xFF * 2 ^ 56 else bits

end Machine

/-- The value of an element of any type: integers are exact values (R42, R45). -/
def Ty.value (t : Ty) (bits : Nat) : Machine.FVal :=
  match t.fmt? with
  | some f => f.value bits
  | none => .ofInt (Machine.intOf t.signed t.width bits)

/-- The integer of an element of an integer type (R44). -/
def Ty.int (t : Ty) (bits : Nat) : Int := Machine.intOf t.signed t.width bits

namespace Machine

/-- A value rounded into an element of any type (R51 to R53). -/
def roundElem (t : Ty) (mode : Rnd) (x : FVal) (g : BitVec 32) : Rounded :=
  match t.fmt? with
  | some f => let r := f.round mode x g; ⟨held t r.bits, r.flags, r.gen⟩
  | none => let r := roundToInt t.lo t.hi mode x g; ⟨bitsOfInt t.width r.val, r.flags, r.gen⟩

/-- An integer narrowed into a range, with SAT if it changed (R53). -/
def narrowInt (lo hi : Int) (w : Nat) (x : Int) (g : BitVec 32) : Rounded :=
  let y := clampInt lo hi x
  ⟨bitsOfInt w y, FFlags.when (y != x) .sat, g⟩

/-- A conversion between element types (R53). -/
def convert (src dst : Ty) (mode : Rnd) (bits : Nat) (g : BitVec 32) : Rounded :=
  if src.isInt ∧ dst.isInt then narrowInt dst.lo dst.hi dst.width (src.int bits) g
  else roundElem dst mode (src.value bits) g

/-- A conversion to INT4 (R44, R53): four bits. -/
def convertToInt4 (src : Ty) (mode : Rnd) (bits : Nat) (g : BitVec 32) : Rounded :=
  if src.isInt then narrowInt (-8) 7 4 (src.int bits) g
  else let r := roundToInt (-8) 7 mode (src.value bits) g; ⟨bitsOfInt 4 r.val, r.flags, r.gen⟩

/-- A conversion from INT4 (R53). -/
def convertFromInt4 (dst : Ty) (mode : Rnd) (bits : Nat) (g : BitVec 32) : Rounded :=
  if dst.isInt then narrowInt dst.lo dst.hi dst.width (intOf true 4 bits) g
  else roundElem dst mode (.ofInt (intOf true 4 bits)) g

/-- An exact result with its flags, rounded into a float format: the flags of both. -/
def roundPair (f : Fmt) (mode : Rnd) (r : FVal × FFlags) (g : BitVec 32) : Rounded :=
  let q := f.round mode r.1 g
  ⟨q.bits, r.2 ||| q.flags, q.gen⟩

/-- The value of an E8M0 scale code: a power of two, or NaN for 0xFF (R49). -/
def e8m0 (x : FVal) (code : Nat) : FVal := if code % 256 = 255 then .nan else x.scale ((code % 256 : Nat) - 127 : Int)

/-- `emax` of R50. -/
def mxEmax (t : Ty) : Int := match t with
  | .e4m3 => 8 | .e5m2 => 15 | _ => 2

/-- floor(log2 |x|) of a nonzero finite value. -/
def floorLog2 : FVal → Option Int
  | .fin _ m e => if m = 0 then none else some ((Nat.log2 m : Int) + e)
  | _ => none

/-- The greatest of the exponents present. -/
def maxExp (xs : List FVal) : Option Int :=
  xs.foldl (fun a x => match a, floorLog2 x with
    | none, b => b
    | a, none => a
    | some p, some q => some (max p q)) none

/-- The scale code of an MX block (R50). -/
def mxScale (t : Ty) (xs : List FVal) : Nat :=
  if xs.any (fun x => match x with | .fin .. => false | _ => true) then 0xFF
  else match maxExp xs with
    | none => 0x7F
    | some e => (clampInt (-127) 127 (e - mxEmax t) + 127).toNat

/-- The elements of an MX block under its exponent, in ascending order: each draws from the generator of its lane (R50, R55). -/
def mxElems (f : Fmt) (mode : Rnd) (e : Int) (lane : Nat → Nat) : List FVal → Nat → List (BitVec 32) → List Nat × FFlags × List (BitVec 32)
  | [], _, gens => ([], 0, gens)
  | x :: xs, i, gens =>
    let r := f.round mode (x.scale (-e)) ((gens[lane i]?).getD 0)
    let (ys, fl, gens') := mxElems f mode e lane xs (i + 1) (gens.set (lane i) r.gen)
    (r.bits :: ys, r.flags ||| fl, gens')

/-- Quantisation into an MX block (R50): the scale code, the elements, their flags, and the generators after their draws. A NaN or
an infinity spoils the block, and a block of zeros holds +0 everywhere. -/
def mxBlock (t : Ty) (f : Fmt) (mode : Rnd) (lane : Nat → Nat) (xs : List FVal) (gens : List (BitVec 32)) :
    Nat × List Nat × FFlags × List (BitVec 32) :=
  let scale := mxScale t xs
  if scale = 0xFF ∨ xs.all FVal.isZero then (scale, xs.map fun _ => 0, 0, gens)
  else (scale, mxElems f mode ((scale : Int) - 127) lane xs 0 gens)

/-- The halving tree of R62 over a list whose length is a power of two: at each level element i meets element
i + w. `k` levels. -/
def halvingTree {α : Type} (combine : Nat → α → α → α) : Nat → List α → List α
  | 0, xs => xs
  | k + 1, xs =>
    let w := xs.length / 2
    halvingTree combine k ((List.range w).zipWith (fun i p => combine i p.1 p.2) ((xs.take w).zip (xs.drop w)))

end Machine

end Sys2Proof
end

