-- ==== Sys2Proof/Machine/Elementary.lean ====
section
/-!
DEFINITION. The functions of R246: each value as an exact number, or as a number between two neighbours far below the
precision of any format, which stands for the exact value in the one rounding that follows. UNVERIFIED: a result is
the rounding of the exact value unless that value lies within 2^-150 of a rounding boundary, relative to it.
-/

namespace Sys2Proof.Machine

namespace Elementary

/-- Fraction bits of the fixed-point values here. -/
def prec : Nat := 384

/-- The sum of 1/((2k + 1) n^(2k + 1)), with alternating signs if `alt`, in fixed point. -/
def oddSeries (n : Nat) (alt : Bool) : Nat → Nat → Nat → Int → Int
  | 0, _, _, acc => acc
  | fuel + 1, k, p, acc =>
    let t : Int := (p / (2 * k + 1) : Nat)
    oddSeries n alt fuel (k + 1) (p / (n * n)) (if alt && k % 2 == 1 then acc - t else acc + t)

/-- π in fixed point, by Machin's formula. -/
def piFix : Nat := (4 * (4 * oddSeries 5 true 100 0 (2 ^ prec / 5) 0 - oddSeries 239 true 30 0 (2 ^ prec / 239) 0)).toNat

/-- ln 2 in fixed point. -/
def ln2Fix : Nat := (2 * oddSeries 3 false 130 0 (2 ^ prec / 3) 0).toNat

/-- The exponential series of a fixed-point value below 1. -/
def expSeries (x : Nat) : Nat → Nat → Nat → Nat → Nat
  | 0, _, _, acc => acc
  | fuel + 1, k, t, acc => expSeries x fuel (k + 1) ((t * x) >>> prec / k) (acc + t)

/-- The sine series of a fixed-point value below 2, given its square. -/
def sinSeries (x2 : Nat) : Nat → Nat → Nat → Int → Int
  | 0, _, _, acc => acc
  | fuel + 1, k, t, acc =>
    sinSeries x2 fuel (k + 1) ((t * x2) >>> prec / ((2 * k + 2) * (2 * k + 3))) (if k % 2 = 0 then acc + t else acc - t)

/-- Bits of the base-two logarithm of a fixed-point value in [1, 2), by repeated squaring. -/
def logBits : Nat → Nat → Nat → Nat
  | 0, _, acc => acc
  | fuel + 1, y, acc =>
    let z := (y * y) >>> prec
    if 2 ^ (prec + 1) ≤ z then logBits fuel (z / 2) (2 * acc + 1) else logBits fuel z (2 * acc)

end Elementary

namespace FVal

open Elementary

/-- `1 / x` (R246). -/
def rcp (x : FVal) : FVal × FFlags := div (.fin false 1 0) x

/-- `1 / sqrt x` (R246). -/
def rsqrt (x : FVal) : FVal × FFlags :=
  match x with
  | .nan => (.nan, 0)
  | .inf n => if n then (.nan, FFlags.nv) else (.fin false 0 0, 0)
  | .fin n m e =>
    if m = 0 then (.inf n, FFlags.dz)
    else if n then (.nan, FFlags.nv)
    else
      let (m, e) := if e % 2 = 0 then (m, e) else (2 * m, e - 1)
      let k := Nat.log2 m + 256
      let r := natSqrt (2 ^ (2 * k) / m)
      (sticky false r (r * r * m == 2 ^ (2 * k)) (-(e / 2) - k), 0)

/-- `2 ^ x` (R246). An exponent out of every format's range stands at 2000 or below -2000. -/
def exp2 (x : FVal) : FVal × FFlags :=
  match x with
  | .nan => (.nan, 0)
  | .inf n => if n then (.fin false 0 0, 0) else (.inf false, 0)
  | .fin n m e =>
    if m ≠ 0 ∧ 12 < (Nat.log2 m : Int) + e then (.fin false 1 (if n then -2000 else 2000), 0)
    else
      let sh := (-e).toNat
      let v : Int := if n then -((m <<< e.toNat : Nat) : Int) else (m <<< e.toNat : Nat)
      let whole := v / (2 ^ sh : Nat)
      let part := (v % (2 ^ sh : Nat)).toNat
      if part = 0 then (.fin false 1 whole, 0)
      else
        let f := (part <<< prec) >>> sh
        let y := expSeries ((f * ln2Fix) >>> prec) 100 1 (2 ^ prec) 0
        (sticky false (y >>> 64) false (whole - (prec - 64 : Nat)), 0)

/-- The base-two logarithm (R246). -/
def log2 (x : FVal) : FVal × FFlags :=
  match x with
  | .nan => (.nan, 0)
  | .inf n => if n then (.nan, FFlags.nv) else (.inf false, 0)
  | .fin n m e =>
    if m = 0 then (.inf true, FFlags.dz)
    else if n then (.nan, FFlags.nv)
    else
      let ex : Int := (Nat.log2 m : Int) + e
      if m = 2 ^ Nat.log2 m then (.fin (decide (ex < 0)) ex.natAbs 0, 0)
      else
        let y := (m <<< prec) >>> Nat.log2 m
        let t : Int := ex * (2 ^ 160 : Nat) + (logBits 160 y 0 : Nat)
        (if t < 0 then sticky true (-t - 1).toNat false (-160) else sticky false t.toNat false (-160), 0)

/-- `sin (π x)` (R246). -/
def sinPi (x : FVal) : FVal × FFlags :=
  match x with
  | .nan => (.nan, 0)
  | .inf _ => (.nan, FFlags.nv)
  | .fin n m e =>
    if 0 ≤ e then (.fin n 0 0, 0)
    else
      let one := 2 ^ (-e).toNat
      let r := m % one
      let flip := m / one % 2 == 1
      if r = 0 then (.fin n 0 0, 0)
      else if 2 * r = one then (.fin (n != flip) 1 0, 0)
      else
        let q := if one < 2 * r then one - r else r
        let t := ((q <<< prec) / one * piFix) >>> prec
        let y := (sinSeries ((t * t) >>> prec) 50 0 t 0).toNat
        (sticky (n != flip) (y >>> 64) false (-((prec - 64 : Nat) : Int)), 0)

end FVal

end Sys2Proof.Machine
end

