-- ==== Sys2Proof/Machine/Op.lean ====
section
/-!
DEFINITION. What an instruction word can hold: the constructors of `Instr` that have a word, in two inductives,
one for solo and double words and one for the slots of a pair word, under the same names. Lean's compiled code
cannot build a constructor of an inductive of more than 245, so the decoder builds these and `Op.instr` says
which constructor of `Instr` each one is.
-/

namespace Sys2Proof

/-- Solo and double words (R175, R176). -/
inductive SoloOp where
  | add (d : SReg) (a : SReg) (b : SReg)
  | sub (d : SReg) (a : SReg) (b : SReg)
  | mul (d : SReg) (a : SReg) (b : SReg)
  | mulh (d : SReg) (a : SReg) (b : SReg)
  | mulhu (d : SReg) (a : SReg) (b : SReg)
  | div (d : SReg) (a : SReg) (b : SReg)
  | divu (d : SReg) (a : SReg) (b : SReg)
  | rem (d : SReg) (a : SReg) (b : SReg)
  | remu (d : SReg) (a : SReg) (b : SReg)
  | and (d : SReg) (a : SReg) (b : SReg)
  | or (d : SReg) (a : SReg) (b : SReg)
  | xor (d : SReg) (a : SReg) (b : SReg)
  | andn (d : SReg) (a : SReg) (b : SReg)
  | shl (d : SReg) (a : SReg) (b : SReg)
  | shr (d : SReg) (a : SReg) (b : SReg)
  | sra (d : SReg) (a : SReg) (b : SReg)
  | rol (d : SReg) (a : SReg) (b : SReg)
  | ror (d : SReg) (a : SReg) (b : SReg)
  | min (d : SReg) (a : SReg) (b : SReg)
  | max (d : SReg) (a : SReg) (b : SReg)
  | minu (d : SReg) (a : SReg) (b : SReg)
  | maxu (d : SReg) (a : SReg) (b : SReg)
  | adds (d : SReg) (a : SReg) (b : SReg)
  | subs (d : SReg) (a : SReg) (b : SReg)
  | addi (d : SReg) (a : SReg) (imm : BitVec 32)
  | andi (d : SReg) (a : SReg) (imm : BitVec 32)
  | ori (d : SReg) (a : SReg) (imm : BitVec 32)
  | xori (d : SReg) (a : SReg) (imm : BitVec 32)
  | shli (d : SReg) (a : SReg) (imm : BitVec 32)
  | shri (d : SReg) (a : SReg) (imm : BitVec 32)
  | srai (d : SReg) (a : SReg) (imm : BitVec 32)
  | rori (d : SReg) (a : SReg) (imm : BitVec 32)
  | clz (d : SReg) (a : SReg)
  | ctz (d : SReg) (a : SReg)
  | popc (d : SReg) (a : SReg)
  | brev (d : SReg) (a : SReg)
  | bswap (d : SReg) (a : SReg)
  | bilv2 (d : SReg) (a : SReg) (b : SReg)
  | bilv3 (d : SReg) (a : SReg) (b : SReg) (c : SReg)
  | bdil2 (d : SReg) (a : SReg) (k : BitVec 2)
  | bdil3 (d : SReg) (a : SReg) (k : BitVec 2)
  | ext (d : SReg) (a : SReg) (pos : BitVec 6) (len : BitVec 7)
  | extz (d : SReg) (a : SReg) (pos : BitVec 6) (len : BitVec 7)
  | ins (d : SReg) (a : SReg) (pos : BitVec 6) (len : BitVec 7)
  | sel (d : SReg) (a : SReg) (b : SReg) (p : PReg)
  | fadd (t : Ty) (r : Rnd) (d : SReg) (a : SReg) (b : SReg)
  | fsub (t : Ty) (r : Rnd) (d : SReg) (a : SReg) (b : SReg)
  | fmul (t : Ty) (r : Rnd) (d : SReg) (a : SReg) (b : SReg)
  | fdiv (t : Ty) (r : Rnd) (d : SReg) (a : SReg) (b : SReg)
  | fsqrt (t : Ty) (r : Rnd) (d : SReg) (a : SReg)
  | fma (t : Ty) (r : Rnd) (d : SReg) (a : SReg) (b : SReg) (c : SReg)
  | fmin (t : Ty) (d : SReg) (a : SReg) (b : SReg)
  | fmax (t : Ty) (d : SReg) (a : SReg) (b : SReg)
  | fcvt (td : Ty) (ta : Ty) (r : Rnd) (d : SReg) (a : SReg)
  | fcvti (td : Ty) (ta : Ty) (r : Rnd) (d : SReg) (a : SReg)
  | icvtf (td : Ty) (ta : Ty) (r : Rnd) (d : SReg) (a : SReg)
  | fclass (t : Ty) (d : SReg) (a : SReg)
  | fcmp (c : FCond) (t : Ty) (p : PReg) (a : SReg) (b : SReg)
  | cmp (c : ICond) (p : PReg) (a : SReg) (b : SReg)
  | cmpi (c : ICond) (p : PReg) (a : SReg) (imm : BitVec 32)
  | pand (d : PReg) (a : PReg) (b : PReg)
  | por (d : PReg) (a : PReg) (b : PReg)
  | pxor (d : PReg) (a : PReg) (b : PReg)
  | pandn (d : PReg) (a : PReg) (b : PReg)
  | mfp (d : SReg)
  | mtp (a : SReg) (b : SReg)
  | mfs (d : SReg) (sr : BitVec 12)
  | mts (sr : BitVec 12) (a : SReg)
  | cld (d : CReg) (a : SReg) (idx : BitVec 12)
  | cder (d : CReg) (a : CReg) (b : SReg) (c : SReg) (mask : BitVec 8)
  | crst (d : CReg) (a : CReg) (mask : BitVec 8)
  | cnull (d : CReg)
  | ld (t : Ty) (o : Ord) (sc : Scope) (d : SReg) (c : CReg) (a : SReg) (off : BitVec 20)
  | st (t : Ty) (o : Ord) (sc : Scope) (c : CReg) (a : SReg) (off : BitVec 20) (d : SReg)
  | ldx (t : Ty) (d : SReg) (a : SReg) (b : SReg) (off : BitVec 20)
  | stx (t : Ty) (a : SReg) (b : SReg) (off : BitVec 20) (d : SReg)
  | prept (b : BReg) (off : BitVec 40)
  | br (b : BReg) (hint : Bool)
  | call (b : BReg) (l : BReg) (hint : Bool)
  | ret (b : BReg)
  | loop (a : SReg) (off : BitVec 20)
  | loopm (mb : Fin 16) (off : BitVec 20)
  | loopmK (mb : Fin 16) (off : BitVec 20)
  | trap (x : BitVec 16)
  | eret
  | sysc (x : BitVec 16)
  | safept (map : BitVec 12)
  | wfe (x : BitVec 16)
  | brk (x : BitVec 16)
  | halt
  | rvinit (pt : BitVec 5) (a : SReg)
  | rvarrive (pt : BitVec 5) (em : BitVec 6) (d : SReg)
  | rvwait (pt : BitVec 5) (a : SReg) (d : SReg)
  | rvarw (pt : BitVec 5) (em : BitVec 6) (d : SReg)
  | rvleave (pt : BitVec 5)
  | rvleaveAll
  | sigadd (t : Ty) (o : Ord) (sc : Scope) (d : SReg) (c : CReg) (a : SReg) (b : SReg) (off : BitVec 20)
  | sigset (t : Ty) (o : Ord) (sc : Scope) (d : SReg) (c : CReg) (a : SReg) (b : SReg) (off : BitVec 20)
  | sigwait (t : Ty) (o : Ord) (sc : Scope) (d : SReg) (c : CReg) (a : SReg) (b : SReg) (off : BitVec 20)
  | amoAdd (t : Ty) (o : Ord) (sc : Scope) (d : SReg) (c : CReg) (a : SReg) (b : SReg) (off : BitVec 16)
  | amoMin (t : Ty) (o : Ord) (sc : Scope) (d : SReg) (c : CReg) (a : SReg) (b : SReg) (off : BitVec 16)
  | amoMax (t : Ty) (o : Ord) (sc : Scope) (d : SReg) (c : CReg) (a : SReg) (b : SReg) (off : BitVec 16)
  | amoAnd (t : Ty) (o : Ord) (sc : Scope) (d : SReg) (c : CReg) (a : SReg) (b : SReg) (off : BitVec 16)
  | amoOr (t : Ty) (o : Ord) (sc : Scope) (d : SReg) (c : CReg) (a : SReg) (b : SReg) (off : BitVec 16)
  | amoXor (t : Ty) (o : Ord) (sc : Scope) (d : SReg) (c : CReg) (a : SReg) (b : SReg) (off : BitVec 16)
  | amoXchg (t : Ty) (o : Ord) (sc : Scope) (d : SReg) (c : CReg) (a : SReg) (b : SReg) (off : BitVec 16)
  | amoCas (t : Ty) (o : Ord) (sc : Scope) (d : SReg) (c : CReg) (a : SReg) (b : SReg) (off : BitVec 16)
  | amoCas2 (t : Ty) (o : Ord) (sc : Scope) (d : SReg) (c : CReg) (a : SReg) (b : SReg) (off : BitVec 16)
  | redAdd (t : Ty) (o : Ord) (sc : Scope) (c : CReg) (a : SReg) (b : SReg) (off : BitVec 16)
  | redMin (t : Ty) (o : Ord) (sc : Scope) (c : CReg) (a : SReg) (b : SReg) (off : BitVec 16)
  | redMax (t : Ty) (o : Ord) (sc : Scope) (c : CReg) (a : SReg) (b : SReg) (off : BitVec 16)
  | redAnd (t : Ty) (o : Ord) (sc : Scope) (c : CReg) (a : SReg) (b : SReg) (off : BitVec 16)
  | redOr (t : Ty) (o : Ord) (sc : Scope) (c : CReg) (a : SReg) (b : SReg) (off : BitVec 16)
  | redXor (t : Ty) (o : Ord) (sc : Scope) (c : CReg) (a : SReg) (b : SReg) (off : BitVec 16)
  | fence (o : Ord) (sc : Scope)
  | snap (d : SReg) (c : CReg) (p : PReg)
  | snapNw (d : SReg) (c : CReg) (p : PReg)
  | snapq (d : SReg) (c : CReg) (a : SReg)
  | vadd (t : Ty) (r : Rnd) (d : VReg) (a : VReg) (b : VReg) (m : MReg)
  | vadds (t : Ty) (d : VReg) (a : VReg) (b : VReg) (m : MReg)
  | vsub (t : Ty) (r : Rnd) (d : VReg) (a : VReg) (b : VReg) (m : MReg)
  | vsubs (t : Ty) (d : VReg) (a : VReg) (b : VReg) (m : MReg)
  | vmul (t : Ty) (r : Rnd) (d : VReg) (a : VReg) (b : VReg) (m : MReg)
  | vfma (t : Ty) (r : Rnd) (d : VReg) (a : VReg) (b : VReg) (m : MReg)
  | vfms (t : Ty) (r : Rnd) (d : VReg) (a : VReg) (b : VReg) (m : MReg)
  | vmin (t : Ty) (d : VReg) (a : VReg) (b : VReg) (m : MReg)
  | vmax (t : Ty) (d : VReg) (a : VReg) (b : VReg) (m : MReg)
  | vabs (t : Ty) (d : VReg) (a : VReg) (m : MReg)
  | vneg (t : Ty) (d : VReg) (a : VReg) (m : MReg)
  | vand (t : Ty) (d : VReg) (a : VReg) (b : VReg) (m : MReg)
  | vor (t : Ty) (d : VReg) (a : VReg) (b : VReg) (m : MReg)
  | vxor (t : Ty) (d : VReg) (a : VReg) (b : VReg) (m : MReg)
  | vandn (t : Ty) (d : VReg) (a : VReg) (b : VReg) (m : MReg)
  | vshl (t : Ty) (d : VReg) (a : VReg) (b : VReg) (m : MReg)
  | vshr (t : Ty) (d : VReg) (a : VReg) (b : VReg) (m : MReg)
  | vsra (t : Ty) (d : VReg) (a : VReg) (b : VReg) (m : MReg)
  | vcmp (c : VCond) (t : Ty) (d : MReg) (a : VReg) (b : VReg) (m : MReg)
  | vsel (t : Ty) (d : VReg) (a : VReg) (b : VReg) (m : MReg)
  | vcvt (td : Ty) (ts : Ty) (r : Rnd) (d : VReg) (a : VReg) (b : VReg) (k : BitVec 3) (m : MReg)
  | vpk4 (ts : Ty) (r : Rnd) (d : VReg) (a : VReg) (b : VReg) (k : BitVec 3) (m : MReg)
  | vupk4 (td : Ty) (r : Rnd) (d : VReg) (a : VReg) (k : BitVec 3) (m : MReg)
  | vrcp (t : Ty) (r : Rnd) (d : VReg) (a : VReg) (m : MReg)
  | vrsq (t : Ty) (r : Rnd) (d : VReg) (a : VReg) (m : MReg)
  | vexp2 (t : Ty) (r : Rnd) (d : VReg) (a : VReg) (m : MReg)
  | vlog2 (t : Ty) (r : Rnd) (d : VReg) (a : VReg) (m : MReg)
  | vsin (t : Ty) (r : Rnd) (d : VReg) (a : VReg) (m : MReg)
  | vtlu (t : Ty) (r : Rnd) (d : VReg) (a : VReg) (o : VReg) (m : MReg)
  | vrint (t : Ty) (r : Rnd) (d : VReg) (a : VReg) (m : MReg)
  | vsett (t : Ty) (r : Rnd) (ct : Ty) (e : BitVec 5)
  | vbcst (t : Ty) (d : VReg) (a : SReg) (m : MReg)
  | vext (t : Ty) (d : SReg) (a : VReg) (b : SReg)
  | vins (t : Ty) (d : VReg) (a : SReg) (b : SReg)
  | vperm (t : Ty) (d : VReg) (a : VReg) (b : VReg) (m : MReg)
  | vsldu (t : Ty) (d : VReg) (a : VReg) (b : VReg) (k : BitVec 7) (m : MReg)
  | vsldd (t : Ty) (d : VReg) (a : VReg) (b : VReg) (k : BitVec 7) (m : MReg)
  | vcmpr (t : Ty) (d : VReg) (a : VReg) (m : MReg)
  | vxpnd (t : Ty) (d : VReg) (a : VReg) (m : MReg)
  | viota (t : Ty) (d : VReg) (m : MReg)
  | vredSum (t : Ty) (d : SReg) (a : VReg) (m : MReg)
  | vredMin (t : Ty) (d : SReg) (a : VReg) (m : MReg)
  | vredMax (t : Ty) (d : SReg) (a : VReg) (m : MReg)
  | vredAnd (t : Ty) (d : SReg) (a : VReg) (m : MReg)
  | vredOr (t : Ty) (d : SReg) (a : VReg) (m : MReg)
  | vredXor (t : Ty) (d : SReg) (a : VReg) (m : MReg)
  | vredSums (t : Ty) (d : SReg) (a : VReg) (m : MReg)
  | vany (t : Ty) (d : PReg) (a : MReg) (m : MReg)
  | vall (t : Ty) (d : PReg) (a : MReg) (m : MReg)
  | vmpop (t : Ty) (d : SReg) (a : MReg) (m : MReg)
  | mlogAnd (d : MReg) (a : MReg) (b : MReg)
  | mlogOr (d : MReg) (a : MReg) (b : MReg)
  | mlogXor (d : MReg) (a : MReg) (b : MReg)
  | mlogAndn (d : MReg) (a : MReg) (b : MReg)
  | mlogNot (d : MReg) (a : MReg)
  | vld (t : Ty) (d : VReg) (a : SReg) (off : BitVec 20) (m : MReg)
  | vst (t : Ty) (a : SReg) (off : BitVec 20) (v : VReg) (m : MReg)
  | vstB (t : Ty) (a : SReg) (off : BitVec 20) (v : VReg) (m : MReg) (k : Fin 16)
  | mldst (nb : NB) (ga : GReg) (gb : GReg) (sx : SReg) (sy : SReg) (st0 : Step) (st1 : Step) (ts : Bool) (stage : BitVec 3)
  | mswap (nb : NB) (ts : Bool) (stage : BitVec 3)
  | mzero (nb : NB) (ga : GReg) (sy : SReg) (ts : Bool) (stage : BitVec 3)
  | mstream (nb : NB) (ga : GReg) (gb : GReg) (gc : GReg) (sx : SReg) (sy : SReg) (st0 : Step) (st2 : Step) (ts : Bool) (stage : BitVec 3)
  | mdrain (nb : NB) (ga : GReg) (gb : GReg) (gc : GReg) (sx : SReg) (sy : SReg) (st1 : Step) (ts : Bool) (stage : BitVec 3)
  | mepi (nb : NB) (ga : GReg) (sx : SReg) (sy : SReg) (ts : Bool) (stage : BitVec 3)
  | smap (nb : NB) (ga : GReg) (gb : GReg) (gc : GReg) (gx : GReg) (sx : SReg) (sy : SReg) (st0 : Step) (st1 : Step) (st2 : Step) (stage : BitVec 3)
  | sred (nb : NB) (ga : GReg) (gb : GReg) (sx : SReg) (sy : SReg) (st0 : Step) (stage : BitVec 3)
  | xpose (nb : NB) (ga : GReg) (gb : GReg) (sx : SReg) (sy : SReg) (st0 : Step) (st1 : Step) (stage : BitVec 3)
  | copy (nb : NB) (ga : GReg) (gb : GReg) (sx : SReg) (sy : SReg) (sz : SReg) (sw : SReg) (ord : Bool) (stage : BitVec 3)
  | gather (nb : NB) (ga : GReg) (gb : GReg) (gc : GReg) (sx : SReg) (sy : SReg) (sz : SReg) (sw : SReg) (ord : Bool) (stage : BitVec 3)
  | scatter (nb : NB) (ga : GReg) (gb : GReg) (gc : GReg) (sx : SReg) (sy : SReg) (sz : SReg) (sw : SReg) (ord : Bool) (stage : BitVec 3)
  | subscr (nb : NB) (ga : GReg) (gb : GReg) (sx : SReg) (sy : SReg) (sz : SReg) (stage : BitVec 3)
  | ringpop (nb : NB) (ga : GReg) (sx : SReg) (stage : BitVec 3)
  | ringpush (nb : NB) (ga : GReg) (sx : SReg) (stage : BitVec 3)
  | coll (nb : NB) (ga : GReg) (gb : GReg) (sx : SReg) (sy : SReg) (sz : SReg) (ord : Bool) (stage : BitVec 3)
  | postm (nb : NB) (ga : GReg) (sx : SReg) (sy : SReg)
  | postr (nb : NB) (ga : GReg) (sx : SReg) (sy : SReg) (sr : SReg) (ord : Bool)
  | bundle
  | bend
  | guard (nb : NB) (k : Fin 16) (ga : GReg) (gb : GReg) (gc : GReg) (gd : GReg) (ge : GReg) (gf : GReg)
  | gcheck
  | gexact
  | gend
  | tstart (nb : NB) (ga : GReg)
  | rgld (o : Ord) (sc : Scope) (d : GReg) (c : CReg) (a : SReg) (b : SReg) (off : BitVec 20)
  | twait (em : BitVec 6)
  | li (d : SReg) (x : Word)
  | addl (d : SReg) (a : SReg) (x : Word)
  | andl (d : SReg) (a : SReg) (x : Word)
  | orl (d : SReg) (a : SReg) (x : Word)
  | xorl (d : SReg) (a : SReg) (x : Word)
  | cmpl (c : ICond) (p : PReg) (a : SReg) (x : Word)
  | ldl (t : Ty) (o : Ord) (sc : Scope) (d : SReg) (c : CReg) (a : SReg) (x : BitVec 48)
  | stl (t : Ty) (o : Ord) (sc : Scope) (c : CReg) (a : SReg) (x : BitVec 48) (d : SReg)
  | rgset (d : GReg) (x : Word)
  | vli (d : VReg) (x : Word)
  deriving DecidableEq, Repr

/-- Slots of a pair word (R177, R178). -/
inductive SlotOp where
  | snop
  | addSlot (d : SReg) (a : SReg) (b : SReg)
  | subSlot (d : SReg) (a : SReg) (b : SReg)
  | andSlot (d : SReg) (a : SReg) (b : SReg)
  | orSlot (d : SReg) (a : SReg) (b : SReg)
  | xorSlot (d : SReg) (a : SReg) (b : SReg)
  | andnSlot (d : SReg) (a : SReg) (b : SReg)
  | shlSlot (d : SReg) (a : SReg) (b : SReg)
  | shrSlot (d : SReg) (a : SReg) (b : SReg)
  | sraSlot (d : SReg) (a : SReg) (b : SReg)
  | minSlot (d : SReg) (a : SReg) (b : SReg)
  | maxSlot (d : SReg) (a : SReg) (b : SReg)
  | minuSlot (d : SReg) (a : SReg) (b : SReg)
  | maxuSlot (d : SReg) (a : SReg) (b : SReg)
  | mulSlot (d : SReg) (a : SReg) (b : SReg)
  | addiSlot (d : SReg) (a : SReg) (imm : BitVec 5)
  | shliSlot (d : SReg) (a : SReg) (imm : BitVec 5)
  | shriSlot (d : SReg) (a : SReg) (imm : BitVec 5)
  | sraiSlot (d : SReg) (a : SReg) (imm : BitVec 5)
  | cmpEqSlot (p : PReg) (a : SReg) (b : SReg)
  | cmpNeSlot (p : PReg) (a : SReg) (b : SReg)
  | cmpLtSlot (p : PReg) (a : SReg) (b : SReg)
  | cmpLtuSlot (p : PReg) (a : SReg) (b : SReg)
  | cmpGeSlot (p : PReg) (a : SReg) (b : SReg)
  | cmpGeuSlot (p : PReg) (a : SReg) (b : SReg)
  | cmpiEqSlot (p : PReg) (a : SReg) (imm : BitVec 5)
  | pandSlot (d : PReg) (a : PReg) (b : PReg)
  | porSlot (d : PReg) (a : PReg) (b : PReg)
  | pxorSlot (d : PReg) (a : PReg) (b : PReg)
  | pandnSlot (d : PReg) (a : PReg) (b : PReg)
  | vnop
  | vmov (d : VReg) (a : VReg)
  | vaddSlot (d : VReg) (a : VReg) (b : VReg)
  | vsubSlot (d : VReg) (a : VReg) (b : VReg)
  | vmulSlot (d : VReg) (a : VReg) (b : VReg)
  | vfmaSlot (d : VReg) (a : VReg) (b : VReg)
  | vfmsSlot (d : VReg) (a : VReg) (b : VReg)
  | vminSlot (d : VReg) (a : VReg) (b : VReg)
  | vmaxSlot (d : VReg) (a : VReg) (b : VReg)
  | vabsSlot (d : VReg) (a : VReg)
  | vnegSlot (d : VReg) (a : VReg)
  | vandSlot (d : VReg) (a : VReg) (b : VReg)
  | vorSlot (d : VReg) (a : VReg) (b : VReg)
  | vxorSlot (d : VReg) (a : VReg) (b : VReg)
  | vandnSlot (d : VReg) (a : VReg) (b : VReg)
  | vshlSlot (d : VReg) (a : VReg) (b : VReg)
  | vshrSlot (d : VReg) (a : VReg) (b : VReg)
  | vsraSlot (d : VReg) (a : VReg) (b : VReg)
  | vrcpSlot (d : VReg) (a : VReg)
  | vrsqSlot (d : VReg) (a : VReg)
  | vexp2Slot (d : VReg) (a : VReg)
  | vlog2Slot (d : VReg) (a : VReg)
  | vsinSlot (d : VReg) (a : VReg)
  | vrintSlot (d : VReg) (a : VReg)
  | vcmpEqSlot (d : MReg) (a : VReg) (b : VReg)
  | vcmpNeSlot (d : MReg) (a : VReg) (b : VReg)
  | vcmpLtSlot (d : MReg) (a : VReg) (b : VReg)
  | vcmpLeSlot (d : MReg) (a : VReg) (b : VReg)
  | vslduSlot (d : VReg) (a : VReg) (b : VReg)
  | vslddSlot (d : VReg) (a : VReg) (b : VReg)
  | vpermSlot (d : VReg) (a : VReg) (b : VReg)
  | vtluSlot (d : VReg) (a : VReg) (b : VReg)
  | vcvtSlot (d : VReg) (a : VReg) (b : VReg)
  | vaddsSlot (d : VReg) (a : VReg) (b : VReg)
  | vsubsSlot (d : VReg) (a : VReg) (b : VReg)
  deriving DecidableEq, Repr

/-- An operation of a group. -/
inductive Op where
  | solo (o : SoloOp)
  | slot (o : SlotOp)
  deriving DecidableEq, Repr

/-- The instruction of a solo or double word. -/
noncomputable def SoloOp.instr : SoloOp → Instr
  | .add d a b => .add d a b
  | .sub d a b => .sub d a b
  | .mul d a b => .mul d a b
  | .mulh d a b => .mulh d a b
  | .mulhu d a b => .mulhu d a b
  | .div d a b => .div d a b
  | .divu d a b => .divu d a b
  | .rem d a b => .rem d a b
  | .remu d a b => .remu d a b
  | .and d a b => .and d a b
  | .or d a b => .or d a b
  | .xor d a b => .xor d a b
  | .andn d a b => .andn d a b
  | .shl d a b => .shl d a b
  | .shr d a b => .shr d a b
  | .sra d a b => .sra d a b
  | .rol d a b => .rol d a b
  | .ror d a b => .ror d a b
  | .min d a b => .min d a b
  | .max d a b => .max d a b
  | .minu d a b => .minu d a b
  | .maxu d a b => .maxu d a b
  | .adds d a b => .adds d a b
  | .subs d a b => .subs d a b
  | .addi d a imm => .addi d a imm
  | .andi d a imm => .andi d a imm
  | .ori d a imm => .ori d a imm
  | .xori d a imm => .xori d a imm
  | .shli d a imm => .shli d a imm
  | .shri d a imm => .shri d a imm
  | .srai d a imm => .srai d a imm
  | .rori d a imm => .rori d a imm
  | .clz d a => .clz d a
  | .ctz d a => .ctz d a
  | .popc d a => .popc d a
  | .brev d a => .brev d a
  | .bswap d a => .bswap d a
  | .bilv2 d a b => .bilv2 d a b
  | .bilv3 d a b c => .bilv3 d a b c
  | .bdil2 d a k => .bdil2 d a k
  | .bdil3 d a k => .bdil3 d a k
  | .ext d a pos len => .ext d a pos len
  | .extz d a pos len => .extz d a pos len
  | .ins d a pos len => .ins d a pos len
  | .sel d a b p => .sel d a b p
  | .fadd t r d a b => .fadd t r d a b
  | .fsub t r d a b => .fsub t r d a b
  | .fmul t r d a b => .fmul t r d a b
  | .fdiv t r d a b => .fdiv t r d a b
  | .fsqrt t r d a => .fsqrt t r d a
  | .fma t r d a b c => .fma t r d a b c
  | .fmin t d a b => .fmin t d a b
  | .fmax t d a b => .fmax t d a b
  | .fcvt td ta r d a => .fcvt td ta r d a
  | .fcvti td ta r d a => .fcvti td ta r d a
  | .icvtf td ta r d a => .icvtf td ta r d a
  | .fclass t d a => .fclass t d a
  | .fcmp c t p a b => .fcmp c t p a b
  | .cmp c p a b => .cmp c p a b
  | .cmpi c p a imm => .cmpi c p a imm
  | .pand d a b => .pand d a b
  | .por d a b => .por d a b
  | .pxor d a b => .pxor d a b
  | .pandn d a b => .pandn d a b
  | .mfp d => .mfp d
  | .mtp a b => .mtp a b
  | .mfs d sr => .mfs d sr
  | .mts sr a => .mts sr a
  | .cld d a idx => .cld d a idx
  | .cder d a b c mask => .cder d a b c mask
  | .crst d a mask => .crst d a mask
  | .cnull d => .cnull d
  | .ld t o sc d c a off => .ld t o sc d c a off
  | .st t o sc c a off d => .st t o sc c a off d
  | .ldx t d a b off => .ldx t d a b off
  | .stx t a b off d => .stx t a b off d
  | .prept b off => .prept b off
  | .br b hint => .br b hint
  | .call b l hint => .call b l hint
  | .ret b => .ret b
  | .loop a off => .loop a off
  | .loopm mb off => .loopm mb off
  | .loopmK mb off => .loopmK mb off
  | .trap x => .trap x
  | .eret => .eret
  | .sysc x => .sysc x
  | .safept map => .safept map
  | .wfe x => .wfe x
  | .brk x => .brk x
  | .halt => .halt
  | .rvinit pt a => .rvinit pt a
  | .rvarrive pt em d => .rvarrive pt em d
  | .rvwait pt a d => .rvwait pt a d
  | .rvarw pt em d => .rvarw pt em d
  | .rvleave pt => .rvleave pt
  | .rvleaveAll => .rvleaveAll
  | .sigadd t o sc d c a b off => .sigadd t o sc d c a b off
  | .sigset t o sc d c a b off => .sigset t o sc d c a b off
  | .sigwait t o sc d c a b off => .sigwait t o sc d c a b off
  | .amoAdd t o sc d c a b off => .amoAdd t o sc d c a b off
  | .amoMin t o sc d c a b off => .amoMin t o sc d c a b off
  | .amoMax t o sc d c a b off => .amoMax t o sc d c a b off
  | .amoAnd t o sc d c a b off => .amoAnd t o sc d c a b off
  | .amoOr t o sc d c a b off => .amoOr t o sc d c a b off
  | .amoXor t o sc d c a b off => .amoXor t o sc d c a b off
  | .amoXchg t o sc d c a b off => .amoXchg t o sc d c a b off
  | .amoCas t o sc d c a b off => .amoCas t o sc d c a b off
  | .amoCas2 t o sc d c a b off => .amoCas2 t o sc d c a b off
  | .redAdd t o sc c a b off => .redAdd t o sc c a b off
  | .redMin t o sc c a b off => .redMin t o sc c a b off
  | .redMax t o sc c a b off => .redMax t o sc c a b off
  | .redAnd t o sc c a b off => .redAnd t o sc c a b off
  | .redOr t o sc c a b off => .redOr t o sc c a b off
  | .redXor t o sc c a b off => .redXor t o sc c a b off
  | .fence o sc => .fence o sc
  | .snap d c p => .snap d c p
  | .snapNw d c p => .snapNw d c p
  | .snapq d c a => .snapq d c a
  | .vadd t r d a b m => .vadd t r d a b m
  | .vadds t d a b m => .vadds t d a b m
  | .vsub t r d a b m => .vsub t r d a b m
  | .vsubs t d a b m => .vsubs t d a b m
  | .vmul t r d a b m => .vmul t r d a b m
  | .vfma t r d a b m => .vfma t r d a b m
  | .vfms t r d a b m => .vfms t r d a b m
  | .vmin t d a b m => .vmin t d a b m
  | .vmax t d a b m => .vmax t d a b m
  | .vabs t d a m => .vabs t d a m
  | .vneg t d a m => .vneg t d a m
  | .vand t d a b m => .vand t d a b m
  | .vor t d a b m => .vor t d a b m
  | .vxor t d a b m => .vxor t d a b m
  | .vandn t d a b m => .vandn t d a b m
  | .vshl t d a b m => .vshl t d a b m
  | .vshr t d a b m => .vshr t d a b m
  | .vsra t d a b m => .vsra t d a b m
  | .vcmp c t d a b m => .vcmp c t d a b m
  | .vsel t d a b m => .vsel t d a b m
  | .vcvt td ts r d a b k m => .vcvt td ts r d a b k m
  | .vpk4 ts r d a b k m => .vpk4 ts r d a b k m
  | .vupk4 td r d a k m => .vupk4 td r d a k m
  | .vrcp t r d a m => .vrcp t r d a m
  | .vrsq t r d a m => .vrsq t r d a m
  | .vexp2 t r d a m => .vexp2 t r d a m
  | .vlog2 t r d a m => .vlog2 t r d a m
  | .vsin t r d a m => .vsin t r d a m
  | .vtlu t r d a o m => .vtlu t r d a o m
  | .vrint t r d a m => .vrint t r d a m
  | .vsett t r ct e => .vsett t r ct e
  | .vbcst t d a m => .vbcst t d a m
  | .vext t d a b => .vext t d a b
  | .vins t d a b => .vins t d a b
  | .vperm t d a b m => .vperm t d a b m
  | .vsldu t d a b k m => .vsldu t d a b k m
  | .vsldd t d a b k m => .vsldd t d a b k m
  | .vcmpr t d a m => .vcmpr t d a m
  | .vxpnd t d a m => .vxpnd t d a m
  | .viota t d m => .viota t d m
  | .vredSum t d a m => .vredSum t d a m
  | .vredMin t d a m => .vredMin t d a m
  | .vredMax t d a m => .vredMax t d a m
  | .vredAnd t d a m => .vredAnd t d a m
  | .vredOr t d a m => .vredOr t d a m
  | .vredXor t d a m => .vredXor t d a m
  | .vredSums t d a m => .vredSums t d a m
  | .vany t d a m => .vany t d a m
  | .vall t d a m => .vall t d a m
  | .vmpop t d a m => .vmpop t d a m
  | .mlogAnd d a b => .mlogAnd d a b
  | .mlogOr d a b => .mlogOr d a b
  | .mlogXor d a b => .mlogXor d a b
  | .mlogAndn d a b => .mlogAndn d a b
  | .mlogNot d a => .mlogNot d a
  | .vld t d a off m => .vld t d a off m
  | .vst t a off v m => .vst t a off v m
  | .vstB t a off v m k => .vstB t a off v m k
  | .mldst nb ga gb sx sy st0 st1 ts stage => .mldst nb ga gb sx sy st0 st1 ts stage
  | .mswap nb ts stage => .mswap nb ts stage
  | .mzero nb ga sy ts stage => .mzero nb ga sy ts stage
  | .mstream nb ga gb gc sx sy st0 st2 ts stage => .mstream nb ga gb gc sx sy st0 st2 ts stage
  | .mdrain nb ga gb gc sx sy st1 ts stage => .mdrain nb ga gb gc sx sy st1 ts stage
  | .mepi nb ga sx sy ts stage => .mepi nb ga sx sy ts stage
  | .smap nb ga gb gc gx sx sy st0 st1 st2 stage => .smap nb ga gb gc gx sx sy st0 st1 st2 stage
  | .sred nb ga gb sx sy st0 stage => .sred nb ga gb sx sy st0 stage
  | .xpose nb ga gb sx sy st0 st1 stage => .xpose nb ga gb sx sy st0 st1 stage
  | .copy nb ga gb sx sy sz sw ord stage => .copy nb ga gb sx sy sz sw ord stage
  | .gather nb ga gb gc sx sy sz sw ord stage => .gather nb ga gb gc sx sy sz sw ord stage
  | .scatter nb ga gb gc sx sy sz sw ord stage => .scatter nb ga gb gc sx sy sz sw ord stage
  | .subscr nb ga gb sx sy sz stage => .subscr nb ga gb sx sy sz stage
  | .ringpop nb ga sx stage => .ringpop nb ga sx stage
  | .ringpush nb ga sx stage => .ringpush nb ga sx stage
  | .coll nb ga gb sx sy sz ord stage => .coll nb ga gb sx sy sz ord stage
  | .postm nb ga sx sy => .postm nb ga sx sy
  | .postr nb ga sx sy sr ord => .postr nb ga sx sy sr ord
  | .bundle => .bundle
  | .bend => .bend
  | .guard nb k ga gb gc gd ge gf => .guard nb k ga gb gc gd ge gf
  | .gcheck => .gcheck
  | .gexact => .gexact
  | .gend => .gend
  | .tstart nb ga => .tstart nb ga
  | .rgld o sc d c a b off => .rgld o sc d c a b off
  | .twait em => .twait em
  | .li d x => .li d x
  | .addl d a x => .addl d a x
  | .andl d a x => .andl d a x
  | .orl d a x => .orl d a x
  | .xorl d a x => .xorl d a x
  | .cmpl c p a x => .cmpl c p a x
  | .ldl t o sc d c a x => .ldl t o sc d c a x
  | .stl t o sc c a x d => .stl t o sc c a x d
  | .rgset d x => .rgset d x
  | .vli d x => .vli d x

/-- The instruction of a slot. -/
noncomputable def SlotOp.instr : SlotOp → Instr
  | .snop => .snop
  | .addSlot d a b => .addSlot d a b
  | .subSlot d a b => .subSlot d a b
  | .andSlot d a b => .andSlot d a b
  | .orSlot d a b => .orSlot d a b
  | .xorSlot d a b => .xorSlot d a b
  | .andnSlot d a b => .andnSlot d a b
  | .shlSlot d a b => .shlSlot d a b
  | .shrSlot d a b => .shrSlot d a b
  | .sraSlot d a b => .sraSlot d a b
  | .minSlot d a b => .minSlot d a b
  | .maxSlot d a b => .maxSlot d a b
  | .minuSlot d a b => .minuSlot d a b
  | .maxuSlot d a b => .maxuSlot d a b
  | .mulSlot d a b => .mulSlot d a b
  | .addiSlot d a imm => .addiSlot d a imm
  | .shliSlot d a imm => .shliSlot d a imm
  | .shriSlot d a imm => .shriSlot d a imm
  | .sraiSlot d a imm => .sraiSlot d a imm
  | .cmpEqSlot p a b => .cmpEqSlot p a b
  | .cmpNeSlot p a b => .cmpNeSlot p a b
  | .cmpLtSlot p a b => .cmpLtSlot p a b
  | .cmpLtuSlot p a b => .cmpLtuSlot p a b
  | .cmpGeSlot p a b => .cmpGeSlot p a b
  | .cmpGeuSlot p a b => .cmpGeuSlot p a b
  | .cmpiEqSlot p a imm => .cmpiEqSlot p a imm
  | .pandSlot d a b => .pandSlot d a b
  | .porSlot d a b => .porSlot d a b
  | .pxorSlot d a b => .pxorSlot d a b
  | .pandnSlot d a b => .pandnSlot d a b
  | .vnop => .vnop
  | .vmov d a => .vmov d a
  | .vaddSlot d a b => .vaddSlot d a b
  | .vsubSlot d a b => .vsubSlot d a b
  | .vmulSlot d a b => .vmulSlot d a b
  | .vfmaSlot d a b => .vfmaSlot d a b
  | .vfmsSlot d a b => .vfmsSlot d a b
  | .vminSlot d a b => .vminSlot d a b
  | .vmaxSlot d a b => .vmaxSlot d a b
  | .vabsSlot d a => .vabsSlot d a
  | .vnegSlot d a => .vnegSlot d a
  | .vandSlot d a b => .vandSlot d a b
  | .vorSlot d a b => .vorSlot d a b
  | .vxorSlot d a b => .vxorSlot d a b
  | .vandnSlot d a b => .vandnSlot d a b
  | .vshlSlot d a b => .vshlSlot d a b
  | .vshrSlot d a b => .vshrSlot d a b
  | .vsraSlot d a b => .vsraSlot d a b
  | .vrcpSlot d a => .vrcpSlot d a
  | .vrsqSlot d a => .vrsqSlot d a
  | .vexp2Slot d a => .vexp2Slot d a
  | .vlog2Slot d a => .vlog2Slot d a
  | .vsinSlot d a => .vsinSlot d a
  | .vrintSlot d a => .vrintSlot d a
  | .vcmpEqSlot d a b => .vcmpEqSlot d a b
  | .vcmpNeSlot d a b => .vcmpNeSlot d a b
  | .vcmpLtSlot d a b => .vcmpLtSlot d a b
  | .vcmpLeSlot d a b => .vcmpLeSlot d a b
  | .vslduSlot d a b => .vslduSlot d a b
  | .vslddSlot d a b => .vslddSlot d a b
  | .vpermSlot d a b => .vpermSlot d a b
  | .vtluSlot d a b => .vtluSlot d a b
  | .vcvtSlot d a b => .vcvtSlot d a b
  | .vaddsSlot d a b => .vaddsSlot d a b
  | .vsubsSlot d a b => .vsubsSlot d a b

/-- The instruction of an operation. -/
noncomputable def Op.instr : Op → Instr
  | .solo o => o.instr
  | .slot o => o.instr

end Sys2Proof
end

