-- ==== Sys2Proof/Machine/Types.lean ====
section
/-!
DEFINITION. The codes of types, roundings, orderings, scopes and conditions (R42, R43, R164, R197, R198, R241)
and the sets of them that instructions accept (R193, R207, R208, R237, R244, R245, R252, R378, R383).
-/

namespace Sys2Proof

/-- Type codes, R42. -/
def Ty.code : Ty → Nat
  | .i8 => 0 | .i16 => 1 | .i32 => 2 | .i64 => 3 | .n8 => 4 | .n16 => 5 | .n32 => 6 | .n64 => 7
  | .f4 => 8 | .e4m3 => 9 | .e5m2 => 10 | .bf16 => 11 | .f16 => 12 | .f32 => 13 | .f64 => 14 | .a56 => 15

/-- The type of a code, R42: all sixteen values are assigned. -/
def Ty.ofCode (n : Nat) : Ty :=
  match n % 16 with
  | 0 => .i8 | 1 => .i16 | 2 => .i32 | 3 => .i64 | 4 => .n8 | 5 => .n16 | 6 => .n32 | 7 => .n64
  | 8 => .f4 | 9 => .e4m3 | 10 => .e5m2 | 11 => .bf16 | 12 => .f16 | 13 => .f32 | 14 => .f64 | _ => .a56

/-- Rounding codes, R43. -/
def Rnd.code : Rnd → Nat
  | .rne => 0 | .rtz => 1 | .rup => 2 | .rdn => 3 | .rsr => 4

/-- The mode of a rounding code; none for the reserved ones, R43. -/
def Rnd.ofCode (n : Nat) : Option Rnd :=
  match n with
  | 0 => some .rne | 1 => some .rtz | 2 => some .rup | 3 => some .rdn | 4 => some .rsr | _ => none

/-- A mode the sequencer has, R43. -/
def Rnd.scalar (r : Rnd) : Bool := r != .rsr

/-- Ordering codes, R164. -/
def Ord.code : Ord → Nat
  | .rlx => 0 | .acq => 1 | .rel => 2 | .ar => 3

/-- The ordering of a code, R164. -/
def Ord.ofCode (n : Nat) : Ord :=
  match n % 4 with
  | 0 => .rlx | 1 => .acq | 2 => .rel | _ => .ar

/-- Orderings a load takes, R208. -/
def Ord.load (o : Ord) : Bool := o == .rlx || o == .acq
/-- Orderings a store or a reduction takes, R208, R378. -/
def Ord.store (o : Ord) : Bool := o == .rlx || o == .rel
/-- Orderings `SIGWAIT` takes, R384. -/
def Ord.wait (o : Ord) : Bool := o != .rel
/-- Orderings `FENCE` takes, R385. -/
def Ord.fence (o : Ord) : Bool := o != .rlx
/-- Every ordering. -/
def Ord.anyOrd (_ : Ord) : Bool := true
/-- The ordering acquires, R164. -/
def Ord.acquires (o : Ord) : Bool := o == .acq || o == .ar
/-- The ordering releases, R164. -/
def Ord.releases (o : Ord) : Bool := o == .rel || o == .ar

/-- Scope codes, R164. -/
def Scope.code : Scope → Nat
  | .core => 0 | .team => 1 | .chip => 2 | .dom => 3 | .sys => 4

/-- The scope of a code; none for the reserved ones, R164. -/
def Scope.ofCode (n : Nat) : Option Scope :=
  match n with
  | 0 => some .core | 1 => some .team | 2 => some .chip | 3 => some .dom | 4 => some .sys | _ => none

/-- Condition codes, R197. -/
def ICond.code : ICond → Nat
  | .eq => 0 | .ne => 1 | .lt => 2 | .ltu => 3 | .ge => 4 | .geu => 5
  | .le => 6 | .leu => 7 | .gt => 8 | .gtu => 9 | .tst => 10 | .ntst => 11

/-- The condition of a code, R197. -/
def ICond.ofCode (n : Nat) : Option ICond :=
  match n with
  | 0 => some .eq | 1 => some .ne | 2 => some .lt | 3 => some .ltu | 4 => some .ge | 5 => some .geu
  | 6 => some .le | 7 => some .leu | 8 => some .gt | 9 => some .gtu | 10 => some .tst | 11 => some .ntst
  | _ => none

/-- Condition codes, R198. -/
def FCond.code : FCond → Nat
  | .eq => 0 | .ne => 1 | .lt => 2 | .le => 3 | .un => 4 | .ord => 5

/-- The condition of a code, R198. -/
def FCond.ofCode (n : Nat) : Option FCond :=
  match n with
  | 0 => some .eq | 1 => some .ne | 2 => some .lt | 3 => some .le | 4 => some .un | 5 => some .ord | _ => none

/-- Condition codes, R241. -/
def VCond.code : VCond → Nat
  | .eq => 0 | .ne => 1 | .lt => 2 | .le => 3 | .gt => 4 | .ge => 5 | .un => 6 | .ord => 7 | .tst => 8 | .ntst => 9

/-- The condition of a code, R241. -/
def VCond.ofCode (n : Nat) : Option VCond :=
  match n with
  | 0 => some .eq | 1 => some .ne | 2 => some .lt | 3 => some .le | 4 => some .gt
  | 5 => some .ge | 6 => some .un | 7 => some .ord | 8 => some .tst | 9 => some .ntst | _ => none

namespace Ty

/-- Every type. -/
def any (_ : Ty) : Bool := true
/-- Every type except `.F4`, R207, R237. -/
def notF4 (t : Ty) : Bool := t != .f4
/-- The float types of the scalar and lane arithmetic, R193, R237. -/
def laneFloat (t : Ty) : Bool := t == .bf16 || t == .f16 || t == .f32 || t == .f64
/-- The types of the elementwise arithmetic, R237. -/
def laneArith (t : Ty) : Bool := t.isInt || t.laneFloat
/-- The types of the lane functions, R237. -/
def laneFn (t : Ty) : Bool := t == .bf16 || t == .f16 || t == .f32
/-- The types on the other side of INT4, R245. -/
def int4Other (t : Ty) : Bool := t.width != 64 && t != .f4
/-- The types `VST.B` takes, R257. -/
def boundable (t : Ty) : Bool := t != .f4 && t != .a56
/-- The types of signals, R383. -/
def sig (t : Ty) : Bool := t == .i64 || t == .n64
/-- The types of atomic integer operations, R378. -/
def amoInt (t : Ty) : Bool := t == .i32 || t == .i64 || t == .n32 || t == .n64
/-- The types of atomic addition, R378. -/
def amoAdd (t : Ty) : Bool := t.amoInt || t == .f32 || t == .bf16
/-- `.N64` alone, R378. -/
def n64Only (t : Ty) : Bool := t == .n64

end Ty

namespace Machine

/-- Elements of a type in a register, R227. -/
def elemCount (t : Ty) : Nat := 4096 / t.width

/-- An even scalar register number (R378). -/
def evenS (r : SReg) : Bool := r.val % 2 == 0
/-- A vector destination is no last-result register (R235). -/
def vecDst (v : VReg) : Bool := decide (v.val < 608)
/-- A `VTLU` table stands in the operand file (R248). -/
def vecTable (v : VReg) : Bool := decide (512 ≤ v.val) && decide (v.val < 608)
/-- Step code 0b111 is reserved (R260). -/
def stepOk (s : Step) : Bool := s != 7
/-- The step of a walked optional slot, which is absent where its field names `g0`: then the step is zero (R260, R261). -/
def stepOf (g : GReg) (s : Step) : Bool := if g.val = 0 then s == 0 else stepOk s
/-- Shift amounts 0 to 63 (R186). -/
def shiftImm (n : Nat) : Bool := decide (n < 64)
/-- Slot shift amounts 0 to 15 (R177). -/
def slotShift (n : Nat) : Bool := decide (n < 16)
/-- Phases of two (R190). -/
def phase2 (n : Nat) : Bool := decide (n < 2)
/-- Phases of three (R190). -/
def phase3 (n : Nat) : Bool := decide (n < 3)
/-- A field that may not be zero (R215, R320). -/
def nonzero (n : Nat) : Bool := n != 0
/-- Rendezvous points 0 to 23 (R388). -/
def point (n : Nat) : Bool := decide (n < 24)
/-- `EXT`, `EXTZ` and `INS`: a length of 1 to 64 that fits above the position (R191). -/
def fieldOk (pos : BitVec 6) (len : BitVec 7) : Bool :=
  decide (1 ≤ len.toNat) && decide (len.toNat ≤ 64) && decide (pos.toNat + len.toNat ≤ 64)
/-- rnd is used only with float types (R239). -/
def rndOk (t : Ty) (r : Rnd) : Bool := t.isFloat || r == .rne
/-- The types each lane compare condition takes (R237). -/
def cmpTy (c : VCond) (t : Ty) : Bool :=
  match c with
  | .un | .ord => t.laneFloat
  | .tst | .ntst => t.isInt
  | _ => t.laneArith
/-- `.F4` converts with no 64-bit type (R244). -/
def cvtPair (td ts : Ty) : Bool := !((td == .f4 && ts.width == 64) || (ts == .f4 && td.width == 64))
/-- The part of a conversion between two widths (R244). -/
def partOk (ws wd k : Nat) : Bool :=
  if wd < ws then decide (2 * k < ws / wd) else if ws < wd then decide (k < wd / ws) else k == 0
/-- The part of `VCVT`, and vb zero where it is not read (R165, R244). -/
def cvtPart (ts td : Ty) (k : BitVec 3) (b : VReg) : Bool :=
  partOk ts.width td.width k.toNat && (decide (td.width < ts.width) || b.val == 0)
/-- The part of `VPK4` (R245). -/
def pk4Part (ts : Ty) (k : BitVec 3) : Bool := partOk ts.width 4 k.toNat
/-- The part of `VUPK4` (R245). -/
def upk4Part (td : Ty) (k : BitVec 3) : Bool := partOk 4 td.width k.toNat
/-- A slide distance below the element count (R250). -/
def slideOk (t : Ty) (k : BitVec 7) : Bool := decide (k.toNat < elemCount t)
/-- The special-register numbers assigned by R163. -/
def special (n : Nat) : Bool :=
  decide (n ≤ 9) || (decide (0x10 ≤ n) && decide (n ≤ 0x1B)) || (decide (0x20 ≤ n) && decide (n ≤ 0x33))
    || (decide (0x100 ≤ n) && decide (n ≤ 0x14F))

end Machine

end Sys2Proof
end

