-- ==== Sys2Proof/Machine/Effects.lean ====
section
/-!
DEFINITION. What an operation needs of its group (R166 to R168, R175): its class, the words it takes, and the registers it
reads and writes, named in fields or listed as implicit operands by its description.
-/

namespace Sys2Proof.Machine

open Sys2Proof

/-- The classes of R166. -/
inductive Cls where
  | A | M | E | C | Y
  deriving DecidableEq, Repr

/-- A register as R168 tells registers apart. The last-result file is one name, since a push writes all of it (R235);
`brk` is the bit of a bound register that `VST.B` writes (R482, R492). -/
inductive RegName where
  | s (n : Nat) | c (n : Nat) | p (n : Nat) | m (n : Nat) | g (n : Nat) | b (n : Nat) | v (n : Nat) | y | sp (n : Nat)
  | brk (n : Nat)
  deriving DecidableEq, Repr

/-- What R166 to R168 ask of an operation. -/
structure Effects where
  cls : Cls
  words : Nat
  reads : List RegName
  writes : List RegName
  deriving DecidableEq, Repr

/-- A scalar register; `s0` is a constant (R160, R162). -/
def nS (r : SReg) : List RegName := if r.val = 0 then [] else [.s r.val]
/-- The register after it, of a pair (R378). -/
def nNext (r : SReg) : List RegName := [.s (r.val + 1)]
/-- A capability register. -/
def nC (r : CReg) : List RegName := [.c r.val]
/-- A predicate; `p0` is a constant. -/
def nP (r : PReg) : List RegName := if r.val = 0 then [] else [.p r.val]
/-- A mask; `m0` is a constant. -/
def nM (r : MReg) : List RegName := if r.val = 0 then [] else [.m r.val]
/-- A region register. -/
def nG (r : GReg) : List RegName := [.g r.val]
/-- A region register of an optional slot, which `g0` leaves invalid (R261). -/
def nOpt (r : GReg) : List RegName := if r.val = 0 then [] else [.g r.val]
/-- A branch target register. -/
def nB (r : BReg) : List RegName := [.b r.val]
/-- A vector register. -/
def nV (r : VReg) : List RegName := if 608 ≤ r.val then [.y] else [.v r.val]
/-- The predicate of the .NB form (R259). -/
def nNB : NB → List RegName
  | none => []
  | some p => nP p
/-- Every predicate but `p0` (R200). -/
def allPreds : List RegName := (List.range 15).map fun i => .p (i + 1)
/-- A special register named in a field; `%cyc`, the flags and the lane generators are not covered (R168). A bound register
brings its breach bit. -/
def nSpecial (k : Nat) : List RegName := if k = 1 ∨ (3 ≤ k ∧ k ≤ 5) then [] else [.sp k]
/-- The loop counters, any of which a loop may write (R216). -/
def nLoops : List RegName := [.sp 0x14, .sp 0x15, .sp 0x16, .sp 0x17]
/-- The breach bit that comes with a bound register (R492). -/
def nBrk (k : Nat) : List RegName := if 0x100 ≤ k ∧ k < 0x140 then [.brk (k - 0x100)] else []
/-- The destination under a merge mask (R229). -/
def merges (m : MReg) (d : VReg) : List RegName := if m.val = 0 then [] else nV d
/-- What the slot form of `VCVT` reads besides va, judged from `%vt` (R233). -/
def slotCvt (vt : Word) (b d : VReg) : List RegName :=
  let ws := (Ty.ofCode (vt.toNat % 16)).width
  let wd := (Ty.ofCode (vt.toNat / 2 ^ 16 % 16)).width
  (if wd < ws then nV b else []) ++ (if 2 * wd < ws then nV d else [])

/-- Solo and double words. -/
def soloOpEffects : SoloOp → Effects
  | .add d a b => ⟨.A, 1, nS a ++ nS b, nS d⟩
  | .sub d a b => ⟨.A, 1, nS a ++ nS b, nS d⟩
  | .mul d a b => ⟨.A, 1, nS a ++ nS b, nS d⟩
  | .mulh d a b => ⟨.A, 1, nS a ++ nS b, nS d⟩
  | .mulhu d a b => ⟨.A, 1, nS a ++ nS b, nS d⟩
  | .div d a b => ⟨.A, 1, nS a ++ nS b, nS d⟩
  | .divu d a b => ⟨.A, 1, nS a ++ nS b, nS d⟩
  | .rem d a b => ⟨.A, 1, nS a ++ nS b, nS d⟩
  | .remu d a b => ⟨.A, 1, nS a ++ nS b, nS d⟩
  | .and d a b => ⟨.A, 1, nS a ++ nS b, nS d⟩
  | .or d a b => ⟨.A, 1, nS a ++ nS b, nS d⟩
  | .xor d a b => ⟨.A, 1, nS a ++ nS b, nS d⟩
  | .andn d a b => ⟨.A, 1, nS a ++ nS b, nS d⟩
  | .shl d a b => ⟨.A, 1, nS a ++ nS b, nS d⟩
  | .shr d a b => ⟨.A, 1, nS a ++ nS b, nS d⟩
  | .sra d a b => ⟨.A, 1, nS a ++ nS b, nS d⟩
  | .rol d a b => ⟨.A, 1, nS a ++ nS b, nS d⟩
  | .ror d a b => ⟨.A, 1, nS a ++ nS b, nS d⟩
  | .min d a b => ⟨.A, 1, nS a ++ nS b, nS d⟩
  | .max d a b => ⟨.A, 1, nS a ++ nS b, nS d⟩
  | .minu d a b => ⟨.A, 1, nS a ++ nS b, nS d⟩
  | .maxu d a b => ⟨.A, 1, nS a ++ nS b, nS d⟩
  | .adds d a b => ⟨.A, 1, nS a ++ nS b, nS d⟩
  | .subs d a b => ⟨.A, 1, nS a ++ nS b, nS d⟩
  | .addi d a _ => ⟨.A, 1, nS a, nS d⟩
  | .andi d a _ => ⟨.A, 1, nS a, nS d⟩
  | .ori d a _ => ⟨.A, 1, nS a, nS d⟩
  | .xori d a _ => ⟨.A, 1, nS a, nS d⟩
  | .shli d a _ => ⟨.A, 1, nS a, nS d⟩
  | .shri d a _ => ⟨.A, 1, nS a, nS d⟩
  | .srai d a _ => ⟨.A, 1, nS a, nS d⟩
  | .rori d a _ => ⟨.A, 1, nS a, nS d⟩
  | .clz d a => ⟨.A, 1, nS a, nS d⟩
  | .ctz d a => ⟨.A, 1, nS a, nS d⟩
  | .popc d a => ⟨.A, 1, nS a, nS d⟩
  | .brev d a => ⟨.A, 1, nS a, nS d⟩
  | .bswap d a => ⟨.A, 1, nS a, nS d⟩
  | .bilv2 d a b => ⟨.A, 1, nS a ++ nS b, nS d⟩
  | .bilv3 d a b c => ⟨.A, 1, nS a ++ nS b ++ nS c, nS d⟩
  | .bdil2 d a _ => ⟨.A, 1, nS a, nS d⟩
  | .bdil3 d a _ => ⟨.A, 1, nS a, nS d⟩
  | .ext d a _ _ => ⟨.A, 1, nS a, nS d⟩
  | .extz d a _ _ => ⟨.A, 1, nS a, nS d⟩
  | .ins d a _ _ => ⟨.A, 1, nS a ++ nS d, nS d⟩
  | .sel d a b p => ⟨.A, 1, nS a ++ nS b ++ nP p, nS d⟩
  | .fadd _ _ d a b => ⟨.A, 1, nS a ++ nS b, nS d⟩
  | .fsub _ _ d a b => ⟨.A, 1, nS a ++ nS b, nS d⟩
  | .fmul _ _ d a b => ⟨.A, 1, nS a ++ nS b, nS d⟩
  | .fdiv _ _ d a b => ⟨.A, 1, nS a ++ nS b, nS d⟩
  | .fsqrt _ _ d a => ⟨.A, 1, nS a, nS d⟩
  | .fma _ _ d a b c => ⟨.A, 1, nS a ++ nS b ++ nS c, nS d⟩
  | .fmin _ d a b => ⟨.A, 1, nS a ++ nS b, nS d⟩
  | .fmax _ d a b => ⟨.A, 1, nS a ++ nS b, nS d⟩
  | .fcvt _ _ _ d a => ⟨.A, 1, nS a, nS d⟩
  | .fcvti _ _ _ d a => ⟨.A, 1, nS a, nS d⟩
  | .icvtf _ _ _ d a => ⟨.A, 1, nS a, nS d⟩
  | .fclass _ d a => ⟨.A, 1, nS a, nS d⟩
  | .fcmp _ _ p a b => ⟨.A, 1, nS a ++ nS b, nP p⟩
  | .cmp _ p a b => ⟨.A, 1, nS a ++ nS b, nP p⟩
  | .cmpi _ p a _ => ⟨.A, 1, nS a, nP p⟩
  | .pand d a b => ⟨.A, 1, nP a ++ nP b, nP d⟩
  | .por d a b => ⟨.A, 1, nP a ++ nP b, nP d⟩
  | .pxor d a b => ⟨.A, 1, nP a ++ nP b, nP d⟩
  | .pandn d a b => ⟨.A, 1, nP a ++ nP b, nP d⟩
  | .mfp d => ⟨.A, 1, allPreds, nS d⟩
  | .mtp a b => ⟨.A, 1, nS a ++ nS b, allPreds⟩
  | .mfs d sr => ⟨.A, 1, nSpecial sr.toNat ++ nBrk sr.toNat, nS d⟩
  | .mts sr a => ⟨.A, 1, nBrk sr.toNat ++ nS a, nSpecial sr.toNat⟩
  | .cld d a _ => ⟨.M, 1, nS a, nC d⟩
  | .cder d a b c _ => ⟨.A, 1, nC a ++ nS b ++ nS c, nC d⟩
  | .crst d a _ => ⟨.A, 1, nC a, nC d⟩
  | .cnull d => ⟨.A, 1, [], nC d⟩
  | .ld _ _ _ d c a _ => ⟨.M, 1, nC c ++ nS a, nS d⟩
  | .st _ _ _ c a _ d => ⟨.M, 1, nC c ++ nS a ++ nS d, []⟩
  | .ldx _ d a b _ => ⟨.M, 1, nS a ++ nS b, nS d⟩
  | .stx _ a b _ d => ⟨.M, 1, nS a ++ nS b ++ nS d, []⟩
  | .prept b _ => ⟨.A, 1, [], nB b⟩
  | .br b _ => ⟨.C, 1, nB b, []⟩
  | .call b l _ => ⟨.C, 1, nB b, nB l⟩
  | .ret b => ⟨.C, 1, nB b, []⟩
  | .loop a _ => ⟨.C, 1, nS a, nLoops⟩
  | .loopm mb _ => ⟨.C, 1, [.sp (0x20 + mb.val)], [.sp (0x20 + mb.val)] ++ nLoops⟩
  | .loopmK mb _ => ⟨.C, 1, [.sp (0x20 + mb.val)], nLoops⟩
  | .trap _ => ⟨.Y, 1, [], []⟩
  | .eret => ⟨.Y, 1, [], []⟩
  | .sysc _ => ⟨.Y, 1, [.s 1, .s 2, .s 3, .s 4, .s 5, .s 6], [.s 1]⟩
  | .safept _ => ⟨.Y, 1, [], []⟩
  | .wfe _ => ⟨.Y, 1, [], []⟩
  | .brk _ => ⟨.Y, 1, [], []⟩
  | .halt => ⟨.Y, 1, [], []⟩
  | .rvinit _ a => ⟨.Y, 1, nS a, []⟩
  | .rvarrive _ _ d => ⟨.Y, 1, [], nS d⟩
  | .rvwait _ a d => ⟨.Y, 1, nS a, nS d⟩
  | .rvarw _ _ d => ⟨.Y, 1, [], nS d⟩
  | .rvleave _ => ⟨.Y, 1, [], []⟩
  | .rvleaveAll => ⟨.Y, 1, [], []⟩
  | .sigadd _ _ _ d c a b _ => ⟨.M, 1, nC c ++ nS a ++ nS b, nS d⟩
  | .sigset _ _ _ d c a b _ => ⟨.M, 1, nC c ++ nS a ++ nS b, nS d⟩
  | .sigwait _ _ _ d c a b _ => ⟨.Y, 1, nC c ++ nS a ++ nS b, nS d⟩
  | .amoAdd _ _ _ d c a b _ => ⟨.M, 1, nC c ++ nS a ++ nS b, nS d⟩
  | .amoMin _ _ _ d c a b _ => ⟨.M, 1, nC c ++ nS a ++ nS b, nS d⟩
  | .amoMax _ _ _ d c a b _ => ⟨.M, 1, nC c ++ nS a ++ nS b, nS d⟩
  | .amoAnd _ _ _ d c a b _ => ⟨.M, 1, nC c ++ nS a ++ nS b, nS d⟩
  | .amoOr _ _ _ d c a b _ => ⟨.M, 1, nC c ++ nS a ++ nS b, nS d⟩
  | .amoXor _ _ _ d c a b _ => ⟨.M, 1, nC c ++ nS a ++ nS b, nS d⟩
  | .amoXchg _ _ _ d c a b _ => ⟨.M, 1, nC c ++ nS a ++ nS b, nS d⟩
  | .amoCas _ _ _ d c a b _ => ⟨.M, 1, nC c ++ nS a ++ nS b ++ nS d, nS d⟩
  | .amoCas2 _ _ _ d c a b _ => ⟨.M, 1, nC c ++ nS a ++ nS b ++ nS d ++ nNext d ++ nNext b, nS d ++ nNext d⟩
  | .redAdd _ _ _ c a b _ => ⟨.M, 1, nC c ++ nS a ++ nS b, []⟩
  | .redMin _ _ _ c a b _ => ⟨.M, 1, nC c ++ nS a ++ nS b, []⟩
  | .redMax _ _ _ c a b _ => ⟨.M, 1, nC c ++ nS a ++ nS b, []⟩
  | .redAnd _ _ _ c a b _ => ⟨.M, 1, nC c ++ nS a ++ nS b, []⟩
  | .redOr _ _ _ c a b _ => ⟨.M, 1, nC c ++ nS a ++ nS b, []⟩
  | .redXor _ _ _ c a b _ => ⟨.M, 1, nC c ++ nS a ++ nS b, []⟩
  | .fence _ _ => ⟨.Y, 1, [], []⟩
  | .snap d c p => ⟨.Y, 1, nC c, nS d ++ nP p⟩
  | .snapNw d c p => ⟨.Y, 1, nC c, nS d ++ nP p⟩
  | .snapq d c a => ⟨.Y, 1, nC c ++ nS a, nS d⟩
  | .vadd _ _ d a b m => ⟨.A, 1, nV a ++ nV b ++ nM m ++ merges m d, nV d ++ [.y]⟩
  | .vadds _ d a b m => ⟨.A, 1, nV a ++ nV b ++ nM m ++ merges m d, nV d ++ [.y]⟩
  | .vsub _ _ d a b m => ⟨.A, 1, nV a ++ nV b ++ nM m ++ merges m d, nV d ++ [.y]⟩
  | .vsubs _ d a b m => ⟨.A, 1, nV a ++ nV b ++ nM m ++ merges m d, nV d ++ [.y]⟩
  | .vmul _ _ d a b m => ⟨.A, 1, nV a ++ nV b ++ nM m ++ merges m d, nV d ++ [.y]⟩
  | .vfma _ _ d a b m => ⟨.A, 1, nV a ++ nV b ++ nM m ++ nV d, nV d ++ [.y]⟩
  | .vfms _ _ d a b m => ⟨.A, 1, nV a ++ nV b ++ nM m ++ nV d, nV d ++ [.y]⟩
  | .vmin _ d a b m => ⟨.A, 1, nV a ++ nV b ++ nM m ++ merges m d, nV d ++ [.y]⟩
  | .vmax _ d a b m => ⟨.A, 1, nV a ++ nV b ++ nM m ++ merges m d, nV d ++ [.y]⟩
  | .vabs _ d a m => ⟨.A, 1, nV a ++ nM m ++ merges m d, nV d ++ [.y]⟩
  | .vneg _ d a m => ⟨.A, 1, nV a ++ nM m ++ merges m d, nV d ++ [.y]⟩
  | .vand _ d a b m => ⟨.A, 1, nV a ++ nV b ++ nM m ++ merges m d, nV d ++ [.y]⟩
  | .vor _ d a b m => ⟨.A, 1, nV a ++ nV b ++ nM m ++ merges m d, nV d ++ [.y]⟩
  | .vxor _ d a b m => ⟨.A, 1, nV a ++ nV b ++ nM m ++ merges m d, nV d ++ [.y]⟩
  | .vandn _ d a b m => ⟨.A, 1, nV a ++ nV b ++ nM m ++ merges m d, nV d ++ [.y]⟩
  | .vshl _ d a b m => ⟨.A, 1, nV a ++ nV b ++ nM m ++ merges m d, nV d ++ [.y]⟩
  | .vshr _ d a b m => ⟨.A, 1, nV a ++ nV b ++ nM m ++ merges m d, nV d ++ [.y]⟩
  | .vsra _ d a b m => ⟨.A, 1, nV a ++ nV b ++ nM m ++ merges m d, nV d ++ [.y]⟩
  | .vcmp _ _ d a b m => ⟨.A, 1, nV a ++ nV b ++ nM m ++ (if m.val = 0 then [] else nM d), nM d⟩
  | .vsel _ d a b m => ⟨.A, 1, nV a ++ nV b ++ nM m, nV d ++ [.y]⟩
  | .vcvt td ts _ d a b _ m => ⟨.A, 1, nV a ++ nM m ++ (if td.width < ts.width then nV b else []) ++ (if m.val ≠ 0 ∨ 2 * td.width < ts.width then nV d else []), nV d ++ [.y]⟩
  | .vpk4 ts _ d a b _ m => ⟨.A, 1, nV a ++ nV b ++ nM m ++ (if m.val ≠ 0 ∨ 8 < ts.width then nV d else []), nV d ++ [.y]⟩
  | .vupk4 _ _ d a _ m => ⟨.A, 1, nV a ++ nM m ++ merges m d, nV d ++ [.y]⟩
  | .vrcp _ _ d a m => ⟨.A, 1, nV a ++ nM m ++ merges m d, nV d ++ [.y]⟩
  | .vrsq _ _ d a m => ⟨.A, 1, nV a ++ nM m ++ merges m d, nV d ++ [.y]⟩
  | .vexp2 _ _ d a m => ⟨.A, 1, nV a ++ nM m ++ merges m d, nV d ++ [.y]⟩
  | .vlog2 _ _ d a m => ⟨.A, 1, nV a ++ nM m ++ merges m d, nV d ++ [.y]⟩
  | .vsin _ _ d a m => ⟨.A, 1, nV a ++ nM m ++ merges m d, nV d ++ [.y]⟩
  | .vtlu _ _ d a o m => ⟨.A, 1, nV a ++ nV o ++ nM m ++ merges m d ++ [.sp 2], nV d ++ [.y]⟩
  | .vrint _ _ d a m => ⟨.A, 1, nV a ++ nM m ++ merges m d, nV d ++ [.y]⟩
  | .vsett _ _ _ _ => ⟨.A, 1, [], [.sp 2]⟩
  | .vbcst _ d a m => ⟨.A, 1, nS a ++ nM m ++ merges m d, nV d ++ [.y]⟩
  | .vext _ d a b => ⟨.A, 1, nV a ++ nS b, nS d⟩
  | .vins _ d a b => ⟨.A, 1, nS a ++ nS b ++ nV d, nV d ++ [.y]⟩
  | .vperm _ d a b m => ⟨.A, 1, nV a ++ nV b ++ nM m ++ merges m d, nV d ++ [.y]⟩
  | .vsldu _ d a b _ m => ⟨.A, 1, nV a ++ nV b ++ nM m ++ merges m d, nV d ++ [.y]⟩
  | .vsldd _ d a b _ m => ⟨.A, 1, nV a ++ nV b ++ nM m ++ merges m d, nV d ++ [.y]⟩
  | .vcmpr _ d a m => ⟨.A, 1, nV a ++ nM m, nV d ++ [.y]⟩
  | .vxpnd _ d a m => ⟨.A, 1, nV a ++ nM m, nV d ++ [.y]⟩
  | .viota _ d m => ⟨.A, 1, nM m, nV d ++ [.y]⟩
  | .vredSum t d a m => ⟨.A, 1, nV a ++ nM m ++ (if t.isFloat then [.sp 2] else []), nS d⟩
  | .vredMin _ d a m => ⟨.A, 1, nV a ++ nM m, nS d⟩
  | .vredMax _ d a m => ⟨.A, 1, nV a ++ nM m, nS d⟩
  | .vredAnd _ d a m => ⟨.A, 1, nV a ++ nM m, nS d⟩
  | .vredOr _ d a m => ⟨.A, 1, nV a ++ nM m, nS d⟩
  | .vredXor _ d a m => ⟨.A, 1, nV a ++ nM m, nS d⟩
  | .vredSums _ d a m => ⟨.A, 1, nV a ++ nM m, nS d⟩
  | .vany _ d a m => ⟨.A, 1, nM a ++ nM m, nP d⟩
  | .vall _ d a m => ⟨.A, 1, nM a ++ nM m, nP d⟩
  | .vmpop _ d a m => ⟨.A, 1, nM a ++ nM m, nS d⟩
  | .mlogAnd d a b => ⟨.A, 1, nM a ++ nM b, nM d⟩
  | .mlogOr d a b => ⟨.A, 1, nM a ++ nM b, nM d⟩
  | .mlogXor d a b => ⟨.A, 1, nM a ++ nM b, nM d⟩
  | .mlogAndn d a b => ⟨.A, 1, nM a ++ nM b, nM d⟩
  | .mlogNot d a => ⟨.A, 1, nM a, nM d⟩
  | .vld _ d a _ m => ⟨.M, 1, nS a ++ nM m ++ merges m d, nV d ++ [.y]⟩
  | .vst _ a _ v m => ⟨.M, 1, nS a ++ nV v ++ nM m, []⟩
  | .vstB _ a _ v m k => ⟨.M, 1, nS a ++ nV v ++ nM m, [.brk k.val]⟩
  | .mldst nb ga gb sx sy _ _ _ _ => ⟨.E, 1, nG ga ++ nOpt gb ++ nS sx ++ nS sy, nNB nb⟩
  | .mswap nb _ _ => ⟨.E, 1, [], nNB nb⟩
  | .mzero nb ga sy _ _ => ⟨.E, 1, nG ga ++ nS sy, nNB nb⟩
  | .mstream nb ga gb gc sx sy _ _ _ _ => ⟨.E, 1, nG ga ++ nG gb ++ nOpt gc ++ nS sx ++ nS sy, nNB nb⟩
  | .mdrain nb ga gb gc sx sy _ _ _ => ⟨.E, 1, nG ga ++ nG gb ++ nOpt gc ++ nS sx ++ nS sy, nNB nb⟩
  | .mepi nb ga sx sy _ _ => ⟨.E, 1, nG ga ++ nS sx ++ nS sy, nNB nb⟩
  | .smap nb ga gb gc gx sx sy _ _ _ _ => ⟨.E, 1, nG ga ++ nOpt gb ++ nG gc ++ nOpt gx ++ nS sx ++ nS sy, nNB nb⟩
  | .sred nb ga gb sx sy _ _ => ⟨.E, 1, nG ga ++ nOpt gb ++ nS sx ++ nS sy, nNB nb⟩
  | .xpose nb ga gb sx sy _ _ _ => ⟨.E, 1, nG ga ++ nG gb ++ nS sx ++ nS sy, nNB nb⟩
  | .copy nb ga gb sx sy sz sw _ _ => ⟨.E, 1, nG ga ++ nG gb ++ nS sx ++ nS sy ++ nS sz ++ nS sw, nNB nb⟩
  | .gather nb ga gb gc sx sy sz sw _ _ => ⟨.E, 1, nG ga ++ nG gb ++ nG gc ++ nS sx ++ nS sy ++ nS sz ++ nS sw, nNB nb⟩
  | .scatter nb ga gb gc sx sy sz sw _ _ => ⟨.E, 1, nG ga ++ nG gb ++ nG gc ++ nS sx ++ nS sy ++ nS sz ++ nS sw, nNB nb⟩
  | .subscr nb ga gb sx sy sz _ => ⟨.E, 1, nG ga ++ nG gb ++ nS sx ++ nS sy ++ nS sz, nNB nb⟩
  | .ringpop nb ga sx _ => ⟨.E, 1, nG ga ++ nS sx, nNB nb⟩
  | .ringpush nb ga sx _ => ⟨.E, 1, nG ga ++ nS sx, nNB nb⟩
  | .coll nb ga gb sx sy sz _ _ => ⟨.E, 1, nG ga ++ nG gb ++ nS sx ++ nS sy ++ nS sz, nNB nb⟩
  | .postm nb ga sx sy => ⟨.E, 1, nG ga ++ nS sx ++ nS sy, nNB nb ++ nS sx ++ nS sy⟩
  | .postr nb ga sx sy sr _ => ⟨.E, 1, nG ga ++ nS sx ++ nS sy ++ nS sr, nNB nb ++ nS sr ++ nS sx⟩
  | .bundle => ⟨.E, 1, [], []⟩
  | .bend => ⟨.E, 1, [], []⟩
  | .guard nb k ga gb gc gd ge gf => ⟨.E, 1, nG ga ++ nOpt gb ++ nOpt gc ++ nOpt gd ++ nOpt ge ++ nOpt gf ++ [.sp (0x140 + k.val)], nNB nb⟩
  | .gcheck => ⟨.E, 1, [], []⟩
  | .gexact => ⟨.E, 1, [], []⟩
  | .gend => ⟨.E, 1, [], []⟩
  | .tstart nb ga => ⟨.E, 1, nOpt ga, nNB nb⟩
  | .rgld _ _ d c a b _ => ⟨.M, 1, nC c ++ nS a ++ nS b, nG d⟩
  | .twait _ => ⟨.Y, 1, [], []⟩
  | .li d _ => ⟨.A, 2, [], nS d⟩
  | .addl d a _ => ⟨.A, 2, nS a, nS d⟩
  | .andl d a _ => ⟨.A, 2, nS a, nS d⟩
  | .orl d a _ => ⟨.A, 2, nS a, nS d⟩
  | .xorl d a _ => ⟨.A, 2, nS a, nS d⟩
  | .cmpl _ p a _ => ⟨.A, 2, nS a, nP p⟩
  | .ldl _ _ _ d c a _ => ⟨.M, 2, nC c ++ nS a, nS d⟩
  | .stl _ _ _ c a _ d => ⟨.M, 2, nC c ++ nS a ++ nS d, []⟩
  | .rgset d _ => ⟨.A, 2, [], nG d⟩
  | .vli d _ => ⟨.A, 2, [], nV d ++ [.y]⟩

/-- Slots of a pair word. -/
def slotOpEffects (vt : Word) : SlotOp → Effects
  | .snop => ⟨.A, 1, [], []⟩
  | .addSlot d a b => ⟨.A, 1, nS a ++ nS b, nS d⟩
  | .subSlot d a b => ⟨.A, 1, nS a ++ nS b, nS d⟩
  | .andSlot d a b => ⟨.A, 1, nS a ++ nS b, nS d⟩
  | .orSlot d a b => ⟨.A, 1, nS a ++ nS b, nS d⟩
  | .xorSlot d a b => ⟨.A, 1, nS a ++ nS b, nS d⟩
  | .andnSlot d a b => ⟨.A, 1, nS a ++ nS b, nS d⟩
  | .shlSlot d a b => ⟨.A, 1, nS a ++ nS b, nS d⟩
  | .shrSlot d a b => ⟨.A, 1, nS a ++ nS b, nS d⟩
  | .sraSlot d a b => ⟨.A, 1, nS a ++ nS b, nS d⟩
  | .minSlot d a b => ⟨.A, 1, nS a ++ nS b, nS d⟩
  | .maxSlot d a b => ⟨.A, 1, nS a ++ nS b, nS d⟩
  | .minuSlot d a b => ⟨.A, 1, nS a ++ nS b, nS d⟩
  | .maxuSlot d a b => ⟨.A, 1, nS a ++ nS b, nS d⟩
  | .mulSlot d a b => ⟨.A, 1, nS a ++ nS b, nS d⟩
  | .addiSlot d a _ => ⟨.A, 1, nS a, nS d⟩
  | .shliSlot d a _ => ⟨.A, 1, nS a, nS d⟩
  | .shriSlot d a _ => ⟨.A, 1, nS a, nS d⟩
  | .sraiSlot d a _ => ⟨.A, 1, nS a, nS d⟩
  | .cmpEqSlot p a b => ⟨.A, 1, nS a ++ nS b, nP p⟩
  | .cmpNeSlot p a b => ⟨.A, 1, nS a ++ nS b, nP p⟩
  | .cmpLtSlot p a b => ⟨.A, 1, nS a ++ nS b, nP p⟩
  | .cmpLtuSlot p a b => ⟨.A, 1, nS a ++ nS b, nP p⟩
  | .cmpGeSlot p a b => ⟨.A, 1, nS a ++ nS b, nP p⟩
  | .cmpGeuSlot p a b => ⟨.A, 1, nS a ++ nS b, nP p⟩
  | .cmpiEqSlot p a _ => ⟨.A, 1, nS a, nP p⟩
  | .pandSlot d a b => ⟨.A, 1, nP a ++ nP b, nP d⟩
  | .porSlot d a b => ⟨.A, 1, nP a ++ nP b, nP d⟩
  | .pxorSlot d a b => ⟨.A, 1, nP a ++ nP b, nP d⟩
  | .pandnSlot d a b => ⟨.A, 1, nP a ++ nP b, nP d⟩
  | .vnop => ⟨.A, 1, [], []⟩
  | .vmov d a => ⟨.A, 1, nV a, nV d ++ [.y]⟩
  | .vaddSlot d a b => ⟨.A, 1, nV a ++ nV b ++ [.sp 2], nV d ++ [.y]⟩
  | .vsubSlot d a b => ⟨.A, 1, nV a ++ nV b ++ [.sp 2], nV d ++ [.y]⟩
  | .vmulSlot d a b => ⟨.A, 1, nV a ++ nV b ++ [.sp 2], nV d ++ [.y]⟩
  | .vfmaSlot d a b => ⟨.A, 1, nV a ++ nV b ++ nV d ++ [.sp 2], nV d ++ [.y]⟩
  | .vfmsSlot d a b => ⟨.A, 1, nV a ++ nV b ++ nV d ++ [.sp 2], nV d ++ [.y]⟩
  | .vminSlot d a b => ⟨.A, 1, nV a ++ nV b ++ [.sp 2], nV d ++ [.y]⟩
  | .vmaxSlot d a b => ⟨.A, 1, nV a ++ nV b ++ [.sp 2], nV d ++ [.y]⟩
  | .vabsSlot d a => ⟨.A, 1, nV a ++ [.sp 2], nV d ++ [.y]⟩
  | .vnegSlot d a => ⟨.A, 1, nV a ++ [.sp 2], nV d ++ [.y]⟩
  | .vandSlot d a b => ⟨.A, 1, nV a ++ nV b ++ [.sp 2], nV d ++ [.y]⟩
  | .vorSlot d a b => ⟨.A, 1, nV a ++ nV b ++ [.sp 2], nV d ++ [.y]⟩
  | .vxorSlot d a b => ⟨.A, 1, nV a ++ nV b ++ [.sp 2], nV d ++ [.y]⟩
  | .vandnSlot d a b => ⟨.A, 1, nV a ++ nV b ++ [.sp 2], nV d ++ [.y]⟩
  | .vshlSlot d a b => ⟨.A, 1, nV a ++ nV b ++ [.sp 2], nV d ++ [.y]⟩
  | .vshrSlot d a b => ⟨.A, 1, nV a ++ nV b ++ [.sp 2], nV d ++ [.y]⟩
  | .vsraSlot d a b => ⟨.A, 1, nV a ++ nV b ++ [.sp 2], nV d ++ [.y]⟩
  | .vrcpSlot d a => ⟨.A, 1, nV a ++ [.sp 2], nV d ++ [.y]⟩
  | .vrsqSlot d a => ⟨.A, 1, nV a ++ [.sp 2], nV d ++ [.y]⟩
  | .vexp2Slot d a => ⟨.A, 1, nV a ++ [.sp 2], nV d ++ [.y]⟩
  | .vlog2Slot d a => ⟨.A, 1, nV a ++ [.sp 2], nV d ++ [.y]⟩
  | .vsinSlot d a => ⟨.A, 1, nV a ++ [.sp 2], nV d ++ [.y]⟩
  | .vrintSlot d a => ⟨.A, 1, nV a ++ [.sp 2], nV d ++ [.y]⟩
  | .vcmpEqSlot d a b => ⟨.A, 1, nV a ++ nV b ++ [.sp 2], nM d⟩
  | .vcmpNeSlot d a b => ⟨.A, 1, nV a ++ nV b ++ [.sp 2], nM d⟩
  | .vcmpLtSlot d a b => ⟨.A, 1, nV a ++ nV b ++ [.sp 2], nM d⟩
  | .vcmpLeSlot d a b => ⟨.A, 1, nV a ++ nV b ++ [.sp 2], nM d⟩
  | .vslduSlot d a b => ⟨.A, 1, nV a ++ nV b ++ [.sp 2], nV d ++ [.y]⟩
  | .vslddSlot d a b => ⟨.A, 1, nV a ++ nV b ++ [.sp 2], nV d ++ [.y]⟩
  | .vpermSlot d a b => ⟨.A, 1, nV a ++ nV b ++ [.sp 2], nV d ++ [.y]⟩
  | .vtluSlot d a b => ⟨.A, 1, nV a ++ nV b ++ [.sp 2], nV d ++ [.y]⟩
  | .vcvtSlot d a b => ⟨.A, 1, nV a ++ slotCvt vt b d ++ [.sp 2], nV d ++ [.y]⟩
  | .vaddsSlot d a b => ⟨.A, 1, nV a ++ nV b ++ [.sp 2], nV d ++ [.y]⟩
  | .vsubsSlot d a b => ⟨.A, 1, nV a ++ nV b ++ [.sp 2], nV d ++ [.y]⟩

/-- Any operation, under the `%vt` that stands as its group issues. -/
def opEffects (vt : Word) : Op → Effects
  | .solo o => soloOpEffects o
  | .slot o => slotOpEffects vt o

end Sys2Proof.Machine
end

