-- ==== Sys2Proof/Config.lean ====
section
/-!
DEFINITION. What the manual leaves to the implementation, to physics or to the world outside the package: constants
without a body, so that no proof can see a value.
-/

namespace Sys2Proof.Config

/-- Cycles a group waits beyond its own, by the count of free values drawn (R183, R202): timing is left open. -/
opaque stallCycles : Nat → BitVec 64

/-- A value the manual leaves open, by the count of free values drawn. -/
opaque freeValue : Nat → BitVec 64

/-- The 96 signature bytes of R137 under the attestation key, which the firmware measured in `MEAS0` fixes. -/
opaque attestSign : BitVec 384 → BitVec 384 → BitVec 768

/-- The key hash in the fuses (R135). -/
opaque keyHash : BitVec 384

/-- The fuse counter (R135). -/
opaque fuseCounter : BitVec 32

/-- Two keys from the on-die generator, by the count of free values drawn (R95). -/
opaque tenantKeys : Nat → BitVec 512

/-- A byte of host memory that the device has not written, by host address and count of free values drawn (R122,
R376): the host writes its own memory at will. -/
opaque hostByte : Nat → Nat → Byte

/-- The bytes of a section of a saved context whose inner layout R450 leaves open, by section and count of free values drawn. -/
opaque imageSection : Nat → Nat → List Byte

end Sys2Proof.Config
end

