-- ==== Sys2Proof/Machine/SMap.lean ====
section
/-!
DEFINITION. The one container of the state: a map from numbers to values that holds a default wherever it
lists nothing. Canonical form: keys strictly rising, no entry equal to the default, so that equal contents
are equal data. Register files, scratchpad rows, accumulator entries and device memory (a list of Host.Cell)
are all of this form.
-/

namespace Sys2Proof

/-- A map from numbers to values, as a list of pairs. -/
abbrev SMap (α : Type) := List (Nat × α)

namespace SMap

variable {α : Type}

/-- The value at a key; `d` where nothing is listed. -/
def get (d : α) : SMap α → Nat → α
  | [], _ => d
  | (k, v) :: r, n => if n = k then v else get d r n

/-- The list without any entry for a key. -/
def drop : SMap α → Nat → SMap α
  | [], _ => []
  | (k, v) :: r, n => if n = k then drop r n else (k, v) :: drop r n

/-- An entry put before the first entry with a greater key. -/
def place : SMap α → Nat → α → SMap α
  | [], n, v => [(n, v)]
  | (k, w) :: r, n, v => if n < k then (n, v) :: (k, w) :: r else (k, w) :: place r n v

/-- The map with one key changed. Writing the default removes the entry. -/
def put [DecidableEq α] (d : α) (m : SMap α) (n : Nat) (v : α) : SMap α :=
  if v = d then drop m n else place (drop m n) n v

/-- Canonical form above a bound: every key is above `lo`, keys rise, no entry is the default. -/
def wfFrom [DecidableEq α] (d : α) : Option Nat → SMap α → Bool
  | _, [] => true
  | lo, (k, v) :: r => (match lo with | none => true | some b => decide (b < k)) && decide (v ≠ d) && wfFrom d (some k) r

/-- Canonical form. -/
def wf [DecidableEq α] (d : α) (m : SMap α) : Bool := wfFrom d none m

/-- The keys listed. -/
def keys (m : SMap α) : List Nat := m.map Prod.fst

/-- The map without the entries whose key satisfies `p`. -/
def without (m : SMap α) (p : Nat → Bool) : SMap α := m.filter fun e => !p e.1

/-- The entries with keys from `lo` up to `lo + len`. -/
def window (m : SMap α) (lo len : Nat) : SMap α := m.filter fun e => decide (lo ≤ e.1) && decide (e.1 < lo + len)

/-- Entries given in rising order, as a map. -/
def ofRising [DecidableEq α] (d : α) (es : List (Nat × α)) : SMap α := es.filter fun e => e.2 ≠ d

/-- A map with entries given in rising order put over it. -/
def merge [DecidableEq α] (d : α) : SMap α → List (Nat × α) → SMap α
  | [], es => ofRising d es
  | (k, v) :: r, es =>
    let before := es.takeWhile fun e => decide (e.1 < k)
    match es.dropWhile fun e => decide (e.1 < k) with
    | [] => ofRising d before ++ (k, v) :: r
    | e :: es' => if e.1 = k then ofRising d (before ++ [e]) ++ merge d r es' else ofRising d before ++ (k, v) :: merge d r (e :: es')

/-- A run of values put at rising keys. -/
def putList [DecidableEq α] (d : α) (m : SMap α) (n : Nat) (vs : List α) : SMap α := merge d m (vs.zipIdx.map fun x => (n + x.2, x.1))

/-- `len` values from a key upward. -/
def getList (d : α) (m : SMap α) (n len : Nat) : List α :=
  let w := window m n len
  (List.range len).map fun i => get d w (n + i)

/-- Changes the value at a key by a function. -/
def upd [DecidableEq α] (d : α) (m : SMap α) (n : Nat) (f : α → α) : SMap α := put d m n (f (get d m n))

end SMap

end Sys2Proof
end

