-- ==== Sys2Proof/Machine/State.lean ====
section
/-!
DEFINITION. The state of one package as plain data: everything the manual gives the machine, named as the manual
names it, in the order of INVENTORY.md. Sparse maps (`SMap`) hold their default for every key they do not list.
-/

namespace Sys2Proof.Machine

open Sys2Proof

/-- A capability, R19. -/
abbrev Cap := BitVec 128

/-- The null capability, R19. -/
def nullCap : Cap := 0

/-! ### The thread of a core -/

/-- What the thread of a core does. -/
inductive RunState where
  /-- no team's thread is on the core -/
  | idle
  /-- fetching and issuing groups -/
  | running
  /-- after `HALT`, R225 -/
  | halted
  /-- stopped by `BRK` for the debug port, R224, R517 -/
  | broken
  /-- stopped for a save: at a safe point with its live map, or forced (R446) -/
  | stopped (map : Option (BitVec 12))
  deriving DecidableEq, Repr

/-- A hardware-loop level, R216: start and end word offsets and passes left. -/
structure Loop where
  start : BitVec 48
  last : BitVec 48
  count : Word
  deriving DecidableEq, Repr

/-- The arrival mark of `RVARW`, R391. -/
structure Mark where
  pt : Nat
  phase : BitVec 32
  pc : BitVec 48
  deriving DecidableEq, Repr

/-- An outstanding arrival or leave at a rendezvous point, R390, R392: the phase arrived at, the engines counted
by its mask with the posts and the unresolved units made before it (sequence numbers), the access-unit operations it
follows, and whether it is registered. -/
structure Arrival where
  pt : Nat
  leave : Bool
  phase : BitVec 32
  mask : BitVec 6
  counted : List (BitVec 32)
  units : List (BitVec 32)
  after : Nat
  registered : Bool
  deriving DecidableEq, Repr

/-- The scalar, capability, predicate, mask, region, branch-target and vector registers, R160. -/
structure Regs where
  s : SMap Word
  c : SMap Cap
  p : BitVec 16
  m : SMap Mask
  g : SMap Word
  b : SMap (BitVec 48)
  v : SMap Row
  deriving DecidableEq, Repr

/-- The reset value of a bound register, R478. -/
def bndReset : Word := 0x7F80000FF80000D0

/-- The special registers a context saves or a partition resets, R163. -/
structure Specials where
  cyc : Word
  vt : Word
  fflags : FFlags
  aflags : BitVec 4
  rngl : BitVec 32
  rnge : BitVec 32
  gens : List (BitVec 32)
  gfail : Word
  stgmap : Word
  bpend : Word
  loops : List Loop
  tmrank : BitVec 5
  tmsize : BitVec 6
  tmid : BitVec 24
  tmcount : BitVec 24
  mb : SMap Word
  bnd : SMap Word
  gt : SMap Word
  epc : BitVec 48
  ecause : BitVec 23
  einfo : Word
  evec : Word
  deriving DecidableEq, Repr

/-- What the thread waits in, where the wait itself is state: `WFE` with its mask and whether a mailbox rose
since issue (R223), `SYSC` with its service (R221), `SIGWAIT` with the operation that reads its word (R384),
`SNAP` for the cut it has asked for (R459), `POSTM` at a record that a task is still writing, with its cursor and limit
registers, the limit, the records posted and the cursor (R296). Every other wait is a group that has not issued. -/
inductive Wait where
  | none
  | wfe (mask : BitVec 16) (rose : Bool)
  | sysc (service : BitVec 16)
  | sigwait (id : Nat)
  | snap
  | postm (sx sy : SReg) (lim n : Nat) (cur : Word)
  deriving DecidableEq, Repr

/-! ### Traps -/

/-- How a trap is delivered, R430. -/
inductive Delivery where
  | precise | afterIssue | after | engine | boundary
  deriving DecidableEq, Repr

/-- A trap that waits to be taken or is being taken, R426 to R430. `resume` is the offset R430 gives `%epc`;
`report` is the MMX report and `record` the task's record, where there is one (R429). -/
structure Trap where
  delivery : Delivery
  cause : BitVec 8
  reason : BitVec 8
  word : BitVec 2
  remote : Bool
  info : Word
  seq : BitVec 32
  report : List Word
  record : List Word
  /-- groups have issued since the one that caused it -/
  late : Bool
  deriving DecidableEq, Repr

/-! ### The decoupled access unit -/

/-- What an operation of the access unit does at its port, R206, R294, R379, R383, R384. A fence accesses nothing: it
stands in the queue for the pairs it orders (R385); a reduction stands here only in a pending set (R366, R430). -/
inductive AccKind where
  | load (t : Ty) (d : SReg)
  | loadRegion (d : GReg)
  | store
  | rmw (op : RmwOp) (t : Ty) (d : SReg)
  | wait (t : Ty) (b : Word) (d : SReg)
  | fence
  | red (op : RmwOp) (t : Ty)
  deriving DecidableEq, Repr

/-- Where an operation of the access unit stands. -/
inductive AccPhase where
  /-- in the queue, R438 -/
  | queued
  /-- entered in the active-region directory, R362 -/
  | entered
  /-- on its way to a port or a flow, R352, R353 -/
  | sent
  /-- met a page fault at its port, where the unit halts, and not performed since, R353, R438 -/
  | paged
  /-- performed; a load's value has not been written to its register -/
  | performed
  deriving DecidableEq, Repr

/-- An operation with its captured operands, R438. `id` rises with issue; `rank` is its place in the order that R352
keeps, which differs from `id` only for operations that a handler's return puts back (R433); `grp` numbers the group,
`word` its word. `data` is B, `cmp` is D of R379. -/
structure AccOp where
  id : Nat
  rank : Nat
  grp : Nat
  word : BitVec 2
  kind : AccKind
  cap : Cap
  addr : Nat
  len : Nat
  ord : Ord
  scope : Scope
  data : BitVec 128
  cmp : BitVec 128
  stamp : Word
  phase : AccPhase
  result : BitVec 128
  deriving DecidableEq, Repr

/-- An entry of the combining buffer, R380, with the group and the word of the `RED` that made it; `joined` lists the groups
of the reductions combined into it. -/
structure RedEntry where
  id : Nat
  rank : Nat
  grp : Nat
  joined : List Nat
  word : BitVec 2
  op : RmwOp
  t : Ty
  cap : Cap
  addr : Nat
  len : Nat
  scope : Scope
  ord : Ord
  data : BitVec 64
  made : Nat
  entered : Bool
  flushing : Bool
  sent : Bool
  stamp : Word
  deriving DecidableEq, Repr

/-! ### The window -/

/-- The states of an entry, R292. Free entries are not listed, Reserved ones are the captured records of a unit,
and Ready is a waiting entry for which every condition of R307 holds. -/
inductive EState where
  | waiting | queued | executing | completed | unit
  deriving DecidableEq, Repr

/-- A party a record depends on, R300: an entry or an unresolved unit, by sequence number, or the held boxes of a
segment. A write-after-read dependence names the read boxes of an entry, which may stay as held boxes (R319). -/
inductive Party where
  | entry (seq : BitVec 32)
  | reads (seq : BitVec 32)
  | unit (seq : BitVec 32)
  | held (segment : Nat)
  deriving DecidableEq, Repr

/-- Bytes of a copy's walk that are one run on either side: the first byte's number, where the run begins and its length (R326). -/
structure CopyRun where
  walk : Nat
  src : Nat
  dst : Nat
  len : Nat
  deriving DecidableEq, Repr

/-- How far an engine has come with a task, R439, R450: a walk byte, a row, an item, a step; `redo` counts the
replays of R445; `running` is an `SRED`'s value; `recs`, `guard` and `clamp` hold the records and the guard word as read at the
start (R74, R80). `begun` says that the task has started on its engine, `fin` that all its work is done, and `lim` is
the walk byte at which the chunk of a copy ends; `plan` holds the runs of the chunk, and `exts` one more than the extent that it has
translated on either side (R331); `idx` is the index entry of the element that the walk is at (R327). -/
structure Progress where
  at' : Nat
  lim : Nat
  begun : Bool
  fin : Bool
  redo : Nat
  running : FVal
  recs : List Bytes
  clamp : Option Nat
  guard : Option Nat
  plan : List CopyRun
  exts : Nat × Nat
  idx : Option (Nat × Int)
  deriving DecidableEq, Repr

/-- A record with the capabilities captured at post, R39: boxes 0-5, guard word, word 9, word 10. -/
structure Posted where
  words : List Word
  caps : List Cap
  deriving DecidableEq, Repr

/-- An entry of the window, R288 to R292, R302. `tr` is the translation by logical row, as a physical row plus one; `wtr`
gives the rows of write boxes that take a new physical row (R304, R314), likewise; `defer` lists the rows whose translation
an unresolved unit fixes (R316), with the unit. `seg` is the segment it started in (R319), `poster` the team of this chip that posted it from another window
(R406), `origin` the host record of a
collective step (R114); `after` counts the access-unit operations of earlier groups (R354); `binds` are the ring items the
entry is bound to: ring, push side, item (R342). -/
structure Entry where
  seq : BitVec 32
  post : Posted
  state : EState
  settled : Bool
  aged : Bool
  remote : Bool
  poster : Option Nat
  origin : Option (Nat × Nat × BitVec 32)
  deps : List Party
  tr : SMap Nat
  wtr : SMap Nat
  defer : List (Nat × BitVec 32)
  seg : Option Nat
  after : Nat
  binds : List (Nat × Bool × Nat)
  fault : Option TaskFault
  report : List Word
  prog : Progress
  deriving DecidableEq, Repr

/-- The boxes of a retired record of a retained segment, R319. -/
structure Held where
  segment : Nat
  entry : Entry
  deriving DecidableEq, Repr

/-- A set of cells, R37: rows and columns of the scratchpad, entries of a tile, or granules of an object here or on
another chip. -/
inductive Cells where
  | sp (rowLo rowCnt colLo colCnt : Nat)
  | acc (tile rowLo rowCnt colLo colCnt : Nat)
  | hbm (obj lo cnt : Nat)
  | rem (chip obj lo cnt : Nat)
  deriving DecidableEq, Repr

/-- A footprint with how it is used and the slot it comes from. -/
structure Foot where
  cells : Cells
  reads : Bool
  writes : Bool
  slot : Option Nat
  deriving DecidableEq, Repr

/-- A guarded unit, R83 to R86, R311 to R317. -/
structure GUnit where
  guardSeq : BitVec 32
  /-- 1 surrogate, 2 check, 3 exact, 0 after `GEND` -/
  sect : Nat
  promise : Nat
  /-- speculative rows: logical row, and physical row plus one -/
  spec : SMap Nat
  /-- boxes of the surrogate and check records -/
  feet : List Foot
  captured : List Posted
  /-- residual deliveries: the delivering task, whether it is maximal, the value (R484) -/
  deliveries : List (BitVec 32 × Bool × FVal)
  breach : Bool
  discarded : Bool
  failed : Bool
  /-- the exact records posted at its failure -/
  exacts : List (BitVec 32)
  deriving DecidableEq, Repr

/-- An open bundle, R81: its records so far and its head. -/
structure Bundle where
  count : Nat
  head : Option (BitVec 32)
  deriving DecidableEq, Repr

/-- The posting context and the window of a core: `rres` is its `SBCFG` (R288), `cwcfg` its `CWCFG` and `depths` what of it
is in effect, by channel (R413). -/
structure Board where
  nextSeq : BitVec 32
  entries : List Entry
  held : List Held
  bundle : Option Bundle
  units : List GUnit
  rres : BitVec 9
  cwcfg : Word
  depths : Word
  stalledReported : Bool
  deriving DecidableEq, Repr

/-! ### The engines and the scratchpad of a core -/

/-- A stationary plane, R265: cell (p, c) at key 128p + c, scale (block, c) at key 128 block + c. -/
structure Plane where
  ty : Option Ty
  mx : Bool
  np : Nat
  nc : Nat
  cells : SMap (BitVec 16)
  scales : SMap Byte
  loaded : Bool
  borrowed : Bool
  deriving DecidableEq, Repr

/-- A plane at the start of a team, R265. -/
def Plane.initial : Plane := ⟨none, false, 0, 0, [], [], false, false⟩

/-- The retained segment of the matrix queue, R319, R443, R444: its number, the records started since the marker in
start order, whether it is retained, the replays done, and the marker's snapshot of selector, tile modes,
integer-saturation bits and plane metadata. -/
structure Segment where
  num : Nat
  started : List Entry
  retained : Bool
  replays : Nat
  selector : Bool
  modes : BitVec 4
  isat : BitVec 4
  plane0 : Plane
  plane1 : Plane
  deriving DecidableEq, Repr

/-- A rectangle of accumulator entries, R34. -/
structure TileBox where
  tile : Nat
  rowLo : Nat
  rowCnt : Nat
  colLo : Nat
  colCnt : Nat
  deriving DecidableEq, Repr

/-- The checkpoint buffer, R443: the box, the tile's mode and the entries, by key 128 i + j of the tile. -/
structure Checkpoint where
  box : TileBox
  integer : Bool
  entries : SMap (BitVec 56)
  deriving DecidableEq, Repr

/-- What a started record of the segment did to a tile, in order: its box and whether it was an `MZERO` (R443). -/
structure SegWrite where
  seq : BitVec 32
  box : TileBox
  zero : Bool
  deriving DecidableEq, Repr

/-- A tide ring of the core, R339 to R347: its mode (0 flood, 1 ebb, 2 relay), the slots, their height in rows, the
items, the pop and push counts, the slot box, the `SUBSCR`, the items its tide engine has filled or drained, whether
the `SUBSCR` has started, and the loop-nest record it then read. -/
structure Ring where
  mode : Nat
  slots : Nat
  height : Nat
  items : Nat
  pops : Nat
  pushes : Nat
  box : Word
  seq : BitVec 32
  tide : Nat
  started : Bool
  nest : Bytes
  deriving DecidableEq, Repr

/-- A request of a copy channel in flight, R332: the bytes of the walk it carries, the offset or scratchpad address of
either side, its message where one side is
remote (R402), the bytes a remote read has returned, and whether its response has come. -/
structure CopyReq where
  tag : Nat
  chan : Nat
  walk : Nat
  len : Nat
  src : Nat
  dst : Nat
  flow : Option (FlowId × BitVec 32)
  data : Option Bytes
  answered : Bool
  deriving DecidableEq, Repr

/-- The engines and arrays of a core. -/
structure Engines where
  rows : SMap Row
  rowMap : SMap Nat
  acc : SMap (BitVec 56)
  modes : BitVec 4
  plane0 : Plane
  plane1 : Plane
  selector : Bool
  checkpoint : Option Checkpoint
  drainStore : SMap (List (BitVec 32))
  streamStore : SMap (List (BitVec 32))
  streamGens : List (BitVec 32)
  drainGens : List (BitVec 32)
  segment : Segment
  segWrites : List SegWrite
  queues : SMap (List (BitVec 32))
  nextId : SMap (BitVec 32)
  cpl : SMap (BitVec 32)
  doneIds : List (Nat × BitVec 32)
  rings : SMap (Option Ring)
  copyReqs : List CopyReq
  copyTurn : Nat
  retention : Bool
  bad : List EngWord
  deriving DecidableEq, Repr

/-- Where accesses to an object go, R373: device memory of this chip, another chip through its logical ID with the
object's id there, or host memory over PCIe at a host address. -/
inductive Route where
  | local
  | peer (chip obj : Nat)
  | host (addr : Nat)
  deriving DecidableEq, Repr

/-! ### A core -/

/-- What one group leaves to its end, R57, R56, R170, R216: the flags its operations raise, an explicit write of
`%fflags`, the bits of `%aflags` it clears, a write of `%rngl`, the next group where the group itself names it, whether it holds a branch, how many
entries of the window its memory operations stall on (a post of the group itself is no footprint for it, R291), the
access-unit operations that precede the group (R354), the word of the operation at hand, and whether a `VST.B` of the
group has breached (R490). -/
structure GroupAcc where
  flags : FFlags
  setFlags : Option FFlags
  clrAflags : BitVec 4
  seed : Option (BitVec 32)
  jump : Option (BitVec 48)
  branched : Bool
  base : Option Nat
  opBase : Option Nat
  word : Nat
  breached : Bool
  deriving DecidableEq, Repr

/-- Nothing collected: what stands between groups. -/
def GroupAcc.empty : GroupAcc := ⟨0, none, 0, none, none, false, none, none, 0, false⟩

/-- Records of one `POSTR` in the outbound post buffer (R406): the destination's logical chip and core, the flow's
order bit, the message, the operations it follows, and its flow and number once it has left. -/
structure OutPost where
  lid : Nat
  core : Nat
  ordered : Bool
  msg : PostMsg
  after : Nat
  sent : Option (FlowId × BitVec 32)
  deriving DecidableEq, Repr

/-- A core: its thread, its access unit, its window and its engines. -/
structure Core where
  run : RunState
  wait : Wait
  frozen : List Master
  frozenTraps : List (Master × Trap)
  /-- frozen masters that firmware has been told of, R437 -/
  told : List Master
  team : Option Nat
  rank : Nat
  pc : BitVec 48
  entryOff : BitVec 48
  fetchCap : Cap
  /-- the code as the team sees it, by offset, and the extents of which that is known, R157 -/
  code : SMap Byte
  codeExts : List Nat
  /-- the lines of the instruction cache, newest first, R2, R157 -/
  codeLines : List Nat
  grp : GroupAcc
  /-- the pending transfer is a `BR`, which ends the loops it leaves (R218); and its value while a handler runs -/
  brEnds : Bool
  savedBrEnds : Bool
  regs : Regs
  sp : Specials
  stamp : Word
  preemptAsked : Bool
  preemptForced : Bool
  waitingTrap : Option Trap
  asyncTraps : List Trap
  pendingSet : List AccOp
  /-- the operations that precede the handler at hand, R353, R430 -/
  trapOp : Nat
  pendingTask : Option (BitVec 32)
  arrivals : List Arrival
  mark : Option Mark
  /-- writes of mailboxes by `MTS`: the mailbox and the operations before the write, R354 -/
  mbEdges : List (Nat × Nat)
  acc : List AccOp
  accHalted : Bool
  nextOp : Nat
  groups : Nat
  reds : List RedEntry
  /-- objects whose route the core knows, newest first, R375 -/
  routeCache : List (Nat × Option Route)
  outPosts : List OutPost
  /-- in the image of a member saved at a safe point, the physical rows it lists, R448, R450 -/
  savedRows : List Nat
  board : Board
  eng : Engines
  deriving DecidableEq, Repr

/-! ### Device memory -/

/-- An extent of an object, R15: its frame, or none; whether it is migrating and to which frame (R440). -/
structure Extent where
  frame : Option Nat
  migrating : Option Nat
  deriving DecidableEq, Repr

/-- An object-table entry, R15, R120. -/
structure Obj where
  tenant : Nat
  size : Nat
  stackMask : BitVec 12
  route : Route
  exts : SMap Extent
  deriving DecidableEq, Repr

/-- A write taken into a hold buffer during a migration, R440. -/
structure HeldWrite where
  obj : Nat
  off : Nat
  data : Bytes
  stamp : Word
  deriving DecidableEq, Repr

/-- An entry of an active-region directory, R361. `party` numbers the later party that made it: a task by its
post sequence number, a scalar access or a reduction by its operation number. -/
structure DirEntry where
  stack : Nat
  chip : Nat
  core : Nat
  obj : Nat
  lo : Nat
  hi : Nat
  writes : Bool
  marked : Bool
  task : Bool
  held : Bool
  party : Nat
  tag : Word
  deriving DecidableEq, Repr

/-- A grain of the frozen stratum whose object has been destroyed, R120: its tenant, object and number, and where it stands. -/
structure KeptGrain where
  tenant : Nat
  obj : Nat
  grain : Nat
  phys : Nat
  deriving DecidableEq, Repr

/-- A grain that a write redirected, R464: the frozen content's place and the new one, by grain number of HBM. -/
structure Redirect where
  obj : Nat
  grain : Nat
  old : Nat
  new : Nat
  deriving DecidableEq, Repr

/-! ### Launch -/

/-- A record consumed from a queue, R108 to R110: its index, its sixteen words, and once it has completed its
status, result and the value of word 13. `begun` says that its kind's work has been taken up, `finished` that its completion
has been written and released; `caps` are the table entries that a service or a snapshot record names, as its consumption read them (R103),
and `moved` the bytes that a copy has moved (R122). -/
structure HostRec where
  idx : BitVec 32
  words : List Word
  /-- what the front end writes into word 12, R461 -/
  word12 : Option Word
  begun : Bool
  outcome : Option (BitVec 8 × BitVec 32 × Option Word)
  finished : Bool
  caps : List (Nat × Cap)
  moved : Nat
  deriving DecidableEq, Repr

/-- A host queue, R99: the registers and the records consumed and not yet passed by `HQDONE`. `tried` says that the slot at
the head has been read unsealed (R107), `waitRec` is the signal wait that holds consumption (R115), `cached` the records the
controller has cached ahead (R126); `weight` and `credits` are R145, R146. -/
structure HostQueue where
  ring : BitVec 24
  lgEnt : Nat
  prioCap : Nat
  vector : BitVec 11
  irqEn : Bool
  enable : Bool
  tail : BitVec 32
  head : BitVec 32
  done : BitVec 32
  errIdx : BitVec 32
  errCode : BitVec 8
  refetch : Nat
  halted : Bool
  blocked : Bool
  tried : Bool
  waitRec : List Word
  recs : List HostRec
  cached : List (BitVec 32 × List Word)
  weight : Nat
  credits : SMap Int
  deriving DecidableEq, Repr

/-- A PCIe function, R97, R98: 0 is the PF, 1 to 256 the VFs. -/
structure HostFn where
  tenant : BitVec 9
  nq : BitVec 8
  partMask : BitVec 12
  vfEnabled : Bool
  queues : SMap (Option HostQueue)
  mailbox : SMap Byte
  counters : SMap Word
  deriving DecidableEq, Repr

/-- A policy plug-in of a tenant, R124, R132. -/
structure Plugin where
  image : Bytes
  enabled : Bool
  deriving DecidableEq, Repr

/-- A launch, R112: the record it came from and what it asks for. `waitRef` and `doneRef` hold capability and offset. `made`
counts its teams that the scheduler holds as such, `ended` those that have ended; `pool` is what a co-placed launch that waits
has reserved (R149). -/
structure Launch where
  fn : Nat
  queue : Nat
  idx : BitVec 32
  tenant : Nat
  prio : Nat
  codeCap : Cap
  codeOff : BitVec 48
  teamSize : Nat
  teamCount : Nat
  coplace : Bool
  persist : Bool
  partMask : BitVec 12
  preemptUs : Nat
  args : List Word
  waitRef : Option (Cap × Nat)
  waitVal : Word
  doneRef : Option (Cap × Nat)
  doneVal : Word
  eligible : Bool
  made : Nat
  ended : Nat
  /-- the undelegated trap that ended it and the core that took it, R427, R477 -/
  abort : Option (BitVec 8 × Nat)
  unitFails : Nat
  pool : List Nat
  deriving DecidableEq, Repr

/-- A rendezvous point, R387. -/
structure RvPoint where
  phase : BitVec 32
  members : BitVec 32
  arrived : BitVec 32
  deriving DecidableEq, Repr

/-- Where a team stands, R141 to R149. -/
inductive TeamState where
  | pending | placed | saving | saved | ended
  deriving DecidableEq, Repr

/-- A team, R141, R142, R387, R449. `cores` are its present cores by rank, or those reserved for it; `home` the cores it was
first placed on (R398). While it is saved, its members' images are the cores numbered by `parkNo`. -/
structure Team where
  launch : Nat
  index : Nat
  state : TeamState
  cores : List Nat
  home : List Nat
  placedAt : Nat
  forced : Bool
  points : SMap RvPoint
  deriving DecidableEq, Repr

/-- A partition's assignment and present holder, R96, R127, and whether a slice turn of it is under way. -/
structure Partition where
  assign : Word
  holder : Option Nat
  turning : Bool
  deriving DecidableEq, Repr

/-! ### Strata -/

/-- Where a generation stands, R460. -/
inductive GenPhase where
  | cutting | draining | durable
  | aborted (reason : BitVec 8)
  deriving DecidableEq, Repr

/-- A generation that has been frozen, with the remaining grains the home knows of and, once durable, its
manifest's lower-tier address (R460, R461). -/
structure GenRec where
  gen : Word
  phase : GenPhase
  manifest : Nat
  deriving DecidableEq, Repr

/-- Who asked the generation home for the cut that is being opened: a core's `SNAP`, a snapshot record of the front
end (function, queue, index), or another chip. -/
inductive Asker where
  | core (n : Nat)
  | record (fn q : Nat) (idx : BitVec 32)
  | chip
  deriving DecidableEq, Repr

/-- A tenant's generation home, R454, R462, R463: the current generation, the frozen one, the chips that have
acknowledged phase 1, whether phase 2 has run, who asked, the chips whose cut is complete, the chips that have drained, and the
records of earlier generations, newest first. `chipGen` is this chip's own generation; `copied` lists the grains
(object, grain) the undertow has copied with the lower-tier address of each and whether it was poisoned, and
`images` the saved teams whose image belongs to the frozen generation and `imageBytes` the images as phase 2 ended (R472). -/
structure GenHome where
  current : Word
  frozen : Option Word
  acks : List Nat
  opened : Bool
  asker : Asker
  cuts : List Nat
  drained : List Nat
  history : List GenRec
  chipGen : Word
  copied : List (Nat × Nat × Nat × Bool)
  images : List Nat
  imageBytes : Bytes
  durable : Word
  deriving DecidableEq, Repr

/-- The home of a new tenant, R454. -/
def GenHome.initial : GenHome := ⟨1, none, [], false, .chip, [], [], [], 1, [], [], [], 0⟩

/-- A write that waits for a reserve grain of a stack, R469. -/
structure StrataWait where
  stack : Nat
  tenant : Nat
  obj : Nat
  grain : Nat
  deriving DecidableEq, Repr

/-- The grain reserve of one stack, R467: how many of its grains have ever been given out, and those given back. -/
structure Reserve where
  next : Nat
  back : List Nat
  deriving DecidableEq, Repr

/-! ### The fabric -/

/-- A peer-map entry, R396. -/
structure PeerEntry where
  valid : Bool
  drain : Bool
  far : Bool
  phys : BitVec 10
  epoch : BitVec 32
  deriving DecidableEq, Repr

/-- A peer-map entry at reset, R396. -/
def PeerEntry.initial : PeerEntry := ⟨false, false, false, 0, 0⟩

/-- A reduction window, R422: its two doublewords. -/
structure RedWindow where
  w0 : Word
  w1 : Word
  deriving DecidableEq, Repr

/-- The state of a member of a version at this chip, R410. -/
inductive MemberState where
  | present | absentPending | withdrawn
  deriving DecidableEq, Repr

/-- A version of a group, R408, with the member states at this chip. -/
structure Version where
  num : BitVec 32
  timeout : BitVec 32
  members : List (Nat × Nat)
  states : List MemberState
  deriving DecidableEq, Repr

/-- A version whose installation waits, with the control message that brought it, if one did (R409). -/
structure Waiting where
  version : Version
  msg : Option (FlowId × BitVec 32)
  deriving DecidableEq, Repr

/-- An installation that a membership record of this chip has asked for: the version, the record (function, queue, index)
and the logical chips that have not installed it (R116). -/
structure Asked where
  num : BitVec 32
  rec' : Nat × Nat × BitVec 32
  chips : List Nat
  deriving DecidableEq, Repr

/-- A group: its installed versions, newest first (at most two), the versions whose installation waits, and the
installations asked for (R409, R116). -/
structure Group where
  installed : List Version
  waiting : List Waiting
  asked : List Asked
  deriving DecidableEq, Repr

/-- A message not yet acknowledged, R399, R401: `hold` is 0 in flight, or the reason of the refusal after which it
waits to be resent; `tenant` and `lid` are the logical chip it is addressed to, `party` numbers the operation or the task it belongs
to, and `member` is the team and rank whose it is. -/
structure Unacked where
  msg : FlowMsg
  tenant : Nat
  lid : Nat
  hold : BitVec 4
  party : Nat
  isTask : Bool
  member : Option (Nat × Nat)
  deriving DecidableEq, Repr

/-- The sending side of a flow, R399, R401. `held` after reason moved; `ended` lists the tenants and logical chips whose records of
`POSTR` were on it as firmware ended it, until the next `POSTR` there reports that (R403). -/
structure FlowOut where
  id : FlowId
  next : BitVec 32
  unacked : List Unacked
  held : Bool
  ended : List (Nat × Nat)
  deriving DecidableEq, Repr

/-- The receiving side of a flow, R400: the next number of an ordered flow and the numbers delivered beyond it. -/
structure FlowIn where
  id : FlowId
  next : BitVec 32
  beyond : List (BitVec 32)
  deriving DecidableEq, Repr

/-- An answer of this chip to a message, R401: an acknowledgement, or a refusal with its reason; `data` is what a
read or an atomic returns, `stamp` the grain stamp they were read under (R456), and `fault` the
cause where the access could not be performed. -/
structure FlowReply where
  flow : FlowId
  seq : BitVec 32
  reason : BitVec 4
  data : Bytes
  stamp : Word
  fault : BitVec 8
  deriving DecidableEq, Repr

/-- What an open step knows of one expected member, R418: its end line's count, the lines applied, and whether it has
timed out or been settled by withdrawal, and the words of each line that switches have merged, by line and byte offset (R423). -/
structure Settle where
  member : Nat
  count : Option Nat
  applied : List (BitVec 32)
  merged : List (BitVec 32 × Nat)
  timedOut : Bool
  deriving DecidableEq, Repr

/-- An open collective step, R414 to R421. `walkAt` is the next transfer of the send walk, `sent` the lines sent to
each member, `endsSent` is set once the end lines have gone, `dropped` once its task is discarded, and `badLine` is the line
whose application faulted, by sender and number (R519); `atOnce` says that its own member was withdrawn
as the step was released (R414) or next ran (R500): it sends and applies nothing more. -/
structure CollStep where
  core : Nat
  seq : BitVec 32
  tenant : Nat
  group : Nat
  step : BitVec 32
  chan : Nat
  version : Version
  own : Nat
  settles : List Settle
  walkAt : Nat
  sent : SMap Nat
  unacked : List (Nat × BitVec 32)
  endsSent : Bool
  stale : Bool
  dropped : Bool
  badLine : Option (Nat × BitVec 32)
  atOnce : Bool
  deriving DecidableEq, Repr

/-- A line held in a chunk slot of a receive channel, R416, with the message that brought it: it is acknowledged when it
is applied. -/
structure ChunkLine where
  core : Nat
  line : Line
  msg : Option (FlowId × BitVec 32)
  slot : Bool
  deriving DecidableEq, Repr

/-- A merging slot of the switches, with the window it opened under, R423, R124. -/
structure SwitchSlot where
  key : SwitchKey
  window : RedWindow
  got : List Contribution
  deriving DecidableEq, Repr

/-- What a request to another chip, made apart from the access unit and the copy requests, is for: what a task reads as it starts, its
index table, its send walk, the line it applies, the records its thread posts, or the front end's own work (R402). -/
inductive AskRole where
  | start | index | walk | line | thread | frontEnd
  deriving DecidableEq, Repr

/-- Such a request on its way, by window, task and message, with its answer once that has come: a fault's cause, or 0, and the
bytes (R402). -/
structure Ask where
  core : Nat
  party : Nat
  role : AskRole
  obj : Nat
  off : Nat
  op : RemOp
  msg : FlowId × BitVec 32
  answer : Option (BitVec 8 × Bytes)
  deriving DecidableEq, Repr

/-- How far the directory entries of a task at another chip are (R362): asked for, made, kept as the read entries of held boxes, to be
removed, or being removed. -/
inductive RemStage where
  | asked | made | kept | leaving | removing
  deriving DecidableEq, Repr

/-- The directory entries of a task of this chip at another one, by the logical chip that served it (R361, R362): a removal keeps those of
the footprints `keep`, as read entries. -/
structure RemDir where
  core : Nat
  home : Nat
  party : Nat
  tenant : Nat
  lid : Nat
  stage : RemStage
  keep : List RemFoot
  msg : Option (FlowId × BitVec 32)
  deriving DecidableEq, Repr

/-- What the package holds of the fabric: `asks` and `remDirs` are what its windows await of other chips, and `control` holds the
control messages that a remap or a held flow keeps back (R397), by tenant and logical chip. -/
structure Fabric where
  flowsOut : List FlowOut
  flowsIn : List FlowIn
  net : List FlowMsg
  replies : List FlowReply
  notices : List (Nat × Nat × Nat × MemberState)
  steps : List CollStep
  chunks : List ChunkLine
  closed : List (Nat × Nat × BitVec 32 × BitVec 32)
  switches : List SwitchSlot
  asks : List Ask
  remDirs : List RemDir
  control : List (Nat × Nat × MsgBody)
  deriving DecidableEq, Repr

/-! ### Tenants, device registers and the package -/

/-- A tenant, R94, R95: `keys` are its two 256-bit keys as the key slots hold them. -/
structure Tenant where
  live : Bool
  keys : BitVec 512
  table : SMap Cap
  peers : SMap PeerEntry
  windows : SMap (Option RedWindow)
  groups : SMap (Option Group)
  gen : GenHome
  plugin : Option Plugin
  deriving DecidableEq, Repr

/-- A tenant number that names no tenant. -/
def Tenant.initial : Tenant := ⟨false, 0, [], [], [], [], GenHome.initial, none⟩

/-- An island's clock, R511, R514: the `ISLCFG` fields, the present frequency code and a target that waits for the
change in progress. -/
structure Island where
  fcode : Nat
  retLg : Nat
  busy : Bool
  present : Nat
  pending : Option Nat
  deriving DecidableEq, Repr

/-- An island after cold reset, R511, R514. -/
def Island.initial : Island := ⟨16, 12, false, 4, none⟩

/-- A Jedom port, R515, with the trainings failed in a row. -/
structure JPort where
  crcErr : Nat
  peerChip : BitVec 10
  peerPort : BitVec 5
  retrains : Nat
  lanes : BitVec 4
  state : Nat
  failures : Nat
  deriving DecidableEq, Repr

/-- A Jedom port after cold reset, R515. -/
def JPort.initial : JPort := ⟨0, 0, 0, 0, 0, 0, 0⟩

/-- A region that a PMP entry covers, R131: the manual names each by its purpose. A window is set by its bounds, and `nothing`
covers none. -/
inductive PmpRegion where
  | bootRom | monitor | schedCode | schedData | deviceRegs
  | window (lo hi : Nat)
  | pluginCode (tenant : Nat) | pluginData (tenant : Nat) | callBuffer
  | rest | nothing
  deriving DecidableEq, Repr

/-- A PMP entry, R131: its region, its permissions, whether they are those of U-mode, and its lock. -/
structure PmpEntry where
  region : PmpRegion
  r : Bool
  w : Bool
  x : Bool
  user : Bool
  locked : Bool
  deriving DecidableEq, Repr

/-- A scheduler core, R130: a hart of RV64GC with the privileged architecture. `mode` is 3 in M-mode, 1 in S-mode, 0 in U-mode; `x` and `f`
are its registers, `x0` reading as zero, `csrs` its control and status registers by number, and `inRom` says that it is still in the boot ROM
(R135), where the program counter is an offset of the ROM and not of the carve-out. -/
structure Hart where
  pc : Word
  inRom : Bool
  mode : BitVec 2
  x : SMap Word
  f : SMap Word
  csrs : SMap Word
  pmp : SMap PmpEntry
  deriving DecidableEq, Repr

/-- The registers of the device as a whole. `bringUp` is the step of R514 at hand, `cxlTried` and `ethTried` say that those links
have been trained or have failed. -/
structure Device where
  chip : Nat
  bringUp : Nat
  pcieUp : Bool
  cxlUp : Bool
  ethUp : BitVec 8
  cxlTried : Bool
  ethTried : Bool
  fwLock : Bool
  fwSize : BitVec 8
  fwState : BitVec 8
  fwCode : BitVec 8
  meas0 : BitVec 384
  meas1 : BitVec 384
  secVersion : BitVec 32
  snTarget : BitVec 2
  snShare : Nat
  snReserve : Nat
  snTargetNext : BitVec 2
  snReserveNext : Nat
  pwrcap : Nat
  thermal : BitVec 12
  dbgctl : Word
  islands : SMap Island
  jports : SMap JPort
  schedFrozen : BitVec 4
  harts : SMap Hart
  deriving DecidableEq, Repr

/-- The host side of the package, R97 to R110, R137. `msix` logs the messages sent; `hostMem` holds the host bytes
the device has written, `spdm` the reports given over DOE, and `lastRead` what the last host read through BAR2 returned. -/
structure HostSide where
  fns : SMap HostFn
  msix : List (Nat × BitVec 11)
  hostMem : SMap (Option Byte)
  spdm : List Bytes
  lastRead : Bytes
  deriving DecidableEq, Repr

/-- An entry of a channel's extent cache, R17: the pair of object and extent, and its frame. -/
structure ExtEntry where
  chan : Nat
  obj : Nat
  ext : Nat
  frame : Nat
  deriving DecidableEq, Repr

/-- HBM with the object table and what the memory ports hold. `mem` holds bytes by HBM physical address. -/
structure Hbm where
  mem : List Host.Cell
  objs : SMap (Option Obj)
  extCache : List ExtEntry
  poisoned : SMap Bool
  retired : SMap Bool
  kept : List KeptGrain
  holds : List HeldWrite
  stamps : SMap Word
  redirects : List Redirect
  moved : SMap Nat
  reserves : SMap Reserve
  waits : List StrataWait
  dir : List DirEntry
  lower : SMap Byte
  lowerNext : Nat
  deriving DecidableEq, Repr

/-- What the scheduler holds: `hostTurn` is the queue block whose record the front end took last (R109), `stallReports` are the stall reports sent last, by core (R322). -/
structure Sched where
  tenants : SMap Tenant
  partitions : SMap Partition
  launches : SMap (Option Launch)
  nextLaunch : Nat
  teams : SMap (Option Team)
  nextTeam : Nat
  placements : Nat
  ranking : SMap (List Nat)
  reports : List (Nat × BitVec 8)
  stallReports : SMap (List Word)
  hostTurn : Nat
  deriving DecidableEq, Repr

/-- The state of one package. `inputs` is the schedule of device events still to come, `cur` the core whose thread
issues next, `freeCtr` counts the free values drawn: these three are the model's own. -/
structure State where
  inputs : List Instr
  cur : Nat
  freeCtr : Nat
  dev : Device
  host : HostSide
  hbm : Hbm
  sched : Sched
  fab : Fabric
  cores : SMap Core
  deriving DecidableEq, Repr

/-! ### Faults and refusals -/

/-- Why a step of the device can stop for good. The manual stops the device nowhere: an effect it gives is a next
state, a disabled event leaves the state as it is. -/
inductive Fault where
  /-- raised by nothing in the model: kept so that a claim can name the absence of stuck states; safe -/
  | stuck
  deriving DecidableEq, Repr

/-- Why an instruction has no meaning here. -/
inductive Refusal where
  /-- raised by an arm of `exec` whose meaning is still to be written; safe -/
  | notModelled (mnemonic : String)
  deriving DecidableEq, Repr

/-! ### Reset -/

/-- Registers at the start of a team and after partition reset: all zero (R112, R113, R230). -/
def Regs.initial : Regs := ⟨[], [], 0, [], [], [], []⟩

/-- The lane generators after a write of a seed to `%rngl` (R54). -/
def laneSeeds (seed : BitVec 32) : List (BitVec 32) := (List.range 128).map (seedLane seed)

/-- The reset value of `%vt`, R231: type 0xD, rnd 0, tlu_e 3, ctype 0xB. -/
def vtReset : Word := 0xB030D

/-- The special registers at the start of a team, R113, R230, R59, R231. `%cyc` is zero at partition reset and is no
part of a team's start (R202). -/
def Specials.initial : Specials where
  cyc := 0
  vt := vtReset
  fflags := 0
  aflags := 0
  rngl := 1
  rnge := 1
  gens := laneSeeds 1
  gfail := 0
  stgmap := 0
  bpend := 0
  loops := []
  tmrank := 0
  tmsize := 0
  tmid := 0
  tmcount := 0
  mb := []
  bnd := []
  gt := []
  epc := 0
  ecause := 0
  einfo := 0
  evec := 0

/-- The window of a core with nothing in it; `rres` is the reset of `SBCFG` (R288), and every channel has 8 chunk slots
(R413). -/
def Board.initial : Board := ⟨0, [], [], none, [], 64, 0x08080808, 0x08080808, false⟩

/-- A segment at the start of a team, R319. -/
def Segment.initial : Segment := ⟨0, [], false, 0, false, 0, 0, Plane.initial, Plane.initial⟩

/-- The engines of a core at the start of a team: zeroed arrays (R29), planes and stores as R265 and R274 give them. -/
def Engines.initial : Engines where
  rows := []
  rowMap := []
  acc := []
  modes := 0
  plane0 := Plane.initial
  plane1 := Plane.initial
  selector := false
  checkpoint := none
  drainStore := []
  streamStore := []
  streamGens := laneSeeds 1
  drainGens := laneSeeds 1
  segment := Segment.initial
  segWrites := []
  queues := []
  nextId := []
  cpl := []
  doneIds := []
  rings := []
  copyReqs := []
  copyTurn := 3
  retention := false
  bad := []

/-- A core after partition reset: idle, with the values every team starts from. -/
def Core.initial : Core where
  run := .idle
  wait := .none
  frozen := []
  frozenTraps := []
  told := []
  team := none
  rank := 0
  pc := 0
  entryOff := 0
  fetchCap := nullCap
  code := []
  codeExts := []
  codeLines := []
  grp := GroupAcc.empty
  brEnds := false
  savedBrEnds := false
  regs := Regs.initial
  sp := Specials.initial
  stamp := 0
  preemptAsked := false
  preemptForced := false
  waitingTrap := none
  asyncTraps := []
  pendingSet := []
  trapOp := 0
  pendingTask := none
  arrivals := []
  mark := none
  mbEdges := []
  acc := []
  accHalted := false
  nextOp := 0
  groups := 0
  reds := []
  routeCache := []
  outPosts := []
  savedRows := []
  board := Board.initial
  eng := Engines.initial

/-- A host queue after the reset of its function, R99. -/
def HostQueue.initial : HostQueue where
  ring := 0
  lgEnt := 0
  prioCap := 0
  vector := 0
  irqEn := false
  enable := false
  tail := 0
  head := 0
  done := 0
  errIdx := 0
  errCode := 0
  refetch := 0
  halted := false
  blocked := false
  tried := false
  waitRec := []
  recs := []
  cached := []
  weight := 1
  credits := []

/-- A PCIe function after reset, R98. -/
def HostFn.initial : HostFn := ⟨0, 0, 0, false, [], [], []⟩

/-- The PMP entries of R131 at boot. The scheduler's windows (5 to 11) and the plug-in entries (12 to 14) cover
nothing until they are set. -/
def pmpReset (i : Nat) : PmpEntry :=
  match i with
  | 0 => ⟨.bootRom, false, false, true, false, true⟩
  | 1 => ⟨.monitor, false, false, false, false, true⟩
  | 2 => ⟨.schedCode, true, false, true, false, false⟩
  | 3 => ⟨.schedData, true, true, false, false, false⟩
  | 4 => ⟨.deviceRegs, true, true, false, false, false⟩
  | 15 => ⟨.rest, false, false, false, false, false⟩
  | _ => ⟨.nothing, false, false, false, false, false⟩

/-- A scheduler core after cold reset: in the boot ROM, in M-mode (R135). PRESUMED (log 125): `mstatus` and `misa` are those of RV64GC
with three modes, and every other register is 0. -/
def Hart.initial : Hart := ⟨0, true, 3, [], [], [(0x300, 0xA00000000), (0x301, 0x800000000014112D)], []⟩

/-- The device registers after cold reset, R10, R133, R136, R467, R510, R511, R515, R516. -/
def Device.initial : Device where
  chip := 0
  bringUp := 1
  pcieUp := false
  cxlUp := false
  ethUp := 0
  cxlTried := false
  ethTried := false
  fwLock := false
  fwSize := 0
  fwState := 0
  fwCode := 0
  meas0 := 0
  meas1 := 0
  secVersion := 0
  snTarget := 0
  snShare := 25
  snReserve := 6
  snTargetNext := 0
  snReserveNext := 6
  pwrcap := 3600
  thermal := 0
  dbgctl := 0
  islands := []
  jports := []
  schedFrozen := 0
  harts := []

/-- HBM and the object table after cold reset: nothing allocated, nothing listed. -/
def Hbm.initial : Hbm where
  mem := []
  objs := []
  extCache := []
  poisoned := []
  retired := []
  kept := []
  holds := []
  stamps := []
  redirects := []
  moved := []
  reserves := []
  waits := []
  dir := []
  lower := []
  lowerNext := 0

/-- The machine right after cold reset (R10): every field at the value the manual states, and every other at the value
INVENTORY.md and the assumption log name. -/
def State.reset : State where
  inputs := []
  cur := 0
  freeCtr := 0
  dev := Device.initial
  host := ⟨[], [], [], [], []⟩
  hbm := Hbm.initial
  sched := ⟨[], [], [], 0, [], 0, 0, [], [], [], 0x403F⟩
  fab := ⟨[], [], [], [], [], [], [], [], [], [], [], []⟩
  cores := []

end Sys2Proof.Machine
end

