-- ==== Sys2Proof/Machine/Operands.lean ====
section
/-!
DEFINITION. Operand forms: the registers of a core as instructions read and write them (R160 to R162, R182), the
load and store forms of a type (R207), region descriptors and their footprints (R32 to R37), and the words of a task
record (R64 to R77).
-/

namespace Sys2Proof.Machine

open Sys2Proof.Bits

/-! ### Registers -/

namespace Core

/-- `rd_s` (R182): `s0` reads zero. -/
def rs (c : Core) (r : SReg) : Word := if r.val = 0 then 0 else SMap.get 0 c.regs.s r.val

/-- `wr_s` (R162, R182): a write of `s0` is discarded. -/
def ws (c : Core) (r : SReg) (v : Word) : Core :=
  if r.val = 0 then c else { c with regs := { c.regs with s := SMap.put 0 c.regs.s r.val v } }

/-- `rd_p` (R182): `p0` reads true. -/
def rp (c : Core) (r : PReg) : Bool := if r.val = 0 then true else c.regs.p.getLsbD r.val

/-- `wr_p` (R162, R182). -/
def wp (c : Core) (r : PReg) (v : Bool) : Core :=
  if r.val = 0 then c else { c with regs := { c.regs with p := setBit c.regs.p r.val v } }

/-- A mask register: `m0` reads all true (R160). -/
def rm (c : Core) (r : MReg) : Mask := if r.val = 0 then BitVec.allOnes 512 else SMap.get 0 c.regs.m r.val

/-- A write of a mask register; `m0` discards it (R162). -/
def wm (c : Core) (r : MReg) (v : Mask) : Core :=
  if r.val = 0 then c else { c with regs := { c.regs with m := SMap.put 0 c.regs.m r.val v } }

/-- A capability register (R19, R24). -/
def rc (c : Core) (r : CReg) : Cap := SMap.get nullCap c.regs.c r.val

/-- A write of a capability register. -/
def wc (c : Core) (r : CReg) (v : Cap) : Core :=
  { c with regs := { c.regs with c := SMap.put nullCap c.regs.c r.val v } }

/-- A region register (R32). -/
def rg (c : Core) (r : GReg) : Word := SMap.get 0 c.regs.g r.val

/-- A write of a region register. -/
def wg (c : Core) (r : GReg) (v : Word) : Core := { c with regs := { c.regs with g := SMap.put 0 c.regs.g r.val v } }

/-- A branch target register (R211). -/
def rb (c : Core) (r : BReg) : BitVec 48 := SMap.get 0 c.regs.b r.val

/-- A write of a branch target register. -/
def wb (c : Core) (r : BReg) (v : BitVec 48) : Core :=
  { c with regs := { c.regs with b := SMap.put 0 c.regs.b r.val v } }

/-- A vector register by its name (R161). -/
def rv (c : Core) (r : VReg) : Row := SMap.get 0 c.regs.v r.val

/-- A vector register written at a name number. -/
def wvAt (c : Core) (n : Nat) (v : Row) : Core := { c with regs := { c.regs with v := SMap.put 0 c.regs.v n v } }

/-- A mailbox (R321). -/
def mb (c : Core) (i : Nat) : Word := SMap.get 0 c.sp.mb i

/-- A mailbox written. -/
def setMb (c : Core) (i : Nat) (v : Word) : Core := { c with sp := { c.sp with mb := SMap.put 0 c.sp.mb i v } }

/-- A bound register (R478). -/
def bnd (c : Core) (i : Nat) : Word := SMap.get bndReset c.sp.bnd i

/-- A bound register written. -/
def setBnd (c : Core) (i : Nat) (v : Word) : Core :=
  { c with sp := { c.sp with bnd := SMap.put bndReset c.sp.bnd i v } }

/-- Flags raised by an operation (R57): collected until the group ends. -/
def raise (c : Core) (f : FFlags) : Core := { c with grp := { c.grp with flags := c.grp.flags ||| f } }

/-! ### Scratchpad -/

/-- The physical row that holds a logical row (R29). -/
def phys (c : Core) (r : Nat) : Nat := match SMap.get 0 c.eng.rowMap r with | 0 => r | p + 1 => p

/-- A physical row. -/
def prow (c : Core) (p : Nat) : Row := SMap.get 0 c.eng.rows p

/-- A physical row written. -/
def setProw (c : Core) (p : Nat) (v : Row) : Core :=
  { c with eng := { c.eng with rows := SMap.put 0 c.eng.rows p v } }

/-- A logical row through the committed row map (R30). -/
def row (c : Core) (r : Nat) : Row := c.prow (c.phys r)

/-- A logical row written through the committed row map (R30). -/
def setRow (c : Core) (r : Nat) (v : Row) : Core := c.setProw (c.phys r) v

/-- Bytes of the scratchpad by address (R28): the bytes of one row at a time. -/
def spByte (c : Core) (a : Nat) : Byte := (c.row (a / 512)).extractLsb' (8 * (a % 512)) 8

/-- A run of scratchpad bytes. -/
def spBytes (c : Core) (a len : Nat) : List Byte := (List.range len).map fun i => c.spByte (a + i)

/-- A scratchpad byte written. -/
def setSpByte (c : Core) (a : Nat) (b : Byte) : Core := c.setRow (a / 512) (setField (c.row (a / 512)) (8 * (a % 512)) 8 b)

/-- A run of scratchpad bytes written, lowest first. -/
def setSpBytes (c : Core) (a : Nat) : List Byte → Core
  | [] => c
  | b :: r => setSpBytes (c.setSpByte a b) (a + 1) r

end Core

/-! ### Capabilities -/

/-- The object a capability names (R19). -/
def Cap.obj (c : Cap) : Nat := nfield c 104 24
/-- The rights byte (R20). -/
def Cap.rights (c : Cap) : BitVec 8 := field c 96 8
/-- The window's first byte (R19). -/
def Cap.base (c : Cap) : Nat := nfield c 48 48
/-- The window's length (R19). -/
def Cap.len (c : Cap) : Nat := nfield c 0 48
/-- One right (R20): 0 read, 1 write, 2 atomic, 3 remote, 4 snap, 5 exec, 6 nocheck, 7 derive. -/
def Cap.has (c : Cap) (i : Nat) : Bool := (Cap.rights c).getLsbD i
/-- A capability from its fields. -/
def Cap.make (obj : Nat) (rights : BitVec 8) (base len : Nat) : Cap :=
  BitVec.ofNat 128 ((obj % 2 ^ 24) <<< 104 + rights.toNat <<< 96 + (base % 2 ^ 48) <<< 48 + len % 2 ^ 48)
/-- Well formed (R21). -/
def Cap.wf (c : Cap) : Bool :=
  decide (Cap.base c + Cap.len c ≤ 2 ^ 48) && !(Cap.has c 1 && Cap.has c 5) && (Cap.obj c != 0 || c == 0)
/-- An access within bounds (R22): nothing is always within bounds, the null capability bounds nothing else. -/
def Cap.within (c : Cap) (a : Int) (n : Nat) : Bool :=
  n == 0 || (Cap.obj c != 0 && decide ((Cap.base c : Int) ≤ a) && decide (a + n ≤ Cap.base c + Cap.len c))

/-! ### Load and store forms -/

/-- Bytes of an element of a type (R207). -/
def Ty.bytes (t : Ty) : Nat := t.width / 8

/-- What a load of a type writes to its register (R207). -/
def loadValue (t : Ty) (bs : List Byte) : Word :=
  let v := wordOfBytes bs
  if t = .a56 then sext v 56 else if t.signed then sext v t.width else zext v t.width

/-- The bytes a store of a type writes (R207). -/
def storeBytes (t : Ty) (v : Word) : List Byte := toBytes (if t = .a56 then sext v 56 else v) (Ty.bytes t)

/-! ### Region descriptors -/

/-- The spaces of R32. -/
inductive Space where
  | sp | acc | hbm | rem
  deriving DecidableEq, Repr

/-- A valid descriptor, R32 to R36. Fields of other spaces are zero. -/
structure Box where
  space : Space
  access : BitVec 2
  rename : Bool
  bndEn : Bool
  bnd : Nat
  tile : Nat
  rowLo : Nat
  rowCnt : Nat
  colLo : Nat
  colCnt : Nat
  chip : Nat
  capIdx : Nat
  granOff : Nat
  granCnt : Nat
  resvOk : Bool
  deriving DecidableEq, Repr

/-- The fields of a descriptor word; none when its valid bit is clear. -/
def Box.ofWord (w : Word) : Option Box :=
  if !bit w 63 then none
  else
    let a := field w 59 2
    some <| match nfield w 61 2 with
    | 0 => ⟨.sp, a, bit w 58, bit w 57, nfield w 51 6, 0, nfield w 26 14, nfield w 12 14,
        nfield w 6 6, nfield w 0 6, 0, 0, 0, 0, nfield w 40 11 == 0⟩
    | 1 => ⟨.acc, a, false, false, 0, nfield w 34 2, nfield w 27 7, nfield w 19 8, nfield w 12 7, nfield w 4 8, 0, 0,
        0, 0, nfield w 36 23 == 0 && nfield w 0 4 == 0⟩
    | 2 => ⟨.hbm, a, false, false, 0, 0, 0, 0, 0, 0, 0, nfield w 52 4, nfield w 24 28, nfield w 0 24, nfield w 56 3 == 0⟩
    | _ => ⟨.rem, a, false, false, 0, 0, 0, 0, 0, 0, nfield w 48 10, nfield w 44 4, nfield w 20 24, nfield w 0 20,
        nfield w 58 1 == 0⟩

/-- A box with a zero count (R37). -/
def Box.empty (b : Box) : Bool :=
  match b.space with
  | .sp | .acc => b.rowCnt == 0 || b.colCnt == 0
  | .hbm | .rem => b.granCnt == 0

/-- The access includes read (R32). -/
def Box.reads (b : Box) : Bool := b.access.getLsbD 0
/-- The access includes write (R32). -/
def Box.writes (b : Box) : Bool := b.access.getLsbD 1
/-- A full-row box (R37). -/
def Box.fullRow (b : Box) : Bool := b.space == .sp && b.colLo == 0 && b.colCnt == 32
/-- Bytes of a box (R71). -/
def Box.size (b : Box) : Nat :=
  match b.space with
  | .sp => b.rowCnt * b.colCnt * 16
  | .acc => 0
  | .hbm | .rem => b.granCnt * 4096

/-- A region descriptor with its reserved fields zero, as `RGSET` writes it (R293). -/
def cleanRegion (w : Word) : Word :=
  if !bit w 63 then w
  else match nfield w 61 2 with
    | 0 => setField w 40 11 0
    | 1 => setField (setField w 36 23 0) 0 4 0
    | 2 => setField w 56 3 0
    | _ => setField w 58 1 0

/-! ### Footprints -/

/-- Two runs of numbers share one. -/
def runsMeet (a n b m : Nat) : Bool := decide (a < b + m) && decide (b < a + n) && n != 0 && m != 0

/-- Two footprints share a cell (R37). -/
def Cells.meets : Cells → Cells → Bool
  | .sp r n c k, .sp r' n' c' k' => runsMeet r n r' n' && runsMeet c k c' k'
  | .acc t r n c k, .acc t' r' n' c' k' => t == t' && runsMeet r n r' n' && runsMeet c k c' k'
  | .hbm o l n, .hbm o' l' n' => o == o' && runsMeet l n l' n'
  | .rem p o l n, .rem p' o' l' n' => p == p' && o == o' && runsMeet l n l' n'
  | _, _ => false

/-- The cells of a box with the object of its captured capability (R37, R39). -/
def Box.cells (b : Box) (cap : Cap) : Cells :=
  match b.space with
  | .sp => .sp b.rowLo b.rowCnt b.colLo b.colCnt
  | .acc => .acc b.tile b.rowLo b.rowCnt b.colLo b.colCnt
  | .hbm => .hbm (Cap.obj cap) b.granOff b.granCnt
  | .rem => .rem b.chip (Cap.obj cap) b.granOff b.granCnt

/-- The scratchpad cells that bytes `a` to `a + n - 1` of the scratchpad touch (R210, R255). -/
def spCells (a n : Nat) : Cells :=
  if a / 512 = (a + n - 1) / 512 then .sp (a / 512) 1 (a % 512 / 16) ((a + n - 1) % 512 / 16 - a % 512 / 16 + 1)
  else .sp (a / 512) ((a + n - 1) / 512 - a / 512 + 1) 0 32

/-- The granules that bytes of an object touch (R210). -/
def objCells (obj a n : Nat) : Cells := .hbm obj (a / 4096) ((a + n - 1) / 4096 - a / 4096 + 1)

/-! ### Task records -/

namespace Posted

/-- Word `w` of a record (R64). -/
def word (p : Posted) (w : Nat) : Word := (p.words[w]?).getD 0

/-- A captured capability: boxes 0-5, then guard word, word 9, word 10 (R39). -/
def cap (p : Posted) (i : Nat) : Cap := (p.caps[i]?).getD nullCap

/-- The kind (R65). -/
def kind (p : Posted) : Nat := nfield (p.word 0) 0 8
/-- The engine (R65). -/
def engine (p : Posted) : Nat := nfield (p.word 0) 8 3
/-- The declared stage (R65). -/
def stage (p : Posted) : Nat := nfield (p.word 0) 11 3
/-- The tile-start bit (R65). -/
def tileStart (p : Posted) : Bool := bit (p.word 0) 14
/-- The guarded section (R65): 0 none, 1 surrogate, 2 check, 3 exact. -/
def gsec (p : Posted) : Nat := nfield (p.word 0) 15 2
/-- The flow order bit (R65). -/
def flowOrd (p : Posted) : Bool := bit (p.word 0) 18
/-- Bundle head (R65). -/
def bhead (p : Posted) : Bool := bit (p.word 0) 19
/-- Bundle member (R65). -/
def bmem (p : Posted) : Bool := bit (p.word 0) 20
/-- The captured seed (R65). -/
def seed (p : Posted) : BitVec 32 := field (p.word 0) 32 32
/-- Box slot `i` (R64). -/
def box (p : Posted) (i : Nat) : Option Box := Box.ofWord (p.word (1 + i))
/-- First operand type (R68). -/
def ta (p : Posted) : Ty := Ty.ofCode (nfield (p.word 7) 0 4)
/-- Second operand type (R68). -/
def tb (p : Posted) : Ty := Ty.ofCode (nfield (p.word 7) 4 4)
/-- Destination type (R68). -/
def td (p : Posted) : Ty := Ty.ofCode (nfield (p.word 7) 8 4)
/-- Rounding (R68). -/
def rnd (p : Posted) : Rnd := (Rnd.ofCode (nfield (p.word 7) 12 3)).getD .rne
/-- MX operands (R68). -/
def mx (p : Posted) : Bool := bit (p.word 7) 15
/-- The kind-specific bits (R68). -/
def subop (p : Posted) : Nat := nfield (p.word 7) 16 8
/-- The copy channel (R68). -/
def channel (p : Posted) : Nat := nfield (p.word 7) 16 2
/-- The copy priority (R68). -/
def priority (p : Posted) : Nat := nfield (p.word 7) 18 2
/-- An epilogue applies (R68). -/
def epiEn (p : Posted) : Bool := bit (p.word 7) 28
/-- Its slot (R68). -/
def epiSlot (p : Posted) : Nat := nfield (p.word 7) 24 4
/-- The kind-specific operand (R68). -/
def aux (p : Posted) : BitVec 32 := field (p.word 7) 32 32
/-- Extent `i` (R69). -/
def ext (p : Posted) (i : Nat) : Nat := nfield (p.word 8) (16 * i) 16
/-- Row step `i`, signed (R69). -/
def step (p : Posted) (i : Nat) : Int := (field (p.word 9) (16 * i) 16).toInt
/-- The guard word is enabled (R72). -/
def gwEn (p : Posted) : Bool := bit (p.word 11) 63
/-- Its mode: clamp rather than gate (R72). -/
def gwClamp (p : Posted) : Bool := nfield (p.word 11) 60 3 == 1
/-- Its offset (R72). -/
def gwOff (p : Posted) : Nat := nfield (p.word 11) 0 48
/-- Mailboxes waited for (R76). -/
def waitMask (p : Posted) : BitVec 16 := field (p.word 12) 48 16
/-- Mailboxes raised (R76). -/
def sigMask (p : Posted) : BitVec 16 := field (p.word 12) 32 16
/-- The transfer id (R76). -/
def xferId (p : Posted) : BitVec 32 := field (p.word 12) 0 32
/-- The unit's sequence number (R77). -/
def unitSeq (p : Posted) : BitVec 32 := field (p.word 13) 32 32
/-- The bundle head's sequence number (R77). -/
def headSeq (p : Posted) : BitVec 32 := field (p.word 13) 0 32
/-- The user tag (R77). -/
def tag (p : Posted) : Word := p.word 14
/-- The post sequence number in the window (R77). -/
def seqNo (p : Posted) : BitVec 32 := field (p.word 15) 0 32
/-- A record reference is present in word 9 or 10, by which (R70). -/
def hasRef (p : Posted) (w : Nat) : Bool := bit (p.word w) 63
/-- Its offset (R70). -/
def refOff (p : Posted) (w : Nat) : Nat := nfield (p.word w) 0 48
/-- It names a layout record rather than a loop nest (R70). -/
def refLayout (p : Posted) (w : Nat) : Bool := nfield (p.word w) 60 3 == 1
/-- Kinds whose words 9 and 10 are record references (R69). -/
def usesRefs (p : Posted) : Bool :=
  let k := p.kind
  k == 0x20 || k == 0x21 || k == 0x22 || k == 0x23 || k == 0x28

/-- The footprints of a record (R37, R73): its valid boxes, and the granules of its guard word and records as read
footprints. Empty boxes give none. -/
def foots (p : Posted) : List Foot :=
  let boxes := (List.range 6).filterMap fun i =>
    match p.box i with
    | some b => if b.empty then none else some ⟨b.cells (p.cap i), b.reads, b.writes, some i⟩
    | none => none
  let one (en : Bool) (cap : Cap) (off : Nat) : List Foot :=
    if en then [⟨objCells (Cap.obj cap) off 1, true, false, none⟩] else []
  boxes ++ one p.gwEn (p.cap 6) p.gwOff ++ one (p.usesRefs && p.hasRef 9) (p.cap 7) (p.refOff 9)
    ++ one (p.usesRefs && p.hasRef 10) (p.cap 8) (p.refOff 10)

/-- A `SUBSCR` record (R67). -/
def isSubscr (p : Posted) : Bool := p.kind == 0x23

/-- The footprints that later records and accesses see: a `SUBSCR`'s slot box is none of them (R346). -/
def laterFoots (p : Posted) : List Foot := if p.isSubscr then p.foots.filter (·.slot != some 1) else p.foots

/-- The record's footprint meets a set of cells. -/
def meets (p : Posted) (f : Cells) : Bool := p.laterFoots.any fun g => g.cells.meets f

end Posted

namespace Core

/-- The window's entries a group of the thread sees: not the post of the group itself (R291). -/
def visible (c : Core) : List Entry :=
  match c.grp.base with
  | none => c.board.entries
  | some n => c.board.entries.take n

/-- Cells lie in the footprint of an unretired task of the core's own window, held boxes and a unit's commit boxes
among them (R210, R255, R314, R319). -/
def overlaps (c : Core) (f : Cells) : Bool :=
  c.visible.any (fun e => e.post.meets f) ||
    c.board.held.any (fun h => h.entry.post.foots.any fun g => g.reads && g.cells.meets f)

end Core

end Sys2Proof.Machine
end

