-- ==== Sys2Proof/Machine/Ops.lean ====
section
/-!
DEFINITION. The named operations the meanings share: access to cores, the end of a group (R170, R173, R217), taking a
trap (R427 to R431), freezing (R437), the end of a launch by a fault (R427), and what an instruction that has issued
alone makes of its own result.
-/

namespace Sys2Proof.Machine

open Sys2Proof.Bits

/-! ### Cores -/

/-- A save of the core has begun (R446): its thread has stopped, or had halted when its team was pre-empted. -/
def Core.stopping (c : Core) : Bool := match c.run with | .stopped _ => true | .halted => c.preemptAsked | _ => false

namespace State

/-- A core by number (R4). -/
def coreAt (s : State) (n : Nat) : Core := SMap.get Core.initial s.cores n

/-- A core replaced. -/
def setCore (s : State) (n : Nat) (c : Core) : State := { s with cores := SMap.put Core.initial s.cores n c }

/-- A core changed. -/
def onCore (s : State) (n : Nat) (f : Core → Core) : State := s.setCore n (f (s.coreAt n))

/-- The core whose thread issues. -/
def core (s : State) : Core := s.coreAt s.cur

/-- That core changed. -/
def on (s : State) (f : Core → Core) : State := s.onCore s.cur f

/-- A tenant by number (R94). -/
def tenant (s : State) (t : Nat) : Tenant := SMap.get Tenant.initial s.sched.tenants t

/-- A tenant replaced. -/
def setTenant (s : State) (t : Nat) (v : Tenant) : State :=
  { s with sched := { s.sched with tenants := SMap.put Tenant.initial s.sched.tenants t v } }

/-- An object by id (R13, R15). -/
def obj (s : State) (o : Nat) : Option Obj := SMap.get none s.hbm.objs o

/-- An object-table entry replaced. -/
def setObj (s : State) (o : Nat) (v : Option Obj) : State := { s with hbm := { s.hbm with objs := SMap.put none s.hbm.objs o v } }

/-- A launch by number. -/
def launch (s : State) (l : Nat) : Option Launch := SMap.get none s.sched.launches l

/-- A launch replaced. -/
def setLaunch (s : State) (l : Nat) (v : Option Launch) : State :=
  { s with sched := { s.sched with launches := SMap.put none s.sched.launches l v } }

/-- A team by number. -/
def team (s : State) (t : Nat) : Option Team := SMap.get none s.sched.teams t

/-- A team replaced. -/
def setTeam (s : State) (t : Nat) (v : Option Team) : State :=
  { s with sched := { s.sched with teams := SMap.put none s.sched.teams t v } }

/-- The launch a core's team belongs to. -/
def launchOf (s : State) (n : Nat) : Option (Nat × Launch) :=
  match (s.coreAt n).team with
  | none => none
  | some t => match s.team t with
    | none => none
    | some tm => (s.launch tm.launch).map fun l => (tm.launch, l)

/-- A partition (R96, R127). -/
def partition (s : State) (d : Nat) : Partition := SMap.get ⟨0, none, false⟩ s.sched.partitions d

/-- A partition replaced. -/
def setPartition (s : State) (d : Nat) (v : Partition) : State :=
  { s with sched := { s.sched with partitions := SMap.put ⟨0, none, false⟩ s.sched.partitions d v } }

/-- The tenant a core acts for (R94, R96): its team's, or the holder of its partition; 0 where there is neither. -/
def tenantOf (s : State) (n : Nat) : Nat :=
  match s.launchOf n with | some (_, l) => l.tenant | none => (s.partition (n / 32)).holder.getD 0

/-- The function of a tenant (R94); the PF where it has none. -/
def fnOf (s : State) (t : Nat) : Nat :=
  match s.host.fns.find? fun e => e.1 != 0 && e.2.vfEnabled && e.2.tenant.toNat == t with | some e => e.1 | none => 0

/-- A function by number (R97). -/
def hostFn (s : State) (f : Nat) : HostFn := SMap.get HostFn.initial s.host.fns f

/-- A function replaced. -/
def setFn (s : State) (f : Nat) (v : HostFn) : State := { s with host := { s.host with fns := SMap.put HostFn.initial s.host.fns f v } }

/-- One more in error counter `i` of a function: counters saturate (R490). -/
def countFn (s : State) (f i : Nat) : State :=
  let h := s.hostFn f
  let v := SMap.get 0 h.counters i
  s.setFn f { h with counters := SMap.put 0 h.counters i (if v = BitVec.allOnes 64 then v else v + 1) }

/-- A core is saved, scrubbed or restored in a slice turn of its partition (R128, R491). -/
def inTurn (s : State) (core : Nat) : Bool :=
  (s.partition (core / 32)).turning && ((s.coreAt core).stopping || (s.coreAt core).team.isNone)

/-- The function that an event of a core is charged to (R491): the one it acts for, but the PF for an error of the core's own
structures (counters 0, 2 and 4) in a turn. -/
def chargedFn (s : State) (core i : Nat) : Nat := if [0, 2, 4].contains i && s.inTurn core then 0 else s.fnOf (s.tenantOf core)

/-- One more in error counter `i` of the function that a core's event is charged to (R491). -/
def count (s : State) (core i : Nat) : State := s.countFn (s.chargedFn core i) i

/-- The counter that a trap of a cause counts in (R490). -/
def trapCounter (cause : BitVec 8) : Option Nat :=
  if cause = 0x12 then some 3 else if cause = 0x0F then some 7 else if cause = 0x0A then some 9 else none

/-- A trap of a core counted (R490). -/
def countTrap (s : State) (core : Nat) (cause : BitVec 8) : State :=
  match trapCounter cause with | some i => s.count core i | none => s

/-- A free value drawn: the value and the state after. -/
def draw (s : State) : Word × State := (Config.freeValue s.freeCtr, { s with freeCtr := s.freeCtr + 1 })

end State

/-! ### Partitions and debug freezes -/

/-- The partition of a core (R4, R96): a compute die. -/
def dieOf (core : Nat) : Nat := core / 32

/-- A debug freeze of the core's partition or of the device holds the core, or a `BRK` of its own (R517). -/
def State.freezing (s : State) (n : Nat) : Bool :=
  bit s.dev.dbgctl 44 || bit s.dev.dbgctl (32 + dieOf n) || (s.coreAt n).run == .broken

/-- The clocks of a core that is held have stopped: not before the flush of its combining buffer, which the freeze starts, has been
sent (R381, R517). -/
def State.clockStopped (s : State) (n : Nat) : Bool := s.freezing n && !(s.coreAt n).reds.any fun r => r.flushing && !r.sent

/-- The number of a core of the package (R4). -/
def isCore (n : Nat) : Bool := decide (n < 384)

/-- A device event at a core: nothing happens while its clocks are stopped. -/
def atCore (n : Nat) (f : State → State) (s : State) : Host.Outcome State Fault Refusal :=
  .next (if !isCore n || s.clockStopped n then s else f s)

/-- A device event outside the cores: nothing happens while the whole device is frozen (R517). -/
def atDevice (f : State → State) (s : State) : Host.Outcome State Fault Refusal := .next (if bit s.dev.dbgctl 44 then s else f s)

/-- Firmware runs: its image has been verified and started (R135), and not every scheduler core is frozen (R437). -/
def State.fwRuns (s : State) : Bool := s.dev.fwState == 2 && s.dev.schedFrozen != 0xF

/-- What firmware does: nothing where none runs (R135, R437). DEDUCED (log 127). -/
def byFirmware (f : State → State) (s : State) : State := if s.fwRuns then f s else s

/-- An event of firmware. -/
def atScheduler (f : State → State) : State → Host.Outcome State Fault Refusal := atDevice (byFirmware f)

/-- An event of firmware at a core. -/
def atCoreByFirmware (n : Nat) (f : State → State) : State → Host.Outcome State Fault Refusal := atCore n (byFirmware f)

/-! ### What an operation answers -/

/-- The result of an operation at issue: it takes effect, it raises a trap in a state, or its group waits (R169). A
waiting operation may have changed what lies outside the group (an arrival, R391). -/
inductive OpRes where
  | ok (s : State)
  | trap (t : Trap) (s : State)
  | stall (s : State)
  deriving DecidableEq, Repr

/-- A trap with nothing but its cause, reason and `%einfo`. -/
def Trap.of (d : Delivery) (cause reason : BitVec 8) (info : Word) : Trap := ⟨d, cause, reason, 0, false, info, 0, [], [], false⟩

/-- A precise trap (R430). -/
def Trap.precise (cause reason : BitVec 8) (info : Word) : Trap := .of .precise cause reason info

/-- A control fault (R426). -/
def controlFault (reason : BitVec 8) (s : State) : OpRes := .trap (.precise 0x09 reason 0) s

/-- A register-only operation: it always takes effect. -/
def onReg (s : State) (f : Core → Core) : OpRes := .ok (s.on f)

/-! ### The end of a group -/

namespace Core

/-- The innermost loop level (R216). -/
def inner (c : Core) : Option Loop := c.sp.loops.getLast?

/-- The loop hardware at a group whose last word is the innermost level's end word (R217): the levels left and the
next group, `after` where no level repeats. `fuel` bounds the levels popped. -/
def loopEnd (last after : BitVec 48) : Nat → List Loop → List Loop × BitVec 48
  | 0, ls => (ls, after)
  | fuel + 1, ls =>
    match ls.getLast? with
    | none => (ls, after)
    | some l =>
      if l.last = last then
        if 1 < l.count.toNat then (ls.dropLast ++ [{ l with count := l.count - 1 }], l.start)
        else loopEnd last after fuel ls.dropLast
      else (ls, after)

/-- The levels a taken `BR` leaves (R218): a level whose body does not hold the target ends with every level inside
it. -/
def leaveLoops (target : BitVec 48) : List Loop → List Loop
  | [] => []
  | l :: r => if l.start ≤ target ∧ target ≤ l.last then l :: leaveLoops target r else []

/-- What the group collected, committed (R56, R57, R169): the explicit write of `%fflags` first, then the flags raised; the bits of
`%aflags` that it clears; a write of `%rngl` after the group's draws. -/
def commitGroup (c : Core) : Core :=
  { c with
    sp := { c.sp with
      fflags := (c.grp.setFlags.getD c.sp.fflags) ||| c.grp.flags
      aflags := c.sp.aflags &&& ~~~c.grp.clrAflags
      rngl := c.grp.seed.getD c.sp.rngl
      gens := match c.grp.seed with | some v => laneSeeds v | none => c.sp.gens }
    grp := GroupAcc.empty }

/-- Delay groups still to issue (R173). -/
def pend (c : Core) : Nat := nfield c.sp.bpend 62 2

/-- The end of a group of `w` words that has taken effect: the loop hardware (R217), the delay groups of a pending
transfer (R170, R173), the pending link of a `CALL` (R213) and the program counter of the next group. -/
def endGroup (w : Nat) (c0 : Core) : Core :=
  let c := c0.commitGroup
  let last : BitVec 48 := c.pc + BitVec.ofNat 48 (8 * (w - 1))
  let after : BitVec 48 := c.pc + BitVec.ofNat 48 (8 * w)
  let (loops, next) := loopEnd last after 4 c.sp.loops
  let c1 := { c with groups := c.groups + 1, sp := { c.sp with loops := loops }, pc := next }
  match c0.grp.jump with
  | some t => { c with groups := c.groups + 1, pc := t }
  | none =>
    if c0.grp.branched || c.pend == 0 then c1
    else
      let k := c.pend - 1
      let b := setField c1.sp.bpend 62 2 (BitVec.ofNat 2 k)
      if k ≠ 0 then { c1 with sp := { c1.sp with bpend := b } }
      else
        let taken := bit b 61
        let target : BitVec 48 := field b 0 48
        let c2 := if bit b 60 then c1.wb ⟨nfield b 57 3 % 8, by omega⟩ after else c1
        { c2 with
          sp := { c2.sp with
            bpend := setBit b 60 false
            loops := if taken && c2.brEnds then leaveLoops target c2.sp.loops else c2.sp.loops }
          pc := if taken then target else c2.pc }

/-- A group that has no effect leaves nothing collected. -/
def dropGroup (c : Core) : Core := { c with grp := GroupAcc.empty }

end Core

/-! ### Traps -/

namespace Core

/-- `%evec.en` (R428). -/
def evecEn (c : Core) : Bool := bit c.sp.evec 63
/-- `%evec.frame_row` (R428). -/
def frameRow (c : Core) : Nat := nfield c.sp.evec 48 14
/-- The handler's entry offset (R428, R431). -/
def handler (c : Core) : BitVec 48 := field c.sp.evec 0 48 &&& 0xFFFFFFFFFFF8
/-- `%ecause.in_handler` (R428). -/
def inHandler (c : Core) : Bool := bit c.sp.ecause 22

/-- The cause state of a trap as `%ecause` and the frame hold it (R428, R429), with in_handler set. An after-issue trap
has pending operations. Engine and boundary traps are asynchronous, and so is a fault found after later groups issued. -/
def causeState (t : Trap) : BitVec 23 :=
  let engine := t.delivery == .engine
  let async := engine || t.delivery == .boundary || t.late
  BitVec.ofNat 23 (t.cause.toNat + t.reason.toNat <<< 8 + t.word.toNat <<< 16 + (if t.delivery == .afterIssue then 1 else 0) <<< 18
    + (if engine then 1 else 0) <<< 19 + (if t.remote then 1 else 0) <<< 20 + (if async then 1 else 0) <<< 21 + 1 <<< 22)

/-- The doublewords of the trap frame, bytes 0 to 303 (R429). -/
def frameWords (c : Core) (t : Trap) : List Word :=
  let level (k : Nat) : List Word :=
    match c.sp.loops[k]? with
    | some l => [l.start.setWidth 64, l.last.setWidth 64, l.count]
    | none => [0, 0, 0]
  [(causeState t).setWidth 64, c.pc.setWidth 64, t.info, 0, c.sp.bpend, BitVec.ofNat 64 c.sp.loops.length]
    ++ level 0 ++ level 1 ++ level 2 ++ level 3
    ++ (List.range 4).map (fun i => (t.report[i]?).getD 0) ++ (List.range 16).map (fun i => (t.record[i]?).getD 0)

/-- A list of doublewords as a number, the first lowest. -/
def natOfWords : List Word → Nat
  | [] => 0
  | w :: r => w.toNat + 2 ^ 64 * natOfWords r

/-- A wait is given up, so that its instruction issues again: the read of a `SIGWAIT` goes (R384), and a `POSTM` leaves
its cursor and the rest of its limit in its registers (R297). -/
def dropWait (c : Core) : Core :=
  match c.wait with
  | .postm sx sy lim n cur => { (c.ws sx cur).ws sy (BitVec.ofNat 64 (lim - n)) with wait := .none }
  | .sigwait id => { c with wait := .none, acc := c.acc.filter (·.id != id) }
  | _ => { c with wait := .none }

/-- Every entry of the combining buffer starts its flush (R381). -/
def flushReds (c : Core) : Core := { c with reds := c.reds.map fun r => { r with flushing := true } }

/-- Taking a delegated trap, R431: the combining buffer is flushed, the frame is written into row frame_row, the trap
registers are set, `%bpend` and the loop levels are cleared and the program counter goes to the handler. The resume
offset is the program counter as it stands (R430). -/
def takeTrap (t : Trap) (c : Core) : Core :=
  let cs := causeState t
  let r := c.frameRow
  let c1 := c.flushReds.dropWait.setRow r (setField (c.row r) 0 2432 (BitVec.ofNat 2432 (natOfWords (frameWords c t))))
  { c1 with
    sp := { c1.sp with epc := c.pc, ecause := cs, einfo := t.info, bpend := 0, loops := [] }
    savedBrEnds := c.brEnds
    brEnds := false
    trapOp := c.nextOp + 1
    nextOp := c.nextOp + 1
    grp := GroupAcc.empty
    pendingTask := if t.delivery = .engine then some t.seq else none
    pc := c.handler }

/-- The trap frame's row stands in the box of an unretired task, so that trap entry waits (R431, R453). -/
def frameBusy (c : Core) : Bool := c.overlaps (.sp c.frameRow 1 0 32)

/-- The conditions of R427 under which a trap goes to the program's handler. An engine or boundary trap in a handler
is delegated and waits until `ERET`. -/
def delegable (c : Core) (t : Trap) : Bool :=
  c.evecEn && decide (c.frameRow ≤ 12287)
    && (!c.inHandler || t.delivery == .engine || t.delivery == .boundary)
    && c.run != .halted && t.cause != 0x08

/-- A trap that waits for the `ERET` of the handler the thread is in (R427): one that would be delegated. Where it would not be, it is
dropped or ends the launch at once. -/
def awaitsEret (c : Core) (t : Trap) : Bool := c.inHandler && c.delegable t

/-- A core whose team has ended without a save: idle, with what has already left for a port still on its way (R427,
R129). Arrays, registers and `%cyc` stay as they are until the next team's start. -/
def stopped (c : Core) : Core :=
  { c with
    run := .idle, wait := .none, team := none, frozen := [], frozenTraps := [], told := [], preemptAsked := false, preemptForced := false
    waitingTrap := none, asyncTraps := [], pendingSet := [], pendingTask := none, arrivals := [], mark := none, mbEdges := []
    acc := c.acc.filter fun o => o.phase == .sent || o.phase == .paged || o.phase == .performed
    accHalted := false
    reds := c.reds.filter (·.sent)
    outPosts := [], grp := GroupAcc.empty
    board := { Board.initial with rres := c.board.rres, cwcfg := c.board.cwcfg, depths := c.board.depths }
    eng := { c.eng with queues := [], copyReqs := [], rings := [] } }

end Core

namespace State

/-- No window: what is left at other chips of a window that has ended. -/
def noWindow : Nat := 0xFFFFFF

/-- Entries of a core's tasks at other chips left to be removed, and its requests there given up, as its window ends (R362). -/
def orphanFar (s : State) (core : Nat) : State :=
  { s with fab := { s.fab with
      remDirs := s.fab.remDirs.map fun (r : RemDir) =>
        if r.core = core then { r with core := noWindow, stage := if r.stage = .made ∨ r.stage = .kept then .leaving else r.stage } else r
      asks := s.fab.asks.filter (·.core != core) } }

/-- Directory entries of a core's parties removed (R362). -/
def dropDir (s : State) (core : Nat) : State :=
  ({ s with hbm := { s.hbm with dir := s.hbm.dir.filter fun d => !(d.chip == s.dev.chip && d.core == core) } } : State).orphanFar core

/-- An object's accesses go to another chip (R373). -/
def atPeer (s : State) (obj : Nat) : Bool := match s.obj obj with | some o => (match o.route with | .peer .. => true | _ => false) | none => false

/-- Directory entries of a core's parties removed, but for those of accesses that are still to be performed (R362, R427). -/
def dropDirIdle (s : State) (core : Nat) : State :=
  let c := s.coreAt core
  let live (d : DirEntry) : Bool := !d.task && ((c.acc.any fun o => o.id == d.party && o.phase != .performed) || c.reds.any (·.id == d.party))
  ({ s with hbm := { s.hbm with dir := s.hbm.dir.filter fun d => !(d.chip == s.dev.chip && d.core == core) || live d } } : State).orphanFar core

/-- A record's completion status, result and word 13, once (R105, R110). -/
def setOutcome (s : State) (fn q : Nat) (idx : BitVec 32) (status : BitVec 8) (result : BitVec 32) (out : Option Word) : State :=
  let h := s.hostFn fn
  match SMap.get none h.queues q with
  | none => s
  | some k =>
    let k' := { k with recs := k.recs.map fun r => if r.idx = idx ∧ r.outcome = none then { r with outcome := some (status, result, out) } else r }
    s.setFn fn { h with queues := SMap.put none h.queues q (some k') }

/-- The collective-step records whose tasks stand in a window that ends complete with 0x05 (R114, R427). -/
def endSteps (s : State) (n : Nat) : State :=
  (s.coreAt n).board.entries.foldl (fun a e => match e.origin with | some (fn, q, idx) => a.setOutcome fn q idx 0x05 0 none | none => a) s

/-- One core of a team that ends without a save (R427). Messages on their way to other windows go on; their answers find no
one. -/
def stopCore (s : State) (n : Nat) : State :=
  ((s.endSteps n).onCore n fun c =>
    let c1 := c.stopped
    { c1 with acc := c1.acc.filter fun o => !s.atPeer (Cap.obj o.cap), reds := c1.reds.filter fun r => !s.atPeer (Cap.obj r.cap) }).dropDirIdle n

/-- The number under which the image of a saved member stands among the cores (R143, R449). -/
def parkNo (t rank : Nat) : Nat := 1024 + 32 * t + rank

/-- Open and closed steps and held lines of a core dropped with its window (R414, R420, R427): a message that brought a held line is answered
moved, for its window is no more (R401). -/
def dropSteps (s : State) (n : Nat) : State :=
  let held := (s.fab.chunks.filter (·.core == n)).filterMap ChunkLine.msg
  { s with fab := { s.fab with
      replies := s.fab.replies ++ held.map fun m => ⟨m.1, m.2, 5, [], 0, 0⟩
      steps := s.fab.steps.filter (·.core != n), chunks := s.fab.chunks.filter (·.core != n)
      closed := s.fab.closed.filter (·.1 != n) } }

/-- A team ended without a save (R427, R129). -/
def stopTeam (s : State) (t : Nat) : State :=
  match s.team t with
  | none => s
  | some tm =>
    let on := if tm.state = .placed ∨ tm.state = .saving then tm.cores else []
    let s1 := on.foldl (fun a n => (a.stopCore n).dropSteps n) s
    let saved := if tm.state = .saved then (List.range tm.home.length).map (parkNo t) else []
    let s2 := saved.foldl (fun a k => (((a.endSteps k).setCore k Core.initial).dropDir k).dropSteps k) s1
    s2.setTeam t (some { tm with state := .ended, cores := [] })

/-- The teams of a launch, by number. -/
def teamsOf (s : State) (l : Nat) : List Nat :=
  s.sched.teams.filterMap fun e => match e.2 with | some tm => if tm.launch = l then some e.1 else none | none => none

/-- An undelegated trap ends the launch (R427): every team stops without a save, and the launch keeps the cause and
the core for its completion (R477). Teams not yet placed never are. -/
def abortLaunch (s : State) (core : Nat) (cause : BitVec 8) : State :=
  match s.launchOf core with
  | none => s.stopCore core
  | some (l, la) =>
    let s1 := (s.teamsOf l).foldl stopTeam s
    s1.setLaunch l (some { la with abort := some (cause, core), made := la.teamCount, ended := la.teamCount, pool := [] })

/-- A trap goes to the handler, waits for the frame's row, is dropped (stall traps), or ends the launch (R427, R431).
Engine and boundary traps come here only once no handler runs. -/
def deliverTrap (n : Nat) (t : Trap) (s : State) : State :=
  let c := s.coreAt n
  if c.delegable t then
    if c.frameBusy then s.setCore n { c.dropGroup with waitingTrap := some t }
    else s.setCore n (c.takeTrap t)
  else if t.cause = 0x13 then s.setCore n c.dropGroup
  else (s.setCore n c.dropGroup).abortLaunch n t.cause

/-- A trap of the thread of a core: a capability fault or a bound trap first freezes the sequencer (R437), every other
is delivered at once. -/
def raiseTrap (n : Nat) (t : Trap) (s0 : State) : State :=
  let s := s0.countTrap n t.cause
  if t.cause = 0x02 ∨ t.cause = 0x0F then
    s.onCore n fun c => { c.dropGroup.flushReds with frozen := c.frozen ++ [.thread], frozenTraps := c.frozenTraps ++ [(.thread, t)] }
  else s.deliverTrap n t

end State

end Sys2Proof.Machine
end

