-- ==== Sys2Proof/Machine/Mem.lean ====
section
/-!
DEFINITION. Device memory behind the memory ports: the checks of R16, translation to frames (R15) with the grains
that strata have moved (R464), the hold buffers of migrations (R440), poisoned blocks (R441), the reserve (R467), and
what a read-modify-write computes (R379, R383). Memory is keyed by HBM physical address, in plaintext.
-/

namespace Sys2Proof.Machine

/-- Memory in canonical form: addresses strictly rising, no entry equal to zero, which an unlisted address reads as. -/
def Memory.wf (m : List Host.Cell) : Bool := SMap.wf 0 m

open Sys2Proof.Bits

/-- Frames of 2 MiB in one HBM stack (R3). -/
def stackFrames : Nat := 32768
/-- Grains in a frame (R14). -/
def frameGrains : Nat := 32
/-- Bytes of an extent (R14). -/
def extentBytes : Nat := 2097152
/-- Bytes of a grain (R14). -/
def grainBytes : Nat := 65536

namespace Obj

/-- An extent of the object (R15). -/
def ext (o : Obj) (e : Nat) : Extent := SMap.get ⟨none, none⟩ o.exts e

/-- An extent replaced. -/
def setExt (o : Obj) (e : Nat) (v : Extent) : Obj := { o with exts := SMap.put ⟨none, none⟩ o.exts e v }

/-- Bytes of the object (R15). -/
def bytes (o : Obj) : Nat := o.size * extentBytes

end Obj

/-- What a memory port decides before an access (R16). -/
inductive PortCheck where
  | proceed
  | objectFault
  | pageFault (ext : Nat)
  deriving DecidableEq, Repr

namespace State

/-! ### The checks and the translation of a port -/

/-- R16, in order: ownership, size over the whole access, residence. -/
def portCheck (s : State) (tenant obj off len : Nat) : PortCheck :=
  match s.obj obj with
  | none => .objectFault
  | some o =>
    if obj = 0 ∨ o.tenant ≠ tenant then .objectFault
    else if o.bytes < off + len then .objectFault
    else if len = 0 then .proceed
    else match (o.ext (off / extentBytes)).frame with
      | none => .pageFault (off / extentBytes)
      | some _ =>
        match (o.ext ((off + len - 1) / extentBytes)).frame with
        | none => .pageFault ((off + len - 1) / extentBytes)
        | some _ => .proceed

/-- The key under which a moved grain of an object is listed (R464). -/
def grainKey (obj grain : Nat) : Nat := obj * 2 ^ 32 + grain

/-- The physical grain that holds a grain of an object: the reserve grain it was moved to, or its place in the
extent's frame. -/
def physGrain (s : State) (obj grain : Nat) : Option Nat :=
  match SMap.get 0 s.hbm.moved (grainKey obj grain) with
  | p + 1 => some p
  | 0 => match s.obj obj with
    | none => none
    | some o => ((o.ext (grain / frameGrains)).frame).map fun f => f * frameGrains + grain % frameGrains

/-- The HBM physical address of a byte of an object. -/
def physAddr (s : State) (obj off : Nat) : Option Nat :=
  (s.physGrain obj (off / grainBytes)).map fun g => g * grainBytes + off % grainBytes

/-- A byte of HBM: zero where nothing is listed. -/
def hbmByte (s : State) (a : Nat) : Byte := SMap.get 0 s.hbm.mem a

/-- The newest held write of a migrating extent that covers a byte (R440). -/
def heldByte (s : State) (obj off : Nat) : Option Byte :=
  (s.hbm.holds.reverse.find? fun h => h.obj == obj && decide (h.off ≤ off) && decide (off < h.off + h.data.length)).bind
    fun h => h.data[off - h.off]?

/-- A byte of an object as a port returns it: a held write where there is one (R350, R440), else the frame's byte. -/
def byteAt (s : State) (obj off : Nat) : Byte :=
  match s.heldByte obj off with
  | some b => b
  | none => match s.physAddr obj off with | some a => s.hbmByte a | none => 0

/-- A run of bytes of an object as its frames hold them, grain by grain; `fuel` bounds the grains. -/
def frameBytes (s : State) (obj : Nat) : Nat → Nat → Nat → List Byte
  | 0, _, _ => []
  | fuel + 1, off, len =>
    if len = 0 then []
    else
      let n := min len (grainBytes - off % grainBytes)
      (match s.physAddr obj off with | some a => SMap.getList 0 s.hbm.mem a n | none => List.replicate n 0)
        ++ frameBytes s obj fuel (off + n) (len - n)

/-- A run of bytes of an object. -/
def bytesAt (s : State) (obj off len : Nat) : List Byte :=
  let bs := s.frameBytes obj (len / grainBytes + 2) off len
  if s.hbm.holds.any fun h => h.obj == obj then bs.zipIdx.map fun x => (s.heldByte obj (off + x.2)).getD x.1 else bs

/-- The extent that holds a byte is migrating (R440). -/
def migrating (s : State) (obj off : Nat) : Bool :=
  match s.obj obj with | none => false | some o => (o.ext (off / extentBytes)).migrating.isSome

/-- Bytes written at rising physical addresses. -/
def setHbmBytes (s : State) (a : Nat) (bs : List Byte) : State := { s with hbm := { s.hbm with mem := SMap.putList 0 s.hbm.mem a bs } }

/-! ### Poisoned blocks -/

/-- The 64-byte block that holds a byte of an object is poisoned (R441). -/
def poisonedAt (s : State) (obj off : Nat) : Bool :=
  match s.physAddr obj off with | some a => SMap.get false s.hbm.poisoned (a / 64) | none => false

/-- Some block that an access touches is poisoned and the access is not a write of all of it (R441). -/
def poisonFault (s : State) (obj off len : Nat) (wr : Bool) : Bool :=
  len != 0 && (List.range ((off + len - 1) / 64 - off / 64 + 1)).any fun i =>
    let lo := (off / 64 + i) * 64
    s.poisonedAt obj lo && !(wr && decide (off ≤ lo) && decide (lo + 64 ≤ off + len))

/-- Poison marks cleared on the blocks a write covers whole (R441). -/
def clearPoison (s : State) (obj off len : Nat) : State :=
  if s.hbm.poisoned.isEmpty then s
  else (List.range ((off + len - 1) / 64 - off / 64 + 1)).foldl (fun a i =>
    let lo := (off / 64 + i) * 64
    if off ≤ lo ∧ lo + 64 ≤ off + len then
      match a.physAddr obj lo with
      | some p => { a with hbm := { a.hbm with poisoned := SMap.put false a.hbm.poisoned (p / 64) false } }
      | none => a
    else a) s

/-! ### The reserve -/

/-- Reserve frames of a stack (R467). -/
def reserveFrames (s : State) : Nat := s.dev.snReserve * stackFrames / 100

/-- A reserve grain of a stack, if one is free: one given back, else the next from the top of the stack down. -/
def takeReserve (s : State) (stack : Nat) : Option (Nat × State) :=
  let r := SMap.get ⟨0, []⟩ s.hbm.reserves stack
  match r.back with
  | g :: rest => some (g, { s with hbm := { s.hbm with reserves := SMap.put ⟨0, []⟩ s.hbm.reserves stack { r with back := rest } } })
  | [] =>
    if r.next < s.reserveFrames * frameGrains then
      some ((stack + 1) * stackFrames * frameGrains - 1 - r.next,
        { s with hbm := { s.hbm with reserves := SMap.put ⟨0, []⟩ s.hbm.reserves stack { r with next := r.next + 1 } } })
    else none

/-- The stack of a physical grain. -/
def grainStack (g : Nat) : Nat := g / (stackFrames * frameGrains)

/-- A grain given back to the reserve of its stack (R466, R470). -/
def giveReserve (s : State) (g : Nat) : State :=
  let r := SMap.get ⟨0, []⟩ s.hbm.reserves (grainStack g)
  { s with hbm := { s.hbm with reserves := SMap.put ⟨0, []⟩ s.hbm.reserves (grainStack g) { r with back := g :: r.back } } }

/-- The bytes listed in a physical grain, by offset. -/
def grainCells (s : State) (g : Nat) : List (Nat × Byte) :=
  s.hbm.mem.filterMap fun e => if e.1 / grainBytes = g then some (e.1 % grainBytes, e.2) else none

/-- One physical grain made a copy of another. -/
def copyGrain (s : State) (old new : Nat) : State :=
  let cells := s.grainCells old
  let cleared : State := { s with hbm := { s.hbm with mem := SMap.without s.hbm.mem fun a => a / grainBytes == new } }
  { cleared with hbm := { cleared.hbm with mem := SMap.merge 0 cleared.hbm.mem (cells.map fun e => (new * grainBytes + e.1, e.2)) } }

/-! ### Writes under strata -/

/-- The frozen generation of a tenant (R459, R462): the one whose cut is open or which drains. -/
def frozenOf (s : State) (t : Nat) : Option Word := (s.tenant t).gen.frozen

/-- A grain of the frozen stratum needs no more copying: the cut is complete and it has been copied, or its stamp is
at or below the last durable generation (R465). -/
def drainedGrain (s : State) (t obj grain g : Nat) : Bool :=
  let h := (s.tenant t).gen
  h.history.any (fun r => decide (some r.gen = h.frozen) && r.phase == .draining)
    && (h.copied.any (fun e => e.1 == obj && e.2.1 == grain) || decide ((SMap.get 0 s.hbm.stamps g).toNat ≤ h.durable.toNat))

/-- The redirection of a grain, if it has one (R464). -/
def redirectOf (s : State) (obj grain : Nat) : Option Redirect :=
  s.hbm.redirects.find? fun r => r.obj == obj && r.grain == grain

/-- The stamp of a physical grain raised to that of a write (R457). -/
def raiseStamp (s : State) (g : Nat) (stamp : Word) : State :=
  let v := SMap.get 0 s.hbm.stamps g
  { s with hbm := { s.hbm with stamps := SMap.put 0 s.hbm.stamps g (if v.toNat < stamp.toNat then stamp else v) } }

/-- A write of bytes that lie in one grain, by the table of R464: in place, redirected onto a reserve grain, or onto
both grains. None where it needs a reserve grain and its stack has none (R469). -/
def writeGrain (s : State) (t obj off : Nat) (bs : Bytes) (stamp : Word) : Option State :=
  let grain := off / grainBytes
  match s.physGrain obj grain with
  | none => some s
  | some g =>
    let inPlace (a : State) (p : Nat) : State := (a.setHbmBytes (p * grainBytes + off % grainBytes) bs).raiseStamp p stamp
    match s.frozenOf t with
    | none => some (inPlace s g)
    | some f =>
      if stamp.toNat ≤ f.toNat then
        match s.redirectOf obj grain with
        | some r => some (inPlace (inPlace s r.old) r.new)
        | none => some (inPlace s g)
      else if (s.redirectOf obj grain).isSome ∨ f.toNat < (SMap.get 0 s.hbm.stamps g).toNat ∨ s.drainedGrain t obj grain g then
        some (inPlace s g)
      else match s.takeReserve (grainStack g) with
        | none => none
        | some (n, s1) =>
          let s2 := s1.copyGrain g n
          let s3 : State := { s2 with hbm := { s2.hbm with
            moved := SMap.put 0 s2.hbm.moved (grainKey obj grain) (n + 1)
            redirects := s2.hbm.redirects ++ [⟨obj, grain, g, n⟩]
            stamps := SMap.put 0 s2.hbm.stamps n (SMap.get 0 s2.hbm.stamps g) } }
          some (inPlace s3 n)

/-- A write of bytes that may cross grains: each grain's part in turn. -/
def writeSpan (s : State) (t obj off : Nat) (bs : Bytes) (stamp : Word) : Nat → Option State
  | 0 => some s
  | k + 1 =>
    if bs.isEmpty then some s
    else
      let n := min bs.length (grainBytes - off % grainBytes)
      match s.writeGrain t obj off (bs.take n) stamp with
      | none => none
      | some s1 => s1.writeSpan t obj (off + n) (bs.drop n) stamp k

/-- A write that has passed the port's checks: into the hold buffer of a migrating extent (R440), else into its grains
(R464), clearing the poison marks of blocks it covers whole (R441). None where it waits for a reserve grain. -/
def writeBytes (s : State) (t obj off : Nat) (bs : Bytes) (stamp : Word) : Option State :=
  if s.migrating obj off then some { s with hbm := { s.hbm with holds := s.hbm.holds ++ [⟨obj, off, bs, stamp⟩] } }
  else (s.writeSpan t obj off bs stamp (bs.length / grainBytes + 2)).map fun a => a.clearPoison obj off bs.length

/-! ### Host memory -/

/-- A byte of host memory: what the device wrote there last, else what the host holds. -/
def hostByteAt (s : State) (a : Nat) : Byte := (SMap.get none s.host.hostMem a).getD (Config.hostByte a s.freeCtr)

/-- Bytes written to host memory. -/
def setHostBytes (s : State) (a : Nat) (bs : List Byte) : State :=
  { s with host := { s.host with hostMem := SMap.putList none s.host.hostMem a (bs.map some) } }

end State

/-! ### Read-modify-write -/

/-- One BF16 sum rounded to nearest even, without flags (R379). -/
def bf16Add (x y : Nat) : Nat :=
  (roundPair .bf16 .rne (FVal.add .rne (Fmt.bf16.value x) (Fmt.bf16.value y)) 0).bits

/-- One binary32 sum rounded in a mode, without flags (R379, R417). -/
def f32Add (r : Rnd) (x y : Nat) : Nat := (roundPair .f32 r (FVal.add r (Fmt.f32.value x) (Fmt.f32.value y)) 0).bits

/-- The operand width of an atomic in bits (R379). -/
def rmwWidth (op : RmwOp) (t : Ty) : Nat :=
  match op with
  | .cas2 => 128
  | _ => match t with | .i64 | .n64 => 64 | _ => 32

/-- The new value of a read-modify-write (R379, R383); none is the timeline fault. -/
def rmwNew (op : RmwOp) (t : Ty) (old b d : Nat) : Option Nat :=
  let w := rmwWidth op t
  let m := 2 ^ w
  let o := old % m
  let x := b % m
  match op with
  | .add => match t with
    | .f32 => some (f32Add .rne o x)
    | .bf16 => some (bf16Add (o % 2 ^ 16) (x % 2 ^ 16) + bf16Add (o / 2 ^ 16) (x / 2 ^ 16) * 2 ^ 16)
    | _ => some ((o + x) % m)
  | .min => some (if t.signed then (if intOf true w x < intOf true w o then x else o) else Nat.min o x)
  | .max => some (if t.signed then (if intOf true w o < intOf true w x then x else o) else Nat.max o x)
  | .and => some (Nat.land o x)
  | .or => some (Nat.lor o x)
  | .xor => some (Nat.xor o x)
  | .xchg => some x
  | .cas | .cas2 => some (if o = d % m then x else o)
  | .sigadd =>
    if t = .n64 then
      if x = 0 then some o else if o = m - 1 then none else some (Nat.min (o + x) (m - 1))
    else some ((o + x) % m)
  | .sigset => some (if t = .n64 then (if o ≤ x then x else o) else x)

end Sys2Proof.Machine
end

