-- ==== Sys2Proof/Machine/Access.lean ====
section
/-!
DEFINITION. Accesses of the thread: the open rings they are bound to (R342 to R344), the access unit and the combining
buffer (R352, R353, R380, R381, R385, R438), and the issue checks of device memory (R209, R210, R374, R375, R377).
-/

namespace Sys2Proof.Machine

open Sys2Proof.Bits

/-! ### Rings -/

namespace Ring

/-- The first row of the slot box. -/
def row0 (r : Ring) : Nat := nfield r.box 26 14

/-- The slots whose rows meet a set of cells. -/
def slotsMet (r : Ring) (f : Cells) : List Nat :=
  (List.range r.slots).filter fun k => (Cells.sp (r.row0 + k * r.height) r.height 0 32).meets f

/-- The side and the item that slot `k` is bound to (R342). -/
def bind (r : Ring) (store : Bool) (k : Nat) : Bool × Nat :=
  let at' (n : Nat) : Nat := n + (k + r.slots - n % r.slots) % r.slots
  if r.mode = 1 ∨ (r.mode = 2 ∧ store) then (true, at' r.pushes) else (false, at' r.pops)

end Ring

namespace Core

/-- A ring by number (R339). -/
def ring (c : Core) (n : Nat) : Option Ring := SMap.get none c.eng.rings n

/-- A ring replaced. -/
def setRing (c : Core) (n : Nat) (r : Option Ring) : Core := { c with eng := { c.eng with rings := SMap.put none c.eng.rings n r } }

/-- Some unretired entry is bound to an item up to `j` on a side. -/
def boundUpTo (c : Core) (n : Nat) (push : Bool) (j : Nat) : Bool :=
  c.board.entries.any fun e => e.binds.any fun b => b.1 == n && b.2.1 == push && decide (b.2.2 ≤ j)

/-- The fill of item `j` of ring `n` is complete (R343). Fills complete in item order. -/
def fillDone (c : Core) (n j : Nat) (r : Ring) : Bool :=
  if r.mode = 0 then decide (j < r.tide) else decide (j < r.pushes) && !c.boundUpTo n true j

/-- The drain of item `j` of ring `n` is complete (R343). -/
def drainDone (c : Core) (n j : Nat) (r : Ring) : Bool :=
  if r.mode = 1 then decide (j < r.tide) else decide (j < r.pops) && !c.boundUpTo n false j

/-- The ring condition for one item (R344). -/
def sideReady (c : Core) (n : Nat) (r : Ring) (b : Bool × Nat) : Bool :=
  if b.1 then decide (b.2 < r.slots) || c.drainDone n (b.2 - r.slots) r else c.fillDone n b.2 r

/-- An access of the thread waits for a slot of an open ring (R344). -/
def ringWaits (c : Core) (f : Cells) (store : Bool) : Bool :=
  (List.range 16).any fun n =>
    match c.ring n with
    | none => false
    | some r => (r.slotsMet f).any fun k => !c.sideReady n r (r.bind store k)

/-- A scratchpad access of the thread stalls (R210, R255, R344). -/
def spBusy (c : Core) (f : Cells) (store : Bool) : Bool := c.overlaps f || c.ringWaits f store

end Core

/-! ### The access unit -/

namespace AccOp

/-- The object it accesses. -/
def objId (o : AccOp) : Nat := Cap.obj o.cap

/-- The operation is a load, a returning atomic, a signal operation or a `SIGWAIT` (R385). -/
def returns (o : AccOp) : Bool := match o.kind with | .store | .fence | .red .. => false | _ => true

/-- It writes memory. -/
def updates (o : AccOp) : Bool := match o.kind with | .store | .rmw .. | .red .. => true | _ => false

/-- It is marked (R360). -/
def marked (o : AccOp) : Bool := o.ord != .rlx || match o.kind with | .rmw .. | .wait .. | .red .. => true | _ => false

/-- Bytes of an object meet those of the operation. -/
def touches (o : AccOp) (obj a n : Nat) : Bool := o.kind != .fence && o.objId == obj && runsMeet o.addr o.len a n

/-- A fence keeps an earlier access before a later one (R385). -/
def fences (f x y : AccOp) : Bool :=
  f.kind == .fence && decide (x.rank < f.rank) && decide (f.rank < y.rank) &&
    match f.ord with
    | .acq => x.returns
    | .rel => y.updates
    | _ => true

end AccOp

namespace RedEntry

/-- Bytes of an object meet those of an entry. -/
def touches (r : RedEntry) (obj a n : Nat) : Bool := Cap.obj r.cap == obj && runsMeet r.addr r.len a n

/-- A reduction of a group is in the entry. -/
def ofGroup (r : RedEntry) (g : Nat) : Bool := r.grp == g || r.joined.contains g

/-- Two entries hold reductions of one group. -/
def groupMeets (q r : RedEntry) : Bool := (q.grp :: q.joined).any r.ofGroup

end RedEntry

namespace Core

/-- An operation of the access unit by number. -/
def accOp (c : Core) (id : Nat) : Option AccOp := c.acc.find? (·.id == id)

/-- An operation changed. -/
def onAcc (c : Core) (id : Nat) (f : AccOp → AccOp) : Core := { c with acc := c.acc.map fun o => if o.id = id then f o else o }

/-- An operation removed. -/
def dropAcc (c : Core) (id : Nat) : Core := { c with acc := c.acc.filter (·.id != id) }

/-- The read of a `SIGWAIT` in the unit: of the group that waits, or of one that a handler's return performs again (R384, R433). -/
def waitOp (c : Core) : Option Nat :=
  match c.wait with
  | .sigwait id => some id
  | _ => (c.acc.find? fun o => match o.kind with | .wait .. => true | _ => false).map AccOp.id

/-- A buffer entry by number. -/
def redEntry (c : Core) (id : Nat) : Option RedEntry := c.reds.find? (·.id == id)

/-- A buffer entry changed. -/
def onRed (c : Core) (id : Nat) (f : RedEntry → RedEntry) : Core := { c with reds := c.reds.map fun r => if r.id = id then f r else r }

/-- A fence stands between two places of the order that keeps a reduction (which returns nothing) before a later one,
or after an earlier access. -/
def fenceBetween (c : Core) (x y : Nat) (xReturns yUpdates : Bool) : Bool :=
  c.acc.any fun f => f.kind == .fence && decide (x < f.rank) && decide (f.rank < y) &&
    match f.ord with
    | .acq => xReturns
    | .rel => yUpdates
    | _ => true

/-- R352, R353 and R385 keep operation `x` before operation `y`, which stands later: one of its group, one that shares
a byte, one that acquires, every one if `y` releases, and every one that a fence orders. -/
def keepsOp (c : Core) (x y : AccOp) : Bool :=
  x.kind != .fence && x.phase != .performed && decide (x.rank < y.rank) &&
    (x.grp == y.grp || x.touches y.objId y.addr y.len || x.ord.acquires || y.ord.releases
      || c.fenceBetween x.rank y.rank x.returns y.updates)

/-- The same for an operation before a buffer entry. -/
def keepsRed (c : Core) (x : AccOp) (r : RedEntry) : Bool :=
  x.kind != .fence && x.phase != .performed && decide (x.rank < r.rank) &&
    (r.ofGroup x.grp || x.touches (Cap.obj r.cap) r.addr r.len || x.ord.acquires || r.ord.releases
      || c.fenceBetween x.rank r.rank x.returns true)

/-- An operation of the interrupted thread, while a handler runs or is about to (R353, R430). -/
def interrupted (c : Core) (id : Nat) : Bool := decide (id < c.trapOp) || !bit c.sp.ecause 22

/-- The operations of the interrupted thread that wait for its pending set: those it precedes, and those that follow
them. The handler's own operations pass them (R353, R430). -/
def heldOps (c : Core) : List AccOp :=
  if c.pendingSet.isEmpty then []
  else c.acc.foldl (fun hs y =>
    if c.interrupted y.id && (y.phase == .queued || y.phase == .entered) && (c.pendingSet ++ hs).any fun x => c.keepsOp x y then hs ++ [y]
    else hs) []

/-- An operation waits for the pending set. -/
def isHeld (c : Core) (id : Nat) : Bool := c.heldOps.any fun h => h.id == id

/-- A buffer entry waits for the pending set. -/
def redHeld (c : Core) (r : RedEntry) : Bool := c.interrupted r.id && (c.pendingSet ++ c.heldOps).any fun x => c.keepsRed x r

/-- Every earlier operation that R352, R353 and R385 keep before operation `y` has been performed, and the buffered
reductions likewise. -/
def mayPerform (c : Core) (y : AccOp) : Bool :=
  let own := c.interrupted y.id
  !c.acc.any (fun x => c.keepsOp x y && (own || !c.isHeld x.id))
    && !c.reds.any (fun r => decide (r.rank < y.rank) &&
      (r.ofGroup y.grp || r.touches y.objId y.addr y.len || y.ord.releases || c.fenceBetween r.rank y.rank false y.updates)
        && (own || !c.redHeld r))
    && !(own && c.pendingSet.any fun x => c.keepsOp x y)

/-- The same for the flush of a buffer entry. -/
def mayFlush (c : Core) (r : RedEntry) : Bool :=
  let own := c.interrupted r.id
  !c.acc.any (fun x => c.keepsRed x r && (own || !c.isHeld x.id))
    && !c.reds.any (fun q => decide (q.rank < r.rank) &&
      (q.groupMeets r || q.touches (Cap.obj r.cap) r.addr r.len || r.ord.releases || c.fenceBetween q.rank r.rank false true)
        && (own || !c.redHeld q))
    && !(own && c.pendingSet.any fun x => c.keepsRed x r)

/-- Fences with nothing before them are gone. -/
def trimFences (c : Core) : Core :=
  { c with acc := c.acc.filter fun f => f.kind != .fence ||
      (c.acc ++ c.pendingSet).any (fun x => x.kind != .fence && decide (x.rank < f.rank) && x.phase != .performed)
        || c.reds.any fun r => decide (r.rank < f.rank) }

/-- The buffer entries that share a byte with an access start their flush (R381). -/
def flushShared (c : Core) (obj a n : Nat) : Core :=
  { c with reds := c.reds.map fun r => if r.touches obj a n then { r with flushing := true } else r }

/-- A new operation of the unit, in program order (R438); an access flushes the buffer entries it shares bytes with,
a release flushes all (R381). -/
def enqueue (c : Core) (o : AccOp) : Core :=
  let c1 := c.flushShared o.objId o.addr o.len
  let c2 := if o.ord.releases then c1.flushReds else c1
  { c2 with acc := c2.acc ++ [o], nextOp := c2.nextOp + 1 }

/-- The queue takes no more (R438). -/
def accFull (c : Core) : Bool := c.accHalted || decide (64 ≤ c.acc.length)

/-- An earlier operation has met a page fault and has not been performed since: nothing later leaves the core (R353, R438). -/
def haltedBefore (c : Core) (rank : Nat) : Bool := c.acc.any fun x => x.phase == .paged && decide (x.rank < rank)

/-- An operation precedes a position in program order: by its number, or by its place once a handler's return has put it behind
the handler's operations (R433). -/
def precedes (c : Core) (id rank y : Nat) : Bool := decide (rank < y) || (decide (id < y) && decide (y < c.trapOp))

/-- The accesses of the thread before position `y` that have not been performed. To a handler's positions, those of the pending set
and those that wait for it are not earlier: they come after its return (R430, R433). -/
def earlierAccs (c : Core) (y : Nat) : List AccOp :=
  let own := c.interrupted y
  (c.acc.filter fun x => x.kind != .fence && x.phase != .performed && c.precedes x.id x.rank y && (own || !c.isHeld x.id)) ++
    if own then c.pendingSet.filter fun x => c.precedes x.id x.rank y else []

/-- The reductions of the thread before position `y` that have not been accepted. -/
def earlierReds (c : Core) (y : Nat) : List RedEntry :=
  c.reds.filter fun r => c.precedes r.id r.rank y && (c.interrupted y || !c.redHeld r)

/-- Every device-memory access of the thread before position `y` has been performed and every reduction accepted. -/
def settledBefore (c : Core) (y : Nat) : Bool := (c.earlierAccs y).isEmpty && (c.earlierReds y).isEmpty

end Core

/-! ### Issue checks of device memory -/

/-- A device-memory access as its instruction names it. `need` lists the rights of R20. -/
structure Access where
  kind : AccKind
  cap : Cap
  addr : Int
  len : Nat
  ord : Ord
  scope : Scope
  data : BitVec 128
  cmp : BitVec 128
  need : List Nat
  deriving DecidableEq, Repr

/-- An address as `%einfo` holds it (R426). -/
def infoOf (a : Int) : Word := BitVec.ofInt 64 a

/-- The atomics that PCIe carries (R374). -/
def pcieCarries (op : RmwOp) (t : Ty) (red : Bool) : Bool :=
  match op with
  | .add => t.isInt
  | .xchg | .cas | .cas2 => !red
  | .sigadd | .sigset => t == .i64
  | _ => false

/-- A declared reduction window of a tenant holds bytes of an object of the chip that a logical ID names (R374, R422). -/
def inWindow (s : State) (tenant lid obj a n : Nat) : Bool :=
  let e := SMap.get PeerEntry.initial (s.tenant tenant).peers lid
  (s.tenant tenant).windows.any fun w => match w.2 with
    | none => false
    | some w =>
      nfield w.w0 40 24 == obj && nfield w.w0 30 10 == e.phys.toNat && decide (nfield w.w1 8 28 * 4096 ≤ a)
        && decide (a + n ≤ (nfield w.w1 36 28 + 1) * 4096)

/-- The route check of an atomic, a reduction or a signal operation (R374): the reason of the atomic-route fault. A
plain `SIGWAIT` read is subject to the minimum scope alone (R375). -/
def routeFault (s : State) (tenant : Nat) (route : Option Route) (a n : Nat) (scope : Scope) (op : Option RmwOp) (t : Ty)
    (red : Bool) : Option (BitVec 8) :=
  match route with
  | none | some .local => none
  | some (.peer lid obj) =>
    if scope.code < Scope.code .dom then some 0x01
    else match op with
      | some .sigadd | some .sigset | none => none
      | some _ => if t.isFloat && !inWindow s tenant lid obj a n then some 0x03 else none
  | some (.host _) =>
    if scope.code < Scope.code .sys then some 0x01
    else match op with
      | none => none
      | some o => if pcieCarries o t red then none else some 0x02

/-- The checks of R209 and R377 that come before the route: alignment, then the capability. -/
def accessFault (a : Access) : Option Trap :=
  if a.addr % a.len ≠ 0 then some (.precise 0x06 0 (infoOf a.addr))
  else if !(Cap.obj a.cap != 0 && a.need.all (Cap.has a.cap) && Cap.within a.cap a.addr a.len) then
    some (.precise 0x02 0 (infoOf a.addr))
  else none

/-- The operation an access makes of the access unit. -/
def Access.op (c : Core) (a : Access) : AccOp where
  id := c.nextOp
  rank := c.nextOp
  grp := c.groups
  word := BitVec.ofNat 2 c.grp.word
  kind := a.kind
  cap := a.cap
  addr := a.addr.toNat
  len := a.len
  ord := a.ord
  scope := a.scope
  data := a.data
  cmp := a.cmp
  stamp := 0
  phase := .queued
  result := 0

/-- A scalar access to device memory at issue: its checks, the stall on tasks of the window (R210), and its place in
the access unit. -/
def issueAccess (a : Access) (s : State) : OpRes :=
  match accessFault a with
  | some t => .trap t s
  | none =>
    let c := s.core
    if c.overlaps (objCells (Cap.obj a.cap) a.addr.toNat a.len) ∨ c.accFull then .stall s
    else onReg s fun k => k.enqueue (a.op k)

/-- The route of an object as the core's cache holds it: none while it is not known (R375). -/
def Core.knownRoute (c : Core) (obj : Nat) : Option (Option Route) := (c.routeCache.find? (·.1 == obj)).map Prod.snd

/-- The route check of an operation that R374 governs, between the capability check and the queue: it waits until the
route is known. -/
def routed (a : Access) (op : Option RmwOp) (t : Ty) (red : Bool) (s : State) (go : State → OpRes) : OpRes :=
  match accessFault a with
  | some tr => .trap tr s
  | none =>
    match s.core.knownRoute (Cap.obj a.cap) with
    | none => .stall s
    | some r =>
      match routeFault s (s.tenantOf s.cur) r a.addr.toNat a.len a.scope op t red with
      | some reason => .trap (.precise 0x0B reason (infoOf a.addr)) s
      | none => go s

end Sys2Proof.Machine
end

