-- ==== Sys2Proof/Machine/Bounds.lean ====
section
/-!
DEFINITION. Bound registers as a check reads them (R478 to R481).
-/

namespace Sys2Proof.Machine

open Sys2Proof.Bits

namespace Bound

/-- The mode: 0 flag, 1 clamp, 2 trap (R478). -/
def mode (w : Word) : Nat := nfield w 0 2
/-- The format's code (R478). -/
def fmt (w : Word) : Nat := nfield w 4 4
/-- The breach bit set (R480). -/
def broken (w : Word) : Word := setBit w 3 true

/-- The value of a bound code (R479); `open'` is the integer code without a limit and `below` its side. -/
def value (w : Word) (code : BitVec 28) (open' : BitVec 28) (below : Bool) : FVal :=
  if 8 ≤ fmt w then Fmt.f32.value (code.toNat * 16)
  else if code = open' then .inf below
  else .ofInt code.toInt

/-- The lower bound (R479). -/
def lo (w : Word) : FVal := value w (field w 8 28) 0x8000000 true
/-- The upper bound (R479). -/
def hi (w : Word) : FVal := value w (field w 36 28) 0x7FFFFFF false

/-- One value is strictly below another; neither is a NaN. -/
def less (x y : FVal) : Bool := match FVal.cmp x y with | some d => decide (d < 0) | none => false

/-- The value breaches the register (R480). -/
def breaches (w : Word) (v : FVal) : Bool :=
  v.isNan || (lo w).isNan || (hi w).isNan || less v (lo w) || less (hi w) v

/-- What clamp mode writes in place of a breaching value (R480). -/
def clamped (w : Word) (t : Ty) (v : FVal) : Rounded :=
  let low := v.isNan || less v (lo w) || less (hi w) (lo w)
  let x := if low then lo w else hi w
  roundElem t (if low || FVal.cmp x (lo w) == some 0 then .rup else .rdn) x 0

end Bound

end Sys2Proof.Machine
end

