-- ==== Sys2Proof/WellFormed.lean ====
section
/-!
DEFINITION. Which terms of `Instr` an instruction word can hold: the restrictions of the manual on operand
values beyond their types (R165). Device steps have no word; `wellFormed` is true of them.
-/

namespace Sys2Proof

open Sys2Proof.Machine

/-- The operand values that the encoding of the instruction admits (R165, R186, R190, R191, R193, R207, R208,
R235, R237, R244, R245, R248, R250, R252, R378, R383 to R385, R388). -/
def Instr.wellFormed : Instr → Bool
  | .coldReset => true
  | .partitionReset _ => true
  | .flrVf _ => true
  | .flrPf => true
  | .pcieLinkTraining => true
  | .jedomPortTraining _ _ _ _ => true
  | .jedomCrcRetrain _ _ => true
  | .cxlLinkTraining _ => true
  | .ethernetLinkTraining _ => true
  | .linkRetransmission => true
  | .fwlockLock _ => true
  | .bar2Access _ _ _ _ => true
  | .hqDoorbell _ _ _ => true
  | .queueEnable _ _ _ => true
  | .queueDisable _ _ _ => true
  | .queueResume _ _ => true
  | .attestationRequest _ => true
  | .attestationReportReady _ => true
  | .spdmRequest _ => true
  | .errorCounterRead _ => true
  | .counterSnapshotReady _ => true
  | .registerWrite _ _ => true
  | .recordSealRead _ _ => true
  | .sealRefetch _ _ => true
  | .noopRecord _ _ _ => true
  | .kernelRecord _ _ _ => true
  | .waitRefSatisfied _ => true
  | .collectiveStepRecord _ _ _ => true
  | .signalAddRecord _ _ _ => true
  | .signalSetRecord _ _ _ => true
  | .signalWaitRecord _ _ => true
  | .signalWaitSatisfied _ _ => true
  | .signalWaitTimeout _ _ => true
  | .membershipReplaceRecord _ _ _ => true
  | .membershipWithdrawRecord _ _ _ => true
  | .membershipAddRecord _ _ _ => true
  | .snapshotRecord _ _ _ => true
  | .snapshotQueryRecord _ _ _ => true
  | .createObject _ _ _ => true
  | .destroyObject _ _ _ => true
  | .writeCapabilityEntry _ _ _ => true
  | .copyHostToObject _ _ _ => true
  | .copyObjectToHost _ _ _ => true
  | .readRegister _ _ _ => true
  | .writePartitionAssignment _ _ _ => true
  | .writePlacementWeight _ _ _ => true
  | .writeSbcfg _ _ _ => true
  | .writeCwcfg _ _ _ => true
  | .writeSncfg _ _ _ => true
  | .writeIslcfg _ _ _ => true
  | .writePwrcap _ _ _ => true
  | .debugEnable _ _ _ => true
  | .debugFreezePartition _ _ _ => true
  | .debugFreezeDevice _ _ _ => true
  | .debugThaw _ _ _ => true
  | .scanShift _ _ => true
  | .debugRelease _ => true
  | .provisionFunction _ _ _ => true
  | .unprovisionFunction _ _ _ => true
  | .writePeerMapEntry _ _ _ => true
  | .writeReductionWindow _ _ _ => true
  | .loadPolicyPlugin _ _ _ => true
  | .recordCompletion _ _ _ => true
  | .launchComplete _ => true
  | .sliceTurn _ => true
  | .pluginCall _ _ => true
  | .pluginBudgetExpiry _ => true
  | .pluginFault _ => true
  | .schedulerPmpFault _ => true
  | .placementDecision => true
  | .rotationIntervalExpiry _ => true
  | .teamPlace _ => true
  | .teamEnd _ => true
  | .forcedPreemptionTimeout _ => true
  | .saveComplete _ => true
  | .teamResume _ => true
  | .groupIssue _ => true
  | .icacheLineFill _ _ => true
  | .loadReturn _ _ => true
  | .memoryRequestSend _ _ => true
  | .routeLookup _ _ => true
  | .extentTableWalk _ _ _ => true
  | .extentInvalidate _ _ => true
  | .memoryPortRequest _ _ => true
  | .pageFaultService _ _ => true
  | .reserveStallExpiry _ => true
  | .extentMigration _ _ _ => true
  | .migrationCopyComplete _ _ => true
  | .frameRetirement _ _ => true
  | .memoryScrub _ _ => true
  | .rowSweep _ _ _ => true
  | .directoryInsert _ _ => true
  | .entrySettled _ _ => true
  | .releaseAgeExpiry _ _ => true
  | .taskRelease _ _ => true
  | .taskComplete _ _ => true
  | .taskRetire _ _ => true
  | .unitEvaluation _ _ => true
  | .remotePostArrival _ _ => true
  | .stallReport _ => true
  | .mldstTask _ _ => true
  | .mswapTask _ _ => true
  | .mzeroTask _ _ => true
  | .mstreamTask _ _ => true
  | .mdrainTask _ _ => true
  | .mepiTask _ _ => true
  | .smapTask _ _ => true
  | .sredTask _ _ => true
  | .xposeTask _ _ => true
  | .tstartTask _ _ => true
  | .copyTask _ _ => true
  | .gatherTask _ _ => true
  | .scatterTask _ _ => true
  | .subscrTask _ _ => true
  | .collTask _ _ => true
  | .ringpopTask _ _ => true
  | .ringpushTask _ _ => true
  | .engineFault _ _ _ => true
  | .rollbackEvent _ => true
  | .softErrorReplay _ _ => true
  | .copyChunk _ _ => true
  | .copyRequestIssue _ _ => true
  | .requestResponse _ _ => true
  | .tideFillItem _ _ => true
  | .tideDrainItem _ _ => true
  | .redFlushAge _ _ => true
  | .sigwaitPoll _ => true
  | .rvRegister _ _ => true
  | .syscReturn _ => true
  | .wfeWake _ => true
  | .peerRemap _ _ _ _ => true
  | .flowMessageDelivery _ => true
  | .remoteAccess _ => true
  | .flowAck _ _ _ => true
  | .flowRefusal _ _ _ _ => true
  | .flowRetry _ _ _ => true
  | .flowEnd _ _ => true
  | .postrSend _ => true
  | .collLineArrival _ _ => true
  | .collLineApply _ _ => true
  | .collEndLine _ _ => true
  | .stepTimerExpiry _ _ => true
  | .membershipInstall _ _ _ => true
  | .absentPendingNotice _ _ _ => true
  | .presentNotice _ _ _ => true
  | .withdrawnNotice _ _ _ => true
  | .switchContribution _ _ => true
  | .switchRedDelivery _ => true
  | .switchLeaseExpiry _ => true
  | .trapEntry _ => true
  | .launchAbort _ => true
  | .masterFreeze _ _ => true
  | .freezeService _ _ => true
  | .chipGenerationSet _ _ _ => true
  | .cutNotice _ _ => true
  | .chipCutComplete _ _ => true
  | .undertowCopy _ _ _ _ => true
  | .generationDurable _ => true
  | .generationAbort _ _ => true
  | .islandFrequencySwitch _ => true
  | .powerCapEnforce _ _ => true
  | .thermalThrottle _ _ => true
  | .thermalRecovery _ _ => true
  | .retentionEntry _ => true
  | .retentionExit _ _ _ => true
  | .add _ _ _ => true
  | .sub _ _ _ => true
  | .mul _ _ _ => true
  | .mulh _ _ _ => true
  | .mulhu _ _ _ => true
  | .div _ _ _ => true
  | .divu _ _ _ => true
  | .rem _ _ _ => true
  | .remu _ _ _ => true
  | .and _ _ _ => true
  | .or _ _ _ => true
  | .xor _ _ _ => true
  | .andn _ _ _ => true
  | .shl _ _ _ => true
  | .shr _ _ _ => true
  | .sra _ _ _ => true
  | .rol _ _ _ => true
  | .ror _ _ _ => true
  | .min _ _ _ => true
  | .max _ _ _ => true
  | .minu _ _ _ => true
  | .maxu _ _ _ => true
  | .adds _ _ _ => true
  | .subs _ _ _ => true
  | .addi _ _ _ => true
  | .andi _ _ _ => true
  | .ori _ _ _ => true
  | .xori _ _ _ => true
  | .shli _ _ imm => shiftImm imm.toNat
  | .shri _ _ imm => shiftImm imm.toNat
  | .srai _ _ imm => shiftImm imm.toNat
  | .rori _ _ imm => shiftImm imm.toNat
  | .clz _ _ => true
  | .ctz _ _ => true
  | .popc _ _ => true
  | .brev _ _ => true
  | .bswap _ _ => true
  | .bilv2 _ _ _ => true
  | .bilv3 _ _ _ _ => true
  | .bdil2 _ _ k => phase2 k.toNat
  | .bdil3 _ _ k => phase3 k.toNat
  | .ext _ _ pos len => fieldOk pos len
  | .extz _ _ pos len => fieldOk pos len
  | .ins _ _ pos len => fieldOk pos len
  | .sel _ _ _ _ => true
  | .fadd t r _ _ _ => t.laneFloat && r.scalar
  | .fsub t r _ _ _ => t.laneFloat && r.scalar
  | .fmul t r _ _ _ => t.laneFloat && r.scalar
  | .fdiv t r _ _ _ => t.laneFloat && r.scalar
  | .fsqrt t r _ _ => t.laneFloat && r.scalar
  | .fma t r _ _ _ _ => t.laneFloat && r.scalar
  | .fmin t _ _ _ => t.laneFloat
  | .fmax t _ _ _ => t.laneFloat
  | .fcvt td ta r _ _ => ta.isFloat && td.isFloat && r.scalar
  | .fcvti td ta r _ _ => ta.isFloat && td.isInt && r.scalar
  | .icvtf td ta r _ _ => ta.isInt && td.isFloat && r.scalar
  | .fclass t _ _ => t.isFloat
  | .fcmp _ t _ _ _ => t.isFloat
  | .cmp _ _ _ _ => true
  | .cmpi _ _ _ _ => true
  | .pand _ _ _ => true
  | .por _ _ _ => true
  | .pxor _ _ _ => true
  | .pandn _ _ _ => true
  | .mfp _ => true
  | .mtp _ _ => true
  | .mfs _ sr => special sr.toNat
  | .mts sr _ => special sr.toNat
  | .cld _ _ _ => true
  | .cder _ _ _ _ _ => true
  | .crst _ _ _ => true
  | .cnull _ => true
  | .ld t o _ _ _ _ _ => o.load && t.notF4
  | .st t o _ _ _ _ _ => o.store && t.notF4
  | .ldx t _ _ _ _ => t.notF4
  | .stx t _ _ _ _ => t.notF4
  | .prept _ _ => true
  | .br _ _ => true
  | .call _ _ _ => true
  | .ret _ => true
  | .loop _ off => nonzero off.toNat
  | .loopm _ off => nonzero off.toNat
  | .loopmK _ off => nonzero off.toNat
  | .trap _ => true
  | .eret => true
  | .sysc _ => true
  | .safept _ => true
  | .wfe _ => true
  | .brk _ => true
  | .halt => true
  | .rvinit pt _ => point pt.toNat
  | .rvarrive pt _ _ => point pt.toNat
  | .rvwait pt _ _ => point pt.toNat
  | .rvarw pt _ _ => point pt.toNat
  | .rvleave pt => point pt.toNat
  | .rvleaveAll => true
  | .sigadd t _ _ _ _ _ _ _ => t.sig
  | .sigset t _ _ _ _ _ _ _ => t.sig
  | .sigwait t o _ _ _ _ _ _ => o.wait && t.sig
  | .amoAdd t _ _ _ _ _ _ _ => t.amoAdd
  | .amoMin t _ _ _ _ _ _ _ => t.amoInt
  | .amoMax t _ _ _ _ _ _ _ => t.amoInt
  | .amoAnd t _ _ _ _ _ _ _ => t.amoInt
  | .amoOr t _ _ _ _ _ _ _ => t.amoInt
  | .amoXor t _ _ _ _ _ _ _ => t.amoInt
  | .amoXchg t _ _ _ _ _ _ _ => t.amoInt
  | .amoCas t _ _ _ _ _ _ _ => t.amoInt
  | .amoCas2 t _ _ d _ _ b _ => t.n64Only && evenS b && evenS d
  | .redAdd t o _ _ _ _ _ => o.store && t.amoAdd
  | .redMin t o _ _ _ _ _ => o.store && t.amoInt
  | .redMax t o _ _ _ _ _ => o.store && t.amoInt
  | .redAnd t o _ _ _ _ _ => o.store && t.amoInt
  | .redOr t o _ _ _ _ _ => o.store && t.amoInt
  | .redXor t o _ _ _ _ _ => o.store && t.amoInt
  | .fence o _ => o.fence
  | .snap _ _ _ => true
  | .snapNw _ _ _ => true
  | .snapq _ _ _ => true
  | .vadd t r d _ _ _ => t.laneArith && vecDst d && rndOk t r
  | .vadds t d _ _ _ => t.isInt && vecDst d
  | .vsub t r d _ _ _ => t.laneArith && vecDst d && rndOk t r
  | .vsubs t d _ _ _ => t.isInt && vecDst d
  | .vmul t r d _ _ _ => t.laneArith && vecDst d && rndOk t r
  | .vfma t r d _ _ _ => t.laneArith && vecDst d && rndOk t r
  | .vfms t r d _ _ _ => t.laneArith && vecDst d && rndOk t r
  | .vmin t d _ _ _ => t.laneArith && vecDst d
  | .vmax t d _ _ _ => t.laneArith && vecDst d
  | .vabs t d _ _ => t.laneArith && vecDst d
  | .vneg t d _ _ => t.laneArith && vecDst d
  | .vand t d _ _ _ => t.notF4 && vecDst d
  | .vor t d _ _ _ => t.notF4 && vecDst d
  | .vxor t d _ _ _ => t.notF4 && vecDst d
  | .vandn t d _ _ _ => t.notF4 && vecDst d
  | .vshl t d _ _ _ => t.isInt && vecDst d
  | .vshr t d _ _ _ => t.isInt && vecDst d
  | .vsra t d _ _ _ => t.isInt && vecDst d
  | .vcmp c t _ _ _ _ => cmpTy c t
  | .vsel t d _ _ _ => t.notF4 && vecDst d
  | .vcvt td ts _ d _ b k _ => vecDst d && cvtPair td ts && cvtPart ts td k b
  | .vpk4 ts _ d _ _ k _ => ts.int4Other && vecDst d && pk4Part ts k
  | .vupk4 td _ d _ k _ => td.int4Other && vecDst d && upk4Part td k
  | .vrcp t _ d _ _ => t.laneFn && vecDst d
  | .vrsq t _ d _ _ => t.laneFn && vecDst d
  | .vexp2 t _ d _ _ => t.laneFn && vecDst d
  | .vlog2 t _ d _ _ => t.laneFn && vecDst d
  | .vsin t _ d _ _ => t.laneFn && vecDst d
  | .vtlu t _ d _ o _ => t.laneFn && vecTable o && vecDst d
  | .vrint t _ d _ _ => t.laneFn && vecDst d
  | .vsett _ _ _ _ => true
  | .vbcst t d _ _ => t.notF4 && vecDst d
  | .vext t _ _ _ => t.notF4
  | .vins t d _ _ => t.notF4 && vecDst d
  | .vperm t d _ _ _ => t.notF4 && vecDst d
  | .vsldu t d _ _ k _ => t.notF4 && vecDst d && slideOk t k
  | .vsldd t d _ _ k _ => t.notF4 && vecDst d && slideOk t k
  | .vcmpr t d _ _ => t.notF4 && vecDst d
  | .vxpnd t d _ _ => t.notF4 && vecDst d
  | .viota t d _ => t.isInt && vecDst d
  | .vredSum t _ _ _ => t.laneArith
  | .vredMin t _ _ _ => t.laneArith
  | .vredMax t _ _ _ => t.laneArith
  | .vredAnd t _ _ _ => t.isInt
  | .vredOr t _ _ _ => t.isInt
  | .vredXor t _ _ _ => t.isInt
  | .vredSums t _ _ _ => t.isInt
  | .vany t _ _ _ => t.notF4
  | .vall t _ _ _ => t.notF4
  | .vmpop t _ _ _ => t.notF4
  | .mlogAnd _ _ _ => true
  | .mlogOr _ _ _ => true
  | .mlogXor _ _ _ => true
  | .mlogAndn _ _ _ => true
  | .mlogNot _ _ => true
  | .vld t d _ _ _ => t.notF4 && vecDst d
  | .vst t _ _ _ _ => t.notF4
  | .vstB t _ _ _ _ _ => t.boundable
  | .mldst _ _ gb _ _ st0 st1 _ _ => stepOk st0 && stepOf gb st1
  | .mswap _ _ _ => true
  | .mzero _ _ _ _ _ => true
  | .mstream _ _ _ gc _ _ st0 st2 _ _ => stepOk st0 && stepOf gc st2
  | .mdrain _ _ _ _ _ _ st1 _ _ => stepOk st1
  | .mepi _ _ _ _ _ _ => true
  | .smap _ _ gb _ _ _ _ st0 st1 st2 _ => stepOk st0 && stepOf gb st1 && stepOk st2
  | .sred _ _ _ _ _ st0 _ => stepOk st0
  | .xpose _ _ _ _ _ st0 st1 _ => stepOk st0 && stepOk st1
  | .copy _ _ _ _ _ _ _ _ _ => true
  | .gather _ _ _ _ _ _ _ _ _ _ => true
  | .scatter _ _ _ _ _ _ _ _ _ _ => true
  | .subscr _ _ _ _ _ _ _ => true
  | .ringpop _ _ _ _ => true
  | .ringpush _ _ _ _ => true
  | .coll _ _ _ _ _ _ _ _ => true
  | .postm _ _ _ _ => true
  | .postr _ _ _ _ _ _ => true
  | .bundle => true
  | .bend => true
  | .guard _ _ _ _ _ _ _ _ => true
  | .gcheck => true
  | .gexact => true
  | .gend => true
  | .tstart _ _ => true
  | .rgld o _ _ _ _ _ _ => o.load
  | .twait em => nonzero em.toNat
  | .li _ _ => true
  | .addl _ _ _ => true
  | .andl _ _ _ => true
  | .orl _ _ _ => true
  | .xorl _ _ _ => true
  | .cmpl _ _ _ _ => true
  | .ldl t o _ _ _ _ _ => o.load && t.notF4
  | .stl t o _ _ _ _ _ => o.store && t.notF4
  | .rgset _ _ => true
  | .vli d _ => vecDst d
  | .snop => true
  | .addSlot _ _ _ => true
  | .subSlot _ _ _ => true
  | .andSlot _ _ _ => true
  | .orSlot _ _ _ => true
  | .xorSlot _ _ _ => true
  | .andnSlot _ _ _ => true
  | .shlSlot _ _ _ => true
  | .shrSlot _ _ _ => true
  | .sraSlot _ _ _ => true
  | .minSlot _ _ _ => true
  | .maxSlot _ _ _ => true
  | .minuSlot _ _ _ => true
  | .maxuSlot _ _ _ => true
  | .mulSlot _ _ _ => true
  | .addiSlot _ _ _ => true
  | .shliSlot _ _ imm => slotShift imm.toNat
  | .shriSlot _ _ imm => slotShift imm.toNat
  | .sraiSlot _ _ imm => slotShift imm.toNat
  | .cmpEqSlot _ _ _ => true
  | .cmpNeSlot _ _ _ => true
  | .cmpLtSlot _ _ _ => true
  | .cmpLtuSlot _ _ _ => true
  | .cmpGeSlot _ _ _ => true
  | .cmpGeuSlot _ _ _ => true
  | .cmpiEqSlot _ _ _ => true
  | .pandSlot _ _ _ => true
  | .porSlot _ _ _ => true
  | .pxorSlot _ _ _ => true
  | .pandnSlot _ _ _ => true
  | .vnop => true
  | .vmov d _ => vecDst d
  | .vaddSlot d _ _ => vecDst d
  | .vsubSlot d _ _ => vecDst d
  | .vmulSlot d _ _ => vecDst d
  | .vfmaSlot d _ _ => vecDst d
  | .vfmsSlot d _ _ => vecDst d
  | .vminSlot d _ _ => vecDst d
  | .vmaxSlot d _ _ => vecDst d
  | .vabsSlot d _ => vecDst d
  | .vnegSlot d _ => vecDst d
  | .vandSlot d _ _ => vecDst d
  | .vorSlot d _ _ => vecDst d
  | .vxorSlot d _ _ => vecDst d
  | .vandnSlot d _ _ => vecDst d
  | .vshlSlot d _ _ => vecDst d
  | .vshrSlot d _ _ => vecDst d
  | .vsraSlot d _ _ => vecDst d
  | .vrcpSlot d _ => vecDst d
  | .vrsqSlot d _ => vecDst d
  | .vexp2Slot d _ => vecDst d
  | .vlog2Slot d _ => vecDst d
  | .vsinSlot d _ => vecDst d
  | .vrintSlot d _ => vecDst d
  | .vcmpEqSlot _ _ _ => true
  | .vcmpNeSlot _ _ _ => true
  | .vcmpLtSlot _ _ _ => true
  | .vcmpLeSlot _ _ _ => true
  | .vslduSlot d _ _ => vecDst d
  | .vslddSlot d _ _ => vecDst d
  | .vpermSlot d _ _ => vecDst d
  | .vtluSlot d _ b => vecTable b && vecDst d
  | .vcvtSlot d _ _ => vecDst d
  | .vaddsSlot d _ _ => vecDst d
  | .vsubsSlot d _ _ => vecDst d
  | .bar4Write _ _ => true
  | .pcieCompletionTimeout _ => true

end Sys2Proof
end

