-- ==== Sys2Proof/Decode.lean ====
section
/-!
DEFINITION. Instruction words (R158 to R178): the decoder, total on any bytes, which rejects by name with the
reason codes of R174, and after it the encoder. A word is cut into fields by a list of widths, lowest field
first; every instruction has one layout, used by both.
-/

namespace Sys2Proof

open Sys2Proof.Machine

/-- Why a word is no instruction, or a group no group: the reasons of R174, and a word that is not there. -/
inductive Reject where
  | tooLong | format | opcode | wordKind | vectorName | field | codeField | tooMany | controlPlace | notAlone
  | delayGroup | dependence | stochastic | truncated
  deriving DecidableEq, Repr

/-- The reason code (R174). -/
def Reject.reason : Reject → BitVec 8
  | .tooLong => 0x01 | .format => 0x02 | .opcode => 0x03 | .wordKind => 0x04 | .vectorName => 0x05 | .field => 0x06
  | .codeField => 0x07 | .tooMany => 0x08 | .controlPlace => 0x09 | .notAlone => 0x0A | .delayGroup => 0x0B
  | .dependence => 0x0C | .stochastic => 0x0D | .truncated => 0x01

/-- The lower of two reasons (R174). -/
def Reject.least (a b : Reject) : Reject := if b.reason < a.reason then b else a

/-- What reading a field gives. -/
abbrev Parse (α : Type) := Except Reject α

namespace Decode

/-- Applies a read function to a read operand; of two rejections the lower stands (R174). -/
def ap {α β : Type} (f : Parse (α → β)) (x : Parse α) : Parse β :=
  match f, x with
  | .ok f, .ok x => .ok (f x)
  | .ok _, .error e => .error e
  | .error e, .ok _ => .error e
  | .error e, .error e' => .error (e.least e')

/-- Adds a check to a reading. -/
def also {α : Type} (x : Parse α) (c : Parse Unit) : Parse α :=
  match x, c with
  | .ok x, .ok _ => .ok x
  | .ok _, .error e => .error e
  | .error e, .ok _ => .error e
  | .error e, .error e' => .error (e.least e')

/-- Fields that must be zero (R165). -/
def zeros (xs : List Nat) : Parse Unit := if xs.all (· == 0) then .ok () else .error .field

/-- A check over operands that were read; operands that were not are rejected on their own account. -/
def holds (e : Reject) (c : Parse Bool) : Parse Unit :=
  match c with
  | .ok true => .ok ()
  | .ok false => .error e
  | .error _ => .ok ()

/-- Cuts a number into fields of the given widths, lowest first. -/
def unpack : List Nat → Nat → List Nat
  | [], _ => []
  | w :: ws, n => n % 2 ^ w :: unpack ws (n / 2 ^ w)

/-- Puts fields of the given widths together, lowest first. -/
def pack : List Nat → List Nat → Nat
  | w :: ws, v :: vs => v % 2 ^ w + 2 ^ w * pack ws vs
  | _, _ => 0

/-- One bit of a number. -/
def bitAt (lo w : Nat) : Nat := w / 2 ^ lo % 2

/-- A register number below the size of its class (R160). -/
def pFin (k : Nat) (e : Reject) (n : Nat) : Parse (Fin k) := if h : n < k then .ok ⟨n, h⟩ else .error e

/-- A scalar register. -/
def pS (n : Nat) : Parse SReg := pFin 32 .field n
/-- An even scalar register (R378). -/
def pEvenS (n : Nat) : Parse SReg := also (pS n) (if n % 2 = 0 then .ok () else .error .field)
/-- A capability register. -/
def pC (n : Nat) : Parse CReg := pFin 16 .field n
/-- A predicate. -/
def pP (n : Nat) : Parse PReg := pFin 16 .field n
/-- A mask. -/
def pM (n : Nat) : Parse MReg := pFin 16 .field n
/-- A region register. -/
def pG (n : Nat) : Parse GReg := pFin 32 .field n
/-- A branch target register. -/
def pB (n : Nat) : Parse BReg := pFin 8 .field n
/-- A mailbox, bound or tolerance number. -/
def pMb (n : Nat) : Parse (Fin 16) := pFin 16 .field n
/-- A vector name (R161). -/
def pV (n : Nat) : Parse VReg := pFin 640 .vectorName n
/-- A vector destination (R235). -/
def pVD (n : Nat) : Parse VReg := also (pV n) (if 608 ≤ n ∧ n < 640 then .error .field else .ok ())
/-- A `VTLU` table (R248). -/
def pVO (n : Nat) : Parse VReg := also (pV n) (if n < 512 ∨ (608 ≤ n ∧ n < 640) then .error .field else .ok ())
/-- A plain field. -/
def pBV (k : Nat) (n : Nat) : Parse (BitVec k) := .ok (BitVec.ofNat k n)
/-- A plain field with a range. -/
def pBVp (k : Nat) (p : Nat → Bool) (n : Nat) : Parse (BitVec k) := if p n then .ok (BitVec.ofNat k n) else .error .field
/-- A special register: a reserved number is a reserved code (R163, R174). -/
def pSpecial (n : Nat) : Parse (BitVec 12) := if special n then .ok (BitVec.ofNat 12 n) else .error .codeField
/-- The extension word of `LDL` and `STL` (R176). -/
def pOff48 (n : Nat) : Parse (BitVec 48) := if n < 2 ^ 48 then .ok (BitVec.ofNat 48 n) else .error .field
/-- A flag. -/
def pBool (n : Nat) : Parse Bool := .ok (n != 0)
/-- The nb and pn fields (R259). -/
def pNB (n : Nat) : Parse NB := if n < 16 then (if n = 0 then .ok none else .error .field) else (pP (n - 16)).map some
/-- A step code (R260). -/
def pStep (n : Nat) : Parse Step := if n = 7 then .error .codeField else .ok (BitVec.ofNat 3 n)
/-- The step code of a walked optional slot: zero where the slot is absent (R260). -/
def pStepOf (g n : Nat) : Parse Step := if g = 0 then (if n = 0 then .ok 0 else .error .field) else pStep n
/-- A type code that the instruction accepts (R237). -/
def pTy (p : Ty → Bool) (n : Nat) : Parse Ty := if p (Ty.ofCode n) then .ok (Ty.ofCode n) else .error .codeField
/-- A rounding code (R43). -/
def pRnd (n : Nat) : Parse Rnd :=
  match Rnd.ofCode n with
  | some r => .ok r
  | none => .error .codeField
/-- A rounding code of the sequencer (R43, R193). -/
def pRndS (n : Nat) : Parse Rnd :=
  match Rnd.ofCode n with
  | some .rsr => .error .stochastic
  | some r => .ok r
  | none => .error .codeField
/-- A rounding code beside a type code: unused with an integer type (R238, R239). -/
def pRndFor (t n : Nat) : Parse Rnd :=
  if (Ty.ofCode t).isInt then (if n = 0 then .ok .rne else .error .field) else pRnd n
/-- An ordering that the instruction takes (R208). -/
def pOrd (p : Ord → Bool) (n : Nat) : Parse Ord := if p (Ord.ofCode n) then .ok (Ord.ofCode n) else .error .codeField
/-- A scope (R164). -/
def pScope (n : Nat) : Parse Scope :=
  match Scope.ofCode n with
  | some x => .ok x
  | none => .error .codeField
/-- A condition (R197). -/
def pICond (n : Nat) : Parse ICond :=
  match ICond.ofCode n with
  | some x => .ok x
  | none => .error .codeField
/-- A condition (R198). -/
def pFCond (n : Nat) : Parse FCond :=
  match FCond.ofCode n with
  | some x => .ok x
  | none => .error .codeField
/-- A condition (R241). -/
def pVCond (n : Nat) : Parse VCond :=
  match VCond.ofCode n with
  | some x => .ok x
  | none => .error .codeField

/-- The operands of ADD. -/
def decAdd (w : Nat) : Parse SoloOp :=
  match unpack [28, 5, 5, 5, 5] w with
  | [z0, z1, b, a, d] =>
    also (ap (ap (ap (.ok SoloOp.add) (pS d)) (pS a)) (pS b))
      (zeros [z0, z1])
  | _ => .error .field

/-- The operands of SUB. -/
def decSub (w : Nat) : Parse SoloOp :=
  match unpack [28, 5, 5, 5, 5] w with
  | [z0, z1, b, a, d] =>
    also (ap (ap (ap (.ok SoloOp.sub) (pS d)) (pS a)) (pS b))
      (zeros [z0, z1])
  | _ => .error .field

/-- The operands of MUL. -/
def decMul (w : Nat) : Parse SoloOp :=
  match unpack [28, 5, 5, 5, 5] w with
  | [z0, z1, b, a, d] =>
    also (ap (ap (ap (.ok SoloOp.mul) (pS d)) (pS a)) (pS b))
      (zeros [z0, z1])
  | _ => .error .field

/-- The operands of MULH. -/
def decMulh (w : Nat) : Parse SoloOp :=
  match unpack [28, 5, 5, 5, 5] w with
  | [z0, z1, b, a, d] =>
    also (ap (ap (ap (.ok SoloOp.mulh) (pS d)) (pS a)) (pS b))
      (zeros [z0, z1])
  | _ => .error .field

/-- The operands of MULHU. -/
def decMulhu (w : Nat) : Parse SoloOp :=
  match unpack [28, 5, 5, 5, 5] w with
  | [z0, z1, b, a, d] =>
    also (ap (ap (ap (.ok SoloOp.mulhu) (pS d)) (pS a)) (pS b))
      (zeros [z0, z1])
  | _ => .error .field

/-- The operands of DIV. -/
def decDiv (w : Nat) : Parse SoloOp :=
  match unpack [28, 5, 5, 5, 5] w with
  | [z0, z1, b, a, d] =>
    also (ap (ap (ap (.ok SoloOp.div) (pS d)) (pS a)) (pS b))
      (zeros [z0, z1])
  | _ => .error .field

/-- The operands of DIVU. -/
def decDivu (w : Nat) : Parse SoloOp :=
  match unpack [28, 5, 5, 5, 5] w with
  | [z0, z1, b, a, d] =>
    also (ap (ap (ap (.ok SoloOp.divu) (pS d)) (pS a)) (pS b))
      (zeros [z0, z1])
  | _ => .error .field

/-- The operands of REM. -/
def decRem (w : Nat) : Parse SoloOp :=
  match unpack [28, 5, 5, 5, 5] w with
  | [z0, z1, b, a, d] =>
    also (ap (ap (ap (.ok SoloOp.rem) (pS d)) (pS a)) (pS b))
      (zeros [z0, z1])
  | _ => .error .field

/-- The operands of REMU. -/
def decRemu (w : Nat) : Parse SoloOp :=
  match unpack [28, 5, 5, 5, 5] w with
  | [z0, z1, b, a, d] =>
    also (ap (ap (ap (.ok SoloOp.remu) (pS d)) (pS a)) (pS b))
      (zeros [z0, z1])
  | _ => .error .field

/-- The operands of AND. -/
def decAnd (w : Nat) : Parse SoloOp :=
  match unpack [28, 5, 5, 5, 5] w with
  | [z0, z1, b, a, d] =>
    also (ap (ap (ap (.ok SoloOp.and) (pS d)) (pS a)) (pS b))
      (zeros [z0, z1])
  | _ => .error .field

/-- The operands of OR. -/
def decOr (w : Nat) : Parse SoloOp :=
  match unpack [28, 5, 5, 5, 5] w with
  | [z0, z1, b, a, d] =>
    also (ap (ap (ap (.ok SoloOp.or) (pS d)) (pS a)) (pS b))
      (zeros [z0, z1])
  | _ => .error .field

/-- The operands of XOR. -/
def decXor (w : Nat) : Parse SoloOp :=
  match unpack [28, 5, 5, 5, 5] w with
  | [z0, z1, b, a, d] =>
    also (ap (ap (ap (.ok SoloOp.xor) (pS d)) (pS a)) (pS b))
      (zeros [z0, z1])
  | _ => .error .field

/-- The operands of ANDN. -/
def decAndn (w : Nat) : Parse SoloOp :=
  match unpack [28, 5, 5, 5, 5] w with
  | [z0, z1, b, a, d] =>
    also (ap (ap (ap (.ok SoloOp.andn) (pS d)) (pS a)) (pS b))
      (zeros [z0, z1])
  | _ => .error .field

/-- The operands of SHL. -/
def decShl (w : Nat) : Parse SoloOp :=
  match unpack [28, 5, 5, 5, 5] w with
  | [z0, z1, b, a, d] =>
    also (ap (ap (ap (.ok SoloOp.shl) (pS d)) (pS a)) (pS b))
      (zeros [z0, z1])
  | _ => .error .field

/-- The operands of SHR. -/
def decShr (w : Nat) : Parse SoloOp :=
  match unpack [28, 5, 5, 5, 5] w with
  | [z0, z1, b, a, d] =>
    also (ap (ap (ap (.ok SoloOp.shr) (pS d)) (pS a)) (pS b))
      (zeros [z0, z1])
  | _ => .error .field

/-- The operands of SRA. -/
def decSra (w : Nat) : Parse SoloOp :=
  match unpack [28, 5, 5, 5, 5] w with
  | [z0, z1, b, a, d] =>
    also (ap (ap (ap (.ok SoloOp.sra) (pS d)) (pS a)) (pS b))
      (zeros [z0, z1])
  | _ => .error .field

/-- The operands of ROL. -/
def decRol (w : Nat) : Parse SoloOp :=
  match unpack [28, 5, 5, 5, 5] w with
  | [z0, z1, b, a, d] =>
    also (ap (ap (ap (.ok SoloOp.rol) (pS d)) (pS a)) (pS b))
      (zeros [z0, z1])
  | _ => .error .field

/-- The operands of ROR. -/
def decRor (w : Nat) : Parse SoloOp :=
  match unpack [28, 5, 5, 5, 5] w with
  | [z0, z1, b, a, d] =>
    also (ap (ap (ap (.ok SoloOp.ror) (pS d)) (pS a)) (pS b))
      (zeros [z0, z1])
  | _ => .error .field

/-- The operands of MIN. -/
def decMin (w : Nat) : Parse SoloOp :=
  match unpack [28, 5, 5, 5, 5] w with
  | [z0, z1, b, a, d] =>
    also (ap (ap (ap (.ok SoloOp.min) (pS d)) (pS a)) (pS b))
      (zeros [z0, z1])
  | _ => .error .field

/-- The operands of MAX. -/
def decMax (w : Nat) : Parse SoloOp :=
  match unpack [28, 5, 5, 5, 5] w with
  | [z0, z1, b, a, d] =>
    also (ap (ap (ap (.ok SoloOp.max) (pS d)) (pS a)) (pS b))
      (zeros [z0, z1])
  | _ => .error .field

/-- The operands of MINU. -/
def decMinu (w : Nat) : Parse SoloOp :=
  match unpack [28, 5, 5, 5, 5] w with
  | [z0, z1, b, a, d] =>
    also (ap (ap (ap (.ok SoloOp.minu) (pS d)) (pS a)) (pS b))
      (zeros [z0, z1])
  | _ => .error .field

/-- The operands of MAXU. -/
def decMaxu (w : Nat) : Parse SoloOp :=
  match unpack [28, 5, 5, 5, 5] w with
  | [z0, z1, b, a, d] =>
    also (ap (ap (ap (.ok SoloOp.maxu) (pS d)) (pS a)) (pS b))
      (zeros [z0, z1])
  | _ => .error .field

/-- The operands of ADDS. -/
def decAdds (w : Nat) : Parse SoloOp :=
  match unpack [28, 5, 5, 5, 5] w with
  | [z0, z1, b, a, d] =>
    also (ap (ap (ap (.ok SoloOp.adds) (pS d)) (pS a)) (pS b))
      (zeros [z0, z1])
  | _ => .error .field

/-- The operands of SUBS. -/
def decSubs (w : Nat) : Parse SoloOp :=
  match unpack [28, 5, 5, 5, 5] w with
  | [z0, z1, b, a, d] =>
    also (ap (ap (ap (.ok SoloOp.subs) (pS d)) (pS a)) (pS b))
      (zeros [z0, z1])
  | _ => .error .field

/-- The operands of ADDI. -/
def decAddi (w : Nat) : Parse SoloOp :=
  match unpack [32, 6, 5, 5] w with
  | [imm, z0, a, d] =>
    also (ap (ap (ap (.ok SoloOp.addi) (pS d)) (pS a)) ((pBV 32) imm))
      (zeros [z0])
  | _ => .error .field

/-- The operands of ANDI. -/
def decAndi (w : Nat) : Parse SoloOp :=
  match unpack [32, 6, 5, 5] w with
  | [imm, z0, a, d] =>
    also (ap (ap (ap (.ok SoloOp.andi) (pS d)) (pS a)) ((pBV 32) imm))
      (zeros [z0])
  | _ => .error .field

/-- The operands of ORI. -/
def decOri (w : Nat) : Parse SoloOp :=
  match unpack [32, 6, 5, 5] w with
  | [imm, z0, a, d] =>
    also (ap (ap (ap (.ok SoloOp.ori) (pS d)) (pS a)) ((pBV 32) imm))
      (zeros [z0])
  | _ => .error .field

/-- The operands of XORI. -/
def decXori (w : Nat) : Parse SoloOp :=
  match unpack [32, 6, 5, 5] w with
  | [imm, z0, a, d] =>
    also (ap (ap (ap (.ok SoloOp.xori) (pS d)) (pS a)) ((pBV 32) imm))
      (zeros [z0])
  | _ => .error .field

/-- The operands of SHLI. -/
def decShli (w : Nat) : Parse SoloOp :=
  match unpack [32, 6, 5, 5] w with
  | [imm, z0, a, d] =>
    also (ap (ap (ap (.ok SoloOp.shli) (pS d)) (pS a)) ((pBVp 32 shiftImm) imm))
      (zeros [z0])
  | _ => .error .field

/-- The operands of SHRI. -/
def decShri (w : Nat) : Parse SoloOp :=
  match unpack [32, 6, 5, 5] w with
  | [imm, z0, a, d] =>
    also (ap (ap (ap (.ok SoloOp.shri) (pS d)) (pS a)) ((pBVp 32 shiftImm) imm))
      (zeros [z0])
  | _ => .error .field

/-- The operands of SRAI. -/
def decSrai (w : Nat) : Parse SoloOp :=
  match unpack [32, 6, 5, 5] w with
  | [imm, z0, a, d] =>
    also (ap (ap (ap (.ok SoloOp.srai) (pS d)) (pS a)) ((pBVp 32 shiftImm) imm))
      (zeros [z0])
  | _ => .error .field

/-- The operands of RORI. -/
def decRori (w : Nat) : Parse SoloOp :=
  match unpack [32, 6, 5, 5] w with
  | [imm, z0, a, d] =>
    also (ap (ap (ap (.ok SoloOp.rori) (pS d)) (pS a)) ((pBVp 32 shiftImm) imm))
      (zeros [z0])
  | _ => .error .field

/-- The operands of CLZ. -/
def decClz (w : Nat) : Parse SoloOp :=
  match unpack [28, 5, 5, 5, 5] w with
  | [z0, z1, z2, a, d] =>
    also (ap (ap (.ok SoloOp.clz) (pS d)) (pS a))
      (zeros [z0, z1, z2])
  | _ => .error .field

/-- The operands of CTZ. -/
def decCtz (w : Nat) : Parse SoloOp :=
  match unpack [28, 5, 5, 5, 5] w with
  | [z0, z1, z2, a, d] =>
    also (ap (ap (.ok SoloOp.ctz) (pS d)) (pS a))
      (zeros [z0, z1, z2])
  | _ => .error .field

/-- The operands of POPC. -/
def decPopc (w : Nat) : Parse SoloOp :=
  match unpack [28, 5, 5, 5, 5] w with
  | [z0, z1, z2, a, d] =>
    also (ap (ap (.ok SoloOp.popc) (pS d)) (pS a))
      (zeros [z0, z1, z2])
  | _ => .error .field

/-- The operands of BREV. -/
def decBrev (w : Nat) : Parse SoloOp :=
  match unpack [28, 5, 5, 5, 5] w with
  | [z0, z1, z2, a, d] =>
    also (ap (ap (.ok SoloOp.brev) (pS d)) (pS a))
      (zeros [z0, z1, z2])
  | _ => .error .field

/-- The operands of BSWAP. -/
def decBswap (w : Nat) : Parse SoloOp :=
  match unpack [28, 5, 5, 5, 5] w with
  | [z0, z1, z2, a, d] =>
    also (ap (ap (.ok SoloOp.bswap) (pS d)) (pS a))
      (zeros [z0, z1, z2])
  | _ => .error .field

/-- The operands of BILV2. -/
def decBilv2 (w : Nat) : Parse SoloOp :=
  match unpack [28, 5, 5, 5, 5] w with
  | [z0, z1, b, a, d] =>
    also (ap (ap (ap (.ok SoloOp.bilv2) (pS d)) (pS a)) (pS b))
      (zeros [z0, z1])
  | _ => .error .field

/-- The operands of BILV3. -/
def decBilv3 (w : Nat) : Parse SoloOp :=
  match unpack [28, 5, 5, 5, 5] w with
  | [z0, c, b, a, d] =>
    also (ap (ap (ap (ap (.ok SoloOp.bilv3) (pS d)) (pS a)) (pS b)) (pS c))
      (zeros [z0])
  | _ => .error .field

/-- The operands of BDIL2. -/
def decBdil2 (w : Nat) : Parse SoloOp :=
  match unpack [2, 26, 5, 5, 5, 5] w with
  | [k, z0, z1, z2, a, d] =>
    also (ap (ap (ap (.ok SoloOp.bdil2) (pS d)) (pS a)) ((pBVp 2 phase2) k))
      (zeros [z0, z1, z2])
  | _ => .error .field

/-- The operands of BDIL3. -/
def decBdil3 (w : Nat) : Parse SoloOp :=
  match unpack [2, 26, 5, 5, 5, 5] w with
  | [k, z0, z1, z2, a, d] =>
    also (ap (ap (ap (.ok SoloOp.bdil3) (pS d)) (pS a)) ((pBVp 2 phase3) k))
      (zeros [z0, z1, z2])
  | _ => .error .field

/-- The operands of EXT. -/
def decExt (w : Nat) : Parse SoloOp :=
  match unpack [7, 6, 15, 5, 5, 5, 5] w with
  | [len, pos, z0, z1, z2, a, d] =>
    also (also (ap (ap (ap (ap (.ok SoloOp.ext) (pS d)) (pS a)) ((pBV 6) pos)) ((pBV 7) len))
      (holds .field (ap (ap (.ok fun pos len => fieldOk pos len) ((pBV 6) pos)) ((pBV 7) len))))
      (zeros [z0, z1, z2])
  | _ => .error .field

/-- The operands of EXTZ. -/
def decExtz (w : Nat) : Parse SoloOp :=
  match unpack [7, 6, 15, 5, 5, 5, 5] w with
  | [len, pos, z0, z1, z2, a, d] =>
    also (also (ap (ap (ap (ap (.ok SoloOp.extz) (pS d)) (pS a)) ((pBV 6) pos)) ((pBV 7) len))
      (holds .field (ap (ap (.ok fun pos len => fieldOk pos len) ((pBV 6) pos)) ((pBV 7) len))))
      (zeros [z0, z1, z2])
  | _ => .error .field

/-- The operands of INS. -/
def decIns (w : Nat) : Parse SoloOp :=
  match unpack [7, 6, 15, 5, 5, 5, 5] w with
  | [len, pos, z0, z1, z2, a, d] =>
    also (also (ap (ap (ap (ap (.ok SoloOp.ins) (pS d)) (pS a)) ((pBV 6) pos)) ((pBV 7) len))
      (holds .field (ap (ap (.ok fun pos len => fieldOk pos len) ((pBV 6) pos)) ((pBV 7) len))))
      (zeros [z0, z1, z2])
  | _ => .error .field

/-- The operands of SEL. -/
def decSel (w : Nat) : Parse SoloOp :=
  match unpack [28, 5, 5, 5, 5] w with
  | [z0, p, b, a, d] =>
    also (ap (ap (ap (ap (.ok SoloOp.sel) (pS d)) (pS a)) (pS b)) (pP p))
      (zeros [z0])
  | _ => .error .field

/-- The operands of FADD. -/
def decFadd (w : Nat) : Parse SoloOp :=
  match unpack [4, 4, 3, 17, 5, 5, 5, 5] w with
  | [t, z0, r, z1, z2, b, a, d] =>
    also (ap (ap (ap (ap (ap (.ok SoloOp.fadd) ((pTy Ty.laneFloat) t)) (pRndS r)) (pS d)) (pS a)) (pS b))
      (zeros [z0, z1, z2])
  | _ => .error .field

/-- The operands of FSUB. -/
def decFsub (w : Nat) : Parse SoloOp :=
  match unpack [4, 4, 3, 17, 5, 5, 5, 5] w with
  | [t, z0, r, z1, z2, b, a, d] =>
    also (ap (ap (ap (ap (ap (.ok SoloOp.fsub) ((pTy Ty.laneFloat) t)) (pRndS r)) (pS d)) (pS a)) (pS b))
      (zeros [z0, z1, z2])
  | _ => .error .field

/-- The operands of FMUL. -/
def decFmul (w : Nat) : Parse SoloOp :=
  match unpack [4, 4, 3, 17, 5, 5, 5, 5] w with
  | [t, z0, r, z1, z2, b, a, d] =>
    also (ap (ap (ap (ap (ap (.ok SoloOp.fmul) ((pTy Ty.laneFloat) t)) (pRndS r)) (pS d)) (pS a)) (pS b))
      (zeros [z0, z1, z2])
  | _ => .error .field

/-- The operands of FDIV. -/
def decFdiv (w : Nat) : Parse SoloOp :=
  match unpack [4, 4, 3, 17, 5, 5, 5, 5] w with
  | [t, z0, r, z1, z2, b, a, d] =>
    also (ap (ap (ap (ap (ap (.ok SoloOp.fdiv) ((pTy Ty.laneFloat) t)) (pRndS r)) (pS d)) (pS a)) (pS b))
      (zeros [z0, z1, z2])
  | _ => .error .field

/-- The operands of FSQRT. -/
def decFsqrt (w : Nat) : Parse SoloOp :=
  match unpack [4, 4, 3, 17, 5, 5, 5, 5] w with
  | [t, z0, r, z1, z2, z3, a, d] =>
    also (ap (ap (ap (ap (.ok SoloOp.fsqrt) ((pTy Ty.laneFloat) t)) (pRndS r)) (pS d)) (pS a))
      (zeros [z0, z1, z2, z3])
  | _ => .error .field

/-- The operands of FMA. -/
def decFma (w : Nat) : Parse SoloOp :=
  match unpack [4, 4, 3, 17, 5, 5, 5, 5] w with
  | [t, z0, r, z1, c, b, a, d] =>
    also (ap (ap (ap (ap (ap (ap (.ok SoloOp.fma) ((pTy Ty.laneFloat) t)) (pRndS r)) (pS d)) (pS a)) (pS b)) (pS c))
      (zeros [z0, z1])
  | _ => .error .field

/-- The operands of FMIN. -/
def decFmin (w : Nat) : Parse SoloOp :=
  match unpack [4, 4, 3, 17, 5, 5, 5, 5] w with
  | [t, z0, z1, z2, z3, b, a, d] =>
    also (ap (ap (ap (ap (.ok SoloOp.fmin) ((pTy Ty.laneFloat) t)) (pS d)) (pS a)) (pS b))
      (zeros [z0, z1, z2, z3])
  | _ => .error .field

/-- The operands of FMAX. -/
def decFmax (w : Nat) : Parse SoloOp :=
  match unpack [4, 4, 3, 17, 5, 5, 5, 5] w with
  | [t, z0, z1, z2, z3, b, a, d] =>
    also (ap (ap (ap (ap (.ok SoloOp.fmax) ((pTy Ty.laneFloat) t)) (pS d)) (pS a)) (pS b))
      (zeros [z0, z1, z2, z3])
  | _ => .error .field

/-- The operands of FCVT. -/
def decFcvt (w : Nat) : Parse SoloOp :=
  match unpack [4, 4, 3, 17, 5, 5, 5, 5] w with
  | [ta, td, r, z0, z1, z2, a, d] =>
    also (ap (ap (ap (ap (ap (.ok SoloOp.fcvt) ((pTy Ty.isFloat) td)) ((pTy Ty.isFloat) ta)) (pRndS r)) (pS d)) (pS a))
      (zeros [z0, z1, z2])
  | _ => .error .field

/-- The operands of FCVTI. -/
def decFcvti (w : Nat) : Parse SoloOp :=
  match unpack [4, 4, 3, 17, 5, 5, 5, 5] w with
  | [ta, td, r, z0, z1, z2, a, d] =>
    also (ap (ap (ap (ap (ap (.ok SoloOp.fcvti) ((pTy Ty.isInt) td)) ((pTy Ty.isFloat) ta)) (pRndS r)) (pS d)) (pS a))
      (zeros [z0, z1, z2])
  | _ => .error .field

/-- The operands of ICVTF. -/
def decIcvtf (w : Nat) : Parse SoloOp :=
  match unpack [4, 4, 3, 17, 5, 5, 5, 5] w with
  | [ta, td, r, z0, z1, z2, a, d] =>
    also (ap (ap (ap (ap (ap (.ok SoloOp.icvtf) ((pTy Ty.isFloat) td)) ((pTy Ty.isInt) ta)) (pRndS r)) (pS d)) (pS a))
      (zeros [z0, z1, z2])
  | _ => .error .field

/-- The operands of FCLASS. -/
def decFclass (w : Nat) : Parse SoloOp :=
  match unpack [4, 4, 3, 17, 5, 5, 5, 5] w with
  | [t, z0, z1, z2, z3, z4, a, d] =>
    also (ap (ap (ap (.ok SoloOp.fclass) ((pTy Ty.isFloat) t)) (pS d)) (pS a))
      (zeros [z0, z1, z2, z3, z4])
  | _ => .error .field

/-- The operands of FCMP. -/
def decFcmp (w : Nat) : Parse SoloOp :=
  match unpack [4, 4, 3, 4, 13, 5, 5, 5, 5] w with
  | [t, z0, z1, c, z2, z3, b, a, p] =>
    also (ap (ap (ap (ap (ap (.ok SoloOp.fcmp) (pFCond c)) ((pTy Ty.isFloat) t)) (pP p)) (pS a)) (pS b))
      (zeros [z0, z1, z2, z3])
  | _ => .error .field

/-- The operands of CMP. -/
def decCmp (w : Nat) : Parse SoloOp :=
  match unpack [4, 24, 5, 5, 5, 5] w with
  | [c, z0, z1, b, a, p] =>
    also (ap (ap (ap (ap (.ok SoloOp.cmp) (pICond c)) (pP p)) (pS a)) (pS b))
      (zeros [z0, z1])
  | _ => .error .field

/-- The operands of CMPI. -/
def decCmpi (w : Nat) : Parse SoloOp :=
  match unpack [32, 4, 2, 5, 5] w with
  | [imm, c, z0, a, p] =>
    also (ap (ap (ap (ap (.ok SoloOp.cmpi) (pICond c)) (pP p)) (pS a)) ((pBV 32) imm))
      (zeros [z0])
  | _ => .error .field

/-- The operands of PAND. -/
def decPand (w : Nat) : Parse SoloOp :=
  match unpack [28, 5, 5, 5, 5] w with
  | [z0, z1, b, a, d] =>
    also (ap (ap (ap (.ok SoloOp.pand) (pP d)) (pP a)) (pP b))
      (zeros [z0, z1])
  | _ => .error .field

/-- The operands of POR. -/
def decPor (w : Nat) : Parse SoloOp :=
  match unpack [28, 5, 5, 5, 5] w with
  | [z0, z1, b, a, d] =>
    also (ap (ap (ap (.ok SoloOp.por) (pP d)) (pP a)) (pP b))
      (zeros [z0, z1])
  | _ => .error .field

/-- The operands of PXOR. -/
def decPxor (w : Nat) : Parse SoloOp :=
  match unpack [28, 5, 5, 5, 5] w with
  | [z0, z1, b, a, d] =>
    also (ap (ap (ap (.ok SoloOp.pxor) (pP d)) (pP a)) (pP b))
      (zeros [z0, z1])
  | _ => .error .field

/-- The operands of PANDN. -/
def decPandn (w : Nat) : Parse SoloOp :=
  match unpack [28, 5, 5, 5, 5] w with
  | [z0, z1, b, a, d] =>
    also (ap (ap (ap (.ok SoloOp.pandn) (pP d)) (pP a)) (pP b))
      (zeros [z0, z1])
  | _ => .error .field

/-- The operands of MFP. -/
def decMfp (w : Nat) : Parse SoloOp :=
  match unpack [28, 5, 5, 5, 5] w with
  | [z0, z1, z2, z3, d] =>
    also (ap (.ok SoloOp.mfp) (pS d))
      (zeros [z0, z1, z2, z3])
  | _ => .error .field

/-- The operands of MTP. -/
def decMtp (w : Nat) : Parse SoloOp :=
  match unpack [28, 5, 5, 5, 5] w with
  | [z0, z1, b, a, z2] =>
    also (ap (ap (.ok SoloOp.mtp) (pS a)) (pS b))
      (zeros [z0, z1, z2])
  | _ => .error .field

/-- The operands of MFS. -/
def decMfs (w : Nat) : Parse SoloOp :=
  match unpack [31, 12, 5] w with
  | [z0, sr, d] =>
    also (ap (ap (.ok SoloOp.mfs) (pS d)) (pSpecial sr))
      (zeros [z0])
  | _ => .error .field

/-- The operands of MTS. -/
def decMts (w : Nat) : Parse SoloOp :=
  match unpack [31, 12, 5] w with
  | [z0, sr, a] =>
    also (ap (ap (.ok SoloOp.mts) (pSpecial sr)) (pS a))
      (zeros [z0])
  | _ => .error .field

/-- The operands of CLD. -/
def decCld (w : Nat) : Parse SoloOp :=
  match unpack [12, 16, 5, 5, 5, 5] w with
  | [idx, z0, z1, z2, a, d] =>
    also (ap (ap (ap (.ok SoloOp.cld) (pC d)) (pS a)) ((pBV 12) idx))
      (zeros [z0, z1, z2])
  | _ => .error .field

/-- The operands of CDER. -/
def decCder (w : Nat) : Parse SoloOp :=
  match unpack [8, 20, 5, 5, 5, 5] w with
  | [mask, z0, c, b, a, d] =>
    also (ap (ap (ap (ap (ap (.ok SoloOp.cder) (pC d)) (pC a)) (pS b)) (pS c)) ((pBV 8) mask))
      (zeros [z0])
  | _ => .error .field

/-- The operands of CRST. -/
def decCrst (w : Nat) : Parse SoloOp :=
  match unpack [8, 20, 5, 5, 5, 5] w with
  | [mask, z0, z1, z2, a, d] =>
    also (ap (ap (ap (.ok SoloOp.crst) (pC d)) (pC a)) ((pBV 8) mask))
      (zeros [z0, z1, z2])
  | _ => .error .field

/-- The operands of CNULL. -/
def decCnull (w : Nat) : Parse SoloOp :=
  match unpack [28, 5, 5, 5, 5] w with
  | [z0, z1, z2, z3, d] =>
    also (ap (.ok SoloOp.cnull) (pC d))
      (zeros [z0, z1, z2, z3])
  | _ => .error .field

/-- The operands of LD. -/
def decLd (w : Nat) : Parse SoloOp :=
  match unpack [20, 3, 2, 4, 5, 5, 4, 5] w with
  | [off, sc, o, t, z0, a, c, d] =>
    also (ap (ap (ap (ap (ap (ap (ap (.ok SoloOp.ld) ((pTy Ty.notF4) t)) ((pOrd Ord.load) o)) (pScope sc)) (pS d)) (pC c)) (pS a)) ((pBV 20) off))
      (zeros [z0])
  | _ => .error .field

/-- The operands of ST. -/
def decSt (w : Nat) : Parse SoloOp :=
  match unpack [20, 3, 2, 4, 5, 5, 4, 5] w with
  | [off, sc, o, t, z0, a, c, d] =>
    also (ap (ap (ap (ap (ap (ap (ap (.ok SoloOp.st) ((pTy Ty.notF4) t)) ((pOrd Ord.store) o)) (pScope sc)) (pC c)) (pS a)) ((pBV 20) off)) (pS d))
      (zeros [z0])
  | _ => .error .field

/-- The operands of LDX. -/
def decLdx (w : Nat) : Parse SoloOp :=
  match unpack [20, 3, 2, 4, 5, 5, 4, 5] w with
  | [off, z0, z1, t, b, a, z2, d] =>
    also (ap (ap (ap (ap (ap (.ok SoloOp.ldx) ((pTy Ty.notF4) t)) (pS d)) (pS a)) (pS b)) ((pBV 20) off))
      (zeros [z0, z1, z2])
  | _ => .error .field

/-- The operands of STX. -/
def decStx (w : Nat) : Parse SoloOp :=
  match unpack [20, 3, 2, 4, 5, 5, 4, 5] w with
  | [off, z0, z1, t, b, a, z2, d] =>
    also (ap (ap (ap (ap (ap (.ok SoloOp.stx) ((pTy Ty.notF4) t)) (pS a)) (pS b)) ((pBV 20) off)) (pS d))
      (zeros [z0, z1, z2])
  | _ => .error .field

/-- The operands of PREPT. -/
def decPrept (w : Nat) : Parse SoloOp :=
  match unpack [40, 4, 1, 3] w with
  | [off, z0, z1, b] =>
    also (ap (ap (.ok SoloOp.prept) (pB b)) ((pBV 40) off))
      (zeros [z0, z1])
  | _ => .error .field

/-- The operands of BR. -/
def decBr (w : Nat) : Parse SoloOp :=
  match unpack [40, 4, 1, 3] w with
  | [z0, z1, hint, b] =>
    also (ap (ap (.ok SoloOp.br) (pB b)) (pBool hint))
      (zeros [z0, z1])
  | _ => .error .field

/-- The operands of CALL. -/
def decCall (w : Nat) : Parse SoloOp :=
  match unpack [40, 3, 1, 1, 3] w with
  | [z0, l, z1, hint, b] =>
    also (ap (ap (ap (.ok SoloOp.call) (pB b)) (pB l)) (pBool hint))
      (zeros [z0, z1])
  | _ => .error .field

/-- The operands of RET. -/
def decRet (w : Nat) : Parse SoloOp :=
  match unpack [40, 4, 1, 3] w with
  | [z0, z1, z2, b] =>
    also (ap (.ok SoloOp.ret) (pB b))
      (zeros [z0, z1, z2])
  | _ => .error .field

/-- The operands of LOOP. -/
def decLoop (w : Nat) : Parse SoloOp :=
  match unpack [20, 23, 5] w with
  | [off, z0, a] =>
    also (ap (ap (.ok SoloOp.loop) (pS a)) ((pBVp 20 nonzero) off))
      (zeros [z0])
  | _ => .error .field

/-- The operands of LOOPM. -/
def decLoopm (w : Nat) : Parse SoloOp :=
  match unpack [20, 23, 1, 4] w with
  | [off, z0, _, mb] =>
    also (ap (ap (.ok SoloOp.loopm) (pMb mb)) ((pBVp 20 nonzero) off))
      (zeros [z0])
  | _ => .error .field

/-- The operands of LOOPM K. -/
def decLoopmK (w : Nat) : Parse SoloOp :=
  match unpack [20, 23, 1, 4] w with
  | [off, z0, _, mb] =>
    also (ap (ap (.ok SoloOp.loopmK) (pMb mb)) ((pBVp 20 nonzero) off))
      (zeros [z0])
  | _ => .error .field

/-- The operands of TRAP. -/
def decTrap (w : Nat) : Parse SoloOp :=
  match unpack [16, 32] w with
  | [x, z0] =>
    also (ap (.ok SoloOp.trap) ((pBV 16) x))
      (zeros [z0])
  | _ => .error .field

/-- The operands of ERET. -/
def decEret (w : Nat) : Parse SoloOp :=
  match unpack [48] w with
  | [z0] =>
    also (.ok SoloOp.eret)
      (zeros [z0])
  | _ => .error .field

/-- The operands of SYSC. -/
def decSysc (w : Nat) : Parse SoloOp :=
  match unpack [16, 32] w with
  | [x, z0] =>
    also (ap (.ok SoloOp.sysc) ((pBV 16) x))
      (zeros [z0])
  | _ => .error .field

/-- The operands of SAFEPT. -/
def decSafept (w : Nat) : Parse SoloOp :=
  match unpack [12, 36] w with
  | [map, z0] =>
    also (ap (.ok SoloOp.safept) ((pBV 12) map))
      (zeros [z0])
  | _ => .error .field

/-- The operands of WFE. -/
def decWfe (w : Nat) : Parse SoloOp :=
  match unpack [16, 32] w with
  | [x, z0] =>
    also (ap (.ok SoloOp.wfe) ((pBV 16) x))
      (zeros [z0])
  | _ => .error .field

/-- The operands of BRK. -/
def decBrk (w : Nat) : Parse SoloOp :=
  match unpack [16, 32] w with
  | [x, z0] =>
    also (ap (.ok SoloOp.brk) ((pBV 16) x))
      (zeros [z0])
  | _ => .error .field

/-- The operands of HALT. -/
def decHalt (w : Nat) : Parse SoloOp :=
  match unpack [48] w with
  | [z0] =>
    also (.ok SoloOp.halt)
      (zeros [z0])
  | _ => .error .field

/-- The operands of RVINIT. -/
def decRvinit (w : Nat) : Parse SoloOp :=
  match unpack [5, 6, 5, 5, 1, 26] w with
  | [pt, z0, z1, a, z2, z3] =>
    also (ap (ap (.ok SoloOp.rvinit) ((pBVp 5 point) pt)) (pS a))
      (zeros [z0, z1, z2, z3])
  | _ => .error .field

/-- The operands of RVARRIVE. -/
def decRvarrive (w : Nat) : Parse SoloOp :=
  match unpack [5, 6, 5, 5, 1, 26] w with
  | [pt, em, d, z0, z1, z2] =>
    also (ap (ap (ap (.ok SoloOp.rvarrive) ((pBVp 5 point) pt)) ((pBV 6) em)) (pS d))
      (zeros [z0, z1, z2])
  | _ => .error .field

/-- The operands of RVWAIT. -/
def decRvwait (w : Nat) : Parse SoloOp :=
  match unpack [5, 6, 5, 5, 1, 26] w with
  | [pt, z0, d, a, z1, z2] =>
    also (ap (ap (ap (.ok SoloOp.rvwait) ((pBVp 5 point) pt)) (pS a)) (pS d))
      (zeros [z0, z1, z2])
  | _ => .error .field

/-- The operands of RVARW. -/
def decRvarw (w : Nat) : Parse SoloOp :=
  match unpack [5, 6, 5, 5, 1, 26] w with
  | [pt, em, d, z0, z1, z2] =>
    also (ap (ap (ap (.ok SoloOp.rvarw) ((pBVp 5 point) pt)) ((pBV 6) em)) (pS d))
      (zeros [z0, z1, z2])
  | _ => .error .field

/-- The operands of RVLEAVE. -/
def decRvleave (w : Nat) : Parse SoloOp :=
  match unpack [5, 6, 5, 5, 1, 26] w with
  | [pt, z0, z1, z2, _, z3] =>
    also (ap (.ok SoloOp.rvleave) ((pBVp 5 point) pt))
      (zeros [z0, z1, z2, z3])
  | _ => .error .field

/-- The operands of RVLEAVE ALL. -/
def decRvleaveAll (w : Nat) : Parse SoloOp :=
  match unpack [5, 6, 5, 5, 1, 26] w with
  | [z0, z1, z2, z3, _, z4] =>
    also (.ok SoloOp.rvleaveAll)
      (zeros [z0, z1, z2, z3, z4])
  | _ => .error .field

/-- The operands of SIGADD. -/
def decSigadd (w : Nat) : Parse SoloOp :=
  match unpack [20, 3, 2, 4, 5, 5, 4, 5] w with
  | [off, sc, o, t, b, a, c, d] =>
    ap (ap (ap (ap (ap (ap (ap (ap (.ok SoloOp.sigadd) ((pTy Ty.sig) t)) ((pOrd Ord.anyOrd) o)) (pScope sc)) (pS d)) (pC c)) (pS a)) (pS b)) ((pBV 20) off)
  | _ => .error .field

/-- The operands of SIGSET. -/
def decSigset (w : Nat) : Parse SoloOp :=
  match unpack [20, 3, 2, 4, 5, 5, 4, 5] w with
  | [off, sc, o, t, b, a, c, d] =>
    ap (ap (ap (ap (ap (ap (ap (ap (.ok SoloOp.sigset) ((pTy Ty.sig) t)) ((pOrd Ord.anyOrd) o)) (pScope sc)) (pS d)) (pC c)) (pS a)) (pS b)) ((pBV 20) off)
  | _ => .error .field

/-- The operands of SIGWAIT. -/
def decSigwait (w : Nat) : Parse SoloOp :=
  match unpack [20, 3, 2, 4, 5, 5, 4, 5] w with
  | [off, sc, o, t, b, a, c, d] =>
    ap (ap (ap (ap (ap (ap (ap (ap (.ok SoloOp.sigwait) ((pTy Ty.sig) t)) ((pOrd Ord.wait) o)) (pScope sc)) (pS d)) (pC c)) (pS a)) (pS b)) ((pBV 20) off)
  | _ => .error .field

/-- The operands of AMO ADD. -/
def decAmoAdd (w : Nat) : Parse SoloOp :=
  match unpack [16, 4, 3, 2, 4, 5, 5, 4, 5] w with
  | [off, _, sc, o, t, b, a, c, d] =>
    ap (ap (ap (ap (ap (ap (ap (ap (.ok SoloOp.amoAdd) ((pTy Ty.amoAdd) t)) ((pOrd Ord.anyOrd) o)) (pScope sc)) (pS d)) (pC c)) (pS a)) (pS b)) ((pBV 16) off)
  | _ => .error .field

/-- The operands of AMO MIN. -/
def decAmoMin (w : Nat) : Parse SoloOp :=
  match unpack [16, 4, 3, 2, 4, 5, 5, 4, 5] w with
  | [off, _, sc, o, t, b, a, c, d] =>
    ap (ap (ap (ap (ap (ap (ap (ap (.ok SoloOp.amoMin) ((pTy Ty.amoInt) t)) ((pOrd Ord.anyOrd) o)) (pScope sc)) (pS d)) (pC c)) (pS a)) (pS b)) ((pBV 16) off)
  | _ => .error .field

/-- The operands of AMO MAX. -/
def decAmoMax (w : Nat) : Parse SoloOp :=
  match unpack [16, 4, 3, 2, 4, 5, 5, 4, 5] w with
  | [off, _, sc, o, t, b, a, c, d] =>
    ap (ap (ap (ap (ap (ap (ap (ap (.ok SoloOp.amoMax) ((pTy Ty.amoInt) t)) ((pOrd Ord.anyOrd) o)) (pScope sc)) (pS d)) (pC c)) (pS a)) (pS b)) ((pBV 16) off)
  | _ => .error .field

/-- The operands of AMO AND. -/
def decAmoAnd (w : Nat) : Parse SoloOp :=
  match unpack [16, 4, 3, 2, 4, 5, 5, 4, 5] w with
  | [off, _, sc, o, t, b, a, c, d] =>
    ap (ap (ap (ap (ap (ap (ap (ap (.ok SoloOp.amoAnd) ((pTy Ty.amoInt) t)) ((pOrd Ord.anyOrd) o)) (pScope sc)) (pS d)) (pC c)) (pS a)) (pS b)) ((pBV 16) off)
  | _ => .error .field

/-- The operands of AMO OR. -/
def decAmoOr (w : Nat) : Parse SoloOp :=
  match unpack [16, 4, 3, 2, 4, 5, 5, 4, 5] w with
  | [off, _, sc, o, t, b, a, c, d] =>
    ap (ap (ap (ap (ap (ap (ap (ap (.ok SoloOp.amoOr) ((pTy Ty.amoInt) t)) ((pOrd Ord.anyOrd) o)) (pScope sc)) (pS d)) (pC c)) (pS a)) (pS b)) ((pBV 16) off)
  | _ => .error .field

/-- The operands of AMO XOR. -/
def decAmoXor (w : Nat) : Parse SoloOp :=
  match unpack [16, 4, 3, 2, 4, 5, 5, 4, 5] w with
  | [off, _, sc, o, t, b, a, c, d] =>
    ap (ap (ap (ap (ap (ap (ap (ap (.ok SoloOp.amoXor) ((pTy Ty.amoInt) t)) ((pOrd Ord.anyOrd) o)) (pScope sc)) (pS d)) (pC c)) (pS a)) (pS b)) ((pBV 16) off)
  | _ => .error .field

/-- The operands of AMO XCHG. -/
def decAmoXchg (w : Nat) : Parse SoloOp :=
  match unpack [16, 4, 3, 2, 4, 5, 5, 4, 5] w with
  | [off, _, sc, o, t, b, a, c, d] =>
    ap (ap (ap (ap (ap (ap (ap (ap (.ok SoloOp.amoXchg) ((pTy Ty.amoInt) t)) ((pOrd Ord.anyOrd) o)) (pScope sc)) (pS d)) (pC c)) (pS a)) (pS b)) ((pBV 16) off)
  | _ => .error .field

/-- The operands of AMO CAS. -/
def decAmoCas (w : Nat) : Parse SoloOp :=
  match unpack [16, 4, 3, 2, 4, 5, 5, 4, 5] w with
  | [off, _, sc, o, t, b, a, c, d] =>
    ap (ap (ap (ap (ap (ap (ap (ap (.ok SoloOp.amoCas) ((pTy Ty.amoInt) t)) ((pOrd Ord.anyOrd) o)) (pScope sc)) (pS d)) (pC c)) (pS a)) (pS b)) ((pBV 16) off)
  | _ => .error .field

/-- The operands of AMO CAS2. -/
def decAmoCas2 (w : Nat) : Parse SoloOp :=
  match unpack [16, 4, 3, 2, 4, 5, 5, 4, 5] w with
  | [off, _, sc, o, t, b, a, c, d] =>
    ap (ap (ap (ap (ap (ap (ap (ap (.ok SoloOp.amoCas2) ((pTy Ty.n64Only) t)) ((pOrd Ord.anyOrd) o)) (pScope sc)) (pEvenS d)) (pC c)) (pS a)) (pEvenS b)) ((pBV 16) off)
  | _ => .error .field

/-- The operands of RED ADD. -/
def decRedAdd (w : Nat) : Parse SoloOp :=
  match unpack [16, 4, 3, 2, 4, 5, 5, 4, 5] w with
  | [off, _, sc, o, t, b, a, c, z0] =>
    also (ap (ap (ap (ap (ap (ap (ap (.ok SoloOp.redAdd) ((pTy Ty.amoAdd) t)) ((pOrd Ord.store) o)) (pScope sc)) (pC c)) (pS a)) (pS b)) ((pBV 16) off))
      (zeros [z0])
  | _ => .error .field

/-- The operands of RED MIN. -/
def decRedMin (w : Nat) : Parse SoloOp :=
  match unpack [16, 4, 3, 2, 4, 5, 5, 4, 5] w with
  | [off, _, sc, o, t, b, a, c, z0] =>
    also (ap (ap (ap (ap (ap (ap (ap (.ok SoloOp.redMin) ((pTy Ty.amoInt) t)) ((pOrd Ord.store) o)) (pScope sc)) (pC c)) (pS a)) (pS b)) ((pBV 16) off))
      (zeros [z0])
  | _ => .error .field

/-- The operands of RED MAX. -/
def decRedMax (w : Nat) : Parse SoloOp :=
  match unpack [16, 4, 3, 2, 4, 5, 5, 4, 5] w with
  | [off, _, sc, o, t, b, a, c, z0] =>
    also (ap (ap (ap (ap (ap (ap (ap (.ok SoloOp.redMax) ((pTy Ty.amoInt) t)) ((pOrd Ord.store) o)) (pScope sc)) (pC c)) (pS a)) (pS b)) ((pBV 16) off))
      (zeros [z0])
  | _ => .error .field

/-- The operands of RED AND. -/
def decRedAnd (w : Nat) : Parse SoloOp :=
  match unpack [16, 4, 3, 2, 4, 5, 5, 4, 5] w with
  | [off, _, sc, o, t, b, a, c, z0] =>
    also (ap (ap (ap (ap (ap (ap (ap (.ok SoloOp.redAnd) ((pTy Ty.amoInt) t)) ((pOrd Ord.store) o)) (pScope sc)) (pC c)) (pS a)) (pS b)) ((pBV 16) off))
      (zeros [z0])
  | _ => .error .field

/-- The operands of RED OR. -/
def decRedOr (w : Nat) : Parse SoloOp :=
  match unpack [16, 4, 3, 2, 4, 5, 5, 4, 5] w with
  | [off, _, sc, o, t, b, a, c, z0] =>
    also (ap (ap (ap (ap (ap (ap (ap (.ok SoloOp.redOr) ((pTy Ty.amoInt) t)) ((pOrd Ord.store) o)) (pScope sc)) (pC c)) (pS a)) (pS b)) ((pBV 16) off))
      (zeros [z0])
  | _ => .error .field

/-- The operands of RED XOR. -/
def decRedXor (w : Nat) : Parse SoloOp :=
  match unpack [16, 4, 3, 2, 4, 5, 5, 4, 5] w with
  | [off, _, sc, o, t, b, a, c, z0] =>
    also (ap (ap (ap (ap (ap (ap (ap (.ok SoloOp.redXor) ((pTy Ty.amoInt) t)) ((pOrd Ord.store) o)) (pScope sc)) (pC c)) (pS a)) (pS b)) ((pBV 16) off))
      (zeros [z0])
  | _ => .error .field

/-- The operands of FENCE. -/
def decFence (w : Nat) : Parse SoloOp :=
  match unpack [3, 2, 43] w with
  | [sc, o, z0] =>
    also (ap (ap (.ok SoloOp.fence) ((pOrd Ord.fence) o)) (pScope sc))
      (zeros [z0])
  | _ => .error .field

/-- The operands of SNAP. -/
def decSnap (w : Nat) : Parse SoloOp :=
  match unpack [34, 1, 4, 4, 5] w with
  | [z0, _, p, c, d] =>
    also (ap (ap (ap (.ok SoloOp.snap) (pS d)) (pC c)) (pP p))
      (zeros [z0])
  | _ => .error .field

/-- The operands of SNAP NW. -/
def decSnapNw (w : Nat) : Parse SoloOp :=
  match unpack [34, 1, 4, 4, 5] w with
  | [z0, _, p, c, d] =>
    also (ap (ap (ap (.ok SoloOp.snapNw) (pS d)) (pC c)) (pP p))
      (zeros [z0])
  | _ => .error .field

/-- The operands of SNAPQ. -/
def decSnapq (w : Nat) : Parse SoloOp :=
  match unpack [34, 5, 4, 5] w with
  | [z0, a, c, d] =>
    also (ap (ap (ap (.ok SoloOp.snapq) (pS d)) (pC c)) (pS a))
      (zeros [z0])
  | _ => .error .field

/-- The operands of VADD. -/
def decVadd (w : Nat) : Parse SoloOp :=
  match unpack [1, 6, 3, 4, 4, 10, 10, 10] w with
  | [_, z0, r, t, m, b, a, d] =>
    also (ap (ap (ap (ap (ap (ap (.ok SoloOp.vadd) ((pTy Ty.laneArith) t)) ((pRndFor t) r)) (pVD d)) (pV a)) (pV b)) (pM m))
      (zeros [z0])
  | _ => .error .field

/-- The operands of VADDS. With a float type, which it does not take, rnd is a rounding code (R239). -/
def decVadds (w : Nat) : Parse SoloOp :=
  match unpack [1, 6, 3, 4, 4, 10, 10, 10] w with
  | [_, z0, z1, t, m, b, a, d] =>
    also (ap (ap (ap (ap (ap (.ok SoloOp.vadds) ((pTy Ty.isInt) t)) (pVD d)) (pV a)) (pV b)) (pM m))
      (if Ty.isInt (Ty.ofCode t) then zeros [z0, z1] else also (zeros [z0]) ((pRnd z1).map fun _ => ()))
  | _ => .error .field

/-- The operands of VSUB. -/
def decVsub (w : Nat) : Parse SoloOp :=
  match unpack [1, 6, 3, 4, 4, 10, 10, 10] w with
  | [_, z0, r, t, m, b, a, d] =>
    also (ap (ap (ap (ap (ap (ap (.ok SoloOp.vsub) ((pTy Ty.laneArith) t)) ((pRndFor t) r)) (pVD d)) (pV a)) (pV b)) (pM m))
      (zeros [z0])
  | _ => .error .field

/-- The operands of VSUBS. With a float type, which it does not take, rnd is a rounding code (R239). -/
def decVsubs (w : Nat) : Parse SoloOp :=
  match unpack [1, 6, 3, 4, 4, 10, 10, 10] w with
  | [_, z0, z1, t, m, b, a, d] =>
    also (ap (ap (ap (ap (ap (.ok SoloOp.vsubs) ((pTy Ty.isInt) t)) (pVD d)) (pV a)) (pV b)) (pM m))
      (if Ty.isInt (Ty.ofCode t) then zeros [z0, z1] else also (zeros [z0]) ((pRnd z1).map fun _ => ()))
  | _ => .error .field

/-- The operands of VMUL. -/
def decVmul (w : Nat) : Parse SoloOp :=
  match unpack [7, 3, 4, 4, 10, 10, 10] w with
  | [z0, r, t, m, b, a, d] =>
    also (ap (ap (ap (ap (ap (ap (.ok SoloOp.vmul) ((pTy Ty.laneArith) t)) ((pRndFor t) r)) (pVD d)) (pV a)) (pV b)) (pM m))
      (zeros [z0])
  | _ => .error .field

/-- The operands of VFMA. -/
def decVfma (w : Nat) : Parse SoloOp :=
  match unpack [7, 3, 4, 4, 10, 10, 10] w with
  | [z0, r, t, m, b, a, d] =>
    also (ap (ap (ap (ap (ap (ap (.ok SoloOp.vfma) ((pTy Ty.laneArith) t)) ((pRndFor t) r)) (pVD d)) (pV a)) (pV b)) (pM m))
      (zeros [z0])
  | _ => .error .field

/-- The operands of VFMS. -/
def decVfms (w : Nat) : Parse SoloOp :=
  match unpack [7, 3, 4, 4, 10, 10, 10] w with
  | [z0, r, t, m, b, a, d] =>
    also (ap (ap (ap (ap (ap (ap (.ok SoloOp.vfms) ((pTy Ty.laneArith) t)) ((pRndFor t) r)) (pVD d)) (pV a)) (pV b)) (pM m))
      (zeros [z0])
  | _ => .error .field

/-- The operands of VMIN: a float type may carry a rounding code, which has nothing to round (R239; DEDUCED, log 22). -/
def decVmin (w : Nat) : Parse SoloOp :=
  match unpack [7, 3, 4, 4, 10, 10, 10] w with
  | [z0, r, t, m, b, a, d] =>
    also (ap (ap (ap (ap (ap (ap (.ok fun t (_ : Rnd) => SoloOp.vmin t) ((pTy Ty.laneArith) t)) ((pRndFor t) r)) (pVD d)) (pV a)) (pV b)) (pM m))
      (zeros [z0])
  | _ => .error .field

/-- The operands of VMAX: a float type may carry a rounding code, which has nothing to round (R239; DEDUCED, log 22). -/
def decVmax (w : Nat) : Parse SoloOp :=
  match unpack [7, 3, 4, 4, 10, 10, 10] w with
  | [z0, r, t, m, b, a, d] =>
    also (ap (ap (ap (ap (ap (ap (.ok fun t (_ : Rnd) => SoloOp.vmax t) ((pTy Ty.laneArith) t)) ((pRndFor t) r)) (pVD d)) (pV a)) (pV b)) (pM m))
      (zeros [z0])
  | _ => .error .field

/-- The operands of VABS: a float type may carry a rounding code, which has nothing to round (R239; DEDUCED, log 22). -/
def decVabs (w : Nat) : Parse SoloOp :=
  match unpack [7, 3, 4, 4, 10, 10, 10] w with
  | [z0, r, t, m, z1, a, d] =>
    also (ap (ap (ap (ap (ap (.ok fun t (_ : Rnd) => SoloOp.vabs t) ((pTy Ty.laneArith) t)) ((pRndFor t) r)) (pVD d)) (pV a)) (pM m))
      (zeros [z0, z1])
  | _ => .error .field

/-- The operands of VNEG: a float type may carry a rounding code, which has nothing to round (R239; DEDUCED, log 22). -/
def decVneg (w : Nat) : Parse SoloOp :=
  match unpack [7, 3, 4, 4, 10, 10, 10] w with
  | [z0, r, t, m, z1, a, d] =>
    also (ap (ap (ap (ap (ap (.ok fun t (_ : Rnd) => SoloOp.vneg t) ((pTy Ty.laneArith) t)) ((pRndFor t) r)) (pVD d)) (pV a)) (pM m))
      (zeros [z0, z1])
  | _ => .error .field

/-- The operands of VAND: a float type may carry a rounding code, which has nothing to round (R239; DEDUCED, log 22). -/
def decVand (w : Nat) : Parse SoloOp :=
  match unpack [7, 3, 4, 4, 10, 10, 10] w with
  | [z0, r, t, m, b, a, d] =>
    also (ap (ap (ap (ap (ap (ap (.ok fun t (_ : Rnd) => SoloOp.vand t) ((pTy Ty.notF4) t)) ((pRndFor t) r)) (pVD d)) (pV a)) (pV b)) (pM m))
      (zeros [z0])
  | _ => .error .field

/-- The operands of VOR: a float type may carry a rounding code, which has nothing to round (R239; DEDUCED, log 22). -/
def decVor (w : Nat) : Parse SoloOp :=
  match unpack [7, 3, 4, 4, 10, 10, 10] w with
  | [z0, r, t, m, b, a, d] =>
    also (ap (ap (ap (ap (ap (ap (.ok fun t (_ : Rnd) => SoloOp.vor t) ((pTy Ty.notF4) t)) ((pRndFor t) r)) (pVD d)) (pV a)) (pV b)) (pM m))
      (zeros [z0])
  | _ => .error .field

/-- The operands of VXOR: a float type may carry a rounding code, which has nothing to round (R239; DEDUCED, log 22). -/
def decVxor (w : Nat) : Parse SoloOp :=
  match unpack [7, 3, 4, 4, 10, 10, 10] w with
  | [z0, r, t, m, b, a, d] =>
    also (ap (ap (ap (ap (ap (ap (.ok fun t (_ : Rnd) => SoloOp.vxor t) ((pTy Ty.notF4) t)) ((pRndFor t) r)) (pVD d)) (pV a)) (pV b)) (pM m))
      (zeros [z0])
  | _ => .error .field

/-- The operands of VANDN: a float type may carry a rounding code, which has nothing to round (R239; DEDUCED, log 22). -/
def decVandn (w : Nat) : Parse SoloOp :=
  match unpack [7, 3, 4, 4, 10, 10, 10] w with
  | [z0, r, t, m, b, a, d] =>
    also (ap (ap (ap (ap (ap (ap (.ok fun t (_ : Rnd) => SoloOp.vandn t) ((pTy Ty.notF4) t)) ((pRndFor t) r)) (pVD d)) (pV a)) (pV b)) (pM m))
      (zeros [z0])
  | _ => .error .field

/-- The operands of VSHL. -/
def decVshl (w : Nat) : Parse SoloOp :=
  match unpack [7, 3, 4, 4, 10, 10, 10] w with
  | [z0, z1, t, m, b, a, d] =>
    also (ap (ap (ap (ap (ap (.ok SoloOp.vshl) ((pTy Ty.isInt) t)) (pVD d)) (pV a)) (pV b)) (pM m))
      (zeros [z0, z1])
  | _ => .error .field

/-- The operands of VSHR. -/
def decVshr (w : Nat) : Parse SoloOp :=
  match unpack [7, 3, 4, 4, 10, 10, 10] w with
  | [z0, z1, t, m, b, a, d] =>
    also (ap (ap (ap (ap (ap (.ok SoloOp.vshr) ((pTy Ty.isInt) t)) (pVD d)) (pV a)) (pV b)) (pM m))
      (zeros [z0, z1])
  | _ => .error .field

/-- The operands of VSRA. -/
def decVsra (w : Nat) : Parse SoloOp :=
  match unpack [7, 3, 4, 4, 10, 10, 10] w with
  | [z0, z1, t, m, b, a, d] =>
    also (ap (ap (ap (ap (ap (.ok SoloOp.vsra) ((pTy Ty.isInt) t)) (pVD d)) (pV a)) (pV b)) (pM m))
      (zeros [z0, z1])
  | _ => .error .field

/-- The operands of VCMP. -/
def decVcmp (w : Nat) : Parse SoloOp :=
  match unpack [4, 3, 3, 4, 4, 10, 10, 4, 6] w with
  | [c, z0, z1, t, m, b, a, d, z2] =>
    also (also (ap (ap (ap (ap (ap (ap (.ok SoloOp.vcmp) (pVCond c)) ((pTy Ty.any) t)) (pM d)) (pV a)) (pV b)) (pM m))
      (holds .codeField (ap (ap (.ok fun c t => cmpTy c t) (pVCond c)) ((pTy Ty.any) t))))
      (zeros [z0, z1, z2])
  | _ => .error .field

/-- The operands of VSEL. -/
def decVsel (w : Nat) : Parse SoloOp :=
  match unpack [7, 3, 4, 4, 10, 10, 10] w with
  | [z0, z1, t, m, b, a, d] =>
    also (ap (ap (ap (ap (ap (.ok SoloOp.vsel) ((pTy Ty.notF4) t)) (pVD d)) (pV a)) (pV b)) (pM m))
      (zeros [z0, z1])
  | _ => .error .field

/-- The operands of VCVT. -/
def decVcvt (w : Nat) : Parse SoloOp :=
  match unpack [4, 3, 3, 4, 4, 10, 10, 10] w with
  | [ts, k, r, td, m, b, a, d] =>
    also (also (ap (ap (ap (ap (ap (ap (ap (ap (.ok SoloOp.vcvt) ((pTy Ty.any) td)) ((pTy Ty.any) ts)) (pRnd r)) (pVD d)) (pV a)) (pV b)) ((pBV 3) k)) (pM m))
      (holds .codeField (ap (ap (.ok fun td ts => cvtPair td ts) ((pTy Ty.any) td)) ((pTy Ty.any) ts))))
      (holds .field (ap (ap (ap (ap (.ok fun ts td k b => cvtPart ts td k b) ((pTy Ty.any) ts)) ((pTy Ty.any) td)) ((pBV 3) k)) (pV b)))
  | _ => .error .field

/-- The operands of VPK4. -/
def decVpk4 (w : Nat) : Parse SoloOp :=
  match unpack [4, 3, 3, 4, 4, 10, 10, 10] w with
  | [z0, k, r, ts, m, b, a, d] =>
    also (also (ap (ap (ap (ap (ap (ap (ap (.ok SoloOp.vpk4) ((pTy Ty.int4Other) ts)) (pRnd r)) (pVD d)) (pV a)) (pV b)) ((pBV 3) k)) (pM m))
      (holds .field (ap (ap (.ok fun ts k => pk4Part ts k) ((pTy Ty.int4Other) ts)) ((pBV 3) k))))
      (zeros [z0])
  | _ => .error .field

/-- The operands of VUPK4. -/
def decVupk4 (w : Nat) : Parse SoloOp :=
  match unpack [4, 3, 3, 4, 4, 10, 10, 10] w with
  | [z0, k, r, td, m, z1, a, d] =>
    also (also (ap (ap (ap (ap (ap (ap (.ok SoloOp.vupk4) ((pTy Ty.int4Other) td)) (pRnd r)) (pVD d)) (pV a)) ((pBV 3) k)) (pM m))
      (holds .field (ap (ap (.ok fun td k => upk4Part td k) ((pTy Ty.int4Other) td)) ((pBV 3) k))))
      (zeros [z0, z1])
  | _ => .error .field

/-- The operands of VRCP. -/
def decVrcp (w : Nat) : Parse SoloOp :=
  match unpack [7, 3, 4, 4, 10, 10, 10] w with
  | [z0, r, t, m, z1, a, d] =>
    also (ap (ap (ap (ap (ap (.ok SoloOp.vrcp) ((pTy Ty.laneFn) t)) (pRnd r)) (pVD d)) (pV a)) (pM m))
      (zeros [z0, z1])
  | _ => .error .field

/-- The operands of VRSQ. -/
def decVrsq (w : Nat) : Parse SoloOp :=
  match unpack [7, 3, 4, 4, 10, 10, 10] w with
  | [z0, r, t, m, z1, a, d] =>
    also (ap (ap (ap (ap (ap (.ok SoloOp.vrsq) ((pTy Ty.laneFn) t)) (pRnd r)) (pVD d)) (pV a)) (pM m))
      (zeros [z0, z1])
  | _ => .error .field

/-- The operands of VEXP2. -/
def decVexp2 (w : Nat) : Parse SoloOp :=
  match unpack [7, 3, 4, 4, 10, 10, 10] w with
  | [z0, r, t, m, z1, a, d] =>
    also (ap (ap (ap (ap (ap (.ok SoloOp.vexp2) ((pTy Ty.laneFn) t)) (pRnd r)) (pVD d)) (pV a)) (pM m))
      (zeros [z0, z1])
  | _ => .error .field

/-- The operands of VLOG2. -/
def decVlog2 (w : Nat) : Parse SoloOp :=
  match unpack [7, 3, 4, 4, 10, 10, 10] w with
  | [z0, r, t, m, z1, a, d] =>
    also (ap (ap (ap (ap (ap (.ok SoloOp.vlog2) ((pTy Ty.laneFn) t)) (pRnd r)) (pVD d)) (pV a)) (pM m))
      (zeros [z0, z1])
  | _ => .error .field

/-- The operands of VSIN. -/
def decVsin (w : Nat) : Parse SoloOp :=
  match unpack [7, 3, 4, 4, 10, 10, 10] w with
  | [z0, r, t, m, z1, a, d] =>
    also (ap (ap (ap (ap (ap (.ok SoloOp.vsin) ((pTy Ty.laneFn) t)) (pRnd r)) (pVD d)) (pV a)) (pM m))
      (zeros [z0, z1])
  | _ => .error .field

/-- The operands of VTLU. -/
def decVtlu (w : Nat) : Parse SoloOp :=
  match unpack [7, 3, 4, 4, 10, 10, 10] w with
  | [z0, r, t, m, o, a, d] =>
    also (ap (ap (ap (ap (ap (ap (.ok SoloOp.vtlu) ((pTy Ty.laneFn) t)) (pRnd r)) (pVD d)) (pV a)) (pVO o)) (pM m))
      (zeros [z0])
  | _ => .error .field

/-- The operands of VRINT. -/
def decVrint (w : Nat) : Parse SoloOp :=
  match unpack [7, 3, 4, 4, 10, 10, 10] w with
  | [z0, r, t, m, z1, a, d] =>
    also (ap (ap (ap (ap (ap (.ok SoloOp.vrint) ((pTy Ty.laneFn) t)) (pRnd r)) (pVD d)) (pV a)) (pM m))
      (zeros [z0, z1])
  | _ => .error .field

/-- The operands of VSETT. -/
def decVsett (w : Nat) : Parse SoloOp :=
  match unpack [5, 2, 3, 4, 4, 4, 6, 10, 10] w with
  | [e, z0, r, t, z1, ct, z2, z3, z4] =>
    also (ap (ap (ap (ap (.ok SoloOp.vsett) ((pTy Ty.any) t)) (pRnd r)) ((pTy Ty.any) ct)) ((pBV 5) e))
      (zeros [z0, z1, z2, z3, z4])
  | _ => .error .field

/-- The operands of VBCST. -/
def decVbcst (w : Nat) : Parse SoloOp :=
  match unpack [7, 3, 4, 4, 10, 5, 5, 10] w with
  | [z0, z1, t, m, z2, a, z3, d] =>
    also (ap (ap (ap (ap (.ok SoloOp.vbcst) ((pTy Ty.notF4) t)) (pVD d)) (pS a)) (pM m))
      (zeros [z0, z1, z2, z3])
  | _ => .error .field

/-- The operands of VEXT. -/
def decVext (w : Nat) : Parse SoloOp :=
  match unpack [7, 3, 4, 4, 5, 5, 10, 5, 5] w with
  | [z0, z1, t, z2, b, z3, a, d, z4] =>
    also (ap (ap (ap (ap (.ok SoloOp.vext) ((pTy Ty.notF4) t)) (pS d)) (pV a)) (pS b))
      (zeros [z0, z1, z2, z3, z4])
  | _ => .error .field

/-- The operands of VINS. -/
def decVins (w : Nat) : Parse SoloOp :=
  match unpack [7, 3, 4, 4, 5, 5, 5, 5, 10] w with
  | [z0, z1, t, z2, b, z3, a, z4, d] =>
    also (ap (ap (ap (ap (.ok SoloOp.vins) ((pTy Ty.notF4) t)) (pVD d)) (pS a)) (pS b))
      (zeros [z0, z1, z2, z3, z4])
  | _ => .error .field

/-- The operands of VPERM. -/
def decVperm (w : Nat) : Parse SoloOp :=
  match unpack [7, 3, 4, 4, 10, 10, 10] w with
  | [z0, z1, t, m, b, a, d] =>
    also (ap (ap (ap (ap (ap (.ok SoloOp.vperm) ((pTy Ty.notF4) t)) (pVD d)) (pV a)) (pV b)) (pM m))
      (zeros [z0, z1])
  | _ => .error .field

/-- The operands of VSLDU. -/
def decVsldu (w : Nat) : Parse SoloOp :=
  match unpack [7, 3, 4, 4, 10, 10, 10] w with
  | [k, z0, t, m, b, a, d] =>
    also (also (ap (ap (ap (ap (ap (ap (.ok SoloOp.vsldu) ((pTy Ty.notF4) t)) (pVD d)) (pV a)) (pV b)) ((pBV 7) k)) (pM m))
      (holds .field (ap (ap (.ok fun t k => slideOk t k) ((pTy Ty.notF4) t)) ((pBV 7) k))))
      (zeros [z0])
  | _ => .error .field

/-- The operands of VSLDD. -/
def decVsldd (w : Nat) : Parse SoloOp :=
  match unpack [7, 3, 4, 4, 10, 10, 10] w with
  | [k, z0, t, m, b, a, d] =>
    also (also (ap (ap (ap (ap (ap (ap (.ok SoloOp.vsldd) ((pTy Ty.notF4) t)) (pVD d)) (pV a)) (pV b)) ((pBV 7) k)) (pM m))
      (holds .field (ap (ap (.ok fun t k => slideOk t k) ((pTy Ty.notF4) t)) ((pBV 7) k))))
      (zeros [z0])
  | _ => .error .field

/-- The operands of VCMPR. -/
def decVcmpr (w : Nat) : Parse SoloOp :=
  match unpack [7, 3, 4, 4, 10, 10, 10] w with
  | [z0, z1, t, m, z2, a, d] =>
    also (ap (ap (ap (ap (.ok SoloOp.vcmpr) ((pTy Ty.notF4) t)) (pVD d)) (pV a)) (pM m))
      (zeros [z0, z1, z2])
  | _ => .error .field

/-- The operands of VXPND. -/
def decVxpnd (w : Nat) : Parse SoloOp :=
  match unpack [7, 3, 4, 4, 10, 10, 10] w with
  | [z0, z1, t, m, z2, a, d] =>
    also (ap (ap (ap (ap (.ok SoloOp.vxpnd) ((pTy Ty.notF4) t)) (pVD d)) (pV a)) (pM m))
      (zeros [z0, z1, z2])
  | _ => .error .field

/-- The operands of VIOTA. -/
def decViota (w : Nat) : Parse SoloOp :=
  match unpack [7, 3, 4, 4, 10, 10, 10] w with
  | [z0, z1, t, m, z2, z3, d] =>
    also (ap (ap (ap (.ok SoloOp.viota) ((pTy Ty.isInt) t)) (pVD d)) (pM m))
      (zeros [z0, z1, z2, z3])
  | _ => .error .field

/-- The operands of VRED SUM. -/
def decVredSum (w : Nat) : Parse SoloOp :=
  match unpack [3, 4, 3, 4, 4, 10, 10, 5, 5] w with
  | [_, z0, z1, t, m, z2, a, d, z3] =>
    also (ap (ap (ap (ap (.ok SoloOp.vredSum) ((pTy Ty.laneArith) t)) (pS d)) (pV a)) (pM m))
      (zeros [z0, z1, z2, z3])
  | _ => .error .field

/-- The operands of VRED MIN. -/
def decVredMin (w : Nat) : Parse SoloOp :=
  match unpack [3, 4, 3, 4, 4, 10, 10, 5, 5] w with
  | [_, z0, z1, t, m, z2, a, d, z3] =>
    also (ap (ap (ap (ap (.ok SoloOp.vredMin) ((pTy Ty.laneArith) t)) (pS d)) (pV a)) (pM m))
      (zeros [z0, z1, z2, z3])
  | _ => .error .field

/-- The operands of VRED MAX. -/
def decVredMax (w : Nat) : Parse SoloOp :=
  match unpack [3, 4, 3, 4, 4, 10, 10, 5, 5] w with
  | [_, z0, z1, t, m, z2, a, d, z3] =>
    also (ap (ap (ap (ap (.ok SoloOp.vredMax) ((pTy Ty.laneArith) t)) (pS d)) (pV a)) (pM m))
      (zeros [z0, z1, z2, z3])
  | _ => .error .field

/-- The operands of VRED AND. -/
def decVredAnd (w : Nat) : Parse SoloOp :=
  match unpack [3, 4, 3, 4, 4, 10, 10, 5, 5] w with
  | [_, z0, z1, t, m, z2, a, d, z3] =>
    also (ap (ap (ap (ap (.ok SoloOp.vredAnd) ((pTy Ty.isInt) t)) (pS d)) (pV a)) (pM m))
      (zeros [z0, z1, z2, z3])
  | _ => .error .field

/-- The operands of VRED OR. -/
def decVredOr (w : Nat) : Parse SoloOp :=
  match unpack [3, 4, 3, 4, 4, 10, 10, 5, 5] w with
  | [_, z0, z1, t, m, z2, a, d, z3] =>
    also (ap (ap (ap (ap (.ok SoloOp.vredOr) ((pTy Ty.isInt) t)) (pS d)) (pV a)) (pM m))
      (zeros [z0, z1, z2, z3])
  | _ => .error .field

/-- The operands of VRED XOR. -/
def decVredXor (w : Nat) : Parse SoloOp :=
  match unpack [3, 4, 3, 4, 4, 10, 10, 5, 5] w with
  | [_, z0, z1, t, m, z2, a, d, z3] =>
    also (ap (ap (ap (ap (.ok SoloOp.vredXor) ((pTy Ty.isInt) t)) (pS d)) (pV a)) (pM m))
      (zeros [z0, z1, z2, z3])
  | _ => .error .field

/-- The operands of VRED SUMS. -/
def decVredSums (w : Nat) : Parse SoloOp :=
  match unpack [3, 4, 3, 4, 4, 10, 10, 5, 5] w with
  | [_, z0, z1, t, m, z2, a, d, z3] =>
    also (ap (ap (ap (ap (.ok SoloOp.vredSums) ((pTy Ty.isInt) t)) (pS d)) (pV a)) (pM m))
      (zeros [z0, z1, z2, z3])
  | _ => .error .field

/-- The operands of VANY. -/
def decVany (w : Nat) : Parse SoloOp :=
  match unpack [7, 3, 4, 4, 10, 4, 6, 4, 6] w with
  | [z0, z1, t, m, z2, a, z3, d, z4] =>
    also (ap (ap (ap (ap (.ok SoloOp.vany) ((pTy Ty.notF4) t)) (pP d)) (pM a)) (pM m))
      (zeros [z0, z1, z2, z3, z4])
  | _ => .error .field

/-- The operands of VALL. -/
def decVall (w : Nat) : Parse SoloOp :=
  match unpack [7, 3, 4, 4, 10, 4, 6, 4, 6] w with
  | [z0, z1, t, m, z2, a, z3, d, z4] =>
    also (ap (ap (ap (ap (.ok SoloOp.vall) ((pTy Ty.notF4) t)) (pP d)) (pM a)) (pM m))
      (zeros [z0, z1, z2, z3, z4])
  | _ => .error .field

/-- The operands of VMPOP. -/
def decVmpop (w : Nat) : Parse SoloOp :=
  match unpack [7, 3, 4, 4, 10, 4, 6, 5, 5] w with
  | [z0, z1, t, m, z2, a, z3, d, z4] =>
    also (ap (ap (ap (ap (.ok SoloOp.vmpop) ((pTy Ty.notF4) t)) (pS d)) (pM a)) (pM m))
      (zeros [z0, z1, z2, z3, z4])
  | _ => .error .field

/-- The operands of MLOG AND. -/
def decMlogAnd (w : Nat) : Parse SoloOp :=
  match unpack [3, 4, 3, 4, 4, 4, 6, 4, 6, 4, 6] w with
  | [_, z0, z1, z2, z3, b, z4, a, z5, d, z6] =>
    also (ap (ap (ap (.ok SoloOp.mlogAnd) (pM d)) (pM a)) (pM b))
      (zeros [z0, z1, z2, z3, z4, z5, z6])
  | _ => .error .field

/-- The operands of MLOG OR. -/
def decMlogOr (w : Nat) : Parse SoloOp :=
  match unpack [3, 4, 3, 4, 4, 4, 6, 4, 6, 4, 6] w with
  | [_, z0, z1, z2, z3, b, z4, a, z5, d, z6] =>
    also (ap (ap (ap (.ok SoloOp.mlogOr) (pM d)) (pM a)) (pM b))
      (zeros [z0, z1, z2, z3, z4, z5, z6])
  | _ => .error .field

/-- The operands of MLOG XOR. -/
def decMlogXor (w : Nat) : Parse SoloOp :=
  match unpack [3, 4, 3, 4, 4, 4, 6, 4, 6, 4, 6] w with
  | [_, z0, z1, z2, z3, b, z4, a, z5, d, z6] =>
    also (ap (ap (ap (.ok SoloOp.mlogXor) (pM d)) (pM a)) (pM b))
      (zeros [z0, z1, z2, z3, z4, z5, z6])
  | _ => .error .field

/-- The operands of MLOG ANDN. -/
def decMlogAndn (w : Nat) : Parse SoloOp :=
  match unpack [3, 4, 3, 4, 4, 4, 6, 4, 6, 4, 6] w with
  | [_, z0, z1, z2, z3, b, z4, a, z5, d, z6] =>
    also (ap (ap (ap (.ok SoloOp.mlogAndn) (pM d)) (pM a)) (pM b))
      (zeros [z0, z1, z2, z3, z4, z5, z6])
  | _ => .error .field

/-- The operands of MLOG NOT. -/
def decMlogNot (w : Nat) : Parse SoloOp :=
  match unpack [3, 4, 3, 4, 4, 4, 6, 4, 6, 4, 6] w with
  | [_, z0, z1, z2, z3, z4, z5, a, z6, d, z7] =>
    also (ap (ap (.ok SoloOp.mlogNot) (pM d)) (pM a))
      (zeros [z0, z1, z2, z3, z4, z5, z6, z7])
  | _ => .error .field

/-- The operands of VLD. -/
def decVld (w : Nat) : Parse SoloOp :=
  match unpack [20, 4, 1, 4, 4, 5, 10] w with
  | [off, z0, z1, t, m, a, d] =>
    also (ap (ap (ap (ap (ap (.ok SoloOp.vld) ((pTy Ty.notF4) t)) (pVD d)) (pS a)) ((pBV 20) off)) (pM m))
      (zeros [z0, z1])
  | _ => .error .field

/-- The operands of VST. -/
def decVst (w : Nat) : Parse SoloOp :=
  match unpack [20, 4, 1, 4, 4, 5, 10] w with
  | [off, z0, _, t, m, a, v] =>
    also (ap (ap (ap (ap (ap (.ok SoloOp.vst) ((pTy Ty.notF4) t)) (pS a)) ((pBV 20) off)) (pV v)) (pM m))
      (zeros [z0])
  | _ => .error .field

/-- The operands of VST B. -/
def decVstB (w : Nat) : Parse SoloOp :=
  match unpack [20, 4, 1, 4, 4, 5, 10] w with
  | [off, k, _, t, m, a, v] =>
    ap (ap (ap (ap (ap (ap (.ok SoloOp.vstB) ((pTy Ty.boundable) t)) (pS a)) ((pBV 20) off)) (pV v)) (pM m)) (pMb k)
  | _ => .error .field

/-- The operands of MLDST. -/
def decMldst (w : Nat) : Parse SoloOp :=
  match unpack [3, 3, 3, 3, 1, 5, 5, 5, 5, 5, 5, 5] w with
  | [st0, st1, z0, stage, ts, z1, sy, sx, z2, gb, ga, nb] =>
    also (ap (ap (ap (ap (ap (ap (ap (ap (ap (.ok SoloOp.mldst) (pNB nb)) (pG ga)) (pG gb)) (pS sx)) (pS sy)) (pStep st0)) (pStepOf gb st1)) (pBool ts)) ((pBV 3) stage))
      (zeros [z0, z1, z2])
  | _ => .error .field

/-- The operands of MSWAP. -/
def decMswap (w : Nat) : Parse SoloOp :=
  match unpack [3, 3, 3, 3, 1, 5, 5, 5, 5, 5, 5, 5] w with
  | [z0, z1, z2, stage, ts, z3, z4, z5, z6, z7, z8, nb] =>
    also (ap (ap (ap (.ok SoloOp.mswap) (pNB nb)) (pBool ts)) ((pBV 3) stage))
      (zeros [z0, z1, z2, z3, z4, z5, z6, z7, z8])
  | _ => .error .field

/-- The operands of MZERO. -/
def decMzero (w : Nat) : Parse SoloOp :=
  match unpack [3, 3, 3, 3, 1, 5, 5, 5, 5, 5, 5, 5] w with
  | [z0, z1, z2, stage, ts, z3, sy, z4, z5, z6, ga, nb] =>
    also (ap (ap (ap (ap (ap (.ok SoloOp.mzero) (pNB nb)) (pG ga)) (pS sy)) (pBool ts)) ((pBV 3) stage))
      (zeros [z0, z1, z2, z3, z4, z5, z6])
  | _ => .error .field

/-- The operands of MSTREAM. -/
def decMstream (w : Nat) : Parse SoloOp :=
  match unpack [3, 3, 3, 3, 1, 5, 5, 5, 5, 5, 5, 5] w with
  | [st0, z0, st2, stage, ts, z1, sy, sx, gc, gb, ga, nb] =>
    also (ap (ap (ap (ap (ap (ap (ap (ap (ap (ap (.ok SoloOp.mstream) (pNB nb)) (pG ga)) (pG gb)) (pG gc)) (pS sx)) (pS sy)) (pStep st0)) (pStepOf gc st2)) (pBool ts)) ((pBV 3) stage))
      (zeros [z0, z1])
  | _ => .error .field

/-- The operands of MDRAIN. -/
def decMdrain (w : Nat) : Parse SoloOp :=
  match unpack [3, 3, 3, 3, 1, 5, 5, 5, 5, 5, 5, 5] w with
  | [z0, st1, z1, stage, ts, z2, sy, sx, gc, gb, ga, nb] =>
    also (ap (ap (ap (ap (ap (ap (ap (ap (ap (.ok SoloOp.mdrain) (pNB nb)) (pG ga)) (pG gb)) (pG gc)) (pS sx)) (pS sy)) (pStep st1)) (pBool ts)) ((pBV 3) stage))
      (zeros [z0, z1, z2])
  | _ => .error .field

/-- The operands of MEPI. -/
def decMepi (w : Nat) : Parse SoloOp :=
  match unpack [3, 3, 3, 3, 1, 5, 5, 5, 5, 5, 5, 5] w with
  | [z0, z1, z2, stage, ts, z3, sy, sx, z4, z5, ga, nb] =>
    also (ap (ap (ap (ap (ap (ap (.ok SoloOp.mepi) (pNB nb)) (pG ga)) (pS sx)) (pS sy)) (pBool ts)) ((pBV 3) stage))
      (zeros [z0, z1, z2, z3, z4, z5])
  | _ => .error .field

/-- The operands of SMAP. -/
def decSmap (w : Nat) : Parse SoloOp :=
  match unpack [3, 3, 3, 3, 1, 5, 5, 5, 5, 5, 5, 5] w with
  | [st0, st1, st2, stage, z0, gx, sy, sx, gc, gb, ga, nb] =>
    also (ap (ap (ap (ap (ap (ap (ap (ap (ap (ap (ap (.ok SoloOp.smap) (pNB nb)) (pG ga)) (pG gb)) (pG gc)) (pG gx)) (pS sx)) (pS sy)) (pStep st0)) (pStepOf gb st1)) (pStep st2)) ((pBV 3) stage))
      (zeros [z0])
  | _ => .error .field

/-- The operands of SRED. -/
def decSred (w : Nat) : Parse SoloOp :=
  match unpack [3, 3, 3, 3, 1, 5, 5, 5, 5, 5, 5, 5] w with
  | [st0, z0, z1, stage, z2, z3, sy, sx, z4, gb, ga, nb] =>
    also (ap (ap (ap (ap (ap (ap (ap (.ok SoloOp.sred) (pNB nb)) (pG ga)) (pG gb)) (pS sx)) (pS sy)) (pStep st0)) ((pBV 3) stage))
      (zeros [z0, z1, z2, z3, z4])
  | _ => .error .field

/-- The operands of XPOSE. -/
def decXpose (w : Nat) : Parse SoloOp :=
  match unpack [3, 3, 3, 3, 1, 5, 5, 5, 5, 5, 5, 5] w with
  | [st0, st1, z0, stage, z1, z2, sy, sx, z3, gb, ga, nb] =>
    also (ap (ap (ap (ap (ap (ap (ap (ap (.ok SoloOp.xpose) (pNB nb)) (pG ga)) (pG gb)) (pS sx)) (pS sy)) (pStep st0)) (pStep st1)) ((pBV 3) stage))
      (zeros [z0, z1, z2, z3])
  | _ => .error .field

/-- The operands of COPY. -/
def decCopy (w : Nat) : Parse SoloOp :=
  match unpack [4, 1, 3, 5, 5, 5, 5, 5, 5, 5, 5] w with
  | [z0, ord, stage, sw, sz, sy, sx, z1, gb, ga, nb] =>
    also (ap (ap (ap (ap (ap (ap (ap (ap (ap (.ok SoloOp.copy) (pNB nb)) (pG ga)) (pG gb)) (pS sx)) (pS sy)) (pS sz)) (pS sw)) (pBool ord)) ((pBV 3) stage))
      (zeros [z0, z1])
  | _ => .error .field

/-- The operands of GATHER. -/
def decGather (w : Nat) : Parse SoloOp :=
  match unpack [4, 1, 3, 5, 5, 5, 5, 5, 5, 5, 5] w with
  | [z0, ord, stage, sw, sz, sy, sx, gc, gb, ga, nb] =>
    also (ap (ap (ap (ap (ap (ap (ap (ap (ap (ap (.ok SoloOp.gather) (pNB nb)) (pG ga)) (pG gb)) (pG gc)) (pS sx)) (pS sy)) (pS sz)) (pS sw)) (pBool ord)) ((pBV 3) stage))
      (zeros [z0])
  | _ => .error .field

/-- The operands of SCATTER. -/
def decScatter (w : Nat) : Parse SoloOp :=
  match unpack [4, 1, 3, 5, 5, 5, 5, 5, 5, 5, 5] w with
  | [z0, ord, stage, sw, sz, sy, sx, gc, gb, ga, nb] =>
    also (ap (ap (ap (ap (ap (ap (ap (ap (ap (ap (.ok SoloOp.scatter) (pNB nb)) (pG ga)) (pG gb)) (pG gc)) (pS sx)) (pS sy)) (pS sz)) (pS sw)) (pBool ord)) ((pBV 3) stage))
      (zeros [z0])
  | _ => .error .field

/-- The operands of SUBSCR. -/
def decSubscr (w : Nat) : Parse SoloOp :=
  match unpack [4, 1, 3, 5, 5, 5, 5, 5, 5, 5, 5] w with
  | [z0, z1, stage, z2, sz, sy, sx, z3, gb, ga, nb] =>
    also (ap (ap (ap (ap (ap (ap (ap (.ok SoloOp.subscr) (pNB nb)) (pG ga)) (pG gb)) (pS sx)) (pS sy)) (pS sz)) ((pBV 3) stage))
      (zeros [z0, z1, z2, z3])
  | _ => .error .field

/-- The operands of RINGPOP. -/
def decRingpop (w : Nat) : Parse SoloOp :=
  match unpack [4, 1, 3, 5, 5, 5, 5, 5, 5, 5, 5] w with
  | [z0, z1, stage, z2, z3, z4, sx, z5, z6, ga, nb] =>
    also (ap (ap (ap (ap (.ok SoloOp.ringpop) (pNB nb)) (pG ga)) (pS sx)) ((pBV 3) stage))
      (zeros [z0, z1, z2, z3, z4, z5, z6])
  | _ => .error .field

/-- The operands of RINGPUSH. -/
def decRingpush (w : Nat) : Parse SoloOp :=
  match unpack [4, 1, 3, 5, 5, 5, 5, 5, 5, 5, 5] w with
  | [z0, z1, stage, z2, z3, z4, sx, z5, z6, ga, nb] =>
    also (ap (ap (ap (ap (.ok SoloOp.ringpush) (pNB nb)) (pG ga)) (pS sx)) ((pBV 3) stage))
      (zeros [z0, z1, z2, z3, z4, z5, z6])
  | _ => .error .field

/-- The operands of COLL. -/
def decColl (w : Nat) : Parse SoloOp :=
  match unpack [4, 1, 3, 5, 5, 5, 5, 5, 5, 5, 5] w with
  | [z0, ord, stage, z1, sz, sy, sx, z2, gb, ga, nb] =>
    also (ap (ap (ap (ap (ap (ap (ap (ap (.ok SoloOp.coll) (pNB nb)) (pG ga)) (pG gb)) (pS sx)) (pS sy)) (pS sz)) (pBool ord)) ((pBV 3) stage))
      (zeros [z0, z1, z2])
  | _ => .error .field

/-- The operands of POSTM. -/
def decPostm (w : Nat) : Parse SoloOp :=
  match unpack [18, 5, 5, 5, 5, 5, 5] w with
  | [z0, sy, sx, z1, z2, ga, nb] =>
    also (ap (ap (ap (ap (.ok SoloOp.postm) (pNB nb)) (pG ga)) (pS sx)) (pS sy))
      (zeros [z0, z1, z2])
  | _ => .error .field

/-- The operands of POSTR. -/
def decPostr (w : Nat) : Parse SoloOp :=
  match unpack [4, 1, 3, 5, 5, 5, 5, 5, 5, 5, 5] w with
  | [z0, ord, z1, z2, sr, sy, sx, z3, z4, ga, nb] =>
    also (ap (ap (ap (ap (ap (ap (.ok SoloOp.postr) (pNB nb)) (pG ga)) (pS sx)) (pS sy)) (pS sr)) (pBool ord))
      (zeros [z0, z1, z2, z3, z4])
  | _ => .error .field

/-- The operands of BUNDLE. -/
def decBundle (w : Nat) : Parse SoloOp :=
  match unpack [18, 5, 5, 5, 5, 5, 5] w with
  | [z0, z1, z2, z3, z4, z5, z6] =>
    also (.ok SoloOp.bundle)
      (zeros [z0, z1, z2, z3, z4, z5, z6])
  | _ => .error .field

/-- The operands of BEND. -/
def decBend (w : Nat) : Parse SoloOp :=
  match unpack [18, 5, 5, 5, 5, 5, 5] w with
  | [z0, z1, z2, z3, z4, z5, z6] =>
    also (.ok SoloOp.bend)
      (zeros [z0, z1, z2, z3, z4, z5, z6])
  | _ => .error .field

/-- The operands of GUARD. -/
def decGuard (w : Nat) : Parse SoloOp :=
  match unpack [3, 5, 5, 5, 5, 5, 5, 5, 5, 5] w with
  | [z0, gf, ge, gd, z1, k, gc, gb, ga, nb] =>
    also (ap (ap (ap (ap (ap (ap (ap (ap (.ok SoloOp.guard) (pNB nb)) (pMb k)) (pG ga)) (pG gb)) (pG gc)) (pG gd)) (pG ge)) (pG gf))
      (zeros [z0, z1])
  | _ => .error .field

/-- The operands of GCHECK. -/
def decGcheck (w : Nat) : Parse SoloOp :=
  match unpack [18, 5, 5, 5, 5, 5, 5] w with
  | [z0, z1, z2, z3, z4, z5, z6] =>
    also (.ok SoloOp.gcheck)
      (zeros [z0, z1, z2, z3, z4, z5, z6])
  | _ => .error .field

/-- The operands of GEXACT. -/
def decGexact (w : Nat) : Parse SoloOp :=
  match unpack [18, 5, 5, 5, 5, 5, 5] w with
  | [z0, z1, z2, z3, z4, z5, z6] =>
    also (.ok SoloOp.gexact)
      (zeros [z0, z1, z2, z3, z4, z5, z6])
  | _ => .error .field

/-- The operands of GEND. -/
def decGend (w : Nat) : Parse SoloOp :=
  match unpack [18, 5, 5, 5, 5, 5, 5] w with
  | [z0, z1, z2, z3, z4, z5, z6] =>
    also (.ok SoloOp.gend)
      (zeros [z0, z1, z2, z3, z4, z5, z6])
  | _ => .error .field

/-- The operands of TSTART. -/
def decTstart (w : Nat) : Parse SoloOp :=
  match unpack [18, 5, 5, 5, 5, 5, 5] w with
  | [z0, z1, z2, z3, z4, ga, nb] =>
    also (ap (ap (.ok SoloOp.tstart) (pNB nb)) (pG ga))
      (zeros [z0, z1, z2, z3, z4])
  | _ => .error .field

/-- The operands of RGLD. -/
def decRgld (w : Nat) : Parse SoloOp :=
  match unpack [20, 3, 2, 4, 5, 5, 4, 5] w with
  | [off, sc, o, z0, b, a, c, d] =>
    also (ap (ap (ap (ap (ap (ap (ap (.ok SoloOp.rgld) ((pOrd Ord.load) o)) (pScope sc)) (pG d)) (pC c)) (pS a)) (pS b)) ((pBV 20) off))
      (zeros [z0])
  | _ => .error .field

/-- The operands of TWAIT. -/
def decTwait (w : Nat) : Parse SoloOp :=
  match unpack [6, 42] w with
  | [em, z0] =>
    also (ap (.ok SoloOp.twait) ((pBVp 6 nonzero) em))
      (zeros [z0])
  | _ => .error .field

/-- The operands of LI. -/
def decLi (w : Nat) (x : Nat) : Parse SoloOp :=
  match unpack [32, 6, 5, 5] w with
  | [z0, z1, z2, d] =>
    also (ap (ap (.ok SoloOp.li) (pS d)) ((pBV 64) x))
      (zeros [z0, z1, z2])
  | _ => .error .field

/-- The operands of ADDL. -/
def decAddl (w : Nat) (x : Nat) : Parse SoloOp :=
  match unpack [32, 6, 5, 5] w with
  | [z0, z1, a, d] =>
    also (ap (ap (ap (.ok SoloOp.addl) (pS d)) (pS a)) ((pBV 64) x))
      (zeros [z0, z1])
  | _ => .error .field

/-- The operands of ANDL. -/
def decAndl (w : Nat) (x : Nat) : Parse SoloOp :=
  match unpack [32, 6, 5, 5] w with
  | [z0, z1, a, d] =>
    also (ap (ap (ap (.ok SoloOp.andl) (pS d)) (pS a)) ((pBV 64) x))
      (zeros [z0, z1])
  | _ => .error .field

/-- The operands of ORL. -/
def decOrl (w : Nat) (x : Nat) : Parse SoloOp :=
  match unpack [32, 6, 5, 5] w with
  | [z0, z1, a, d] =>
    also (ap (ap (ap (.ok SoloOp.orl) (pS d)) (pS a)) ((pBV 64) x))
      (zeros [z0, z1])
  | _ => .error .field

/-- The operands of XORL. -/
def decXorl (w : Nat) (x : Nat) : Parse SoloOp :=
  match unpack [32, 6, 5, 5] w with
  | [z0, z1, a, d] =>
    also (ap (ap (ap (.ok SoloOp.xorl) (pS d)) (pS a)) ((pBV 64) x))
      (zeros [z0, z1])
  | _ => .error .field

/-- The operands of CMPL. -/
def decCmpl (w : Nat) (x : Nat) : Parse SoloOp :=
  match unpack [32, 4, 2, 5, 5] w with
  | [z0, c, z1, a, p] =>
    also (ap (ap (ap (ap (.ok SoloOp.cmpl) (pICond c)) (pP p)) (pS a)) ((pBV 64) x))
      (zeros [z0, z1])
  | _ => .error .field

/-- The operands of LDL. -/
def decLdl (w : Nat) (x : Nat) : Parse SoloOp :=
  match unpack [20, 3, 2, 4, 5, 5, 4, 5] w with
  | [z0, sc, o, t, z1, a, c, d] =>
    also (ap (ap (ap (ap (ap (ap (ap (.ok SoloOp.ldl) ((pTy Ty.notF4) t)) ((pOrd Ord.load) o)) (pScope sc)) (pS d)) (pC c)) (pS a)) (pOff48 x))
      (zeros [z0, z1])
  | _ => .error .field

/-- The operands of STL. -/
def decStl (w : Nat) (x : Nat) : Parse SoloOp :=
  match unpack [20, 3, 2, 4, 5, 5, 4, 5] w with
  | [z0, sc, o, t, z1, a, c, d] =>
    also (ap (ap (ap (ap (ap (ap (ap (.ok SoloOp.stl) ((pTy Ty.notF4) t)) ((pOrd Ord.store) o)) (pScope sc)) (pC c)) (pS a)) (pOff48 x)) (pS d))
      (zeros [z0, z1])
  | _ => .error .field

/-- The operands of RGSET. -/
def decRgset (w : Nat) (x : Nat) : Parse SoloOp :=
  match unpack [28, 5, 5, 5, 5] w with
  | [z0, z1, z2, z3, d] =>
    also (ap (ap (.ok SoloOp.rgset) (pG d)) ((pBV 64) x))
      (zeros [z0, z1, z2, z3])
  | _ => .error .field

/-- The operands of VLI. -/
def decVli (w : Nat) (x : Nat) : Parse SoloOp :=
  match unpack [7, 3, 4, 4, 10, 10, 10] w with
  | [z0, z1, z2, z3, z4, z5, d] =>
    also (ap (ap (.ok SoloOp.vli) (pVD d)) ((pBV 64) x))
      (zeros [z0, z1, z2, z3, z4, z5])
  | _ => .error .field

/-- The operands of SNOP. -/
def decSnop (w : Nat) : Parse SlotOp :=
  match unpack [5, 5, 5] w with
  | [z0, z1, z2] =>
    also (.ok SlotOp.snop)
      (zeros [z0, z1, z2])
  | _ => .error .field

/-- The operands of ADD SLOT. -/
def decAddSlot (w : Nat) : Parse SlotOp :=
  match unpack [5, 5, 5] w with
  | [b, a, d] =>
    ap (ap (ap (.ok SlotOp.addSlot) (pS d)) (pS a)) (pS b)
  | _ => .error .field

/-- The operands of SUB SLOT. -/
def decSubSlot (w : Nat) : Parse SlotOp :=
  match unpack [5, 5, 5] w with
  | [b, a, d] =>
    ap (ap (ap (.ok SlotOp.subSlot) (pS d)) (pS a)) (pS b)
  | _ => .error .field

/-- The operands of AND SLOT. -/
def decAndSlot (w : Nat) : Parse SlotOp :=
  match unpack [5, 5, 5] w with
  | [b, a, d] =>
    ap (ap (ap (.ok SlotOp.andSlot) (pS d)) (pS a)) (pS b)
  | _ => .error .field

/-- The operands of OR SLOT. -/
def decOrSlot (w : Nat) : Parse SlotOp :=
  match unpack [5, 5, 5] w with
  | [b, a, d] =>
    ap (ap (ap (.ok SlotOp.orSlot) (pS d)) (pS a)) (pS b)
  | _ => .error .field

/-- The operands of XOR SLOT. -/
def decXorSlot (w : Nat) : Parse SlotOp :=
  match unpack [5, 5, 5] w with
  | [b, a, d] =>
    ap (ap (ap (.ok SlotOp.xorSlot) (pS d)) (pS a)) (pS b)
  | _ => .error .field

/-- The operands of ANDN SLOT. -/
def decAndnSlot (w : Nat) : Parse SlotOp :=
  match unpack [5, 5, 5] w with
  | [b, a, d] =>
    ap (ap (ap (.ok SlotOp.andnSlot) (pS d)) (pS a)) (pS b)
  | _ => .error .field

/-- The operands of SHL SLOT. -/
def decShlSlot (w : Nat) : Parse SlotOp :=
  match unpack [5, 5, 5] w with
  | [b, a, d] =>
    ap (ap (ap (.ok SlotOp.shlSlot) (pS d)) (pS a)) (pS b)
  | _ => .error .field

/-- The operands of SHR SLOT. -/
def decShrSlot (w : Nat) : Parse SlotOp :=
  match unpack [5, 5, 5] w with
  | [b, a, d] =>
    ap (ap (ap (.ok SlotOp.shrSlot) (pS d)) (pS a)) (pS b)
  | _ => .error .field

/-- The operands of SRA SLOT. -/
def decSraSlot (w : Nat) : Parse SlotOp :=
  match unpack [5, 5, 5] w with
  | [b, a, d] =>
    ap (ap (ap (.ok SlotOp.sraSlot) (pS d)) (pS a)) (pS b)
  | _ => .error .field

/-- The operands of MIN SLOT. -/
def decMinSlot (w : Nat) : Parse SlotOp :=
  match unpack [5, 5, 5] w with
  | [b, a, d] =>
    ap (ap (ap (.ok SlotOp.minSlot) (pS d)) (pS a)) (pS b)
  | _ => .error .field

/-- The operands of MAX SLOT. -/
def decMaxSlot (w : Nat) : Parse SlotOp :=
  match unpack [5, 5, 5] w with
  | [b, a, d] =>
    ap (ap (ap (.ok SlotOp.maxSlot) (pS d)) (pS a)) (pS b)
  | _ => .error .field

/-- The operands of MINU SLOT. -/
def decMinuSlot (w : Nat) : Parse SlotOp :=
  match unpack [5, 5, 5] w with
  | [b, a, d] =>
    ap (ap (ap (.ok SlotOp.minuSlot) (pS d)) (pS a)) (pS b)
  | _ => .error .field

/-- The operands of MAXU SLOT. -/
def decMaxuSlot (w : Nat) : Parse SlotOp :=
  match unpack [5, 5, 5] w with
  | [b, a, d] =>
    ap (ap (ap (.ok SlotOp.maxuSlot) (pS d)) (pS a)) (pS b)
  | _ => .error .field

/-- The operands of MUL SLOT. -/
def decMulSlot (w : Nat) : Parse SlotOp :=
  match unpack [5, 5, 5] w with
  | [b, a, d] =>
    ap (ap (ap (.ok SlotOp.mulSlot) (pS d)) (pS a)) (pS b)
  | _ => .error .field

/-- The operands of ADDI SLOT. -/
def decAddiSlot (w : Nat) : Parse SlotOp :=
  match unpack [5, 5, 5] w with
  | [imm, a, d] =>
    ap (ap (ap (.ok SlotOp.addiSlot) (pS d)) (pS a)) ((pBV 5) imm)
  | _ => .error .field

/-- The operands of SHLI SLOT. -/
def decShliSlot (w : Nat) : Parse SlotOp :=
  match unpack [5, 5, 5] w with
  | [imm, a, d] =>
    ap (ap (ap (.ok SlotOp.shliSlot) (pS d)) (pS a)) ((pBVp 5 slotShift) imm)
  | _ => .error .field

/-- The operands of SHRI SLOT. -/
def decShriSlot (w : Nat) : Parse SlotOp :=
  match unpack [5, 5, 5] w with
  | [imm, a, d] =>
    ap (ap (ap (.ok SlotOp.shriSlot) (pS d)) (pS a)) ((pBVp 5 slotShift) imm)
  | _ => .error .field

/-- The operands of SRAI SLOT. -/
def decSraiSlot (w : Nat) : Parse SlotOp :=
  match unpack [5, 5, 5] w with
  | [imm, a, d] =>
    ap (ap (ap (.ok SlotOp.sraiSlot) (pS d)) (pS a)) ((pBVp 5 slotShift) imm)
  | _ => .error .field

/-- The operands of CMP EQ SLOT. -/
def decCmpEqSlot (w : Nat) : Parse SlotOp :=
  match unpack [5, 5, 5] w with
  | [b, a, p] =>
    ap (ap (ap (.ok SlotOp.cmpEqSlot) (pP p)) (pS a)) (pS b)
  | _ => .error .field

/-- The operands of CMP NE SLOT. -/
def decCmpNeSlot (w : Nat) : Parse SlotOp :=
  match unpack [5, 5, 5] w with
  | [b, a, p] =>
    ap (ap (ap (.ok SlotOp.cmpNeSlot) (pP p)) (pS a)) (pS b)
  | _ => .error .field

/-- The operands of CMP LT SLOT. -/
def decCmpLtSlot (w : Nat) : Parse SlotOp :=
  match unpack [5, 5, 5] w with
  | [b, a, p] =>
    ap (ap (ap (.ok SlotOp.cmpLtSlot) (pP p)) (pS a)) (pS b)
  | _ => .error .field

/-- The operands of CMP LTU SLOT. -/
def decCmpLtuSlot (w : Nat) : Parse SlotOp :=
  match unpack [5, 5, 5] w with
  | [b, a, p] =>
    ap (ap (ap (.ok SlotOp.cmpLtuSlot) (pP p)) (pS a)) (pS b)
  | _ => .error .field

/-- The operands of CMP GE SLOT. -/
def decCmpGeSlot (w : Nat) : Parse SlotOp :=
  match unpack [5, 5, 5] w with
  | [b, a, p] =>
    ap (ap (ap (.ok SlotOp.cmpGeSlot) (pP p)) (pS a)) (pS b)
  | _ => .error .field

/-- The operands of CMP GEU SLOT. -/
def decCmpGeuSlot (w : Nat) : Parse SlotOp :=
  match unpack [5, 5, 5] w with
  | [b, a, p] =>
    ap (ap (ap (.ok SlotOp.cmpGeuSlot) (pP p)) (pS a)) (pS b)
  | _ => .error .field

/-- The operands of CMPI EQ SLOT. -/
def decCmpiEqSlot (w : Nat) : Parse SlotOp :=
  match unpack [5, 5, 5] w with
  | [imm, a, p] =>
    ap (ap (ap (.ok SlotOp.cmpiEqSlot) (pP p)) (pS a)) ((pBV 5) imm)
  | _ => .error .field

/-- The operands of PAND SLOT. -/
def decPandSlot (w : Nat) : Parse SlotOp :=
  match unpack [5, 5, 5] w with
  | [b, a, d] =>
    ap (ap (ap (.ok SlotOp.pandSlot) (pP d)) (pP a)) (pP b)
  | _ => .error .field

/-- The operands of POR SLOT. -/
def decPorSlot (w : Nat) : Parse SlotOp :=
  match unpack [5, 5, 5] w with
  | [b, a, d] =>
    ap (ap (ap (.ok SlotOp.porSlot) (pP d)) (pP a)) (pP b)
  | _ => .error .field

/-- The operands of PXOR SLOT. -/
def decPxorSlot (w : Nat) : Parse SlotOp :=
  match unpack [5, 5, 5] w with
  | [b, a, d] =>
    ap (ap (ap (.ok SlotOp.pxorSlot) (pP d)) (pP a)) (pP b)
  | _ => .error .field

/-- The operands of PANDN SLOT. -/
def decPandnSlot (w : Nat) : Parse SlotOp :=
  match unpack [5, 5, 5] w with
  | [b, a, d] =>
    ap (ap (ap (.ok SlotOp.pandnSlot) (pP d)) (pP a)) (pP b)
  | _ => .error .field

/-- The operands of VNOP. -/
def decVnop (w : Nat) : Parse SlotOp :=
  match unpack [10, 10, 10] w with
  | [z0, z1, z2] =>
    also (.ok SlotOp.vnop)
      (zeros [z0, z1, z2])
  | _ => .error .field

/-- The operands of VMOV. -/
def decVmov (w : Nat) : Parse SlotOp :=
  match unpack [10, 10, 10] w with
  | [z0, a, d] =>
    also (ap (ap (.ok SlotOp.vmov) (pVD d)) (pV a))
      (zeros [z0])
  | _ => .error .field

/-- The operands of VADD SLOT. -/
def decVaddSlot (w : Nat) : Parse SlotOp :=
  match unpack [10, 10, 10] w with
  | [b, a, d] =>
    ap (ap (ap (.ok SlotOp.vaddSlot) (pVD d)) (pV a)) (pV b)
  | _ => .error .field

/-- The operands of VSUB SLOT. -/
def decVsubSlot (w : Nat) : Parse SlotOp :=
  match unpack [10, 10, 10] w with
  | [b, a, d] =>
    ap (ap (ap (.ok SlotOp.vsubSlot) (pVD d)) (pV a)) (pV b)
  | _ => .error .field

/-- The operands of VMUL SLOT. -/
def decVmulSlot (w : Nat) : Parse SlotOp :=
  match unpack [10, 10, 10] w with
  | [b, a, d] =>
    ap (ap (ap (.ok SlotOp.vmulSlot) (pVD d)) (pV a)) (pV b)
  | _ => .error .field

/-- The operands of VFMA SLOT. -/
def decVfmaSlot (w : Nat) : Parse SlotOp :=
  match unpack [10, 10, 10] w with
  | [b, a, d] =>
    ap (ap (ap (.ok SlotOp.vfmaSlot) (pVD d)) (pV a)) (pV b)
  | _ => .error .field

/-- The operands of VFMS SLOT. -/
def decVfmsSlot (w : Nat) : Parse SlotOp :=
  match unpack [10, 10, 10] w with
  | [b, a, d] =>
    ap (ap (ap (.ok SlotOp.vfmsSlot) (pVD d)) (pV a)) (pV b)
  | _ => .error .field

/-- The operands of VMIN SLOT. -/
def decVminSlot (w : Nat) : Parse SlotOp :=
  match unpack [10, 10, 10] w with
  | [b, a, d] =>
    ap (ap (ap (.ok SlotOp.vminSlot) (pVD d)) (pV a)) (pV b)
  | _ => .error .field

/-- The operands of VMAX SLOT. -/
def decVmaxSlot (w : Nat) : Parse SlotOp :=
  match unpack [10, 10, 10] w with
  | [b, a, d] =>
    ap (ap (ap (.ok SlotOp.vmaxSlot) (pVD d)) (pV a)) (pV b)
  | _ => .error .field

/-- The operands of VABS SLOT. -/
def decVabsSlot (w : Nat) : Parse SlotOp :=
  match unpack [10, 10, 10] w with
  | [z0, a, d] =>
    also (ap (ap (.ok SlotOp.vabsSlot) (pVD d)) (pV a))
      (zeros [z0])
  | _ => .error .field

/-- The operands of VNEG SLOT. -/
def decVnegSlot (w : Nat) : Parse SlotOp :=
  match unpack [10, 10, 10] w with
  | [z0, a, d] =>
    also (ap (ap (.ok SlotOp.vnegSlot) (pVD d)) (pV a))
      (zeros [z0])
  | _ => .error .field

/-- The operands of VAND SLOT. -/
def decVandSlot (w : Nat) : Parse SlotOp :=
  match unpack [10, 10, 10] w with
  | [b, a, d] =>
    ap (ap (ap (.ok SlotOp.vandSlot) (pVD d)) (pV a)) (pV b)
  | _ => .error .field

/-- The operands of VOR SLOT. -/
def decVorSlot (w : Nat) : Parse SlotOp :=
  match unpack [10, 10, 10] w with
  | [b, a, d] =>
    ap (ap (ap (.ok SlotOp.vorSlot) (pVD d)) (pV a)) (pV b)
  | _ => .error .field

/-- The operands of VXOR SLOT. -/
def decVxorSlot (w : Nat) : Parse SlotOp :=
  match unpack [10, 10, 10] w with
  | [b, a, d] =>
    ap (ap (ap (.ok SlotOp.vxorSlot) (pVD d)) (pV a)) (pV b)
  | _ => .error .field

/-- The operands of VANDN SLOT. -/
def decVandnSlot (w : Nat) : Parse SlotOp :=
  match unpack [10, 10, 10] w with
  | [b, a, d] =>
    ap (ap (ap (.ok SlotOp.vandnSlot) (pVD d)) (pV a)) (pV b)
  | _ => .error .field

/-- The operands of VSHL SLOT. -/
def decVshlSlot (w : Nat) : Parse SlotOp :=
  match unpack [10, 10, 10] w with
  | [b, a, d] =>
    ap (ap (ap (.ok SlotOp.vshlSlot) (pVD d)) (pV a)) (pV b)
  | _ => .error .field

/-- The operands of VSHR SLOT. -/
def decVshrSlot (w : Nat) : Parse SlotOp :=
  match unpack [10, 10, 10] w with
  | [b, a, d] =>
    ap (ap (ap (.ok SlotOp.vshrSlot) (pVD d)) (pV a)) (pV b)
  | _ => .error .field

/-- The operands of VSRA SLOT. -/
def decVsraSlot (w : Nat) : Parse SlotOp :=
  match unpack [10, 10, 10] w with
  | [b, a, d] =>
    ap (ap (ap (.ok SlotOp.vsraSlot) (pVD d)) (pV a)) (pV b)
  | _ => .error .field

/-- The operands of VRCP SLOT. -/
def decVrcpSlot (w : Nat) : Parse SlotOp :=
  match unpack [10, 10, 10] w with
  | [z0, a, d] =>
    also (ap (ap (.ok SlotOp.vrcpSlot) (pVD d)) (pV a))
      (zeros [z0])
  | _ => .error .field

/-- The operands of VRSQ SLOT. -/
def decVrsqSlot (w : Nat) : Parse SlotOp :=
  match unpack [10, 10, 10] w with
  | [z0, a, d] =>
    also (ap (ap (.ok SlotOp.vrsqSlot) (pVD d)) (pV a))
      (zeros [z0])
  | _ => .error .field

/-- The operands of VEXP2 SLOT. -/
def decVexp2Slot (w : Nat) : Parse SlotOp :=
  match unpack [10, 10, 10] w with
  | [z0, a, d] =>
    also (ap (ap (.ok SlotOp.vexp2Slot) (pVD d)) (pV a))
      (zeros [z0])
  | _ => .error .field

/-- The operands of VLOG2 SLOT. -/
def decVlog2Slot (w : Nat) : Parse SlotOp :=
  match unpack [10, 10, 10] w with
  | [z0, a, d] =>
    also (ap (ap (.ok SlotOp.vlog2Slot) (pVD d)) (pV a))
      (zeros [z0])
  | _ => .error .field

/-- The operands of VSIN SLOT. -/
def decVsinSlot (w : Nat) : Parse SlotOp :=
  match unpack [10, 10, 10] w with
  | [z0, a, d] =>
    also (ap (ap (.ok SlotOp.vsinSlot) (pVD d)) (pV a))
      (zeros [z0])
  | _ => .error .field

/-- The operands of VRINT SLOT. -/
def decVrintSlot (w : Nat) : Parse SlotOp :=
  match unpack [10, 10, 10] w with
  | [z0, a, d] =>
    also (ap (ap (.ok SlotOp.vrintSlot) (pVD d)) (pV a))
      (zeros [z0])
  | _ => .error .field

/-- The operands of VCMP EQ SLOT. -/
def decVcmpEqSlot (w : Nat) : Parse SlotOp :=
  match unpack [10, 10, 4, 6] w with
  | [b, a, d, z0] =>
    also (ap (ap (ap (.ok SlotOp.vcmpEqSlot) (pM d)) (pV a)) (pV b))
      (zeros [z0])
  | _ => .error .field

/-- The operands of VCMP NE SLOT. -/
def decVcmpNeSlot (w : Nat) : Parse SlotOp :=
  match unpack [10, 10, 4, 6] w with
  | [b, a, d, z0] =>
    also (ap (ap (ap (.ok SlotOp.vcmpNeSlot) (pM d)) (pV a)) (pV b))
      (zeros [z0])
  | _ => .error .field

/-- The operands of VCMP LT SLOT. -/
def decVcmpLtSlot (w : Nat) : Parse SlotOp :=
  match unpack [10, 10, 4, 6] w with
  | [b, a, d, z0] =>
    also (ap (ap (ap (.ok SlotOp.vcmpLtSlot) (pM d)) (pV a)) (pV b))
      (zeros [z0])
  | _ => .error .field

/-- The operands of VCMP LE SLOT. -/
def decVcmpLeSlot (w : Nat) : Parse SlotOp :=
  match unpack [10, 10, 4, 6] w with
  | [b, a, d, z0] =>
    also (ap (ap (ap (.ok SlotOp.vcmpLeSlot) (pM d)) (pV a)) (pV b))
      (zeros [z0])
  | _ => .error .field

/-- The operands of VSLDU SLOT. -/
def decVslduSlot (w : Nat) : Parse SlotOp :=
  match unpack [10, 10, 10] w with
  | [b, a, d] =>
    ap (ap (ap (.ok SlotOp.vslduSlot) (pVD d)) (pV a)) (pV b)
  | _ => .error .field

/-- The operands of VSLDD SLOT. -/
def decVslddSlot (w : Nat) : Parse SlotOp :=
  match unpack [10, 10, 10] w with
  | [b, a, d] =>
    ap (ap (ap (.ok SlotOp.vslddSlot) (pVD d)) (pV a)) (pV b)
  | _ => .error .field

/-- The operands of VPERM SLOT. -/
def decVpermSlot (w : Nat) : Parse SlotOp :=
  match unpack [10, 10, 10] w with
  | [b, a, d] =>
    ap (ap (ap (.ok SlotOp.vpermSlot) (pVD d)) (pV a)) (pV b)
  | _ => .error .field

/-- The operands of VTLU SLOT. -/
def decVtluSlot (w : Nat) : Parse SlotOp :=
  match unpack [10, 10, 10] w with
  | [b, a, d] =>
    ap (ap (ap (.ok SlotOp.vtluSlot) (pVD d)) (pV a)) (pVO b)
  | _ => .error .field

/-- The operands of VCVT SLOT. -/
def decVcvtSlot (w : Nat) : Parse SlotOp :=
  match unpack [10, 10, 10] w with
  | [b, a, d] =>
    ap (ap (ap (.ok SlotOp.vcvtSlot) (pVD d)) (pV a)) (pV b)
  | _ => .error .field

/-- The operands of VADDS SLOT. -/
def decVaddsSlot (w : Nat) : Parse SlotOp :=
  match unpack [10, 10, 10] w with
  | [b, a, d] =>
    ap (ap (ap (.ok SlotOp.vaddsSlot) (pVD d)) (pV a)) (pV b)
  | _ => .error .field

/-- The operands of VSUBS SLOT. -/
def decVsubsSlot (w : Nat) : Parse SlotOp :=
  match unpack [10, 10, 10] w with
  | [b, a, d] =>
    ap (ap (ap (.ok SlotOp.vsubsSlot) (pVD d)) (pV a)) (pV b)
  | _ => .error .field

/-- Row 0x0 of the opcode map (R175). -/
def soloRow0 (l w : Nat) : Option (Parse SoloOp) :=
  match l with
  | 0 => some (decAdd w)
  | 1 => some (decSub w)
  | 2 => some (decMul w)
  | 3 => some (decMulh w)
  | 4 => some (decMulhu w)
  | 5 => some (decDiv w)
  | 6 => some (decDivu w)
  | 7 => some (decRem w)
  | 8 => some (decRemu w)
  | 9 => some (decAnd w)
  | 10 => some (decOr w)
  | 11 => some (decXor w)
  | 12 => some (decAndn w)
  | 13 => some (decShl w)
  | 14 => some (decShr w)
  | 15 => some (decSra w)
  | _ => none

/-- Row 0x1 of the opcode map (R175). -/
def soloRow1 (l w : Nat) : Option (Parse SoloOp) :=
  match l with
  | 0 => some (decRol w)
  | 1 => some (decRor w)
  | 2 => some (decMin w)
  | 3 => some (decMax w)
  | 4 => some (decMinu w)
  | 5 => some (decMaxu w)
  | 6 => some (decAdds w)
  | 7 => some (decSubs w)
  | 8 => some (decAddi w)
  | 9 => some (decAndi w)
  | 10 => some (decOri w)
  | 11 => some (decXori w)
  | 12 => some (decShli w)
  | 13 => some (decShri w)
  | 14 => some (decSrai w)
  | 15 => some (decRori w)
  | _ => none

/-- Row 0x2 of the opcode map (R175). -/
def soloRow2 (l w : Nat) : Option (Parse SoloOp) :=
  match l with
  | 0 => some (decClz w)
  | 1 => some (decCtz w)
  | 2 => some (decPopc w)
  | 3 => some (decBrev w)
  | 4 => some (decBswap w)
  | 5 => some (decBilv2 w)
  | 6 => some (decBilv3 w)
  | 7 => some (decBdil2 w)
  | 8 => some (decBdil3 w)
  | 9 => some (decExt w)
  | 10 => some (decExtz w)
  | 11 => some (decIns w)
  | 12 => some (decSel w)
  | _ => none

/-- Row 0x3 of the opcode map (R175). -/
def soloRow3 (l w : Nat) : Option (Parse SoloOp) :=
  match l with
  | 0 => some (decFadd w)
  | 1 => some (decFsub w)
  | 2 => some (decFmul w)
  | 3 => some (decFdiv w)
  | 4 => some (decFsqrt w)
  | 5 => some (decFma w)
  | 6 => some (decFmin w)
  | 7 => some (decFmax w)
  | 8 => some (decFcvt w)
  | 9 => some (decFcvti w)
  | 10 => some (decIcvtf w)
  | 11 => some (decFclass w)
  | 12 => some (decFcmp w)
  | 13 => some (decCmp w)
  | 14 => some (decCmpi w)
  | _ => none

/-- Row 0x4 of the opcode map (R175). -/
def soloRow4 (l w : Nat) : Option (Parse SoloOp) :=
  match l with
  | 0 => some (decPand w)
  | 1 => some (decPor w)
  | 2 => some (decPxor w)
  | 3 => some (decPandn w)
  | 4 => some (decMfp w)
  | 5 => some (decMtp w)
  | 6 => some (decMfs w)
  | 7 => some (decMts w)
  | 8 => some (decCld w)
  | 9 => some (decCder w)
  | 10 => some (decCrst w)
  | 11 => some (decCnull w)
  | 12 => some (decLd w)
  | 13 => some (decSt w)
  | 14 => some (decLdx w)
  | 15 => some (decStx w)
  | _ => none

/-- Row 0x5 of the opcode map (R175). -/
def soloRow5 (l w : Nat) : Option (Parse SoloOp) :=
  match l with
  | 0 => some (decPrept w)
  | 1 => some (decBr w)
  | 2 => some (decCall w)
  | 3 => some (decRet w)
  | 4 => some (decLoop w)
  | 5 => if bitAt 43 w = 0 then some (decLoopm w) else some (decLoopmK w)
  | 8 => some (decTrap w)
  | 9 => some (decEret w)
  | 10 => some (decSysc w)
  | 11 => some (decSafept w)
  | 12 => some (decWfe w)
  | 14 => some (decBrk w)
  | 15 => some (decHalt w)
  | _ => none

/-- Row 0x6 of the opcode map (R175). -/
def soloRow6 (l w : Nat) : Option (Parse SoloOp) :=
  match l with
  | 0 => some (decRvinit w)
  | 1 => some (decRvarrive w)
  | 2 => some (decRvwait w)
  | 3 => some (decRvarw w)
  | 4 => if bitAt 21 w = 0 then some (decRvleave w) else some (decRvleaveAll w)
  | 5 => some (decSigadd w)
  | 6 => some (decSigset w)
  | 7 => some (decSigwait w)
  | 8 => match w / 2 ^ 16 % 2 ^ 4 with
    | 0 => some (decAmoAdd w)
    | 1 => some (decAmoMin w)
    | 2 => some (decAmoMax w)
    | 3 => some (decAmoAnd w)
    | 4 => some (decAmoOr w)
    | 5 => some (decAmoXor w)
    | 6 => some (decAmoXchg w)
    | 7 => some (decAmoCas w)
    | 8 => some (decAmoCas2 w)
    | _ => some (also (decAmoAdd w) (.error .codeField))
  | 9 => match w / 2 ^ 16 % 2 ^ 4 with
    | 0 => some (decRedAdd w)
    | 1 => some (decRedMin w)
    | 2 => some (decRedMax w)
    | 3 => some (decRedAnd w)
    | 4 => some (decRedOr w)
    | 5 => some (decRedXor w)
    | _ => some (also (decRedAdd w) (.error .codeField))
  | 10 => some (decFence w)
  | 11 => if bitAt 34 w = 0 then some (decSnap w) else some (decSnapNw w)
  | 12 => some (decSnapq w)
  | _ => none

/-- Row 0x7 of the opcode map (R175). -/
def soloRow7 (l w : Nat) : Option (Parse SoloOp) :=
  match l with
  | 0 => if bitAt 0 w = 0 then some (decVadd w) else some (decVadds w)
  | 1 => if bitAt 0 w = 0 then some (decVsub w) else some (decVsubs w)
  | 2 => some (decVmul w)
  | 3 => some (decVfma w)
  | 4 => some (decVfms w)
  | 5 => some (decVmin w)
  | 6 => some (decVmax w)
  | 7 => some (decVabs w)
  | 8 => some (decVneg w)
  | 9 => some (decVand w)
  | 10 => some (decVor w)
  | 11 => some (decVxor w)
  | 12 => some (decVandn w)
  | 13 => some (decVshl w)
  | 14 => some (decVshr w)
  | 15 => some (decVsra w)
  | _ => none

/-- Row 0x8 of the opcode map (R175). -/
def soloRow8 (l w : Nat) : Option (Parse SoloOp) :=
  match l with
  | 0 => some (decVcmp w)
  | 1 => some (decVsel w)
  | 2 => some (decVcvt w)
  | 3 => some (decVpk4 w)
  | 4 => some (decVupk4 w)
  | 5 => some (decVrcp w)
  | 6 => some (decVrsq w)
  | 7 => some (decVexp2 w)
  | 8 => some (decVlog2 w)
  | 9 => some (decVsin w)
  | 10 => some (decVtlu w)
  | 11 => some (decVrint w)
  | 12 => some (decVsett w)
  | 13 => some (decVbcst w)
  | 14 => some (decVext w)
  | 15 => some (decVins w)
  | _ => none

/-- Row 0x9 of the opcode map (R175). -/
def soloRow9 (l w : Nat) : Option (Parse SoloOp) :=
  match l with
  | 0 => some (decVperm w)
  | 1 => some (decVsldu w)
  | 2 => some (decVsldd w)
  | 3 => some (decVcmpr w)
  | 4 => some (decVxpnd w)
  | 5 => some (decViota w)
  | 6 => match w / 2 ^ 0 % 2 ^ 3 with
    | 0 => some (decVredSum w)
    | 1 => some (decVredMin w)
    | 2 => some (decVredMax w)
    | 3 => some (decVredAnd w)
    | 4 => some (decVredOr w)
    | 5 => some (decVredXor w)
    | 6 => some (decVredSums w)
    | _ => some (also (decVredSum w) (.error .codeField))
  | 7 => some (decVany w)
  | 8 => some (decVall w)
  | 9 => some (decVmpop w)
  | 10 => match w / 2 ^ 0 % 2 ^ 3 with
    | 0 => some (decMlogAnd w)
    | 1 => some (decMlogOr w)
    | 2 => some (decMlogXor w)
    | 3 => some (decMlogAndn w)
    | 4 => some (decMlogNot w)
    | _ => some (also (decMlogAnd w) (.error .codeField))
  | 11 => some (decVld w)
  | 12 => if bitAt 24 w = 0 then some (decVst w) else some (decVstB w)
  | _ => none

/-- Row 0xA of the opcode map (R175). -/
def soloRowA (l w : Nat) : Option (Parse SoloOp) :=
  match l with
  | 0 => some (decMldst w)
  | 1 => some (decMswap w)
  | 2 => some (decMzero w)
  | 3 => some (decMstream w)
  | 4 => some (decMdrain w)
  | 5 => some (decMepi w)
  | 6 => some (decSmap w)
  | 7 => some (decSred w)
  | 8 => some (decXpose w)
  | 9 => some (decCopy w)
  | 10 => some (decGather w)
  | 11 => some (decScatter w)
  | 12 => some (decSubscr w)
  | 13 => some (decRingpop w)
  | 14 => some (decRingpush w)
  | 15 => some (decColl w)
  | _ => none

/-- Row 0xB of the opcode map (R175). -/
def soloRowB (l w : Nat) : Option (Parse SoloOp) :=
  match l with
  | 0 => some (decPostm w)
  | 1 => some (decPostr w)
  | 2 => some (decBundle w)
  | 3 => some (decBend w)
  | 4 => some (decGuard w)
  | 5 => some (decGcheck w)
  | 6 => some (decGexact w)
  | 7 => some (decGend w)
  | 8 => some (decTstart w)
  | 9 => some (decRgld w)
  | 10 => some (decTwait w)
  | _ => none

/-- The solo opcodes (R175, R176): none where the value is reserved. -/
def soloOp (op w : Nat) : Option (Parse SoloOp) :=
  match op / 16 with
  | 0 => soloRow0 (op % 16) w
  | 1 => soloRow1 (op % 16) w
  | 2 => soloRow2 (op % 16) w
  | 3 => soloRow3 (op % 16) w
  | 4 => soloRow4 (op % 16) w
  | 5 => soloRow5 (op % 16) w
  | 6 => soloRow6 (op % 16) w
  | 7 => soloRow7 (op % 16) w
  | 8 => soloRow8 (op % 16) w
  | 9 => soloRow9 (op % 16) w
  | 10 => soloRowA (op % 16) w
  | 11 => soloRowB (op % 16) w
  | _ => none

/-- The double opcodes (R175, R176): none where the value is reserved. -/
def doubleOp (op w x : Nat) : Option (Parse SoloOp) :=
  match op with
  | 0xC0 => some (decLi w x)
  | 0xC1 => some (decAddl w x)
  | 0xC2 => some (decAndl w x)
  | 0xC3 => some (decOrl w x)
  | 0xC4 => some (decXorl w x)
  | 0xC5 => some (decCmpl w x)
  | 0xC6 => some (decLdl w x)
  | 0xC7 => some (decStl w x)
  | 0xC8 => some (decRgset w x)
  | 0xC9 => some (decVli w x)
  | _ => none

/-- The scalar-slot opcodes (R177): none where the value is reserved. -/
def scalarSlotOp (op w : Nat) : Option (Parse SlotOp) :=
  match op with
  | 0 => some (decSnop w)
  | 1 => some (decAddSlot w)
  | 2 => some (decSubSlot w)
  | 3 => some (decAndSlot w)
  | 4 => some (decOrSlot w)
  | 5 => some (decXorSlot w)
  | 6 => some (decAndnSlot w)
  | 7 => some (decShlSlot w)
  | 8 => some (decShrSlot w)
  | 9 => some (decSraSlot w)
  | 10 => some (decMinSlot w)
  | 11 => some (decMaxSlot w)
  | 12 => some (decMinuSlot w)
  | 13 => some (decMaxuSlot w)
  | 14 => some (decMulSlot w)
  | 15 => some (decAddiSlot w)
  | 16 => some (decShliSlot w)
  | 17 => some (decShriSlot w)
  | 18 => some (decSraiSlot w)
  | 19 => some (decCmpEqSlot w)
  | 20 => some (decCmpNeSlot w)
  | 21 => some (decCmpLtSlot w)
  | 22 => some (decCmpLtuSlot w)
  | 23 => some (decCmpGeSlot w)
  | 24 => some (decCmpGeuSlot w)
  | 25 => some (decCmpiEqSlot w)
  | 26 => some (decPandSlot w)
  | 27 => some (decPorSlot w)
  | 28 => some (decPxorSlot w)
  | 29 => some (decPandnSlot w)
  | _ => none

/-- The vector-slot opcodes (R178): none where the value is reserved. -/
def vectorSlotOp (op w : Nat) : Option (Parse SlotOp) :=
  match op with
  | 0 => some (decVnop w)
  | 17 => some (decVmov w)
  | 1 => some (decVaddSlot w)
  | 2 => some (decVsubSlot w)
  | 3 => some (decVmulSlot w)
  | 4 => some (decVfmaSlot w)
  | 5 => some (decVfmsSlot w)
  | 6 => some (decVminSlot w)
  | 7 => some (decVmaxSlot w)
  | 8 => some (decVabsSlot w)
  | 9 => some (decVnegSlot w)
  | 10 => some (decVandSlot w)
  | 11 => some (decVorSlot w)
  | 12 => some (decVxorSlot w)
  | 13 => some (decVandnSlot w)
  | 14 => some (decVshlSlot w)
  | 15 => some (decVshrSlot w)
  | 16 => some (decVsraSlot w)
  | 18 => some (decVrcpSlot w)
  | 19 => some (decVrsqSlot w)
  | 20 => some (decVexp2Slot w)
  | 21 => some (decVlog2Slot w)
  | 22 => some (decVsinSlot w)
  | 23 => some (decVrintSlot w)
  | 24 => some (decVcmpEqSlot w)
  | 25 => some (decVcmpNeSlot w)
  | 26 => some (decVcmpLtSlot w)
  | 27 => some (decVcmpLeSlot w)
  | 28 => some (decVslduSlot w)
  | 29 => some (decVslddSlot w)
  | 30 => some (decVpermSlot w)
  | 31 => some (decVtluSlot w)
  | 32 => some (decVcvtSlot w)
  | 33 => some (decVaddsSlot w)
  | 34 => some (decVsubsSlot w)
  | _ => none

/-- What a word or a double word says (R158, R159): its stop bit, its guard, the words it takes and its
operations in order (two for a pair word, R168). -/
structure Decoded where
  stop : Bool
  inverted : Bool
  guard : PReg
  words : Nat
  ops : List Op
  deriving DecidableEq, Repr

/-- A reserved opcode is rejected as one (R175). -/
def orReserved {α : Type} (x : Option (Parse α)) : Parse α := x.getD (.error .opcode)

/-- No vector field of a word names anything from 640 on, used or not (R161): `pos` are the fields' positions. -/
def vectorNames (pos : List Nat) (w : Nat) : Parse Unit := if pos.any fun p => decide (640 ≤ w / 2 ^ p % 1024) then .error .vectorName else .ok ()

/-- The vector fields of a word with three of them (TV), one (TL) or none, by opcode (R158, R175). -/
def vectorFields (op : Nat) : List Nat :=
  if (0x70 ≤ op ∧ op ≤ 0x9A) ∨ op = 0xC9 then [38, 28, 18] else if op = 0x9B ∨ op = 0x9C then [38] else []

/-- The two operations of a pair word (R158). -/
def decodePair (body : Nat) : Parse (List Op) :=
  match unpack [30, 6, 15, 5] body with
  | [v, vop, s, sop] =>
    ap (ap (.ok fun a b => [.slot a, .slot b]) (orReserved (scalarSlotOp sop s)))
      (also (orReserved (vectorSlotOp vop v)) (vectorNames [20, 10, 0] v))
  | _ => .error .field

/-- The operation of a solo word (R176). -/
def decodeSolo (op w : Nat) : Parse (List Op) :=
  if (doubleOp op 0 0).isSome then .error .wordKind else (also (orReserved (soloOp op w)) (vectorNames (vectorFields op) w)).map fun i => [.solo i]

/-- The operation of a double word (R176). -/
def decodeDouble (op w : Nat) (ext : Option Nat) : Parse (List Op) :=
  if (soloOp op 0).isSome then .error .wordKind
  else match doubleOp op w (ext.getD 0) with
    | none => .error .opcode
    | some r => if ext.isSome then (also r (vectorNames (vectorFields op) w)).map fun i => [.solo i] else .error .truncated

/-- The instruction that a word begins, with the word after it where it is a double word. -/
def decodeWord (w : Nat) (ext : Option Nat) : Parse Decoded :=
  match unpack [56, 4, 1, 2, 1] w with
  | [body, gp, inv, fmt, s] =>
    let ops := match fmt with
      | 0 => decodePair body
      | 1 => decodeSolo (body / 2 ^ 48) (body % 2 ^ 48)
      | 2 => decodeDouble (body / 2 ^ 48) (body % 2 ^ 48) ext
      | _ => .error .format
    ap (ap (.ok fun g os => ⟨s == 1, inv == 1, g, if fmt = 2 then 2 else 1, os⟩) (pP gp)) ops
  | _ => .error .format

/-- A word is the first of a double word (R158). -/
def isDouble (w : Nat) : Bool := w / 2 ^ 61 % 4 == 2

/-- The decoder: the instruction that the bytes begin, and the bytes after it. -/
def decode (bytes : List Byte) : Parse (Decoded × List Byte) :=
  if bytes.length < 8 then .error .truncated
  else
    let w := Bits.natOfBytes (bytes.take 8)
    let rest := bytes.drop 8
    if isDouble w then
      if rest.length < 8 then (decodeWord w none).map fun d => (d, rest)
      else (decodeWord w (some (Bits.natOfBytes (rest.take 8)))).map fun d => (d, rest.drop 8)
    else (decodeWord w none).map fun d => (d, rest)

/-- The formats of R158, with the slot of a pair word. -/
inductive Shape where
  | solo | double | scalarSlot | vectorSlot
  deriving DecidableEq, Repr

/-- The parts of an instruction's encoding. -/
structure Operands where
  shape : Shape
  op : Nat
  widths : List Nat
  vals : List Nat
  ext : Nat
  deriving DecidableEq, Repr

/-- The code of the nb and pn fields (R259). -/
def nbCode : NB → Nat
  | none => 0
  | some p => 16 + p.val

/-- The operand fields of an instruction, lowest first: opcode, widths, values and, for a double word, the
extension word. None for a device step, which has no word. -/
def operands : Instr → Option Operands
  | .coldReset => none
  | .partitionReset _ => none
  | .flrVf _ => none
  | .flrPf => none
  | .pcieLinkTraining => none
  | .jedomPortTraining _ _ _ _ => none
  | .jedomCrcRetrain _ _ => none
  | .cxlLinkTraining _ => none
  | .ethernetLinkTraining _ => none
  | .linkRetransmission => none
  | .fwlockLock _ => none
  | .bar2Access _ _ _ _ => none
  | .hqDoorbell _ _ _ => none
  | .queueEnable _ _ _ => none
  | .queueDisable _ _ _ => none
  | .queueResume _ _ => none
  | .attestationRequest _ => none
  | .attestationReportReady _ => none
  | .spdmRequest _ => none
  | .errorCounterRead _ => none
  | .counterSnapshotReady _ => none
  | .registerWrite _ _ => none
  | .recordSealRead _ _ => none
  | .sealRefetch _ _ => none
  | .noopRecord _ _ _ => none
  | .kernelRecord _ _ _ => none
  | .waitRefSatisfied _ => none
  | .collectiveStepRecord _ _ _ => none
  | .signalAddRecord _ _ _ => none
  | .signalSetRecord _ _ _ => none
  | .signalWaitRecord _ _ => none
  | .signalWaitSatisfied _ _ => none
  | .signalWaitTimeout _ _ => none
  | .membershipReplaceRecord _ _ _ => none
  | .membershipWithdrawRecord _ _ _ => none
  | .membershipAddRecord _ _ _ => none
  | .snapshotRecord _ _ _ => none
  | .snapshotQueryRecord _ _ _ => none
  | .createObject _ _ _ => none
  | .destroyObject _ _ _ => none
  | .writeCapabilityEntry _ _ _ => none
  | .copyHostToObject _ _ _ => none
  | .copyObjectToHost _ _ _ => none
  | .readRegister _ _ _ => none
  | .writePartitionAssignment _ _ _ => none
  | .writePlacementWeight _ _ _ => none
  | .writeSbcfg _ _ _ => none
  | .writeCwcfg _ _ _ => none
  | .writeSncfg _ _ _ => none
  | .writeIslcfg _ _ _ => none
  | .writePwrcap _ _ _ => none
  | .debugEnable _ _ _ => none
  | .debugFreezePartition _ _ _ => none
  | .debugFreezeDevice _ _ _ => none
  | .debugThaw _ _ _ => none
  | .scanShift _ _ => none
  | .debugRelease _ => none
  | .provisionFunction _ _ _ => none
  | .unprovisionFunction _ _ _ => none
  | .writePeerMapEntry _ _ _ => none
  | .writeReductionWindow _ _ _ => none
  | .loadPolicyPlugin _ _ _ => none
  | .recordCompletion _ _ _ => none
  | .launchComplete _ => none
  | .sliceTurn _ => none
  | .pluginCall _ _ => none
  | .pluginBudgetExpiry _ => none
  | .pluginFault _ => none
  | .schedulerPmpFault _ => none
  | .placementDecision => none
  | .rotationIntervalExpiry _ => none
  | .teamPlace _ => none
  | .teamEnd _ => none
  | .forcedPreemptionTimeout _ => none
  | .saveComplete _ => none
  | .teamResume _ => none
  | .groupIssue _ => none
  | .icacheLineFill _ _ => none
  | .loadReturn _ _ => none
  | .memoryRequestSend _ _ => none
  | .routeLookup _ _ => none
  | .extentTableWalk _ _ _ => none
  | .extentInvalidate _ _ => none
  | .memoryPortRequest _ _ => none
  | .pageFaultService _ _ => none
  | .reserveStallExpiry _ => none
  | .extentMigration _ _ _ => none
  | .migrationCopyComplete _ _ => none
  | .frameRetirement _ _ => none
  | .memoryScrub _ _ => none
  | .rowSweep _ _ _ => none
  | .directoryInsert _ _ => none
  | .entrySettled _ _ => none
  | .releaseAgeExpiry _ _ => none
  | .taskRelease _ _ => none
  | .taskComplete _ _ => none
  | .taskRetire _ _ => none
  | .unitEvaluation _ _ => none
  | .remotePostArrival _ _ => none
  | .stallReport _ => none
  | .mldstTask _ _ => none
  | .mswapTask _ _ => none
  | .mzeroTask _ _ => none
  | .mstreamTask _ _ => none
  | .mdrainTask _ _ => none
  | .mepiTask _ _ => none
  | .smapTask _ _ => none
  | .sredTask _ _ => none
  | .xposeTask _ _ => none
  | .tstartTask _ _ => none
  | .copyTask _ _ => none
  | .gatherTask _ _ => none
  | .scatterTask _ _ => none
  | .subscrTask _ _ => none
  | .collTask _ _ => none
  | .ringpopTask _ _ => none
  | .ringpushTask _ _ => none
  | .engineFault _ _ _ => none
  | .rollbackEvent _ => none
  | .softErrorReplay _ _ => none
  | .copyChunk _ _ => none
  | .copyRequestIssue _ _ => none
  | .requestResponse _ _ => none
  | .tideFillItem _ _ => none
  | .tideDrainItem _ _ => none
  | .redFlushAge _ _ => none
  | .sigwaitPoll _ => none
  | .rvRegister _ _ => none
  | .syscReturn _ => none
  | .wfeWake _ => none
  | .peerRemap _ _ _ _ => none
  | .flowMessageDelivery _ => none
  | .remoteAccess _ => none
  | .flowAck _ _ _ => none
  | .flowRefusal _ _ _ _ => none
  | .flowRetry _ _ _ => none
  | .flowEnd _ _ => none
  | .postrSend _ => none
  | .collLineArrival _ _ => none
  | .collLineApply _ _ => none
  | .collEndLine _ _ => none
  | .stepTimerExpiry _ _ => none
  | .membershipInstall _ _ _ => none
  | .absentPendingNotice _ _ _ => none
  | .presentNotice _ _ _ => none
  | .withdrawnNotice _ _ _ => none
  | .switchContribution _ _ => none
  | .switchRedDelivery _ => none
  | .switchLeaseExpiry _ => none
  | .trapEntry _ => none
  | .launchAbort _ => none
  | .masterFreeze _ _ => none
  | .freezeService _ _ => none
  | .chipGenerationSet _ _ _ => none
  | .cutNotice _ _ => none
  | .chipCutComplete _ _ => none
  | .undertowCopy _ _ _ _ => none
  | .generationDurable _ => none
  | .generationAbort _ _ => none
  | .islandFrequencySwitch _ => none
  | .powerCapEnforce _ _ => none
  | .thermalThrottle _ _ => none
  | .thermalRecovery _ _ => none
  | .retentionEntry _ => none
  | .retentionExit _ _ _ => none
  | .add d a b => some ⟨.solo, 0x0, [28, 5, 5, 5, 5], [0, 0, b.val, a.val, d.val], 0⟩
  | .sub d a b => some ⟨.solo, 0x1, [28, 5, 5, 5, 5], [0, 0, b.val, a.val, d.val], 0⟩
  | .mul d a b => some ⟨.solo, 0x2, [28, 5, 5, 5, 5], [0, 0, b.val, a.val, d.val], 0⟩
  | .mulh d a b => some ⟨.solo, 0x3, [28, 5, 5, 5, 5], [0, 0, b.val, a.val, d.val], 0⟩
  | .mulhu d a b => some ⟨.solo, 0x4, [28, 5, 5, 5, 5], [0, 0, b.val, a.val, d.val], 0⟩
  | .div d a b => some ⟨.solo, 0x5, [28, 5, 5, 5, 5], [0, 0, b.val, a.val, d.val], 0⟩
  | .divu d a b => some ⟨.solo, 0x6, [28, 5, 5, 5, 5], [0, 0, b.val, a.val, d.val], 0⟩
  | .rem d a b => some ⟨.solo, 0x7, [28, 5, 5, 5, 5], [0, 0, b.val, a.val, d.val], 0⟩
  | .remu d a b => some ⟨.solo, 0x8, [28, 5, 5, 5, 5], [0, 0, b.val, a.val, d.val], 0⟩
  | .and d a b => some ⟨.solo, 0x9, [28, 5, 5, 5, 5], [0, 0, b.val, a.val, d.val], 0⟩
  | .or d a b => some ⟨.solo, 0xA, [28, 5, 5, 5, 5], [0, 0, b.val, a.val, d.val], 0⟩
  | .xor d a b => some ⟨.solo, 0xB, [28, 5, 5, 5, 5], [0, 0, b.val, a.val, d.val], 0⟩
  | .andn d a b => some ⟨.solo, 0xC, [28, 5, 5, 5, 5], [0, 0, b.val, a.val, d.val], 0⟩
  | .shl d a b => some ⟨.solo, 0xD, [28, 5, 5, 5, 5], [0, 0, b.val, a.val, d.val], 0⟩
  | .shr d a b => some ⟨.solo, 0xE, [28, 5, 5, 5, 5], [0, 0, b.val, a.val, d.val], 0⟩
  | .sra d a b => some ⟨.solo, 0xF, [28, 5, 5, 5, 5], [0, 0, b.val, a.val, d.val], 0⟩
  | .rol d a b => some ⟨.solo, 0x10, [28, 5, 5, 5, 5], [0, 0, b.val, a.val, d.val], 0⟩
  | .ror d a b => some ⟨.solo, 0x11, [28, 5, 5, 5, 5], [0, 0, b.val, a.val, d.val], 0⟩
  | .min d a b => some ⟨.solo, 0x12, [28, 5, 5, 5, 5], [0, 0, b.val, a.val, d.val], 0⟩
  | .max d a b => some ⟨.solo, 0x13, [28, 5, 5, 5, 5], [0, 0, b.val, a.val, d.val], 0⟩
  | .minu d a b => some ⟨.solo, 0x14, [28, 5, 5, 5, 5], [0, 0, b.val, a.val, d.val], 0⟩
  | .maxu d a b => some ⟨.solo, 0x15, [28, 5, 5, 5, 5], [0, 0, b.val, a.val, d.val], 0⟩
  | .adds d a b => some ⟨.solo, 0x16, [28, 5, 5, 5, 5], [0, 0, b.val, a.val, d.val], 0⟩
  | .subs d a b => some ⟨.solo, 0x17, [28, 5, 5, 5, 5], [0, 0, b.val, a.val, d.val], 0⟩
  | .addi d a imm => some ⟨.solo, 0x18, [32, 6, 5, 5], [imm.toNat, 0, a.val, d.val], 0⟩
  | .andi d a imm => some ⟨.solo, 0x19, [32, 6, 5, 5], [imm.toNat, 0, a.val, d.val], 0⟩
  | .ori d a imm => some ⟨.solo, 0x1A, [32, 6, 5, 5], [imm.toNat, 0, a.val, d.val], 0⟩
  | .xori d a imm => some ⟨.solo, 0x1B, [32, 6, 5, 5], [imm.toNat, 0, a.val, d.val], 0⟩
  | .shli d a imm => some ⟨.solo, 0x1C, [32, 6, 5, 5], [imm.toNat, 0, a.val, d.val], 0⟩
  | .shri d a imm => some ⟨.solo, 0x1D, [32, 6, 5, 5], [imm.toNat, 0, a.val, d.val], 0⟩
  | .srai d a imm => some ⟨.solo, 0x1E, [32, 6, 5, 5], [imm.toNat, 0, a.val, d.val], 0⟩
  | .rori d a imm => some ⟨.solo, 0x1F, [32, 6, 5, 5], [imm.toNat, 0, a.val, d.val], 0⟩
  | .clz d a => some ⟨.solo, 0x20, [28, 5, 5, 5, 5], [0, 0, 0, a.val, d.val], 0⟩
  | .ctz d a => some ⟨.solo, 0x21, [28, 5, 5, 5, 5], [0, 0, 0, a.val, d.val], 0⟩
  | .popc d a => some ⟨.solo, 0x22, [28, 5, 5, 5, 5], [0, 0, 0, a.val, d.val], 0⟩
  | .brev d a => some ⟨.solo, 0x23, [28, 5, 5, 5, 5], [0, 0, 0, a.val, d.val], 0⟩
  | .bswap d a => some ⟨.solo, 0x24, [28, 5, 5, 5, 5], [0, 0, 0, a.val, d.val], 0⟩
  | .bilv2 d a b => some ⟨.solo, 0x25, [28, 5, 5, 5, 5], [0, 0, b.val, a.val, d.val], 0⟩
  | .bilv3 d a b c => some ⟨.solo, 0x26, [28, 5, 5, 5, 5], [0, c.val, b.val, a.val, d.val], 0⟩
  | .bdil2 d a k => some ⟨.solo, 0x27, [2, 26, 5, 5, 5, 5], [k.toNat, 0, 0, 0, a.val, d.val], 0⟩
  | .bdil3 d a k => some ⟨.solo, 0x28, [2, 26, 5, 5, 5, 5], [k.toNat, 0, 0, 0, a.val, d.val], 0⟩
  | .ext d a pos len => some ⟨.solo, 0x29, [7, 6, 15, 5, 5, 5, 5], [len.toNat, pos.toNat, 0, 0, 0, a.val, d.val], 0⟩
  | .extz d a pos len => some ⟨.solo, 0x2A, [7, 6, 15, 5, 5, 5, 5], [len.toNat, pos.toNat, 0, 0, 0, a.val, d.val], 0⟩
  | .ins d a pos len => some ⟨.solo, 0x2B, [7, 6, 15, 5, 5, 5, 5], [len.toNat, pos.toNat, 0, 0, 0, a.val, d.val], 0⟩
  | .sel d a b p => some ⟨.solo, 0x2C, [28, 5, 5, 5, 5], [0, p.val, b.val, a.val, d.val], 0⟩
  | .fadd t r d a b => some ⟨.solo, 0x30, [4, 4, 3, 17, 5, 5, 5, 5], [t.code, 0, r.code, 0, 0, b.val, a.val, d.val], 0⟩
  | .fsub t r d a b => some ⟨.solo, 0x31, [4, 4, 3, 17, 5, 5, 5, 5], [t.code, 0, r.code, 0, 0, b.val, a.val, d.val], 0⟩
  | .fmul t r d a b => some ⟨.solo, 0x32, [4, 4, 3, 17, 5, 5, 5, 5], [t.code, 0, r.code, 0, 0, b.val, a.val, d.val], 0⟩
  | .fdiv t r d a b => some ⟨.solo, 0x33, [4, 4, 3, 17, 5, 5, 5, 5], [t.code, 0, r.code, 0, 0, b.val, a.val, d.val], 0⟩
  | .fsqrt t r d a => some ⟨.solo, 0x34, [4, 4, 3, 17, 5, 5, 5, 5], [t.code, 0, r.code, 0, 0, 0, a.val, d.val], 0⟩
  | .fma t r d a b c => some ⟨.solo, 0x35, [4, 4, 3, 17, 5, 5, 5, 5], [t.code, 0, r.code, 0, c.val, b.val, a.val, d.val], 0⟩
  | .fmin t d a b => some ⟨.solo, 0x36, [4, 4, 3, 17, 5, 5, 5, 5], [t.code, 0, 0, 0, 0, b.val, a.val, d.val], 0⟩
  | .fmax t d a b => some ⟨.solo, 0x37, [4, 4, 3, 17, 5, 5, 5, 5], [t.code, 0, 0, 0, 0, b.val, a.val, d.val], 0⟩
  | .fcvt td ta r d a => some ⟨.solo, 0x38, [4, 4, 3, 17, 5, 5, 5, 5], [ta.code, td.code, r.code, 0, 0, 0, a.val, d.val], 0⟩
  | .fcvti td ta r d a => some ⟨.solo, 0x39, [4, 4, 3, 17, 5, 5, 5, 5], [ta.code, td.code, r.code, 0, 0, 0, a.val, d.val], 0⟩
  | .icvtf td ta r d a => some ⟨.solo, 0x3A, [4, 4, 3, 17, 5, 5, 5, 5], [ta.code, td.code, r.code, 0, 0, 0, a.val, d.val], 0⟩
  | .fclass t d a => some ⟨.solo, 0x3B, [4, 4, 3, 17, 5, 5, 5, 5], [t.code, 0, 0, 0, 0, 0, a.val, d.val], 0⟩
  | .fcmp c t p a b => some ⟨.solo, 0x3C, [4, 4, 3, 4, 13, 5, 5, 5, 5], [t.code, 0, 0, c.code, 0, 0, b.val, a.val, p.val], 0⟩
  | .cmp c p a b => some ⟨.solo, 0x3D, [4, 24, 5, 5, 5, 5], [c.code, 0, 0, b.val, a.val, p.val], 0⟩
  | .cmpi c p a imm => some ⟨.solo, 0x3E, [32, 4, 2, 5, 5], [imm.toNat, c.code, 0, a.val, p.val], 0⟩
  | .pand d a b => some ⟨.solo, 0x40, [28, 5, 5, 5, 5], [0, 0, b.val, a.val, d.val], 0⟩
  | .por d a b => some ⟨.solo, 0x41, [28, 5, 5, 5, 5], [0, 0, b.val, a.val, d.val], 0⟩
  | .pxor d a b => some ⟨.solo, 0x42, [28, 5, 5, 5, 5], [0, 0, b.val, a.val, d.val], 0⟩
  | .pandn d a b => some ⟨.solo, 0x43, [28, 5, 5, 5, 5], [0, 0, b.val, a.val, d.val], 0⟩
  | .mfp d => some ⟨.solo, 0x44, [28, 5, 5, 5, 5], [0, 0, 0, 0, d.val], 0⟩
  | .mtp a b => some ⟨.solo, 0x45, [28, 5, 5, 5, 5], [0, 0, b.val, a.val, 0], 0⟩
  | .mfs d sr => some ⟨.solo, 0x46, [31, 12, 5], [0, sr.toNat, d.val], 0⟩
  | .mts sr a => some ⟨.solo, 0x47, [31, 12, 5], [0, sr.toNat, a.val], 0⟩
  | .cld d a idx => some ⟨.solo, 0x48, [12, 16, 5, 5, 5, 5], [idx.toNat, 0, 0, 0, a.val, d.val], 0⟩
  | .cder d a b c mask => some ⟨.solo, 0x49, [8, 20, 5, 5, 5, 5], [mask.toNat, 0, c.val, b.val, a.val, d.val], 0⟩
  | .crst d a mask => some ⟨.solo, 0x4A, [8, 20, 5, 5, 5, 5], [mask.toNat, 0, 0, 0, a.val, d.val], 0⟩
  | .cnull d => some ⟨.solo, 0x4B, [28, 5, 5, 5, 5], [0, 0, 0, 0, d.val], 0⟩
  | .ld t o sc d c a off => some ⟨.solo, 0x4C, [20, 3, 2, 4, 5, 5, 4, 5], [off.toNat, sc.code, o.code, t.code, 0, a.val, c.val, d.val], 0⟩
  | .st t o sc c a off d => some ⟨.solo, 0x4D, [20, 3, 2, 4, 5, 5, 4, 5], [off.toNat, sc.code, o.code, t.code, 0, a.val, c.val, d.val], 0⟩
  | .ldx t d a b off => some ⟨.solo, 0x4E, [20, 3, 2, 4, 5, 5, 4, 5], [off.toNat, 0, 0, t.code, b.val, a.val, 0, d.val], 0⟩
  | .stx t a b off d => some ⟨.solo, 0x4F, [20, 3, 2, 4, 5, 5, 4, 5], [off.toNat, 0, 0, t.code, b.val, a.val, 0, d.val], 0⟩
  | .prept b off => some ⟨.solo, 0x50, [40, 4, 1, 3], [off.toNat, 0, 0, b.val], 0⟩
  | .br b hint => some ⟨.solo, 0x51, [40, 4, 1, 3], [0, 0, hint.toNat, b.val], 0⟩
  | .call b l hint => some ⟨.solo, 0x52, [40, 3, 1, 1, 3], [0, l.val, 0, hint.toNat, b.val], 0⟩
  | .ret b => some ⟨.solo, 0x53, [40, 4, 1, 3], [0, 0, 0, b.val], 0⟩
  | .loop a off => some ⟨.solo, 0x54, [20, 23, 5], [off.toNat, 0, a.val], 0⟩
  | .loopm mb off => some ⟨.solo, 0x55, [20, 23, 1, 4], [off.toNat, 0, 0, mb.val], 0⟩
  | .loopmK mb off => some ⟨.solo, 0x55, [20, 23, 1, 4], [off.toNat, 0, 1, mb.val], 0⟩
  | .trap x => some ⟨.solo, 0x58, [16, 32], [x.toNat, 0], 0⟩
  | .eret => some ⟨.solo, 0x59, [48], [0], 0⟩
  | .sysc x => some ⟨.solo, 0x5A, [16, 32], [x.toNat, 0], 0⟩
  | .safept map => some ⟨.solo, 0x5B, [12, 36], [map.toNat, 0], 0⟩
  | .wfe x => some ⟨.solo, 0x5C, [16, 32], [x.toNat, 0], 0⟩
  | .brk x => some ⟨.solo, 0x5E, [16, 32], [x.toNat, 0], 0⟩
  | .halt => some ⟨.solo, 0x5F, [48], [0], 0⟩
  | .rvinit pt a => some ⟨.solo, 0x60, [5, 6, 5, 5, 1, 26], [pt.toNat, 0, 0, a.val, 0, 0], 0⟩
  | .rvarrive pt em d => some ⟨.solo, 0x61, [5, 6, 5, 5, 1, 26], [pt.toNat, em.toNat, d.val, 0, 0, 0], 0⟩
  | .rvwait pt a d => some ⟨.solo, 0x62, [5, 6, 5, 5, 1, 26], [pt.toNat, 0, d.val, a.val, 0, 0], 0⟩
  | .rvarw pt em d => some ⟨.solo, 0x63, [5, 6, 5, 5, 1, 26], [pt.toNat, em.toNat, d.val, 0, 0, 0], 0⟩
  | .rvleave pt => some ⟨.solo, 0x64, [5, 6, 5, 5, 1, 26], [pt.toNat, 0, 0, 0, 0, 0], 0⟩
  | .rvleaveAll => some ⟨.solo, 0x64, [5, 6, 5, 5, 1, 26], [0, 0, 0, 0, 1, 0], 0⟩
  | .sigadd t o sc d c a b off => some ⟨.solo, 0x65, [20, 3, 2, 4, 5, 5, 4, 5], [off.toNat, sc.code, o.code, t.code, b.val, a.val, c.val, d.val], 0⟩
  | .sigset t o sc d c a b off => some ⟨.solo, 0x66, [20, 3, 2, 4, 5, 5, 4, 5], [off.toNat, sc.code, o.code, t.code, b.val, a.val, c.val, d.val], 0⟩
  | .sigwait t o sc d c a b off => some ⟨.solo, 0x67, [20, 3, 2, 4, 5, 5, 4, 5], [off.toNat, sc.code, o.code, t.code, b.val, a.val, c.val, d.val], 0⟩
  | .amoAdd t o sc d c a b off => some ⟨.solo, 0x68, [16, 4, 3, 2, 4, 5, 5, 4, 5], [off.toNat, 0, sc.code, o.code, t.code, b.val, a.val, c.val, d.val], 0⟩
  | .amoMin t o sc d c a b off => some ⟨.solo, 0x68, [16, 4, 3, 2, 4, 5, 5, 4, 5], [off.toNat, 1, sc.code, o.code, t.code, b.val, a.val, c.val, d.val], 0⟩
  | .amoMax t o sc d c a b off => some ⟨.solo, 0x68, [16, 4, 3, 2, 4, 5, 5, 4, 5], [off.toNat, 2, sc.code, o.code, t.code, b.val, a.val, c.val, d.val], 0⟩
  | .amoAnd t o sc d c a b off => some ⟨.solo, 0x68, [16, 4, 3, 2, 4, 5, 5, 4, 5], [off.toNat, 3, sc.code, o.code, t.code, b.val, a.val, c.val, d.val], 0⟩
  | .amoOr t o sc d c a b off => some ⟨.solo, 0x68, [16, 4, 3, 2, 4, 5, 5, 4, 5], [off.toNat, 4, sc.code, o.code, t.code, b.val, a.val, c.val, d.val], 0⟩
  | .amoXor t o sc d c a b off => some ⟨.solo, 0x68, [16, 4, 3, 2, 4, 5, 5, 4, 5], [off.toNat, 5, sc.code, o.code, t.code, b.val, a.val, c.val, d.val], 0⟩
  | .amoXchg t o sc d c a b off => some ⟨.solo, 0x68, [16, 4, 3, 2, 4, 5, 5, 4, 5], [off.toNat, 6, sc.code, o.code, t.code, b.val, a.val, c.val, d.val], 0⟩
  | .amoCas t o sc d c a b off => some ⟨.solo, 0x68, [16, 4, 3, 2, 4, 5, 5, 4, 5], [off.toNat, 7, sc.code, o.code, t.code, b.val, a.val, c.val, d.val], 0⟩
  | .amoCas2 t o sc d c a b off => some ⟨.solo, 0x68, [16, 4, 3, 2, 4, 5, 5, 4, 5], [off.toNat, 8, sc.code, o.code, t.code, b.val, a.val, c.val, d.val], 0⟩
  | .redAdd t o sc c a b off => some ⟨.solo, 0x69, [16, 4, 3, 2, 4, 5, 5, 4, 5], [off.toNat, 0, sc.code, o.code, t.code, b.val, a.val, c.val, 0], 0⟩
  | .redMin t o sc c a b off => some ⟨.solo, 0x69, [16, 4, 3, 2, 4, 5, 5, 4, 5], [off.toNat, 1, sc.code, o.code, t.code, b.val, a.val, c.val, 0], 0⟩
  | .redMax t o sc c a b off => some ⟨.solo, 0x69, [16, 4, 3, 2, 4, 5, 5, 4, 5], [off.toNat, 2, sc.code, o.code, t.code, b.val, a.val, c.val, 0], 0⟩
  | .redAnd t o sc c a b off => some ⟨.solo, 0x69, [16, 4, 3, 2, 4, 5, 5, 4, 5], [off.toNat, 3, sc.code, o.code, t.code, b.val, a.val, c.val, 0], 0⟩
  | .redOr t o sc c a b off => some ⟨.solo, 0x69, [16, 4, 3, 2, 4, 5, 5, 4, 5], [off.toNat, 4, sc.code, o.code, t.code, b.val, a.val, c.val, 0], 0⟩
  | .redXor t o sc c a b off => some ⟨.solo, 0x69, [16, 4, 3, 2, 4, 5, 5, 4, 5], [off.toNat, 5, sc.code, o.code, t.code, b.val, a.val, c.val, 0], 0⟩
  | .fence o sc => some ⟨.solo, 0x6A, [3, 2, 43], [sc.code, o.code, 0], 0⟩
  | .snap d c p => some ⟨.solo, 0x6B, [34, 1, 4, 4, 5], [0, 0, p.val, c.val, d.val], 0⟩
  | .snapNw d c p => some ⟨.solo, 0x6B, [34, 1, 4, 4, 5], [0, 1, p.val, c.val, d.val], 0⟩
  | .snapq d c a => some ⟨.solo, 0x6C, [34, 5, 4, 5], [0, a.val, c.val, d.val], 0⟩
  | .vadd t r d a b m => some ⟨.solo, 0x70, [1, 6, 3, 4, 4, 10, 10, 10], [0, 0, r.code, t.code, m.val, b.val, a.val, d.val], 0⟩
  | .vadds t d a b m => some ⟨.solo, 0x70, [1, 6, 3, 4, 4, 10, 10, 10], [1, 0, 0, t.code, m.val, b.val, a.val, d.val], 0⟩
  | .vsub t r d a b m => some ⟨.solo, 0x71, [1, 6, 3, 4, 4, 10, 10, 10], [0, 0, r.code, t.code, m.val, b.val, a.val, d.val], 0⟩
  | .vsubs t d a b m => some ⟨.solo, 0x71, [1, 6, 3, 4, 4, 10, 10, 10], [1, 0, 0, t.code, m.val, b.val, a.val, d.val], 0⟩
  | .vmul t r d a b m => some ⟨.solo, 0x72, [7, 3, 4, 4, 10, 10, 10], [0, r.code, t.code, m.val, b.val, a.val, d.val], 0⟩
  | .vfma t r d a b m => some ⟨.solo, 0x73, [7, 3, 4, 4, 10, 10, 10], [0, r.code, t.code, m.val, b.val, a.val, d.val], 0⟩
  | .vfms t r d a b m => some ⟨.solo, 0x74, [7, 3, 4, 4, 10, 10, 10], [0, r.code, t.code, m.val, b.val, a.val, d.val], 0⟩
  | .vmin t d a b m => some ⟨.solo, 0x75, [7, 3, 4, 4, 10, 10, 10], [0, 0, t.code, m.val, b.val, a.val, d.val], 0⟩
  | .vmax t d a b m => some ⟨.solo, 0x76, [7, 3, 4, 4, 10, 10, 10], [0, 0, t.code, m.val, b.val, a.val, d.val], 0⟩
  | .vabs t d a m => some ⟨.solo, 0x77, [7, 3, 4, 4, 10, 10, 10], [0, 0, t.code, m.val, 0, a.val, d.val], 0⟩
  | .vneg t d a m => some ⟨.solo, 0x78, [7, 3, 4, 4, 10, 10, 10], [0, 0, t.code, m.val, 0, a.val, d.val], 0⟩
  | .vand t d a b m => some ⟨.solo, 0x79, [7, 3, 4, 4, 10, 10, 10], [0, 0, t.code, m.val, b.val, a.val, d.val], 0⟩
  | .vor t d a b m => some ⟨.solo, 0x7A, [7, 3, 4, 4, 10, 10, 10], [0, 0, t.code, m.val, b.val, a.val, d.val], 0⟩
  | .vxor t d a b m => some ⟨.solo, 0x7B, [7, 3, 4, 4, 10, 10, 10], [0, 0, t.code, m.val, b.val, a.val, d.val], 0⟩
  | .vandn t d a b m => some ⟨.solo, 0x7C, [7, 3, 4, 4, 10, 10, 10], [0, 0, t.code, m.val, b.val, a.val, d.val], 0⟩
  | .vshl t d a b m => some ⟨.solo, 0x7D, [7, 3, 4, 4, 10, 10, 10], [0, 0, t.code, m.val, b.val, a.val, d.val], 0⟩
  | .vshr t d a b m => some ⟨.solo, 0x7E, [7, 3, 4, 4, 10, 10, 10], [0, 0, t.code, m.val, b.val, a.val, d.val], 0⟩
  | .vsra t d a b m => some ⟨.solo, 0x7F, [7, 3, 4, 4, 10, 10, 10], [0, 0, t.code, m.val, b.val, a.val, d.val], 0⟩
  | .vcmp c t d a b m => some ⟨.solo, 0x80, [4, 3, 3, 4, 4, 10, 10, 4, 6], [c.code, 0, 0, t.code, m.val, b.val, a.val, d.val, 0], 0⟩
  | .vsel t d a b m => some ⟨.solo, 0x81, [7, 3, 4, 4, 10, 10, 10], [0, 0, t.code, m.val, b.val, a.val, d.val], 0⟩
  | .vcvt td ts r d a b k m => some ⟨.solo, 0x82, [4, 3, 3, 4, 4, 10, 10, 10], [ts.code, k.toNat, r.code, td.code, m.val, b.val, a.val, d.val], 0⟩
  | .vpk4 ts r d a b k m => some ⟨.solo, 0x83, [4, 3, 3, 4, 4, 10, 10, 10], [0, k.toNat, r.code, ts.code, m.val, b.val, a.val, d.val], 0⟩
  | .vupk4 td r d a k m => some ⟨.solo, 0x84, [4, 3, 3, 4, 4, 10, 10, 10], [0, k.toNat, r.code, td.code, m.val, 0, a.val, d.val], 0⟩
  | .vrcp t r d a m => some ⟨.solo, 0x85, [7, 3, 4, 4, 10, 10, 10], [0, r.code, t.code, m.val, 0, a.val, d.val], 0⟩
  | .vrsq t r d a m => some ⟨.solo, 0x86, [7, 3, 4, 4, 10, 10, 10], [0, r.code, t.code, m.val, 0, a.val, d.val], 0⟩
  | .vexp2 t r d a m => some ⟨.solo, 0x87, [7, 3, 4, 4, 10, 10, 10], [0, r.code, t.code, m.val, 0, a.val, d.val], 0⟩
  | .vlog2 t r d a m => some ⟨.solo, 0x88, [7, 3, 4, 4, 10, 10, 10], [0, r.code, t.code, m.val, 0, a.val, d.val], 0⟩
  | .vsin t r d a m => some ⟨.solo, 0x89, [7, 3, 4, 4, 10, 10, 10], [0, r.code, t.code, m.val, 0, a.val, d.val], 0⟩
  | .vtlu t r d a o m => some ⟨.solo, 0x8A, [7, 3, 4, 4, 10, 10, 10], [0, r.code, t.code, m.val, o.val, a.val, d.val], 0⟩
  | .vrint t r d a m => some ⟨.solo, 0x8B, [7, 3, 4, 4, 10, 10, 10], [0, r.code, t.code, m.val, 0, a.val, d.val], 0⟩
  | .vsett t r ct e => some ⟨.solo, 0x8C, [5, 2, 3, 4, 4, 4, 6, 10, 10], [e.toNat, 0, r.code, t.code, 0, ct.code, 0, 0, 0], 0⟩
  | .vbcst t d a m => some ⟨.solo, 0x8D, [7, 3, 4, 4, 10, 5, 5, 10], [0, 0, t.code, m.val, 0, a.val, 0, d.val], 0⟩
  | .vext t d a b => some ⟨.solo, 0x8E, [7, 3, 4, 4, 5, 5, 10, 5, 5], [0, 0, t.code, 0, b.val, 0, a.val, d.val, 0], 0⟩
  | .vins t d a b => some ⟨.solo, 0x8F, [7, 3, 4, 4, 5, 5, 5, 5, 10], [0, 0, t.code, 0, b.val, 0, a.val, 0, d.val], 0⟩
  | .vperm t d a b m => some ⟨.solo, 0x90, [7, 3, 4, 4, 10, 10, 10], [0, 0, t.code, m.val, b.val, a.val, d.val], 0⟩
  | .vsldu t d a b k m => some ⟨.solo, 0x91, [7, 3, 4, 4, 10, 10, 10], [k.toNat, 0, t.code, m.val, b.val, a.val, d.val], 0⟩
  | .vsldd t d a b k m => some ⟨.solo, 0x92, [7, 3, 4, 4, 10, 10, 10], [k.toNat, 0, t.code, m.val, b.val, a.val, d.val], 0⟩
  | .vcmpr t d a m => some ⟨.solo, 0x93, [7, 3, 4, 4, 10, 10, 10], [0, 0, t.code, m.val, 0, a.val, d.val], 0⟩
  | .vxpnd t d a m => some ⟨.solo, 0x94, [7, 3, 4, 4, 10, 10, 10], [0, 0, t.code, m.val, 0, a.val, d.val], 0⟩
  | .viota t d m => some ⟨.solo, 0x95, [7, 3, 4, 4, 10, 10, 10], [0, 0, t.code, m.val, 0, 0, d.val], 0⟩
  | .vredSum t d a m => some ⟨.solo, 0x96, [3, 4, 3, 4, 4, 10, 10, 5, 5], [0, 0, 0, t.code, m.val, 0, a.val, d.val, 0], 0⟩
  | .vredMin t d a m => some ⟨.solo, 0x96, [3, 4, 3, 4, 4, 10, 10, 5, 5], [1, 0, 0, t.code, m.val, 0, a.val, d.val, 0], 0⟩
  | .vredMax t d a m => some ⟨.solo, 0x96, [3, 4, 3, 4, 4, 10, 10, 5, 5], [2, 0, 0, t.code, m.val, 0, a.val, d.val, 0], 0⟩
  | .vredAnd t d a m => some ⟨.solo, 0x96, [3, 4, 3, 4, 4, 10, 10, 5, 5], [3, 0, 0, t.code, m.val, 0, a.val, d.val, 0], 0⟩
  | .vredOr t d a m => some ⟨.solo, 0x96, [3, 4, 3, 4, 4, 10, 10, 5, 5], [4, 0, 0, t.code, m.val, 0, a.val, d.val, 0], 0⟩
  | .vredXor t d a m => some ⟨.solo, 0x96, [3, 4, 3, 4, 4, 10, 10, 5, 5], [5, 0, 0, t.code, m.val, 0, a.val, d.val, 0], 0⟩
  | .vredSums t d a m => some ⟨.solo, 0x96, [3, 4, 3, 4, 4, 10, 10, 5, 5], [6, 0, 0, t.code, m.val, 0, a.val, d.val, 0], 0⟩
  | .vany t d a m => some ⟨.solo, 0x97, [7, 3, 4, 4, 10, 4, 6, 4, 6], [0, 0, t.code, m.val, 0, a.val, 0, d.val, 0], 0⟩
  | .vall t d a m => some ⟨.solo, 0x98, [7, 3, 4, 4, 10, 4, 6, 4, 6], [0, 0, t.code, m.val, 0, a.val, 0, d.val, 0], 0⟩
  | .vmpop t d a m => some ⟨.solo, 0x99, [7, 3, 4, 4, 10, 4, 6, 5, 5], [0, 0, t.code, m.val, 0, a.val, 0, d.val, 0], 0⟩
  | .mlogAnd d a b => some ⟨.solo, 0x9A, [3, 4, 3, 4, 4, 4, 6, 4, 6, 4, 6], [0, 0, 0, 0, 0, b.val, 0, a.val, 0, d.val, 0], 0⟩
  | .mlogOr d a b => some ⟨.solo, 0x9A, [3, 4, 3, 4, 4, 4, 6, 4, 6, 4, 6], [1, 0, 0, 0, 0, b.val, 0, a.val, 0, d.val, 0], 0⟩
  | .mlogXor d a b => some ⟨.solo, 0x9A, [3, 4, 3, 4, 4, 4, 6, 4, 6, 4, 6], [2, 0, 0, 0, 0, b.val, 0, a.val, 0, d.val, 0], 0⟩
  | .mlogAndn d a b => some ⟨.solo, 0x9A, [3, 4, 3, 4, 4, 4, 6, 4, 6, 4, 6], [3, 0, 0, 0, 0, b.val, 0, a.val, 0, d.val, 0], 0⟩
  | .mlogNot d a => some ⟨.solo, 0x9A, [3, 4, 3, 4, 4, 4, 6, 4, 6, 4, 6], [4, 0, 0, 0, 0, 0, 0, a.val, 0, d.val, 0], 0⟩
  | .vld t d a off m => some ⟨.solo, 0x9B, [20, 4, 1, 4, 4, 5, 10], [off.toNat, 0, 0, t.code, m.val, a.val, d.val], 0⟩
  | .vst t a off v m => some ⟨.solo, 0x9C, [20, 4, 1, 4, 4, 5, 10], [off.toNat, 0, 0, t.code, m.val, a.val, v.val], 0⟩
  | .vstB t a off v m k => some ⟨.solo, 0x9C, [20, 4, 1, 4, 4, 5, 10], [off.toNat, k.val, 1, t.code, m.val, a.val, v.val], 0⟩
  | .mldst nb ga gb sx sy st0 st1 ts stage => some ⟨.solo, 0xA0, [3, 3, 3, 3, 1, 5, 5, 5, 5, 5, 5, 5], [st0.toNat, st1.toNat, 0, stage.toNat, ts.toNat, 0, sy.val, sx.val, 0, gb.val, ga.val, (nbCode nb)], 0⟩
  | .mswap nb ts stage => some ⟨.solo, 0xA1, [3, 3, 3, 3, 1, 5, 5, 5, 5, 5, 5, 5], [0, 0, 0, stage.toNat, ts.toNat, 0, 0, 0, 0, 0, 0, (nbCode nb)], 0⟩
  | .mzero nb ga sy ts stage => some ⟨.solo, 0xA2, [3, 3, 3, 3, 1, 5, 5, 5, 5, 5, 5, 5], [0, 0, 0, stage.toNat, ts.toNat, 0, sy.val, 0, 0, 0, ga.val, (nbCode nb)], 0⟩
  | .mstream nb ga gb gc sx sy st0 st2 ts stage => some ⟨.solo, 0xA3, [3, 3, 3, 3, 1, 5, 5, 5, 5, 5, 5, 5], [st0.toNat, 0, st2.toNat, stage.toNat, ts.toNat, 0, sy.val, sx.val, gc.val, gb.val, ga.val, (nbCode nb)], 0⟩
  | .mdrain nb ga gb gc sx sy st1 ts stage => some ⟨.solo, 0xA4, [3, 3, 3, 3, 1, 5, 5, 5, 5, 5, 5, 5], [0, st1.toNat, 0, stage.toNat, ts.toNat, 0, sy.val, sx.val, gc.val, gb.val, ga.val, (nbCode nb)], 0⟩
  | .mepi nb ga sx sy ts stage => some ⟨.solo, 0xA5, [3, 3, 3, 3, 1, 5, 5, 5, 5, 5, 5, 5], [0, 0, 0, stage.toNat, ts.toNat, 0, sy.val, sx.val, 0, 0, ga.val, (nbCode nb)], 0⟩
  | .smap nb ga gb gc gx sx sy st0 st1 st2 stage => some ⟨.solo, 0xA6, [3, 3, 3, 3, 1, 5, 5, 5, 5, 5, 5, 5], [st0.toNat, st1.toNat, st2.toNat, stage.toNat, 0, gx.val, sy.val, sx.val, gc.val, gb.val, ga.val, (nbCode nb)], 0⟩
  | .sred nb ga gb sx sy st0 stage => some ⟨.solo, 0xA7, [3, 3, 3, 3, 1, 5, 5, 5, 5, 5, 5, 5], [st0.toNat, 0, 0, stage.toNat, 0, 0, sy.val, sx.val, 0, gb.val, ga.val, (nbCode nb)], 0⟩
  | .xpose nb ga gb sx sy st0 st1 stage => some ⟨.solo, 0xA8, [3, 3, 3, 3, 1, 5, 5, 5, 5, 5, 5, 5], [st0.toNat, st1.toNat, 0, stage.toNat, 0, 0, sy.val, sx.val, 0, gb.val, ga.val, (nbCode nb)], 0⟩
  | .copy nb ga gb sx sy sz sw ord stage => some ⟨.solo, 0xA9, [4, 1, 3, 5, 5, 5, 5, 5, 5, 5, 5], [0, ord.toNat, stage.toNat, sw.val, sz.val, sy.val, sx.val, 0, gb.val, ga.val, (nbCode nb)], 0⟩
  | .gather nb ga gb gc sx sy sz sw ord stage => some ⟨.solo, 0xAA, [4, 1, 3, 5, 5, 5, 5, 5, 5, 5, 5], [0, ord.toNat, stage.toNat, sw.val, sz.val, sy.val, sx.val, gc.val, gb.val, ga.val, (nbCode nb)], 0⟩
  | .scatter nb ga gb gc sx sy sz sw ord stage => some ⟨.solo, 0xAB, [4, 1, 3, 5, 5, 5, 5, 5, 5, 5, 5], [0, ord.toNat, stage.toNat, sw.val, sz.val, sy.val, sx.val, gc.val, gb.val, ga.val, (nbCode nb)], 0⟩
  | .subscr nb ga gb sx sy sz stage => some ⟨.solo, 0xAC, [4, 1, 3, 5, 5, 5, 5, 5, 5, 5, 5], [0, 0, stage.toNat, 0, sz.val, sy.val, sx.val, 0, gb.val, ga.val, (nbCode nb)], 0⟩
  | .ringpop nb ga sx stage => some ⟨.solo, 0xAD, [4, 1, 3, 5, 5, 5, 5, 5, 5, 5, 5], [0, 0, stage.toNat, 0, 0, 0, sx.val, 0, 0, ga.val, (nbCode nb)], 0⟩
  | .ringpush nb ga sx stage => some ⟨.solo, 0xAE, [4, 1, 3, 5, 5, 5, 5, 5, 5, 5, 5], [0, 0, stage.toNat, 0, 0, 0, sx.val, 0, 0, ga.val, (nbCode nb)], 0⟩
  | .coll nb ga gb sx sy sz ord stage => some ⟨.solo, 0xAF, [4, 1, 3, 5, 5, 5, 5, 5, 5, 5, 5], [0, ord.toNat, stage.toNat, 0, sz.val, sy.val, sx.val, 0, gb.val, ga.val, (nbCode nb)], 0⟩
  | .postm nb ga sx sy => some ⟨.solo, 0xB0, [18, 5, 5, 5, 5, 5, 5], [0, sy.val, sx.val, 0, 0, ga.val, (nbCode nb)], 0⟩
  | .postr nb ga sx sy sr ord => some ⟨.solo, 0xB1, [4, 1, 3, 5, 5, 5, 5, 5, 5, 5, 5], [0, ord.toNat, 0, 0, sr.val, sy.val, sx.val, 0, 0, ga.val, (nbCode nb)], 0⟩
  | .bundle => some ⟨.solo, 0xB2, [18, 5, 5, 5, 5, 5, 5], [0, 0, 0, 0, 0, 0, 0], 0⟩
  | .bend => some ⟨.solo, 0xB3, [18, 5, 5, 5, 5, 5, 5], [0, 0, 0, 0, 0, 0, 0], 0⟩
  | .guard nb k ga gb gc gd ge gf => some ⟨.solo, 0xB4, [3, 5, 5, 5, 5, 5, 5, 5, 5, 5], [0, gf.val, ge.val, gd.val, 0, k.val, gc.val, gb.val, ga.val, (nbCode nb)], 0⟩
  | .gcheck => some ⟨.solo, 0xB5, [18, 5, 5, 5, 5, 5, 5], [0, 0, 0, 0, 0, 0, 0], 0⟩
  | .gexact => some ⟨.solo, 0xB6, [18, 5, 5, 5, 5, 5, 5], [0, 0, 0, 0, 0, 0, 0], 0⟩
  | .gend => some ⟨.solo, 0xB7, [18, 5, 5, 5, 5, 5, 5], [0, 0, 0, 0, 0, 0, 0], 0⟩
  | .tstart nb ga => some ⟨.solo, 0xB8, [18, 5, 5, 5, 5, 5, 5], [0, 0, 0, 0, 0, ga.val, (nbCode nb)], 0⟩
  | .rgld o sc d c a b off => some ⟨.solo, 0xB9, [20, 3, 2, 4, 5, 5, 4, 5], [off.toNat, sc.code, o.code, 0, b.val, a.val, c.val, d.val], 0⟩
  | .twait em => some ⟨.solo, 0xBA, [6, 42], [em.toNat, 0], 0⟩
  | .li d x => some ⟨.double, 0xC0, [32, 6, 5, 5], [0, 0, 0, d.val], x.toNat⟩
  | .addl d a x => some ⟨.double, 0xC1, [32, 6, 5, 5], [0, 0, a.val, d.val], x.toNat⟩
  | .andl d a x => some ⟨.double, 0xC2, [32, 6, 5, 5], [0, 0, a.val, d.val], x.toNat⟩
  | .orl d a x => some ⟨.double, 0xC3, [32, 6, 5, 5], [0, 0, a.val, d.val], x.toNat⟩
  | .xorl d a x => some ⟨.double, 0xC4, [32, 6, 5, 5], [0, 0, a.val, d.val], x.toNat⟩
  | .cmpl c p a x => some ⟨.double, 0xC5, [32, 4, 2, 5, 5], [0, c.code, 0, a.val, p.val], x.toNat⟩
  | .ldl t o sc d c a x => some ⟨.double, 0xC6, [20, 3, 2, 4, 5, 5, 4, 5], [0, sc.code, o.code, t.code, 0, a.val, c.val, d.val], x.toNat⟩
  | .stl t o sc c a x d => some ⟨.double, 0xC7, [20, 3, 2, 4, 5, 5, 4, 5], [0, sc.code, o.code, t.code, 0, a.val, c.val, d.val], x.toNat⟩
  | .rgset d x => some ⟨.double, 0xC8, [28, 5, 5, 5, 5], [0, 0, 0, 0, d.val], x.toNat⟩
  | .vli d x => some ⟨.double, 0xC9, [7, 3, 4, 4, 10, 10, 10], [0, 0, 0, 0, 0, 0, d.val], x.toNat⟩
  | .snop => some ⟨.scalarSlot, 0x0, [5, 5, 5], [0, 0, 0], 0⟩
  | .addSlot d a b => some ⟨.scalarSlot, 0x1, [5, 5, 5], [b.val, a.val, d.val], 0⟩
  | .subSlot d a b => some ⟨.scalarSlot, 0x2, [5, 5, 5], [b.val, a.val, d.val], 0⟩
  | .andSlot d a b => some ⟨.scalarSlot, 0x3, [5, 5, 5], [b.val, a.val, d.val], 0⟩
  | .orSlot d a b => some ⟨.scalarSlot, 0x4, [5, 5, 5], [b.val, a.val, d.val], 0⟩
  | .xorSlot d a b => some ⟨.scalarSlot, 0x5, [5, 5, 5], [b.val, a.val, d.val], 0⟩
  | .andnSlot d a b => some ⟨.scalarSlot, 0x6, [5, 5, 5], [b.val, a.val, d.val], 0⟩
  | .shlSlot d a b => some ⟨.scalarSlot, 0x7, [5, 5, 5], [b.val, a.val, d.val], 0⟩
  | .shrSlot d a b => some ⟨.scalarSlot, 0x8, [5, 5, 5], [b.val, a.val, d.val], 0⟩
  | .sraSlot d a b => some ⟨.scalarSlot, 0x9, [5, 5, 5], [b.val, a.val, d.val], 0⟩
  | .minSlot d a b => some ⟨.scalarSlot, 0xA, [5, 5, 5], [b.val, a.val, d.val], 0⟩
  | .maxSlot d a b => some ⟨.scalarSlot, 0xB, [5, 5, 5], [b.val, a.val, d.val], 0⟩
  | .minuSlot d a b => some ⟨.scalarSlot, 0xC, [5, 5, 5], [b.val, a.val, d.val], 0⟩
  | .maxuSlot d a b => some ⟨.scalarSlot, 0xD, [5, 5, 5], [b.val, a.val, d.val], 0⟩
  | .mulSlot d a b => some ⟨.scalarSlot, 0xE, [5, 5, 5], [b.val, a.val, d.val], 0⟩
  | .addiSlot d a imm => some ⟨.scalarSlot, 0xF, [5, 5, 5], [imm.toNat, a.val, d.val], 0⟩
  | .shliSlot d a imm => some ⟨.scalarSlot, 0x10, [5, 5, 5], [imm.toNat, a.val, d.val], 0⟩
  | .shriSlot d a imm => some ⟨.scalarSlot, 0x11, [5, 5, 5], [imm.toNat, a.val, d.val], 0⟩
  | .sraiSlot d a imm => some ⟨.scalarSlot, 0x12, [5, 5, 5], [imm.toNat, a.val, d.val], 0⟩
  | .cmpEqSlot p a b => some ⟨.scalarSlot, 0x13, [5, 5, 5], [b.val, a.val, p.val], 0⟩
  | .cmpNeSlot p a b => some ⟨.scalarSlot, 0x14, [5, 5, 5], [b.val, a.val, p.val], 0⟩
  | .cmpLtSlot p a b => some ⟨.scalarSlot, 0x15, [5, 5, 5], [b.val, a.val, p.val], 0⟩
  | .cmpLtuSlot p a b => some ⟨.scalarSlot, 0x16, [5, 5, 5], [b.val, a.val, p.val], 0⟩
  | .cmpGeSlot p a b => some ⟨.scalarSlot, 0x17, [5, 5, 5], [b.val, a.val, p.val], 0⟩
  | .cmpGeuSlot p a b => some ⟨.scalarSlot, 0x18, [5, 5, 5], [b.val, a.val, p.val], 0⟩
  | .cmpiEqSlot p a imm => some ⟨.scalarSlot, 0x19, [5, 5, 5], [imm.toNat, a.val, p.val], 0⟩
  | .pandSlot d a b => some ⟨.scalarSlot, 0x1A, [5, 5, 5], [b.val, a.val, d.val], 0⟩
  | .porSlot d a b => some ⟨.scalarSlot, 0x1B, [5, 5, 5], [b.val, a.val, d.val], 0⟩
  | .pxorSlot d a b => some ⟨.scalarSlot, 0x1C, [5, 5, 5], [b.val, a.val, d.val], 0⟩
  | .pandnSlot d a b => some ⟨.scalarSlot, 0x1D, [5, 5, 5], [b.val, a.val, d.val], 0⟩
  | .vnop => some ⟨.vectorSlot, 0x0, [10, 10, 10], [0, 0, 0], 0⟩
  | .vmov d a => some ⟨.vectorSlot, 0x11, [10, 10, 10], [0, a.val, d.val], 0⟩
  | .vaddSlot d a b => some ⟨.vectorSlot, 0x1, [10, 10, 10], [b.val, a.val, d.val], 0⟩
  | .vsubSlot d a b => some ⟨.vectorSlot, 0x2, [10, 10, 10], [b.val, a.val, d.val], 0⟩
  | .vmulSlot d a b => some ⟨.vectorSlot, 0x3, [10, 10, 10], [b.val, a.val, d.val], 0⟩
  | .vfmaSlot d a b => some ⟨.vectorSlot, 0x4, [10, 10, 10], [b.val, a.val, d.val], 0⟩
  | .vfmsSlot d a b => some ⟨.vectorSlot, 0x5, [10, 10, 10], [b.val, a.val, d.val], 0⟩
  | .vminSlot d a b => some ⟨.vectorSlot, 0x6, [10, 10, 10], [b.val, a.val, d.val], 0⟩
  | .vmaxSlot d a b => some ⟨.vectorSlot, 0x7, [10, 10, 10], [b.val, a.val, d.val], 0⟩
  | .vabsSlot d a => some ⟨.vectorSlot, 0x8, [10, 10, 10], [0, a.val, d.val], 0⟩
  | .vnegSlot d a => some ⟨.vectorSlot, 0x9, [10, 10, 10], [0, a.val, d.val], 0⟩
  | .vandSlot d a b => some ⟨.vectorSlot, 0xA, [10, 10, 10], [b.val, a.val, d.val], 0⟩
  | .vorSlot d a b => some ⟨.vectorSlot, 0xB, [10, 10, 10], [b.val, a.val, d.val], 0⟩
  | .vxorSlot d a b => some ⟨.vectorSlot, 0xC, [10, 10, 10], [b.val, a.val, d.val], 0⟩
  | .vandnSlot d a b => some ⟨.vectorSlot, 0xD, [10, 10, 10], [b.val, a.val, d.val], 0⟩
  | .vshlSlot d a b => some ⟨.vectorSlot, 0xE, [10, 10, 10], [b.val, a.val, d.val], 0⟩
  | .vshrSlot d a b => some ⟨.vectorSlot, 0xF, [10, 10, 10], [b.val, a.val, d.val], 0⟩
  | .vsraSlot d a b => some ⟨.vectorSlot, 0x10, [10, 10, 10], [b.val, a.val, d.val], 0⟩
  | .vrcpSlot d a => some ⟨.vectorSlot, 0x12, [10, 10, 10], [0, a.val, d.val], 0⟩
  | .vrsqSlot d a => some ⟨.vectorSlot, 0x13, [10, 10, 10], [0, a.val, d.val], 0⟩
  | .vexp2Slot d a => some ⟨.vectorSlot, 0x14, [10, 10, 10], [0, a.val, d.val], 0⟩
  | .vlog2Slot d a => some ⟨.vectorSlot, 0x15, [10, 10, 10], [0, a.val, d.val], 0⟩
  | .vsinSlot d a => some ⟨.vectorSlot, 0x16, [10, 10, 10], [0, a.val, d.val], 0⟩
  | .vrintSlot d a => some ⟨.vectorSlot, 0x17, [10, 10, 10], [0, a.val, d.val], 0⟩
  | .vcmpEqSlot d a b => some ⟨.vectorSlot, 0x18, [10, 10, 4, 6], [b.val, a.val, d.val, 0], 0⟩
  | .vcmpNeSlot d a b => some ⟨.vectorSlot, 0x19, [10, 10, 4, 6], [b.val, a.val, d.val, 0], 0⟩
  | .vcmpLtSlot d a b => some ⟨.vectorSlot, 0x1A, [10, 10, 4, 6], [b.val, a.val, d.val, 0], 0⟩
  | .vcmpLeSlot d a b => some ⟨.vectorSlot, 0x1B, [10, 10, 4, 6], [b.val, a.val, d.val, 0], 0⟩
  | .vslduSlot d a b => some ⟨.vectorSlot, 0x1C, [10, 10, 10], [b.val, a.val, d.val], 0⟩
  | .vslddSlot d a b => some ⟨.vectorSlot, 0x1D, [10, 10, 10], [b.val, a.val, d.val], 0⟩
  | .vpermSlot d a b => some ⟨.vectorSlot, 0x1E, [10, 10, 10], [b.val, a.val, d.val], 0⟩
  | .vtluSlot d a b => some ⟨.vectorSlot, 0x1F, [10, 10, 10], [b.val, a.val, d.val], 0⟩
  | .vcvtSlot d a b => some ⟨.vectorSlot, 0x20, [10, 10, 10], [b.val, a.val, d.val], 0⟩
  | .vaddsSlot d a b => some ⟨.vectorSlot, 0x21, [10, 10, 10], [b.val, a.val, d.val], 0⟩
  | .vsubsSlot d a b => some ⟨.vectorSlot, 0x22, [10, 10, 10], [b.val, a.val, d.val], 0⟩
  | .bar4Write _ _ => none
  | .pcieCompletionTimeout _ => none

/-- A word from its body, under guard 0 (always true) and with S = 1 (R158, R159). -/
def wordOf (body fmt : Nat) : BitVec 64 := BitVec.ofNat 64 (pack [56, 4, 1, 2, 1] [body, 0, 0, fmt, 1])

/-- The encoder: the words of an instruction under guard 0 and with S = 1; a slot operation stands beside
`SNOP` or `VNOP`. A device step has no words. -/
def encode (i : Instr) : List (BitVec 64) :=
  match operands i with
  | none => []
  | some o =>
    let body := pack o.widths o.vals
    match o.shape with
    | .solo => [wordOf (pack [48, 8] [body, o.op]) 1]
    | .double => [wordOf (pack [48, 8] [body, o.op]) 2, BitVec.ofNat 64 o.ext]
    | .scalarSlot => [wordOf (pack [30, 6, 15, 5] [0, 0, body, o.op]) 0]
    | .vectorSlot => [wordOf (pack [30, 6, 15, 5] [body, o.op, 0, 0]) 0]

/-- The operation of a word that holds one: of a pair word, the slot that is no no-op. -/
def single : List Op → Option Op
  | [o] => some o
  | [o, .slot .vnop] => some o
  | [.slot .snop, o] => some o
  | _ => none

/-- The operations of a word that holds one operation: a slot has a no-op beside it. -/
noncomputable def wordOps : Op → List Op
  | .solo o => [.solo o]
  | .slot o =>
    match operands o.instr with
    | some ⟨.vectorSlot, _, _, _, _⟩ => [.slot .snop, .slot o]
    | _ => [.slot o, .slot .vnop]

end Decode

/-- The instruction that the decoder reads from bits numbered as the opcode table numbers them: bit 0 is the
least significant bit of the first 64-bit word, and a second word counts on from it. The bits above `nbits`
are 0. -/
noncomputable def decodeTableWord (nbits w : Nat) : Option Instr :=
  let v := w % 2 ^ nbits
  match Decode.decode ((List.range 16).map fun i => BitVec.ofNat 8 (v / 2 ^ (8 * i))) with
  | .ok (d, _) => (Decode.single d.ops).map Op.instr
  | .error _ => none

end Sys2Proof
end

