-- ==== Sys2Proof/Machine/Issue.lean ====
section
/-!
DEFINITION. Issue (R169, R170, R183, R217, R353): what must hold before a group issues, and what an instruction that
issues as a group of its own makes of its result.
-/

namespace Sys2Proof.Machine

open Sys2Proof.Bits

/-- An illegal-encoding trap (R174, R426): `%einfo` holds the offset of the earliest failing word. -/
def illegalTrap (reason : BitVec 8) (word : Nat) (off : BitVec 48) : Trap :=
  { Trap.precise 0x01 reason (off.setWidth 64) with word := BitVec.ofNat 2 word }

/-- The registers that an operation of the access unit has still to write (R183, R438). -/
def AccOp.dests (o : AccOp) : List RegName :=
  match o.kind with
  | .load _ d => nS d
  | .loadRegion d => nG d
  | .store => []
  | .rmw op _ d => nS d ++ (if op = .cas2 then nNext d else [])
  | .wait _ _ d => nS d
  | .fence => []
  | .red .. => []

namespace Core

/-- The sources and destinations of a group are ready (R169, R183); the read of a waiting `SIGWAIT` holds only others. -/
def ready (c : Core) (es : List Effects) : Bool :=
  !c.acc.any fun o => c.wait != .sigwait o.id && o.dests.any fun r => es.any fun e => e.reads.contains r || e.writes.contains r

/-- An operation that has not been performed and that an acquire of the thread at hand waits for: in a handler none of those that wait
for the pending set. -/
def awaited (c : Core) (o : AccOp) : Bool := o.kind != .fence && o.phase != .performed && !(c.inHandler && c.isHeld o.id)

/-- A fence that acquires stands behind an access it orders before all later ones (R385). -/
def fenceHolds (c : Core) (f : AccOp) : Bool :=
  f.kind == .fence && f.ord.acquires &&
    (c.acc.any (fun x => c.awaited x && decide (x.rank < f.rank) && (f.ord != .acq || x.returns))
      || (f.ord != .acq && c.reds.any fun r => decide (r.rank < f.rank) && !(c.inHandler && c.redHeld r)))

/-- An acquire that has not been performed keeps later M and E operations from issuing (R353), and so does a fence that acquires
(R385). -/
def acquiring (c : Core) (es : List Effects) : Bool :=
  c.acc.any (fun o => (c.awaited o && o.ord.acquires) || c.fenceHolds o) && es.any fun e => e.cls == .M || e.cls == .E

/-- A group finds its sources and is held by no acquire. -/
def mayIssue (c : Core) (es : List Effects) : Bool := c.ready es && !c.acquiring es

/-- A C or Y operation stands in a delay group (R170). -/
def badDelay (c : Core) (es : List Effects) : Bool := c.pend != 0 && es.any fun e => e.cls == .C || e.cls == .Y

/-- What a group finds as it begins: the entries its memory operations see and the operations before it (R291, R354). A
class Y operation flushes the combining buffer (R381). -/
def begin' (c : Core) (solitary : Bool) : Core :=
  let c1 := if solitary then c.flushReds else c
  { c1 with grp := { GroupAcc.empty with base := some c.board.entries.length, opBase := some c.nextOp } }

end Core

/-- The position of the innermost level's end word in a group of `w` words where it is not the last (R217). -/
def misplacedEnd (c : Core) (w : Nat) : Option Nat :=
  match c.inner with
  | none => none
  | some l => (List.range (w - 1)).find? fun i => decide (l.last = c.pc + BitVec.ofNat 48 (8 * i))

/-- What issuing a group of `w` words makes of its operations' result: the group ends and the program counter moves, a
trap is taken (precise traps leave no effect, R169; `TRAP` and `BRK` complete first, R430), or the group waits. -/
def settle (w : Nat) (r : OpRes) : Host.Outcome State Fault Refusal :=
  match r with
  | .ok s => .next (s.on (Core.endGroup w))
  | .trap t s => .next (if t.delivery = .after then (s.on (Core.endGroup w)).raiseTrap s.cur t else s.raiseTrap s.cur t)
  | .stall s => .next (s.on Core.dropGroup)

/-- The checks every group undergoes before its operations are looked at, in the order of their reasons; none lets the
operations decide. -/
def beforeIssue (es : List Effects) (w : Nat) (s : State) : Option OpRes :=
  let c := s.core
  if c.badDelay es then some (.trap (illegalTrap 0x0B 0 c.pc) s)
  else match misplacedEnd c w with
    | some i => some (.trap { Trap.precise 0x09 0x03 0 with word := BitVec.ofNat 2 i } s)
    | none => if c.mayIssue es then none else some (.stall s)

/-- An instruction issued as a group of its own. -/
def issueAlone (o : Op) (op : State → OpRes) (s : State) : Host.Outcome State Fault Refusal :=
  let e := opEffects s.core.sp.vt o
  settle e.words ((beforeIssue [e] e.words s).getD (op (s.on fun c => c.begin' (e.cls == .Y))))

end Sys2Proof.Machine
end

