-- ==== Sys2Proof/Machine/Fetch.lean ====
section
/-!
DEFINITION. Fetch (R156 to R158, R167): the words of a group as the instruction cache holds them, with the faults of
words outside the window or the object, and the length of a group from its stop bits.
-/

namespace Sys2Proof.Machine

open Sys2Proof.Bits

namespace Core

/-- A code word at an offset, as the team sees it (R157). -/
def codeWord (c : Core) (off : Nat) : Nat := natOfBytes (SMap.getList 0 c.code off 8)

/-- The offset of a word of the group at hand. -/
def wordPc (c : Core) (k : Nat) : BitVec 48 := c.pc + BitVec.ofNat 48 (8 * k)

/-- Words from an offset to the end of the group that begins there, four at most (R167). -/
def groupWords (c : Core) : Nat → Nat → Nat
  | 0, _ => 0
  | fuel + 1, off =>
    let w := c.codeWord off
    let n := if Decode.isDouble w then 2 else 1
    if w / 2 ^ 63 % 2 = 1 then n else n + groupWords c fuel (off + 8 * n)

/-- A transfer or loop in the last group of the innermost body or one of the two before it (R218). The group at hand
takes `w` words. -/
def nearEnd (c : Core) (w : Nat) : Bool :=
  match c.inner with
  | none => false
  | some l =>
    decide (l.start ≤ c.pc) && decide (c.pc ≤ l.last) &&
      let a := c.pc.toNat + 8 * w
      let b := a + 8 * c.groupWords 4 a
      decide (l.last.toNat < b + 8 * c.groupWords 4 b)

end Core

namespace Core

/-- The extent that holds the words behind the group at hand which its place in a loop body is judged by (R218). -/
def aheadExt (c : Core) : Option Nat :=
  match c.inner with
  | none => none
  | some l => if l.start ≤ c.pc ∧ c.pc ≤ l.last then some (min l.last.toNat (c.pc.toNat + 160) / extentBytes) else none

/-- That extent is known, or holds no code. -/
def aheadKnown (c : Core) (size : Nat) : Bool :=
  match c.aheadExt with | some e => c.codeExts.contains e || decide (size ≤ e * extentBytes) | none => true

end Core

/-- What fetching a group gives: its words, a fault of its earliest bad word, or a wait for a line (R156, R438). -/
inductive Fetched where
  | words (ws : List Nat)
  | fault (t : Trap)
  | wait (line : Nat)
  deriving DecidableEq, Repr

/-- The bytes of a line of the instruction cache (R157). -/
def codeLineBytes : Nat := 128

/-- One word of a group, number `k` (R156): a line that the cache does not hold comes through the checks of a memory port (R16). -/
def fetchWord (s : State) (c : Core) (k : Nat) : Except Fetched Nat :=
  let a := c.pc.toNat + 8 * k
  let bad (cause : BitVec 8) : Except Fetched Nat :=
    .error (.fault { Trap.precise cause 0 (BitVec.ofNat 64 a) with word := BitVec.ofNat 2 k })
  if !Cap.within c.fetchCap a 8 then bad 0x02
  else if c.codeLines.contains (a / codeLineBytes) then
    if c.aheadKnown (match s.obj (Cap.obj c.fetchCap) with | some o => o.bytes | none => 0) then .ok (c.codeWord a)
    else .error (.wait ((c.aheadExt.getD 0) * (extentBytes / codeLineBytes)))
  else match s.portCheck (s.tenantOf s.cur) (Cap.obj c.fetchCap) a 8 with
    | .objectFault => bad 0x07
    | _ => .error (.wait (a / codeLineBytes))

/-- The words of a group from word `k`: up to a word with S = 1, the extension of a double word with it, or four. `ext`
says that the next word is an extension, after which the group ends if `stop`. -/
def fetchGroup (s : State) (c : Core) : Nat → Nat → Bool → Bool → Fetched
  | 0, _, _, _ => .words []
  | fuel + 1, k, ext, stop =>
    match fetchWord s c k with
    | .error e => e
    | .ok w =>
      let more (e st : Bool) : Fetched :=
        match fetchGroup s c fuel (k + 1) e st with
        | .words ws => .words (w :: ws)
        | r => r
      if ext then (if stop then .words [w] else more false false)
      else
        let last := w / 2 ^ 63 % 2 = 1
        if Decode.isDouble w then more true last else if last then .words [w] else more false false

end Sys2Proof.Machine
end

