-- ==== Sys2Proof/Machine/Lane.lean ====
section
/-!
DEFINITION. The lane unit (R227 to R258): elements under a mask, each computed exactly and rounded once with the
generator of its lane (R55), and the last-result file that every vector result is pushed to (R235).
-/

namespace Sys2Proof.Machine

open Sys2Proof.Bits

/-! ### Elements, masks and the last-result file -/

/-- Element `i` of width `w` is enabled by a mask (R228). -/
def enabled (m : Mask) (w i : Nat) : Bool := m.getLsbD (w * i / 8)

/-- The lane of an element (R55). -/
def laneOf (w i : Nat) : Nat := w * i / 32

/-- A push onto the last-result file (R235). -/
def Core.push (c : Core) (r : Row) : Core :=
  let main := c.regs.v.filter fun e => decide (e.1 < 608)
  let moved := c.regs.v.filterMap fun e => if 608 ≤ e.1 ∧ e.1 < 639 then some (e.1 + 1, e.2) else none
  { c with regs := { c.regs with v := SMap.put 0 (main ++ moved) 608 r } }

/-- A vector result: the destination is written, then pushed (R235). -/
def Core.wv (c : Core) (d : VReg) (r : Row) : Core := (c.wvAt d.val r).push r

/-- Elements computed in ascending order, with the flags raised and the generators drawn from. -/
structure Sweep where
  done : List Nat
  flags : FFlags
  gens : List (BitVec 32)
  deriving DecidableEq, Repr

/-- One element: an enabled one is computed with its lane's generator, a disabled one keeps its value and draws
nothing (R229). -/
def Sweep.next (w : Nat) (on : Nat → Bool) (old : Nat → Nat) (f : Nat → BitVec 32 → Rounded) (a : Sweep) (i : Nat) : Sweep :=
  if on i then
    let l := laneOf w i
    let g := (a.gens[l]?).getD 1
    let r := f i g
    ⟨r.bits :: a.done, a.flags ||| r.flags, if r.gen = g then a.gens else a.gens.set l r.gen⟩
  else { a with done := old i :: a.done }

/-- All elements of a register of width `w`. -/
def sweep (w : Nat) (on : Nat → Bool) (old : Nat → Nat) (f : Nat → BitVec 32 → Rounded) (gens : List (BitVec 32)) : Sweep :=
  (List.range (4096 / w)).foldl (Sweep.next w on old f) ⟨[], 0, gens⟩

/-- Generators and flags after an operation. -/
def Core.drew (c : Core) (gens : List (BitVec 32)) (f : FFlags) : Core := { c with sp := { c.sp with gens := gens } }.raise f

/-- A vector destination of width `w`: the elements `on` are computed, the others keep their values. -/
def writeElems (w : Nat) (d : VReg) (on : Core → Nat → Bool) (f : Core → Nat → BitVec 32 → Rounded) (s : State) : OpRes :=
  onReg s fun c =>
    let old := c.rv d
    let a := sweep w (on c) (elem old w) (f c) c.sp.gens
    (c.wv d (rowOfElems w a.done.reverse)).drew a.gens a.flags

/-- A vector destination under a merge mask (R229). -/
def mapElems (w : Nat) (d : VReg) (m : MReg) (f : Core → Nat → BitVec 32 → Rounded) (s : State) : OpRes :=
  writeElems w d (fun c => enabled (c.rm m) w) f s

/-- Plain bits as a result. -/
def plain (x : Nat) (g : BitVec 32) : Rounded := ⟨x, 0, g⟩

/-- Elements moved or combined as bits. -/
def moveElems (t : Ty) (d : VReg) (m : MReg) (f : Core → Nat → Nat) (s : State) : OpRes :=
  mapElems t.width d m (fun c i g => plain (f c i) g) s

/-! ### Elementwise arithmetic (R239, R240) -/

/-- An elementwise operation: on integers, wrapping, or on exact float values, rounded once. -/
def arith (t : Ty) (r : Rnd) (d a b : VReg) (m : MReg) (fi : Int → Int → Int → Int) (ff : FVal → FVal → FVal → FVal × FFlags) :
    State → OpRes :=
  mapElems t.width d m fun c i g =>
    let x := elem (c.rv a) t.width i
    let y := elem (c.rv b) t.width i
    let z := elem (c.rv d) t.width i
    match t.fmt? with
    | none => plain (bitsOfInt t.width (fi (t.int x) (t.int y) (t.int z))) g
    | some f => roundPair f r (ff (f.value x) (f.value y) (f.value z)) g

/-- `VADD` (R239). -/
def opVadd (t : Ty) (r : Rnd) (d a b : VReg) (m : MReg) : State → OpRes :=
  arith t r d a b m (fun x y _ => x + y) (fun x y _ => FVal.add r x y)

/-- `VSUB` (R239). -/
def opVsub (t : Ty) (r : Rnd) (d a b : VReg) (m : MReg) : State → OpRes :=
  arith t r d a b m (fun x y _ => x - y) (fun x y _ => FVal.add r x y.negate)

/-- `VMUL` (R239). -/
def opVmul (t : Ty) (r : Rnd) (d a b : VReg) (m : MReg) : State → OpRes :=
  arith t r d a b m (fun x y _ => x * y) (fun x y _ => FVal.mul x y)

/-- `VFMA` (R239). -/
def opVfma (t : Ty) (r : Rnd) (d a b : VReg) (m : MReg) : State → OpRes :=
  arith t r d a b m (fun x y z => x * y + z) (fun x y z => FVal.fma r x y z)

/-- `VFMS` (R239). -/
def opVfms (t : Ty) (r : Rnd) (d a b : VReg) (m : MReg) : State → OpRes :=
  arith t r d a b m (fun x y z => x * y - z) (fun x y z => FVal.fma r x y z.negate)

/-- `VMIN` (R239): a rounding code has nothing to round (DEDUCED, log 22). -/
def opVmin (t : Ty) (d a b : VReg) (m : MReg) : State → OpRes :=
  arith t .rne d a b m (fun x y _ => if y < x then y else x) (fun x y _ => (FVal.min x y, 0))

/-- `VMAX` (R239): a rounding code has nothing to round (DEDUCED, log 22). -/
def opVmax (t : Ty) (d a b : VReg) (m : MReg) : State → OpRes :=
  arith t .rne d a b m (fun x y _ => if x < y then y else x) (fun x y _ => (FVal.max x y, 0))

/-- A sum clamped to the type's range, with SAT where the clamp changes it (R239). -/
def laneSaturating (t : Ty) (d a b : VReg) (m : MReg) (f : Int → Int → Int) : State → OpRes :=
  mapElems t.width d m fun c i g =>
    narrowInt t.lo t.hi t.width (f (t.int (elem (c.rv a) t.width i)) (t.int (elem (c.rv b) t.width i))) g

/-- `VADDS` (R239). -/
def opVadds (t : Ty) (d a b : VReg) (m : MReg) : State → OpRes := laneSaturating t d a b m fun x y => x + y

/-- `VSUBS` (R239). -/
def opVsubs (t : Ty) (d a b : VReg) (m : MReg) : State → OpRes := laneSaturating t d a b m fun x y => x - y

/-- A sign operation on one element (R239, R240): a NaN gives the canonical NaN; no flag. -/
def signOp (t : Ty) (d a : VReg) (m : MReg) (fi : Int → Int) (fb : Nat → Nat → Nat) : State → OpRes :=
  moveElems t d m fun c i =>
    let x := elem (c.rv a) t.width i
    match t.fmt? with
    | none => bitsOfInt t.width (fi (t.int x))
    | some f => if (f.value x).isNan then f.nanBits else fb (2 ^ (t.width - 1)) x

/-- `VABS` (R239): a rounding code has nothing to round (DEDUCED, log 22), and the most negative integer is unchanged by the wrap. -/
def opVabs (t : Ty) (d a : VReg) (m : MReg) : State → OpRes := signOp t d a m (fun x => (x.natAbs : Int)) fun top x => x % top

/-- `VNEG` (R239). -/
def opVneg (t : Ty) (d a : VReg) (m : MReg) : State → OpRes := signOp t d a m (fun x => -x) fun top x => Nat.xor x top

/-- A bitwise operation on elements (R239). -/
def bitwise (t : Ty) (d a b : VReg) (m : MReg) (f : Nat → Nat → Nat) : State → OpRes :=
  moveElems t d m fun c i => f (elem (c.rv a) t.width i) (elem (c.rv b) t.width i)

/-- `VAND` (R239). -/
def opVand (t : Ty) (d a b : VReg) (m : MReg) : State → OpRes := bitwise t d a b m Nat.land
/-- `VOR` (R239). -/
def opVor (t : Ty) (d a b : VReg) (m : MReg) : State → OpRes := bitwise t d a b m Nat.lor
/-- `VXOR` (R239). -/
def opVxor (t : Ty) (d a b : VReg) (m : MReg) : State → OpRes := bitwise t d a b m Nat.xor
/-- `VANDN` (R239). -/
def opVandn (t : Ty) (d a b : VReg) (m : MReg) : State → OpRes :=
  bitwise t d a b m fun x y => Nat.land x (Nat.xor y (2 ^ t.width - 1))
/-- `VSHL` (R239). -/
def opVshl (t : Ty) (d a b : VReg) (m : MReg) : State → OpRes := bitwise t d a b m fun x y => x <<< (y % t.width) % 2 ^ t.width
/-- `VSHR` (R239). -/
def opVshr (t : Ty) (d a b : VReg) (m : MReg) : State → OpRes := bitwise t d a b m fun x y => x >>> (y % t.width)
/-- `VSRA` (R239). -/
def opVsra (t : Ty) (d a b : VReg) (m : MReg) : State → OpRes :=
  bitwise t d a b m fun x y => bitsOfInt t.width (intOf true t.width x >>> (y % t.width))

/-! ### Masks (R241 to R243) -/

/-- A mask with the byte slot of element `i` of width `w` set to a value (R228). -/
def setSlot (w : Nat) (m : Mask) (i : Nat) (v : Bool) : Mask :=
  setField m (w * i / 8) (w / 8) (if v then BitVec.allOnes (w / 8) else 0)

/-- A lane condition (R241). -/
def laneCond (k : VCond) (t : Ty) (x y : Nat) : Bool :=
  let ord := FVal.cmp (t.value x) (t.value y)
  match k with
  | .eq => ord == some 0
  | .ne => ord != some 0
  | .lt => ord == some (-1)
  | .le => ord == some (-1) || ord == some 0
  | .gt => ord == some 1
  | .ge => ord == some 1 || ord == some 0
  | .un => ord == none
  | .ord => ord != none
  | .tst => Nat.land x y != 0
  | .ntst => Nat.land x y == 0

/-- `VCMP` (R241): m is a merge mask over the mask's slots. -/
def opVcmp (k : VCond) (t : Ty) (d : MReg) (a b : VReg) (m : MReg) (s : State) : OpRes :=
  onReg s fun c =>
    let w := t.width
    c.wm d ((List.range (4096 / w)).foldl (fun acc i =>
      if enabled (c.rm m) w i then setSlot w acc i (laneCond k t (elem (c.rv a) w i) (elem (c.rv b) w i)) else acc) (c.rm d))

/-- `VSEL` (R242): m selects. -/
def opVsel (t : Ty) (d a b : VReg) (m : MReg) : State → OpRes :=
  moveElems t d 0 fun c i => elem (c.rv (if enabled (c.rm m) t.width i then a else b)) t.width i

/-- A mask operation (R243). -/
def maskOp (d a b : MReg) (f : Mask → Mask → Mask) (s : State) : OpRes := onReg s fun c => c.wm d (f (c.rm a) (c.rm b))

/-- `MLOG.AND` (R243). -/
def opMlogAnd (d a b : MReg) : State → OpRes := maskOp d a b fun x y => x &&& y
/-- `MLOG.OR` (R243). -/
def opMlogOr (d a b : MReg) : State → OpRes := maskOp d a b fun x y => x ||| y
/-- `MLOG.XOR` (R243). -/
def opMlogXor (d a b : MReg) : State → OpRes := maskOp d a b fun x y => x ^^^ y
/-- `MLOG.ANDN` (R243). -/
def opMlogAndn (d a b : MReg) : State → OpRes := maskOp d a b fun x y => x &&& ~~~y
/-- `MLOG.NOT` (R243). -/
def opMlogNot (d a : MReg) : State → OpRes := maskOp d a a fun x _ => ~~~x

/-! ### Conversions (R244, R245) -/

/-- The source element of destination `j` in a narrowing by `r` with part `k`, and the register it comes from (R244). -/
def narrowSource (r k j : Nat) : Option (Nat × Bool) :=
  if 2 * k ≤ j % r ∧ j % r < 2 * k + 2 then some (j / r, j % r == 2 * k) else none

/-- A conversion between widths `ws` and `wd` by a function on bits (R244). -/
def convElems (ws wd : Nat) (conv : Nat → BitVec 32 → Rounded) (d a b : VReg) (k : Nat) (m : MReg) : State → OpRes :=
  if wd < ws then
    writeElems wd d (fun c j => (narrowSource (ws / wd) k j).isSome && enabled (c.rm m) wd j) fun c j g =>
      match narrowSource (ws / wd) k j with
      | some (i, first) => conv (elem (c.rv (if first then a else b)) ws i) g
      | none => plain 0 g
  else mapElems wd d m fun c j g => conv (elem (c.rv a) ws (wd / ws * j + k)) g

/-- `VCVT` (R244). -/
def opVcvt (td ts : Ty) (r : Rnd) (d a b : VReg) (k : BitVec 3) (m : MReg) : State → OpRes :=
  convElems ts.width td.width (convert ts td r) d a b k.toNat m

/-- `VPK4` (R245). -/
def opVpk4 (ts : Ty) (r : Rnd) (d a b : VReg) (k : BitVec 3) (m : MReg) : State → OpRes :=
  convElems ts.width 4 (convertToInt4 ts r) d a b k.toNat m

/-- `VUPK4` (R245). -/
def opVupk4 (td : Ty) (r : Rnd) (d a : VReg) (k : BitVec 3) (m : MReg) : State → OpRes :=
  convElems 4 td.width (convertFromInt4 td r) d a a k.toNat m

/-! ### Functions (R246 to R248) -/

/-- A function of one element rounded once; a NaN operand gives the canonical NaN without a flag (R246). -/
def funElems (t : Ty) (r : Rnd) (d a : VReg) (m : MReg) (f : FVal → FVal × FFlags) : State → OpRes :=
  mapElems t.width d m fun c i g =>
    let p := f (t.value (elem (c.rv a) t.width i))
    let q := roundElem t r p.1 g
    ⟨q.bits, p.2 ||| q.flags, q.gen⟩

/-- `VRCP` (R246). -/
def opVrcp (t : Ty) (r : Rnd) (d a : VReg) (m : MReg) : State → OpRes := funElems t r d a m FVal.rcp
/-- `VRSQ` (R246). -/
def opVrsq (t : Ty) (r : Rnd) (d a : VReg) (m : MReg) : State → OpRes := funElems t r d a m FVal.rsqrt
/-- `VEXP2` (R246). -/
def opVexp2 (t : Ty) (r : Rnd) (d a : VReg) (m : MReg) : State → OpRes := funElems t r d a m FVal.exp2
/-- `VLOG2` (R246). -/
def opVlog2 (t : Ty) (r : Rnd) (d a : VReg) (m : MReg) : State → OpRes := funElems t r d a m FVal.log2
/-- `VSIN` (R246). -/
def opVsin (t : Ty) (r : Rnd) (d a : VReg) (m : MReg) : State → OpRes := funElems t r d a m FVal.sinPi

/-- One element rounded to an integral value of its format (R247). -/
def integral (t : Ty) (r : Rnd) (x : FVal) (g : BitVec 32) : Rounded :=
  match x with
  | .fin n m e =>
    let q := roundIntegral r n m e g
    ⟨(roundElem t .rne (.fin n q.1 0) g).bits, q.2.1, q.2.2⟩
  | y => roundElem t r y g

/-- `VRINT` (R247). -/
def opVrint (t : Ty) (r : Rnd) (d a : VReg) (m : MReg) : State → OpRes :=
  mapElems t.width d m fun c i g => integral t r (t.value (elem (c.rv a) t.width i)) g

/-- The `VTLU` domain's exponent (R231). -/
def tluExp (vt : Word) : Int := (field vt 8 5).toInt

/-- The value of a piecewise-linear table at a point (R248). `lg` is the logarithm of its number of segments. -/
def tluValue (mode : Rnd) (E : Int) (lg : Nat) (c0 c1 : Nat → FVal) (x : FVal) : FVal × FFlags :=
  let n := 2 ^ lg
  match x with
  | .nan => (.nan, 0)
  | _ =>
    if FVal.cmp x (.fin true 1 E) == some (-1) then (c0 0, 0)
    else if FVal.cmp x (.fin false 1 E) != some (-1) then FVal.add mode (c0 (n - 1)) (c1 (n - 1))
    else match x with
      | .fin neg m e =>
        let e' : Int := e + lg - E - 1
        let q := min e' 0
        let z : Int := FVal.signedAt neg m e' q + ((n / 2 : Nat) : Int) * (2 ^ (-q).toNat : Nat)
        let g := (z / (2 ^ (-q).toNat : Nat)).toNat
        FVal.fma mode (c1 g) (.fin false (z % (2 ^ (-q).toNat : Nat)).toNat q) (c0 g)
      | _ => (.nan, 0)

/-- `VTLU` (R248). -/
def opVtlu (t : Ty) (r : Rnd) (d a o : VReg) (m : MReg) : State → OpRes :=
  mapElems t.width d m fun c i g =>
    let at' (k : Nat) : FVal := t.value (elem (c.rv o) t.width k)
    let p := tluValue r (tluExp c.sp.vt) (Nat.log2 (elemCount t / 2)) (fun k => at' (2 * k)) (fun k => at' (2 * k + 1))
      (t.value (elem (c.rv a) t.width i))
    let q := roundElem t r p.1 g
    ⟨q.bits, p.2 ||| q.flags, q.gen⟩

/-- `VSETT` (R232). -/
def opVsett (t : Ty) (r : Rnd) (ct : Ty) (e : BitVec 5) (s : State) : OpRes :=
  onReg s fun c => { c with sp := { c.sp with
    vt := BitVec.ofNat 64 (ct.code <<< 16 + e.toNat <<< 8 + r.code <<< 4 + t.code) } }

/-! ### Exchanges with the sequencer and moves (R249 to R251) -/

/-- `VBCST` (R249). -/
def opVbcst (t : Ty) (d : VReg) (a : SReg) (m : MReg) : State → OpRes := moveElems t d m fun c _ => (c.rs a).toNat % 2 ^ t.width

/-- `VEXT` (R249). -/
def opVext (t : Ty) (d : SReg) (a : VReg) (b : SReg) (s : State) : OpRes :=
  onReg s fun c => c.ws d (loadValue t (toBytes (BitVec.ofNat 64 (elem (c.rv a) t.width ((c.rs b).toNat % elemCount t))) (Ty.bytes t)))

/-- `VINS` (R249). -/
def opVins (t : Ty) (d : VReg) (a b : SReg) (s : State) : OpRes :=
  onReg s fun c => c.wv d (setElem (c.rv d) t.width ((c.rs b).toNat % elemCount t) ((c.rs a).toNat % 2 ^ t.width))

/-- `VLI` (R249). -/
def opVli (d : VReg) (x : Word) (s : State) : OpRes := onReg s fun c => c.wv d (rowOfElems 64 (List.replicate 64 x.toNat))

/-- `VPERM` (R250). -/
def opVperm (t : Ty) (d a b : VReg) (m : MReg) : State → OpRes :=
  moveElems t d m fun c i => elem (c.rv a) t.width (elem (c.rv b) t.width i % elemCount t)

/-- `VSLDU` (R250). -/
def opVsldu (t : Ty) (d a b : VReg) (k : BitVec 7) (m : MReg) : State → OpRes :=
  moveElems t d m fun c i =>
    if k.toNat ≤ i then elem (c.rv a) t.width (i - k.toNat) else elem (c.rv b) t.width (elemCount t - k.toNat + i)

/-- `VSLDD` (R250). -/
def opVsldd (t : Ty) (d a b : VReg) (k : BitVec 7) (m : MReg) : State → OpRes :=
  moveElems t d m fun c i =>
    if i + k.toNat < elemCount t then elem (c.rv a) t.width (i + k.toNat) else elem (c.rv b) t.width (i + k.toNat - elemCount t)

/-- The indices a selector enables, ascending. -/
def selected (c : Core) (t : Ty) (m : MReg) : List Nat := (List.range (elemCount t)).filter (enabled (c.rm m) t.width)

/-- `VCMPR` (R251). -/
def opVcmpr (t : Ty) (d a : VReg) (m : MReg) (s : State) : OpRes :=
  onReg s fun c => c.wv d (rowOfElems t.width ((selected c t m).map (elem (c.rv a) t.width)))

/-- The elements of a list given out to the enabled places; the others are zero. -/
def expand (on : Nat → Bool) : List Nat → Nat → List Nat
  | [], _ => []
  | i :: r, j => if on i then (j + 1) :: expand on r (j + 1) else 0 :: expand on r j

/-- `VXPND` (R251). -/
def opVxpnd (t : Ty) (d a : VReg) (m : MReg) (s : State) : OpRes :=
  onReg s fun c =>
    c.wv d (rowOfElems t.width ((expand (enabled (c.rm m) t.width) (List.range (elemCount t)) 0).map fun j =>
      if j = 0 then 0 else elem (c.rv a) t.width (j - 1)))

/-- How many earlier elements are enabled, for each place. -/
def ranks (on : Nat → Bool) : List Nat → Nat → List Nat
  | [], _ => []
  | i :: r, j => j :: ranks on r (if on i then j + 1 else j)

/-- `VIOTA` (R251). -/
def opViota (t : Ty) (d : VReg) (m : MReg) (s : State) : OpRes :=
  onReg s fun c => c.wv d (rowOfElems t.width (ranks (enabled (c.rm m) t.width) (List.range (elemCount t)) 0))

/-! ### Reductions and votes (R252, R253, R62) -/

/-- One level of the halving tree (R62): element i of the lower half meets element i of the upper, in order. Position i draws from
the lane that serves element i (R55), and not from lane i itself: DEDUCED (log 104). -/
def treeLevel (w : Nat) (f : Nat → Nat → BitVec 32 → Rounded) : List Nat → List Nat → Nat → Sweep → Sweep
  | x :: xs, y :: ys, i, a =>
    let l := laneOf w i
    let g := (a.gens[l]?).getD 1
    let r := f x y g
    treeLevel w f xs ys (i + 1) ⟨r.bits :: a.done, a.flags ||| r.flags, if r.gen = g then a.gens else a.gens.set l r.gen⟩
  | _, _, _, a => a

/-- The halving tree of R62 over a list of `2^k` elements. -/
def tree (w : Nat) (f : Nat → Nat → BitVec 32 → Rounded) : Nat → List Nat → FFlags → List (BitVec 32) → Sweep
  | 0, xs, fl, gens => ⟨xs, fl, gens⟩
  | k + 1, xs, fl, gens =>
    let h := xs.length / 2
    let a := treeLevel w f (xs.take h) (xs.drop h) 0 ⟨[], fl, gens⟩
    tree w f k a.done.reverse a.flags a.gens

/-- A reduction to a scalar register (R252); a disabled element is the identity (R62). -/
def reduce (t : Ty) (d : SReg) (a : VReg) (m : MReg) (identity : Nat) (f : Core → Nat → Nat → BitVec 32 → Rounded) (s : State) : OpRes :=
  onReg s fun c =>
    let w := t.width
    let xs := (List.range (elemCount t)).map fun i => if enabled (c.rm m) w i then elem (c.rv a) w i else identity
    let r := tree w (f c) (Nat.log2 (elemCount t)) xs 0 c.sp.gens
    let bits := (r.done.head?).getD 0
    (c.ws d (if t.isInt then BitVec.ofInt 64 (t.int bits) else BitVec.ofNat 64 bits)).drew r.gens r.flags

/-- The rounding of slot operations and reductions (R231). -/
def vtRnd (c : Core) : Rnd := (Rnd.ofCode (nfield c.sp.vt 4 3)).getD .rne
/-- The type of slot operations (R231). -/
def vtTy (c : Core) : Ty := Ty.ofCode (nfield c.sp.vt 0 4)
/-- The destination type of the slot form of `VCVT` (R231). -/
def vtCty (c : Core) : Ty := Ty.ofCode (nfield c.sp.vt 16 4)

/-- The identity of an ordering reduction (R62). -/
def edge (t : Ty) (low : Bool) : Nat :=
  match t.fmt? with
  | none => bitsOfInt t.width (if low then t.lo else t.hi)
  | some f => f.enc low f.infCode

/-- `VRED.SUM` (R252). -/
def opVredSum (t : Ty) (d : SReg) (a : VReg) (m : MReg) : State → OpRes :=
  reduce t d a m (match t.fmt? with | none => 0 | some f => f.enc true 0) fun c x y g =>
    match t.fmt? with
    | none => plain (bitsOfInt t.width (t.int x + t.int y)) g
    | some f => roundPair f (vtRnd c) (FVal.add (vtRnd c) (f.value x) (f.value y)) g

/-- An ordering combine (R62). -/
def pick (t : Ty) (fi : Int → Int → Int) (ff : FVal → FVal → FVal) (x y : Nat) (g : BitVec 32) : Rounded :=
  match t.fmt? with
  | none => plain (bitsOfInt t.width (fi (t.int x) (t.int y))) g
  | some f => f.round .rne (ff (f.value x) (f.value y)) g

/-- `VRED.MIN` (R252). -/
def opVredMin (t : Ty) (d : SReg) (a : VReg) (m : MReg) : State → OpRes :=
  reduce t d a m (edge t false) fun _ => pick t (fun x y => if y < x then y else x) FVal.min

/-- `VRED.MAX` (R252). -/
def opVredMax (t : Ty) (d : SReg) (a : VReg) (m : MReg) : State → OpRes :=
  reduce t d a m (edge t true) fun _ => pick t (fun x y => if x < y then y else x) FVal.max

/-- `VRED.AND` (R252). -/
def opVredAnd (t : Ty) (d : SReg) (a : VReg) (m : MReg) : State → OpRes :=
  reduce t d a m (2 ^ t.width - 1) fun _ x y g => plain (Nat.land x y) g

/-- `VRED.OR` (R252). -/
def opVredOr (t : Ty) (d : SReg) (a : VReg) (m : MReg) : State → OpRes :=
  reduce t d a m 0 fun _ x y g => plain (Nat.lor x y) g

/-- `VRED.XOR` (R252). -/
def opVredXor (t : Ty) (d : SReg) (a : VReg) (m : MReg) : State → OpRes :=
  reduce t d a m 0 fun _ x y g => plain (Nat.xor x y) g

/-- `VRED.SUMS` (R252). -/
def opVredSums (t : Ty) (d : SReg) (a : VReg) (m : MReg) : State → OpRes :=
  reduce t d a m 0 fun _ x y g => narrowInt t.lo t.hi t.width (t.int x + t.int y) g

/-- `VANY` (R253). -/
def opVany (t : Ty) (d : PReg) (a m : MReg) (s : State) : OpRes :=
  onReg s fun c => c.wp d ((selected c t m).any (enabled (c.rm a) t.width))

/-- `VALL` (R253). -/
def opVall (t : Ty) (d : PReg) (a m : MReg) (s : State) : OpRes :=
  onReg s fun c => c.wp d ((selected c t m).all (enabled (c.rm a) t.width))

/-- `VMPOP` (R253). -/
def opVmpop (t : Ty) (d : SReg) (a m : MReg) (s : State) : OpRes :=
  onReg s fun c => c.ws d (BitVec.ofNat 64 ((selected c t m).filter (enabled (c.rm a) t.width)).length)

/-! ### Row access (R254 to R257) -/

/-- The address of a row access (R254). -/
def rowAddr (s : State) (a : SReg) (off : BitVec 20) : Int := addrU (s.core.rs a) off

/-- The issue checks of a row access, and its stall (R254, R255). A load that consumes a bad word takes a soft-error
fault (R445). -/
def rowAccess (addr : Int) (store : Bool) (go : Nat → State → OpRes) (s : State) : OpRes :=
  if addr % 512 ≠ 0 then .trap (.precise 0x06 0 (infoOf addr)) s
  else if addr < 0 ∨ 0x600000 < addr + 512 then .trap (.precise 0x03 0 (infoOf addr)) s
  else if s.core.spBusy (.sp (addr.toNat / 512) 1 0 32) store then .stall s
  else if !store && s.core.eng.bad.contains (.row (s.core.phys (addr.toNat / 512))) then .trap (.precise 0x12 0 (infoOf addr)) s
  else go (addr.toNat / 512) s

/-- `VLD.type vd, sa, off` (R255). -/
def opVld (t : Ty) (d : VReg) (a : SReg) (off : BitVec 20) (m : MReg) (s : State) : OpRes :=
  rowAccess (rowAddr s a off) false (fun r => moveElems t d m fun c i => elem (c.row r) t.width i) s

/-- A row with the enabled elements replaced. -/
def mergeRow (t : Ty) (m : Mask) (old : Row) (f : Nat → Nat) : Row :=
  rowOfElems t.width ((List.range (elemCount t)).map fun i => if enabled m t.width i then f i else elem old t.width i)

/-- `VST.type sa, off, vs` (R255). -/
def opVst (t : Ty) (a : SReg) (off : BitVec 20) (v : VReg) (m : MReg) (s : State) : OpRes :=
  rowAccess (rowAddr s a off) true (fun r s => onReg s fun c =>
    c.setRow r (mergeRow t (c.rm m) (c.row r) (elem (c.rv v) t.width))) s

/-- The breach bit of a bound register set (R480). -/
def Core.setBrk (c : Core) (k : Nat) : Core := c.setBnd k (Bound.broken (c.bnd k))

/-- A group that breaches in flag or clamp mode is counted once (R490). -/
def countBreach (s : State) : State :=
  if s.core.grp.breached then s else (s.count s.cur 6).on fun c => { c with grp := { c.grp with breached := true } }

/-- `VST.type.B sa, off, vs, bndK` (R257, R480). -/
def opVstB (t : Ty) (a : SReg) (off : BitVec 20) (v : VReg) (m : MReg) (k : Fin 16) (s : State) : OpRes :=
  rowAccess (rowAddr s a off) true (fun r s =>
    let c := s.core
    let w := c.bnd k.val
    if Bound.fmt w ≠ t.code then .trap (.precise 0x03 0 (infoOf (rowAddr s a off))) s
    else
      let breach (i : Nat) : Bool := Bound.breaches w (t.value (elem (c.rv v) t.width i))
      if !(selected c t m).any breach then opVst t a off v m s
      else if Bound.mode w = 2 then .trap (.precise 0x0F 0 (BitVec.ofNat 64 k.val)) (s.on fun c => c.setBrk k.val)
      else if Bound.mode w = 1 then
        onReg (countBreach s) fun c =>
          let val (i : Nat) : Rounded := Bound.clamped w t (t.value (elem (c.rv v) t.width i))
          let fl := (selected c t m).foldl (fun f i => if breach i then f ||| (val i).flags else f) 0
          (c.setRow r (mergeRow t (c.rm m) (c.row r) fun i => if breach i then (val i).bits else elem (c.rv v) t.width i)).setBrk k.val
            |>.raise fl
      else onReg (countBreach s) fun c =>
        (c.setRow r (mergeRow t (c.rm m) (c.row r) (elem (c.rv v) t.width))).setBrk k.val) s

/-! ### Each as a group of its own -/

/-- `VADD` as a group of its own (R169). -/
def execVadd (t : Ty) (r : Rnd) (d : VReg) (a : VReg) (b : VReg) (m : MReg) (s : State) : Host.Outcome State Fault Refusal :=
  issueAlone (.solo (.vadd t r d a b m)) (opVadd t r d a b m) s

/-- `VSUB` as a group of its own (R169). -/
def execVsub (t : Ty) (r : Rnd) (d : VReg) (a : VReg) (b : VReg) (m : MReg) (s : State) : Host.Outcome State Fault Refusal :=
  issueAlone (.solo (.vsub t r d a b m)) (opVsub t r d a b m) s

/-- `VMUL` as a group of its own (R169). -/
def execVmul (t : Ty) (r : Rnd) (d : VReg) (a : VReg) (b : VReg) (m : MReg) (s : State) : Host.Outcome State Fault Refusal :=
  issueAlone (.solo (.vmul t r d a b m)) (opVmul t r d a b m) s

/-- `VFMA` as a group of its own (R169). -/
def execVfma (t : Ty) (r : Rnd) (d : VReg) (a : VReg) (b : VReg) (m : MReg) (s : State) : Host.Outcome State Fault Refusal :=
  issueAlone (.solo (.vfma t r d a b m)) (opVfma t r d a b m) s

/-- `VFMS` as a group of its own (R169). -/
def execVfms (t : Ty) (r : Rnd) (d : VReg) (a : VReg) (b : VReg) (m : MReg) (s : State) : Host.Outcome State Fault Refusal :=
  issueAlone (.solo (.vfms t r d a b m)) (opVfms t r d a b m) s

/-- `VMIN` as a group of its own (R169). -/
def execVmin (t : Ty) (d : VReg) (a : VReg) (b : VReg) (m : MReg) (s : State) : Host.Outcome State Fault Refusal :=
  issueAlone (.solo (.vmin t d a b m)) (opVmin t d a b m) s

/-- `VMAX` as a group of its own (R169). -/
def execVmax (t : Ty) (d : VReg) (a : VReg) (b : VReg) (m : MReg) (s : State) : Host.Outcome State Fault Refusal :=
  issueAlone (.solo (.vmax t d a b m)) (opVmax t d a b m) s

/-- `VADDS` as a group of its own (R169). -/
def execVadds (t : Ty) (d : VReg) (a : VReg) (b : VReg) (m : MReg) (s : State) : Host.Outcome State Fault Refusal :=
  issueAlone (.solo (.vadds t d a b m)) (opVadds t d a b m) s

/-- `VSUBS` as a group of its own (R169). -/
def execVsubs (t : Ty) (d : VReg) (a : VReg) (b : VReg) (m : MReg) (s : State) : Host.Outcome State Fault Refusal :=
  issueAlone (.solo (.vsubs t d a b m)) (opVsubs t d a b m) s

/-- `VABS` as a group of its own (R169). -/
def execVabs (t : Ty) (d : VReg) (a : VReg) (m : MReg) (s : State) : Host.Outcome State Fault Refusal :=
  issueAlone (.solo (.vabs t d a m)) (opVabs t d a m) s

/-- `VNEG` as a group of its own (R169). -/
def execVneg (t : Ty) (d : VReg) (a : VReg) (m : MReg) (s : State) : Host.Outcome State Fault Refusal :=
  issueAlone (.solo (.vneg t d a m)) (opVneg t d a m) s

/-- `VAND` as a group of its own (R169). -/
def execVand (t : Ty) (d : VReg) (a : VReg) (b : VReg) (m : MReg) (s : State) : Host.Outcome State Fault Refusal :=
  issueAlone (.solo (.vand t d a b m)) (opVand t d a b m) s

/-- `VOR` as a group of its own (R169). -/
def execVor (t : Ty) (d : VReg) (a : VReg) (b : VReg) (m : MReg) (s : State) : Host.Outcome State Fault Refusal :=
  issueAlone (.solo (.vor t d a b m)) (opVor t d a b m) s

/-- `VXOR` as a group of its own (R169). -/
def execVxor (t : Ty) (d : VReg) (a : VReg) (b : VReg) (m : MReg) (s : State) : Host.Outcome State Fault Refusal :=
  issueAlone (.solo (.vxor t d a b m)) (opVxor t d a b m) s

/-- `VANDN` as a group of its own (R169). -/
def execVandn (t : Ty) (d : VReg) (a : VReg) (b : VReg) (m : MReg) (s : State) : Host.Outcome State Fault Refusal :=
  issueAlone (.solo (.vandn t d a b m)) (opVandn t d a b m) s

/-- `VSHL` as a group of its own (R169). -/
def execVshl (t : Ty) (d : VReg) (a : VReg) (b : VReg) (m : MReg) (s : State) : Host.Outcome State Fault Refusal :=
  issueAlone (.solo (.vshl t d a b m)) (opVshl t d a b m) s

/-- `VSHR` as a group of its own (R169). -/
def execVshr (t : Ty) (d : VReg) (a : VReg) (b : VReg) (m : MReg) (s : State) : Host.Outcome State Fault Refusal :=
  issueAlone (.solo (.vshr t d a b m)) (opVshr t d a b m) s

/-- `VSRA` as a group of its own (R169). -/
def execVsra (t : Ty) (d : VReg) (a : VReg) (b : VReg) (m : MReg) (s : State) : Host.Outcome State Fault Refusal :=
  issueAlone (.solo (.vsra t d a b m)) (opVsra t d a b m) s

/-- `VCMP` as a group of its own (R169). -/
def execVcmp (c : VCond) (t : Ty) (d : MReg) (a : VReg) (b : VReg) (m : MReg) (s : State) : Host.Outcome State Fault Refusal :=
  issueAlone (.solo (.vcmp c t d a b m)) (opVcmp c t d a b m) s

/-- `VSEL` as a group of its own (R169). -/
def execVsel (t : Ty) (d : VReg) (a : VReg) (b : VReg) (m : MReg) (s : State) : Host.Outcome State Fault Refusal :=
  issueAlone (.solo (.vsel t d a b m)) (opVsel t d a b m) s

/-- `MLOG_AND` as a group of its own (R169). -/
def execMlogAnd (d : MReg) (a : MReg) (b : MReg) (s : State) : Host.Outcome State Fault Refusal :=
  issueAlone (.solo (.mlogAnd d a b)) (opMlogAnd d a b) s

/-- `MLOG_OR` as a group of its own (R169). -/
def execMlogOr (d : MReg) (a : MReg) (b : MReg) (s : State) : Host.Outcome State Fault Refusal :=
  issueAlone (.solo (.mlogOr d a b)) (opMlogOr d a b) s

/-- `MLOG_XOR` as a group of its own (R169). -/
def execMlogXor (d : MReg) (a : MReg) (b : MReg) (s : State) : Host.Outcome State Fault Refusal :=
  issueAlone (.solo (.mlogXor d a b)) (opMlogXor d a b) s

/-- `MLOG_ANDN` as a group of its own (R169). -/
def execMlogAndn (d : MReg) (a : MReg) (b : MReg) (s : State) : Host.Outcome State Fault Refusal :=
  issueAlone (.solo (.mlogAndn d a b)) (opMlogAndn d a b) s

/-- `MLOG_NOT` as a group of its own (R169). -/
def execMlogNot (d : MReg) (a : MReg) (s : State) : Host.Outcome State Fault Refusal :=
  issueAlone (.solo (.mlogNot d a)) (opMlogNot d a) s

/-- `VCVT` as a group of its own (R169). -/
def execVcvt (td : Ty) (ts : Ty) (r : Rnd) (d : VReg) (a : VReg) (b : VReg) (k : BitVec 3) (m : MReg) (s : State) : Host.Outcome State Fault Refusal :=
  issueAlone (.solo (.vcvt td ts r d a b k m)) (opVcvt td ts r d a b k m) s

/-- `VPK4` as a group of its own (R169). -/
def execVpk4 (ts : Ty) (r : Rnd) (d : VReg) (a : VReg) (b : VReg) (k : BitVec 3) (m : MReg) (s : State) : Host.Outcome State Fault Refusal :=
  issueAlone (.solo (.vpk4 ts r d a b k m)) (opVpk4 ts r d a b k m) s

/-- `VUPK4` as a group of its own (R169). -/
def execVupk4 (td : Ty) (r : Rnd) (d : VReg) (a : VReg) (k : BitVec 3) (m : MReg) (s : State) : Host.Outcome State Fault Refusal :=
  issueAlone (.solo (.vupk4 td r d a k m)) (opVupk4 td r d a k m) s

/-- `VRCP` as a group of its own (R169). -/
def execVrcp (t : Ty) (r : Rnd) (d : VReg) (a : VReg) (m : MReg) (s : State) : Host.Outcome State Fault Refusal :=
  issueAlone (.solo (.vrcp t r d a m)) (opVrcp t r d a m) s

/-- `VRSQ` as a group of its own (R169). -/
def execVrsq (t : Ty) (r : Rnd) (d : VReg) (a : VReg) (m : MReg) (s : State) : Host.Outcome State Fault Refusal :=
  issueAlone (.solo (.vrsq t r d a m)) (opVrsq t r d a m) s

/-- `VEXP2` as a group of its own (R169). -/
def execVexp2 (t : Ty) (r : Rnd) (d : VReg) (a : VReg) (m : MReg) (s : State) : Host.Outcome State Fault Refusal :=
  issueAlone (.solo (.vexp2 t r d a m)) (opVexp2 t r d a m) s

/-- `VLOG2` as a group of its own (R169). -/
def execVlog2 (t : Ty) (r : Rnd) (d : VReg) (a : VReg) (m : MReg) (s : State) : Host.Outcome State Fault Refusal :=
  issueAlone (.solo (.vlog2 t r d a m)) (opVlog2 t r d a m) s

/-- `VSIN` as a group of its own (R169). -/
def execVsin (t : Ty) (r : Rnd) (d : VReg) (a : VReg) (m : MReg) (s : State) : Host.Outcome State Fault Refusal :=
  issueAlone (.solo (.vsin t r d a m)) (opVsin t r d a m) s

/-- `VRINT` as a group of its own (R169). -/
def execVrint (t : Ty) (r : Rnd) (d : VReg) (a : VReg) (m : MReg) (s : State) : Host.Outcome State Fault Refusal :=
  issueAlone (.solo (.vrint t r d a m)) (opVrint t r d a m) s

/-- `VTLU` as a group of its own (R169). -/
def execVtlu (t : Ty) (r : Rnd) (d : VReg) (a : VReg) (o : VReg) (m : MReg) (s : State) : Host.Outcome State Fault Refusal :=
  issueAlone (.solo (.vtlu t r d a o m)) (opVtlu t r d a o m) s

/-- `VSETT` as a group of its own (R169). -/
def execVsett (t : Ty) (r : Rnd) (ct : Ty) (e : BitVec 5) (s : State) : Host.Outcome State Fault Refusal :=
  issueAlone (.solo (.vsett t r ct e)) (opVsett t r ct e) s

/-- `VBCST` as a group of its own (R169). -/
def execVbcst (t : Ty) (d : VReg) (a : SReg) (m : MReg) (s : State) : Host.Outcome State Fault Refusal :=
  issueAlone (.solo (.vbcst t d a m)) (opVbcst t d a m) s

/-- `VEXT` as a group of its own (R169). -/
def execVext (t : Ty) (d : SReg) (a : VReg) (b : SReg) (s : State) : Host.Outcome State Fault Refusal :=
  issueAlone (.solo (.vext t d a b)) (opVext t d a b) s

/-- `VINS` as a group of its own (R169). -/
def execVins (t : Ty) (d : VReg) (a : SReg) (b : SReg) (s : State) : Host.Outcome State Fault Refusal :=
  issueAlone (.solo (.vins t d a b)) (opVins t d a b) s

/-- `VLI` as a group of its own (R169). -/
def execVli (d : VReg) (x : Word) (s : State) : Host.Outcome State Fault Refusal :=
  issueAlone (.solo (.vli d x)) (opVli d x) s

/-- `VPERM` as a group of its own (R169). -/
def execVperm (t : Ty) (d : VReg) (a : VReg) (b : VReg) (m : MReg) (s : State) : Host.Outcome State Fault Refusal :=
  issueAlone (.solo (.vperm t d a b m)) (opVperm t d a b m) s

/-- `VSLDU` as a group of its own (R169). -/
def execVsldu (t : Ty) (d : VReg) (a : VReg) (b : VReg) (k : BitVec 7) (m : MReg) (s : State) : Host.Outcome State Fault Refusal :=
  issueAlone (.solo (.vsldu t d a b k m)) (opVsldu t d a b k m) s

/-- `VSLDD` as a group of its own (R169). -/
def execVsldd (t : Ty) (d : VReg) (a : VReg) (b : VReg) (k : BitVec 7) (m : MReg) (s : State) : Host.Outcome State Fault Refusal :=
  issueAlone (.solo (.vsldd t d a b k m)) (opVsldd t d a b k m) s

/-- `VCMPR` as a group of its own (R169). -/
def execVcmpr (t : Ty) (d : VReg) (a : VReg) (m : MReg) (s : State) : Host.Outcome State Fault Refusal :=
  issueAlone (.solo (.vcmpr t d a m)) (opVcmpr t d a m) s

/-- `VXPND` as a group of its own (R169). -/
def execVxpnd (t : Ty) (d : VReg) (a : VReg) (m : MReg) (s : State) : Host.Outcome State Fault Refusal :=
  issueAlone (.solo (.vxpnd t d a m)) (opVxpnd t d a m) s

/-- `VIOTA` as a group of its own (R169). -/
def execViota (t : Ty) (d : VReg) (m : MReg) (s : State) : Host.Outcome State Fault Refusal :=
  issueAlone (.solo (.viota t d m)) (opViota t d m) s

/-- `VRED_SUM` as a group of its own (R169). -/
def execVredSum (t : Ty) (d : SReg) (a : VReg) (m : MReg) (s : State) : Host.Outcome State Fault Refusal :=
  issueAlone (.solo (.vredSum t d a m)) (opVredSum t d a m) s

/-- `VRED_MIN` as a group of its own (R169). -/
def execVredMin (t : Ty) (d : SReg) (a : VReg) (m : MReg) (s : State) : Host.Outcome State Fault Refusal :=
  issueAlone (.solo (.vredMin t d a m)) (opVredMin t d a m) s

/-- `VRED_MAX` as a group of its own (R169). -/
def execVredMax (t : Ty) (d : SReg) (a : VReg) (m : MReg) (s : State) : Host.Outcome State Fault Refusal :=
  issueAlone (.solo (.vredMax t d a m)) (opVredMax t d a m) s

/-- `VRED_AND` as a group of its own (R169). -/
def execVredAnd (t : Ty) (d : SReg) (a : VReg) (m : MReg) (s : State) : Host.Outcome State Fault Refusal :=
  issueAlone (.solo (.vredAnd t d a m)) (opVredAnd t d a m) s

/-- `VRED_OR` as a group of its own (R169). -/
def execVredOr (t : Ty) (d : SReg) (a : VReg) (m : MReg) (s : State) : Host.Outcome State Fault Refusal :=
  issueAlone (.solo (.vredOr t d a m)) (opVredOr t d a m) s

/-- `VRED_XOR` as a group of its own (R169). -/
def execVredXor (t : Ty) (d : SReg) (a : VReg) (m : MReg) (s : State) : Host.Outcome State Fault Refusal :=
  issueAlone (.solo (.vredXor t d a m)) (opVredXor t d a m) s

/-- `VRED_SUMS` as a group of its own (R169). -/
def execVredSums (t : Ty) (d : SReg) (a : VReg) (m : MReg) (s : State) : Host.Outcome State Fault Refusal :=
  issueAlone (.solo (.vredSums t d a m)) (opVredSums t d a m) s

/-- `VANY` as a group of its own (R169). -/
def execVany (t : Ty) (d : PReg) (a : MReg) (m : MReg) (s : State) : Host.Outcome State Fault Refusal :=
  issueAlone (.solo (.vany t d a m)) (opVany t d a m) s

/-- `VALL` as a group of its own (R169). -/
def execVall (t : Ty) (d : PReg) (a : MReg) (m : MReg) (s : State) : Host.Outcome State Fault Refusal :=
  issueAlone (.solo (.vall t d a m)) (opVall t d a m) s

/-- `VMPOP` as a group of its own (R169). -/
def execVmpop (t : Ty) (d : SReg) (a : MReg) (m : MReg) (s : State) : Host.Outcome State Fault Refusal :=
  issueAlone (.solo (.vmpop t d a m)) (opVmpop t d a m) s

/-- `VLD` as a group of its own (R169). -/
def execVld (t : Ty) (d : VReg) (a : SReg) (off : BitVec 20) (m : MReg) (s : State) : Host.Outcome State Fault Refusal :=
  issueAlone (.solo (.vld t d a off m)) (opVld t d a off m) s

/-- `VST` as a group of its own (R169). -/
def execVst (t : Ty) (a : SReg) (off : BitVec 20) (v : VReg) (m : MReg) (s : State) : Host.Outcome State Fault Refusal :=
  issueAlone (.solo (.vst t a off v m)) (opVst t a off v m) s

/-- `VST_B` as a group of its own (R169). -/
def execVstB (t : Ty) (a : SReg) (off : BitVec 20) (v : VReg) (m : MReg) (k : Fin 16) (s : State) : Host.Outcome State Fault Refusal :=
  issueAlone (.solo (.vstB t a off v m k)) (opVstB t a off v m k) s

end Sys2Proof.Machine
end

