-- ==== Sys2Proof/Machine/Directory.lean ====
section
/-!
DEFINITION. The active-region directories of this chip's stacks (R360 to R368): the entries of a footprint, conflicts,
the room of a directory, and the MMX report.
-/

namespace Sys2Proof.Machine

open Sys2Proof.Bits

/-- A party as it enters a directory: its window, whether it is a task, its number, whether it is marked, and its user
tag (R361). -/
structure DirParty' where
  chip : Nat
  core : Nat
  task : Bool
  party : Nat
  marked : Bool
  tag : Word
  deriving DecidableEq, Repr

/-- Granules of a span (R361). -/
def spanGrans : Nat := 16384

/-- The entries of a run of granules, one for each span it touches (R361); `k` spans from granule `lo`. -/
def dirEntries (p : DirParty') (obj lo hi : Nat) (writes : Bool) : List DirEntry :=
  if hi < lo then []
  else (List.range (hi / spanGrans - lo / spanGrans + 1)).map fun i =>
    let k := lo / spanGrans + i
    ⟨(obj + k) % 12, p.chip, p.core, obj, Nat.max lo (k * spanGrans), Nat.min hi ((k + 1) * spanGrans - 1), writes, p.marked,
      p.task, false, p.party, p.tag⟩

namespace DirEntry

/-- The overlap of two entries is a conflict of different windows (R360, R363). -/
def conflicts (x e : DirEntry) : Bool :=
  !(x.chip == e.chip && x.core == e.core) && x.obj == e.obj && x.stack == e.stack && decide (x.lo ≤ e.hi) && decide (e.lo ≤ x.hi)
    && (x.writes || e.writes) && !(x.marked && e.marked)

/-- The report of an MMX on the later party `e` against `x` (R367). -/
def report (x e : DirEntry) : List Word :=
  let lo := Nat.max x.lo e.lo
  let hi := Nat.min x.hi e.hi
  let b (v : Bool) (i : Nat) : Nat := if v then 2 ^ i else 0
  [BitVec.ofNat 64 (x.obj * 2 ^ 40 + lo),
   BitVec.ofNat 64 (hi * 2 ^ 28 + x.chip % 1024 * 2 ^ 18 + x.core % 512 * 2 ^ 9 + b x.task 8 + b x.writes 7 + b x.marked 6
     + b e.writes 5 + b e.marked 4),
   BitVec.ofNat 64 ((if x.task then x.party % 2 ^ 32 else 0) * 2 ^ 32 + (if e.task then e.party % 2 ^ 32 else 0)),
   if x.task then x.tag else 0]

end DirEntry

/-- What an insertion comes to: made, an MMX with its report, or no room (R363, R364). -/
inductive DirRes where
  | made (s : State)
  | mmx (report : List Word)
  | full
  deriving DecidableEq, Repr

namespace State

/-- Entries of one stack's directory. -/
def dirCount (s : State) (stack : Nat) : Nat := (s.hbm.dir.filter (·.stack == stack)).length

/-- The directory of an entry's stack has room: the last 256 entries are for scalar accesses (R364). -/
def dirRoom (s : State) (e : DirEntry) : Bool := decide (s.dirCount e.stack < if e.task then 16128 else 16384)

/-- The device-wide core number that names a window (R367, R398): of one in a saved context, its home core. -/
def windowCore (s : State) (n : Nat) : Nat :=
  if n < 1024 then n
  else match s.team ((n - 1024) / 32) with
    | some tm => (tm.home[(n - 1024) % 32]?).getD n
    | none => n

/-- The report of an MMX on the later party `e` against `x`, by the number that names the window of `x` (R367). -/
def mmxReport (s : State) (x e : DirEntry) : List Word := ({ x with core := s.windowCore x.core } : DirEntry).report e

/-- Entries of one directory made; on a conflict, or without room, none is (R363, R364). -/
def dirInsert (s : State) : List DirEntry → DirRes
  | [] => .made s
  | e :: r =>
    match s.hbm.dir.find? (·.conflicts e) with
    | some x => .mmx (s.mmxReport x e)
    | none =>
      if !s.dirRoom e then .full
      else dirInsert { s with hbm := { s.hbm with dir := s.hbm.dir ++ [e] } } r

/-- The entries of the first stack, of a list in ascending order of stack, that its directory has still to get (R363). -/
def nextEntries (s : State) (es : List DirEntry) : List DirEntry :=
  match es.find? fun e => !s.hbm.dir.contains e with
  | none => []
  | some e => es.filter (·.stack == e.stack)

/-- The entries of one party removed. -/
def dirRemove (s : State) (chip core : Nat) (task : Bool) (party : Nat) : State :=
  { s with hbm := { s.hbm with dir := s.hbm.dir.filter fun d =>
      !(d.chip == chip && d.core == core && d.task == task && d.party == party && !d.held) } }

/-- The route of an object as the object table has it (R373). -/
def routeOf (s : State) (obj : Nat) : Option Route := (s.obj obj).map Obj.route

/-- The entries a scalar access makes in this chip's directory: none through nocheck (R368), and none for an object
that another chip serves (R402). -/
def scalarEntries (s : State) (n id : Nat) (cap : Cap) (a len : Nat) (writes marked : Bool) : List DirEntry :=
  if Cap.has cap 6 then []
  else match s.routeOf (Cap.obj cap) with
    | some (.peer ..) => []
    | _ => dirEntries ⟨s.dev.chip, n, false, id, marked, 0⟩ (Cap.obj cap) (a / 4096) ((a + len - 1) / 4096) writes

end State

end Sys2Proof.Machine
end

