-- ==== Sys2Proof/Machine/Record.lean ====
section
/-!
DEFINITION. A task record as it is checked at post (R38, R65 to R72, R79, R84, R85, R262, R325 to R327, R339, R412): in
word order, slots in slot order, the first failure deciding. What passes is the record with the scoreboard's fields
clear and the capabilities it captures (R39).
-/

namespace Sys2Proof.Machine

open Sys2Proof.Bits

/-! ### What each kind lists (R67) -/

/-- When a slot is present. -/
inductive Need where
  | required | optional | withMx | unlessCheck
  deriving DecidableEq, Repr

/-- A slot's role: presence, accesses (1 read, 2 write, 3 both) and spaces. -/
structure Role where
  need : Need
  access : List Nat
  spaces : List Space
  deriving DecidableEq, Repr

/-- The shape families of R69. -/
inductive Family where
  | extent | copy | collective | ring | guard | marker
  deriving DecidableEq, Repr

/-- A kind: its engines, family and slots. -/
structure KindInfo where
  engines : List Nat
  family : Family
  roles : List Role
  deriving DecidableEq, Repr

/-- The table of R67; none for a reserved kind. -/
def kindInfo (k : Nat) : Option KindInfo :=
  let r : Role := ⟨.required, [1], [.sp]⟩
  let w : Role := ⟨.required, [2], [.sp]⟩
  let opt (x : Role) : Role := { x with need := .optional }
  let tile (a : Nat) : Role := ⟨.required, [a], [.acc]⟩
  let commit : Role := ⟨.optional, [2, 3], [.sp]⟩
  match k with
  | 0x01 => some ⟨[0], .extent, [r, { r with need := .withMx }]⟩
  | 0x02 => some ⟨[0], .extent, []⟩
  | 0x03 => some ⟨[0], .extent, [tile 2]⟩
  | 0x04 => some ⟨[0], .extent, [r, tile 3, { r with need := .withMx }]⟩
  | 0x05 => some ⟨[0], .extent, [tile 1, w, opt r]⟩
  | 0x06 => some ⟨[0, 1], .extent, [r]⟩
  | 0x10 => some ⟨[1], .extent, [r, opt r, w, opt r]⟩
  | 0x11 => some ⟨[1], .extent, [r, { w with need := .unlessCheck }]⟩
  | 0x18 => some ⟨[2], .extent, [r, w]⟩
  | 0x20 => some ⟨[3], .copy, [⟨.required, [1], [.sp, .hbm, .rem]⟩, ⟨.required, [2], [.sp, .hbm, .rem]⟩]⟩
  | 0x21 => some ⟨[3], .copy, [⟨.required, [1], [.sp, .hbm]⟩, ⟨.required, [1], [.sp, .hbm]⟩, ⟨.required, [2], [.sp, .hbm]⟩]⟩
  | 0x22 => some ⟨[3], .copy, [⟨.required, [1], [.sp, .hbm]⟩, ⟨.required, [1], [.sp, .hbm]⟩, ⟨.required, [2], [.sp, .hbm, .rem]⟩]⟩
  | 0x23 => some ⟨[3], .ring, [⟨.required, [1, 2], [.hbm]⟩, ⟨.required, [1, 2], [.sp]⟩]⟩
  | 0x28 => some ⟨[4], .collective, [⟨.required, [1], [.sp, .hbm]⟩, ⟨.required, [2], [.sp, .hbm]⟩]⟩
  | 0x30 => some ⟨[5], .ring, [r]⟩
  | 0x31 => some ⟨[5], .ring, [w]⟩
  | 0x38 => some ⟨[5], .guard, [{ commit with need := .required }, commit, commit, commit, commit, commit]⟩
  | 0x39 => some ⟨[5], .marker, []⟩
  | 0x3A => some ⟨[5], .marker, []⟩
  | 0x3B => some ⟨[5], .marker, []⟩
  | 0x3C => some ⟨[0], .marker, [opt (tile 3)]⟩
  | _ => none

/-- What a post's checks see besides the record: the core, which logical ID is its own, whether the record is for another
window (R407), the open section and its unit's commit boxes (R83). -/
structure PostCtx where
  core : Core
  own : Nat → Bool
  remote : Bool
  sect : Nat
  commit : List Box

/-- A record fault with its word and slot (R426). -/
def recordFault (w slot : Nat) : Trap := .precise 0x04 0 (BitVec.ofNat 64 (w + slot * 16))

/-- A region fault of a post, with its slot (R426). -/
def regionFault (slot : Nat) : Trap := .precise 0x03 0 (BitVec.ofNat 64 slot)

/-- A capability fault of a post, with the object offset (R426). -/
def postCapFault (off : Nat) : Trap := .precise 0x02 0 (BitVec.ofNat 64 off)

/-- A check. -/
def ensure (b : Bool) (t : Trap) : Except Trap Unit := if b then .ok () else .error t

/-- Checks in order. -/
def andThen (a : Except Trap Unit) (b : Except Trap Unit) : Except Trap Unit := match a with | .ok () => b | .error t => .error t

/-! ### Boxes (R38, R67) -/

/-- The ranges of a box that is not empty (R38). -/
def Box.inRange (b : Box) : Bool :=
  match b.space with
  | .sp => decide (b.rowLo + b.rowCnt ≤ 12288) && decide (b.colLo + b.colCnt ≤ 32)
  | .acc => decide (b.rowLo + b.rowCnt ≤ 128) && decide (b.colLo + b.colCnt ≤ 128)
  | _ => true

/-- The rights a box needs of its capability (R38, R407). -/
def Box.rights (b : Box) (remote : Bool) : List Nat :=
  (if b.reads then [0] else []) ++ (if b.writes then [1] else []) ++ (if b.space == .rem || remote then [3] else [])

/-- A capability covers a box, partial granules of its window included (R38). -/
def Box.covered (b : Box) (c : Cap) : Bool :=
  decide (Cap.base c / 4096 ≤ b.granOff) && decide (b.granOff + b.granCnt ≤ ceilDiv (Cap.base c + Cap.len c) 4096)

/-- The capability register a box names. -/
def Core.capAt (c : Core) (i : Nat) : Cap := SMap.get nullCap c.regs.c i

/-- The checks of R38 on the descriptor of slot `k`, and the capability it captures (R37, R39). -/
def checkBox (x : PostCtx) (k : Nat) (b : Box) : Except Trap Cap :=
  let region := regionFault k
  let cap := x.core.capAt b.capIdx
  let device := b.space == .hbm || b.space == .rem
  match andThen (ensure (b.access != 0 && b.resvOk) region) <|
      andThen (ensure (b.empty || b.inRange) region) <|
      andThen (ensure (!b.rename || (b.fullRow && b.writes)) region) <|
      andThen (ensure (!b.bndEn || (b.space == .sp && b.writes)) region) <|
      if !device || b.empty then .ok ()
      else
        andThen (ensure (b.space != .rem || !x.own b.chip) region) <|
        ensure (Cap.obj cap != 0 && (b.rights x.remote).all (Cap.has cap) && b.covered cap) (postCapFault (b.granOff * 4096)) with
  | .error t => .error t
  | .ok () => .ok (if device && !b.empty then cap else nullCap)

/-- Bound checks are made by no copy, transpose or walker task, nor on the destination of an `SRED` (R79). -/
def boundable' (p : Posted) (k : Nat) (b : Box) : Bool :=
  !b.bndEn || !(p.engine == 2 || p.engine == 3 || p.engine == 4 || (p.kind == 0x11 && k == 1))

/-- A slot whose box is inside one commit box (R85). -/
def inCommit (commit : List Box) (b : Box) : Bool :=
  commit.any fun c => decide (c.rowLo ≤ b.rowLo) && decide (b.rowLo + b.rowCnt ≤ c.rowLo + c.rowCnt)

/-- A write box of a surrogate or check record (R85). -/
def sectionBox (x : PostCtx) (b : Box) : Bool :=
  !(x.sect == 1 || x.sect == 2) || !b.writes || b.space == .acc
    || (b.fullRow && b.rename && inCommit x.commit b)

/-- A commit box, beside the earlier ones (R84). -/
def commitBox (p : Posted) (k : Nat) (b : Box) : Bool :=
  p.kind != 0x38 ||
    (let before := (List.range k).filterMap p.box
     b.fullRow && b.rename && before.all (fun c => !runsMeet c.rowLo c.rowCnt b.rowLo b.rowCnt)
      && decide ((before.map Box.rowCnt).sum + b.rowCnt ≤ 1024))

/-- Slot `k` of a record against its role, and what it captures. -/
def checkSlot (x : PostCtx) (p : Posted) (role : Option Role) (k : Nat) : Except Trap Cap :=
  let bad := recordFault (1 + k) k
  match p.box k with
  | none =>
    match role with
    | some ⟨.required, _, _⟩ => .error bad
    | some ⟨.withMx, _, _⟩ => if p.mx then .error bad else .ok nullCap
    | some ⟨.unlessCheck, _, _⟩ => if x.sect == 2 then .ok nullCap else .error bad
    | _ => .ok nullCap
  | some b =>
    match checkBox x k b with
    | .error t => .error t
    | .ok cap =>
      match role with
      | none => .error bad
      | some r =>
        if (r.need == .withMx && !p.mx) || !r.access.contains b.access.toNat || !r.spaces.contains b.space || !boundable' p k b
            || !commitBox p k b || !sectionBox x b then .error bad
        else .ok cap

/-- The six slots in order. -/
def checkSlots (x : PostCtx) (p : Posted) (roles : List Role) : Nat → Nat → Except Trap (List Cap)
  | 0, _ => .ok []
  | fuel + 1, k =>
    match checkSlot x p roles[k]? k with
    | .error t => .error t
    | .ok c => match checkSlots x p roles fuel (k + 1) with
      | .error t => .error t
      | .ok cs => .ok (c :: cs)

/-! ### The operation word (R68, R262, R275, R283, R325, R412) -/

/-- Elements of a 16-bit cell of a plane by type (R262); none for a type the array does not take. -/
def groupOf (t : Ty) : Option Nat :=
  match t with
  | .bf16 | .f16 => some 1
  | .e4m3 | .e5m2 | .i8 | .n8 => some 2
  | .f4 => some 4
  | _ => none

/-- The operand pairs of R60. -/
def pairOk (a b : Ty) (mx : Bool) : Bool :=
  (a == b && (a == .bf16 || a == .f16) && !mx)
    || ((a == .e4m3 || a == .e5m2) && (b == .e4m3 || b == .e5m2))
    || (a == .f4 && b == .f4 && mx)
    || ((a == .i8 || a == .n8) && (b == .i8 || b == .n8) && !mx)

/-- Input types of `SMAP` (R262). -/
def smapTy (t : Ty) : Bool :=
  match t with
  | .i8 | .i16 | .i32 | .n8 | .n16 | .n32 | .f4 | .e4m3 | .e5m2 | .bf16 | .f16 | .f32 => true
  | _ => false

/-- Input types of `SRED` (R262). -/
def sredTy (t : Ty) : Bool :=
  match t with
  | .bf16 | .f16 | .f32 | .e4m3 | .e5m2 => true
  | _ => false

/-- Fields of word 7 that a kind uses: ta, tb, td, rnd, mx, subop, epilogue, aux. -/
structure Uses where
  ta : Bool := false
  tb : Bool := false
  td : Bool := false
  rnd : Bool := false
  mx : Bool := false
  subop : Bool := false
  epi : Bool := false
  slot : Bool := false
  aux : Bool := false
  deriving DecidableEq, Repr

/-- The fields each kind uses (R262, R325). -/
def usesOf (k : Nat) : Uses :=
  match k with
  | 0x01 => { tb := true, mx := true }
  | 0x03 => { td := true }
  | 0x04 => { ta := true, tb := true, mx := true }
  | 0x05 => { td := true, rnd := true, epi := true, slot := true }
  | 0x06 => { subop := true, slot := true }
  | 0x10 => { ta := true, tb := true, td := true, rnd := true, epi := true, slot := true, aux := true }
  | 0x11 => { ta := true, td := true, rnd := true, subop := true }
  | 0x18 => { ta := true }
  | 0x20 | 0x21 | 0x22 => { subop := true }
  | 0x23 => { subop := true, aux := true }
  | _ => {}

/-- Reserved and unused fields of word 7 are zero (R68). -/
def unusedZero (p : Posted) (u : Uses) : Bool :=
  let w := p.word 7
  nfield w 29 3 == 0 && (u.ta || nfield w 0 4 == 0) && (u.tb || nfield w 4 4 == 0) && (u.td || nfield w 8 4 == 0)
    && (u.rnd || nfield w 12 3 == 0) && (u.mx || !p.mx) && (u.subop || p.subop == 0) && (u.epi || !p.epiEn)
    && (u.slot || p.epiSlot == 0) && (u.aux || p.aux == 0)

/-- Word 7 of a `COLL` (R412). -/
def collWordOk (p : Posted) : Bool :=
  let w := p.word 7
  let op := nfield w 20 4
  let t := p.ta
  let r := nfield w 12 3
  nfield w 33 31 == 0 && nfield w 24 8 == 0 && nfield w 18 2 == 0 && nfield w 15 1 == 0 && nfield w 4 8 == 0 && decide (op ≤ 3)
    && (if op = 0 then nfield w 0 4 == 0 && r == 0
        else (t == .i32 || t == .n32 || t == .i64 || t == .n64 || t == .f32 || t == .bf16)
          && (if t.isFloat && op == 1 then decide (r ≤ 3) else r == 0))

/-- Word 7 of a record: reserved, unused and out-of-range fields (R68, R79, R262). -/
def opWordOk (p : Posted) : Bool :=
  if p.kind = 0x28 then collWordOk p
  else
    unusedZero p (usesOf p.kind) && (Rnd.ofCode (nfield (p.word 7) 12 3)).isSome &&
    match p.kind with
    | 0x01 => (groupOf p.tb).isSome && (if p.tb == .f4 then p.mx else p.tb == .e4m3 || p.tb == .e5m2 || !p.mx)
    | 0x03 => p.td == .a56 || p.td == .i64
    | 0x04 => pairOk p.ta p.tb p.mx
    | 0x06 => decide (p.subop ≤ 1) && p.engine == p.subop && (p.engine == 0 || !p.tileStart)
    | 0x10 => smapTy p.ta && (if (p.box 1).isSome then p.tb == p.ta else nfield (p.word 7) 4 4 == 0) && decide (p.aux.toNat ≤ 1)
    | 0x11 => sredTy p.ta && (p.td == .f32 || p.td == .f64 || p.td == .a56) && decide (p.subop < 16) && decide (p.subop % 8 < 4)
    | 0x18 => p.ta != .f4
    | 0x20 | 0x21 | 0x22 => decide (p.subop < 16)
    | 0x23 => decide (p.subop < 16) && p.aux != 0
    | _ => true

/-! ### The shape words (R69, R71, R262, R327, R339) -/

/-- A walk of slot `q`: `n` rows by the slot's step, each of `bits` from the first column, stays in the box (R260,
R262, R263). -/
def walkFits (p : Posted) (q n bits : Nat) : Bool :=
  match p.box q with
  | none => true
  | some b => decide ((p.step q).natAbs * (n - 1) < b.rowCnt) && decide (ceilDiv bits 8 ≤ 16 * b.colCnt)

/-- A column-vector box (R262). -/
def columnsOk (p : Posted) (q : Nat) : Bool :=
  match p.box q with
  | none => true
  | some b => b.fullRow && decide (1 ≤ b.rowCnt) && decide (b.rowCnt ≤ 4)

/-- The steps of slots that are not walked are zero (R69, R260). -/
def stepsOk (p : Posted) (walked : List Nat) : Bool :=
  (List.range 4).all fun q => p.step q == 0 || (walked.contains q && (p.box q).isSome)

/-- A count from 1 to a limit. -/
def upTo (n hi : Nat) : Bool := decide (1 ≤ n) && decide (n ≤ hi)

/-- A box's rows and columns, zero where it is absent. -/
def Posted.rowsOf (p : Posted) (q : Nat) : Nat := match p.box q with | some b => b.rowCnt | none => 0
/-- The same for columns. -/
def Posted.colsOf (p : Posted) (q : Nat) : Nat := match p.box q with | some b => b.colCnt | none => 0

/-- Extents and walks of an extent-family record (R262). -/
def extentOk (p : Posted) : Bool :=
  let e0 := p.ext 0
  let e1 := p.ext 1
  let g := (groupOf p.tb).getD 1
  let sa := p.ta.width
  p.ext 2 == 0 && p.ext 3 == 0 &&
  match p.kind with
  | 0x01 =>
    let blk := e1 * g / 32
    stepsOk p [0, 1] && upTo e0 128 && upTo e1 128 && (!p.mx || e1 % (32 / g) == 0)
      && walkFits p 0 (ceilDiv e1 2) (8 * ((if 1 < e1 then 256 else 0) + 2 * e0))
      && (!p.mx || walkFits p 1 (ceilDiv blk 4) (8 * (128 * (min blk 4 - 1) + e0)))
  | 0x02 => stepsOk p [] && e0 == 0 && e1 == 0
  | 0x03 => stepsOk p [] && e0 == 0 && e1 == 0
  | 0x04 =>
    stepsOk p [0, 2] && upTo e0 (128 * g) && e0 % (if p.mx then 32 else g) == 0 && upTo e1 (p.rowsOf 1)
      && walkFits p 0 e1 (e0 * sa) && (!p.mx || walkFits p 2 e1 (8 * (e0 / 32)))
  | 0x05 =>
    stepsOk p [1] && upTo e0 (p.colsOf 0) && upTo e1 (p.rowsOf 0)
      && walkFits p 1 e1 (if p.epiEn then 0 else e0 * p.td.width) && columnsOk p 2
  | 0x06 => stepsOk p [] && upTo e0 32 && e1 == 0 && walkFits p 0 1 (32 * e0)
  | 0x10 =>
    stepsOk p [0, 1, 2] && upTo e0 (4096 / sa) && upTo e1 12288 && walkFits p 0 e1 (e0 * sa) && walkFits p 1 e1 (e0 * sa)
      && walkFits p 2 e1 (if p.epiEn then 0 else e0 * p.td.width) && columnsOk p 3
  | 0x11 =>
    stepsOk p [0] && upTo e0 (4096 / sa) && upTo e1 12288 && walkFits p 0 e1 (e0 * sa)
      && (match p.box 1 with
          | none => true
          | some b => decide ((if p.subop / 8 = 1 then e1 else 1) * p.td.width ≤ 8 * b.size))
  | _ =>
    stepsOk p [0, 1] && upTo e0 (4096 / sa) && upTo e1 (4096 / sa) && walkFits p 0 e1 (e0 * sa) && walkFits p 1 e0 (e1 * sa)
      && (match p.box 0, p.box 1 with
          | some a, some b => a.empty || b.empty || !(a.cells 0).meets (b.cells 0)
          | _, _ => true)

/-- A record reference of word `w` (R70): its form, then its capability; what it captures. -/
def checkRef (x : PostCtx) (p : Posted) (w : Nat) : Except Trap Cap :=
  let v := p.word w
  if !p.hasRef w then if v == 0 then .ok nullCap else .error (recordFault w 0)
  else
    let len := if p.refLayout w then 64 else 128
    let off := p.refOff w
    let cap := x.core.capAt (nfield v 56 4)
    if 1 < nfield v 60 3 || nfield v 48 8 != 0 || off % len != 0 then .error (recordFault w 0)
    else if Cap.obj cap != 0 && Cap.has cap 0 && (!x.remote || Cap.has cap 3) && Cap.within cap off len then .ok cap
    else .error (postCapFault off)

/-- Words 8 to 10 of a copy kind before their references are looked at (R69, R71). -/
def copyShape (p : Posted) : Except Trap Unit :=
  let w8 := (p.word 8).toNat
  let refs := p.word 9 != 0 || p.word 10 != 0
  ensure (decide (w8 < 2 ^ 48) && (!refs || w8 == 0)
    && (p.kind != 0x20 || refs || [0, 1].all fun q => match p.box q with | some b => decide (w8 ≤ b.size) | none => true))
    (recordFault 8 0)

/-- Word 8 of a ring kind (R69, R339). -/
def ringShape (p : Posted) : Bool :=
  let w8 := p.word 8
  if p.kind = 0x23 then
    nfield w8 12 52 == 0 && decide (2 ≤ nfield w8 4 8) && decide (nfield w8 4 8 ≤ 64)
      && (match p.box 1 with
          | some b => b.fullRow && !b.rename && b.rowCnt % nfield w8 4 8 == 0 && b.rowCnt != 0
          | none => false)
  else nfield w8 4 60 == 0

/-- The mode of a `SUBSCR` by its boxes and word 9 (R339): 0 flood, 1 ebb, 2 relay. -/
def subscrMode (p : Posted) : Option Nat :=
  match p.box 0, p.box 1 with
  | some a, some b =>
    let nest := p.hasRef 9 && !p.refLayout 9
    if a.access == 1 && b.access == 2 then (if nest then some 0 else if !p.hasRef 9 && a.granCnt == 0 then some 2 else none)
    else if a.access == 2 && b.access == 1 && nest then some 1
    else none
  | _, _ => none

/-- Words 8 to 10 by family, and the capabilities of the references (R69). -/
def checkShape (x : PostCtx) (p : Posted) (f : Family) : Except Trap (Cap × Cap) :=
  let zero (ws : List Nat) : Except Trap (Cap × Cap) :=
    match ws.find? fun w => p.word w != 0 with | some w => .error (recordFault w 0) | none => .ok (nullCap, nullCap)
  match f with
  | .extent => if extentOk p then zero [10] else .error (recordFault 8 0)
  | .marker => zero [8, 9, 10]
  | .guard => if (p.word 8).toNat < 16 then zero [9, 10] else .error (recordFault 8 0)
  | .ring =>
    if !ringShape p then .error (recordFault 8 0)
    else if p.kind = 0x23 then
      if (subscrMode p).isNone then .error (recordFault 9 0)
      else match checkRef x p 9 with
        | .error t => .error t
        | .ok c => if p.word 10 != 0 then .error (recordFault 10 0) else .ok (c, nullCap)
    else zero [9, 10]
  | .collective =>
    if nfield (p.word 8) 16 16 != 0 then .error (recordFault 8 0)
    else match checkRef x p 9 with
      | .error t => .error t
      | .ok c =>
        if !p.hasRef 9 || p.refLayout 9 then .error (recordFault 9 0)
        else if p.word 10 != 0 then .error (recordFault 10 0)
        else .ok (c, nullCap)
  | .copy =>
    match copyShape p with
    | .error t => .error t
    | .ok () =>
      match checkRef x p 9 with
      | .error t => .error t
      | .ok c9 =>
        if (p.kind == 0x21 && !(p.hasRef 9 && p.refLayout 9)) || (p.kind == 0x22 && p.hasRef 9 && !p.refLayout 9) then
          .error (recordFault 9 0)
        else match checkRef x p 10 with
          | .error t => .error t
          | .ok c10 =>
            if (p.kind == 0x22 && !(p.hasRef 10 && p.refLayout 10)) || (p.kind == 0x21 && p.hasRef 10 && !p.refLayout 10) then
              .error (recordFault 10 0)
            else .ok (c9, c10)

/-- The guard word reference (R72, R85). -/
def checkGuardWord (x : PostCtx) (p : Posted) : Except Trap Cap :=
  let v := p.word 11
  let off := p.gwOff
  let cap := x.core.capAt (nfield v 56 4)
  if !p.gwEn then if v == 0 then .ok nullCap else .error (recordFault 11 0)
  else if 1 < nfield v 60 3 || nfield v 48 8 != 0 || off % 4 != 0 || p.engine == 5 || x.sect == 1 || x.sect == 2 then
    .error (recordFault 11 0)
  else if Cap.obj cap != 0 && Cap.has cap 0 && (!x.remote || Cap.has cap 3) && Cap.within cap off 4 then .ok cap
  else .error (postCapFault off)

/-! ### The record (R79) -/

/-- The header (R65 to R67, R79, R85, R407). flow_ord may be 1 on every kind: DEDUCED (log 106). -/
def headerOk (x : PostCtx) (p : Posted) (k : KindInfo) : Bool :=
  let bnd := (List.range 6).any fun q => match p.box q with | some b => b.space == .sp && b.writes && b.bndEn | none => false
  k.engines.contains p.engine && nfield (p.word 0) 21 11 == 0 && (!p.tileStart || p.engine == 0)
    && (p.kind != 0x3C || p.tileStart) && bit (p.word 0) 17 == bnd
    && !(x.remote && decide (0x38 ≤ p.kind) && decide (p.kind ≤ 0x3B))
    && !((x.sect == 1 || x.sect == 2) && (p.kind == 0x28 || p.kind == 0x23 || p.kind == 0x30 || p.kind == 0x31))

/-- A record's words with the scoreboard's fields clear (R65, R76, R77). -/
def builderWords (ws : List Word) : List Word :=
  (List.range 16).map fun i =>
    let v := (ws[i]?).getD 0
    if i = 0 then v &&& 0xFFE67FFF
    else if i = 12 then v &&& 0xFFFFFFFF00000000
    else if i = 13 ∨ i = 15 then 0
    else v

/-- A record checked in word order (R79): what enters the window, but for the scoreboard's fields. -/
def checkRecord (x : PostCtx) (ws : List Word) : Except Trap Posted :=
  let p : Posted := ⟨builderWords ws, []⟩
  match kindInfo p.kind with
  | none => .error (recordFault 0 0)
  | some k =>
    if !headerOk x p k then .error (recordFault 0 0)
    else match checkSlots x p k.roles 6 0 with
      | .error t => .error t
      | .ok caps =>
        if !opWordOk p then .error (recordFault 7 0)
        else if p.kind == 0x28 && bit (p.word 7) 32 && (match p.box 1 with | some b => decide (b.size < 144) | none => true) then
          .error (recordFault 7 0)
        else match checkShape x p k.family with
          | .error t => .error t
          | .ok (c9, c10) =>
            match checkGuardWord x p with
            | .error t => .error t
            | .ok cg =>
              if (x.sect == 1 || x.sect == 2) && p.sigMask != 0 then .error (recordFault 12 0)
              else .ok ⟨p.words, caps ++ [cg, c9, c10]⟩

end Sys2Proof.Machine
end

