-- ==== Sys2Proof/Machine/Board.lean ====
section
/-!
DEFINITION. The region scoreboard (R288 to R319): what a record finds and becomes as it enters the window, its
dependences and translation, renaming, bundles and guarded units, rings, and retirement (R309) and discard (R435).
-/

namespace Sys2Proof.Machine

open Sys2Proof.Bits

/-! ### Looking at the window -/

namespace Entry

/-- The entry's section, 0 to 3 (R65). -/
def gsec (e : Entry) : Nat := e.post.gsec

/-- A surrogate or check record (R85). -/
def inSection (e : Entry) : Bool := e.gsec == 1 || e.gsec == 2

/-- A record of the unit whose `GUARD` has a sequence number, in its surrogate or check section. -/
def ofUnit (e : Entry) (g : BitVec 32) : Bool := e.inSection && e.post.unitSeq == g

/-- The head of the bundle the entry is in (R77). -/
def bundleHead (e : Entry) : Option (BitVec 32) :=
  if e.post.bhead then some e.seq else if e.post.bmem then some e.post.headSeq else none

/-- Physical row of a logical row for reading (R302). -/
def rrow (e : Entry) (r : Nat) : Nat := match SMap.get 0 e.tr r with | p + 1 => p | 0 => r

/-- Physical row of a logical row for writing (R302). -/
def wrow (e : Entry) (r : Nat) : Nat := match SMap.get 0 e.wtr r with | p + 1 => p | 0 => e.rrow r

end Entry

namespace Core

/-- An entry by sequence number. -/
def entry (c : Core) (seq : BitVec 32) : Option Entry := c.board.entries.find? (·.seq == seq)

/-- The window replaced. -/
def withBoard (c : Core) (f : Board → Board) : Core := { c with board := f c.board }

/-- An entry changed. -/
def onEntry (c : Core) (seq : BitVec 32) (f : Entry → Entry) : Core :=
  c.withBoard fun b => { b with entries := b.entries.map fun e => if e.seq = seq then f e else e }

/-- A unit by its `GUARD` record. -/
def unit (c : Core) (g : BitVec 32) : Option GUnit := c.board.units.find? (·.guardSeq == g)

/-- A unit changed. -/
def onUnit (c : Core) (g : BitVec 32) (f : GUnit → GUnit) : Core :=
  c.withBoard fun b => { b with units := b.units.map fun u => if u.guardSeq = g then f u else u }

/-- The open unit (R83). -/
def openUnit (c : Core) : Option GUnit := c.board.units.find? (·.sect != 0)

/-- The unit a local post joins: none in a handler (R431). -/
def joinUnit (c : Core) : Option GUnit := if c.inHandler then none else c.openUnit

/-- The bundle a local post joins. -/
def joinBundle (c : Core) : Option Bundle := if c.inHandler then none else c.board.bundle

/-- Commit boxes of a unit (R84). -/
def commitBoxes (c : Core) (g : BitVec 32) : List Box :=
  match c.entry g with | some e => (List.range 6).filterMap e.post.box | none => []

/-- Entries held in reserve by captured exact records (R290). -/
def reserved (c : Core) : Nat := (c.board.units.map fun u => if u.failed then 0 else u.captured.length).sum

/-- There is room for one more record, local or remote (R288, R290). -/
def room (c : Core) (remote : Bool) : Bool :=
  let r := (c.board.entries.filter (·.remote)).length
  if remote then decide (r < c.board.rres.toNat)
  else decide (c.board.entries.length - r + c.reserved < 512 - c.board.rres.toNat)

/-- Physical rows that something names (R305). -/
def usedRows (c : Core) : List Nat :=
  (c.eng.rowMap.map fun m => m.2 - 1) ++
    (c.board.entries.map fun e => e.tr.map (fun m => m.2 - 1) ++ e.wtr.map fun m => m.2 - 1).flatten ++
    (c.board.held.map fun h => h.entry.tr.map fun m => m.2 - 1).flatten ++
    (c.board.units.map fun u => u.spec.map fun m => m.2 - 1).flatten

/-- The rename pool, lowest row first (R29, R303, R305). A row below 12,288 that its own map entry does not name is in
the pool unless something else names it. -/
def pool (c : Core) : List Nat :=
  let used := c.usedRows
  (c.eng.rowMap.map Prod.fst ++ (List.range 1024).map (· + 12288)).filter fun p => !used.contains p

/-- Rows of the pool that are not promised to units (R303, R313). -/
def spareRows (c : Core) : Nat := c.pool.length - (c.board.units.map GUnit.promise).sum

end Core

/-- A party's age: how many records ago it was posted (R289). -/
def ageOf (c : Core) (seq : BitVec 32) : Nat := (c.board.nextSeq - seq).toNat

/-! ### Older parties (R300) -/

/-- An older party with its footprints. -/
structure Older where
  party : Party
  feet : List Foot
  /-- it belongs to the unit that the record at hand belongs to (R314) -/
  inside : Bool
  deriving DecidableEq, Repr

/-- The footprint of an unresolved unit (R86). -/
def unitFeet (c : Core) (u : GUnit) : List Foot :=
  (match c.entry u.guardSeq with | some e => e.post.foots | none => []) ++ u.feet ++ (u.captured.map Posted.foots).flatten

/-- The older parties of a record that enters after entry number `n` of the window. `own` is the unit it belongs to;
`exact` says that it is an exact record, which sees only what precedes its `GUARD` and earlier exact records (R317). -/
def olderParties (c : Core) (n : Nat) (own : Option (BitVec 32)) (exact' : Bool) : List Older :=
  let within (e : Entry) : Bool := match own with | some g => e.ofUnit g | none => false
  let before (seq : BitVec 32) : Bool := match own, exact' with | some g, true => decide (ageOf c g < ageOf c seq) | _, _ => true
  ((c.board.entries.take n).filterMap fun e =>
      if e.state = .unit then none else some ⟨.entry e.seq, e.post.laterFoots, within e⟩) ++
    ((c.board.units.filter fun u => some u.guardSeq != own && before u.guardSeq).map fun u => ⟨.unit u.guardSeq, unitFeet c u, false⟩) ++
    ((c.board.held.filter fun h => before h.entry.seq).map fun h =>
      ⟨.held h.segment, (h.entry.post.foots.filter (·.reads)).map fun f => { f with writes := false }, within h.entry⟩)

/-- Read-after-write and write-after-write dependences of footprints on an older party (R300). -/
def mustWait (feet : List Foot) (o : Older) : Bool := feet.any fun f => o.feet.any fun g => f.cells.meets g.cells && g.writes

/-- Write-after-read conflict of one footprint with an older party (R300): a read-write box acts as a read too. -/
def warWith (f : Foot) (o : Older) : Bool := f.writes && o.feet.any fun g => f.cells.meets g.cells && g.reads

/-- The party that a write-after-read dependence names. -/
def Older.warParty (o : Older) : Party := match o.party with | .entry q => .reads q | p => p

/-! ### Translation (R302 to R305, R314) -/

/-- Rows of a scratchpad footprint. -/
def Foot.rows (f : Foot) : List Nat :=
  match f.cells with
  | .sp r n _ _ => (List.range n).map (r + ·)
  | _ => []

/-- The forward map as some entries of the window leave it (R302): the newest rename of a row, else the committed map. -/
def forwardRow (c : Core) (es : List Entry) (r : Nat) : Nat :=
  match es.reverse.findSome? (fun e =>
      if e.inSection then none else match SMap.get 0 e.wtr r with | p + 1 => some p | 0 => none) with
  | some p => p
  | none => c.phys r

/-- A ring's slot rows meet a footprint (R346). -/
def meetsRing (c : Core) (f : Foot) : Bool :=
  (List.range 16).any fun n => match c.ring n with | some r => !(r.slotsMet f.cells).isEmpty | none => false

/-- Some physical rows for the rows of a box, from the pool. -/
def takeRows (rows pool : List Nat) (m : SMap Nat) : SMap Nat := (rows.zip pool).foldl (fun m x => SMap.put 0 m x.1 (x.2 + 1)) m

/-- The ring items that a record's scratchpad boxes are bound to (R342). -/
def ringBinds (c : Core) (feet : List Foot) : List (Nat × Bool × Nat) :=
  (List.range 16).flatMap fun n =>
    match c.ring n with
    | none => []
    | some r => feet.flatMap fun f => (r.slotsMet f.cells).map fun k => (n, r.bind f.writes k)

/-- A write box that is renamed at post, conditions 1 and 2 of R304 and R346. -/
def renamable (c : Core) (p : Posted) (f : Foot) : Bool :=
  match f.slot with
  | none => false
  | some k => match p.box k with
    | some b => b.access == 2 && b.rename && b.fullRow && !p.gwEn && !meetsRing c f
    | none => false

/-- What linking a record gives: its dependences, the rows its write boxes take, and the speculative rows it adds. -/
structure Link where
  deps : List Party
  wtr : SMap Nat
  spec : SMap Nat
  deriving DecidableEq, Repr

/-- An ordinary record's write boxes, slot by slot (R304): a renamed one drops its write-after-read dependences. -/
def linkWrites (c : Core) (p : Posted) (older : List Older) : List Foot → List Nat → Nat → Link → Link
  | [], _, _, l => l
  | f :: fs, pool, spare, l =>
    let war := older.filter (warWith f)
    let rows := f.rows
    if renamable c p f && !war.isEmpty && decide (rows.length ≤ spare) then
      linkWrites c p older fs (pool.drop rows.length) (spare - rows.length) { l with wtr := takeRows rows pool l.wtr }
    else linkWrites c p older fs pool spare { l with deps := l.deps ++ war.map Older.warParty }

/-- A surrogate or check record's write boxes (R314): speculative rows for the rows that have none. -/
def linkSection (pool : List Nat) (older : List Older) (feet : List Foot) (spec : SMap Nat) (l : Link) : Link :=
  let fresh := ((feet.filter (·.writes)).flatMap Foot.rows).eraseDups.filter fun r => SMap.get 0 spec r = 0
  let war := older.filter fun o => o.inside && feet.any fun f => warWith f o
  { l with deps := l.deps ++ war.map Older.warParty, wtr := takeRows fresh pool [], spec := takeRows fresh pool spec }

/-- Dependences and rows of a record that enters after entry `n` (R300, R304, R314). -/
def linkRecord (c : Core) (n : Nat) (p : Posted) (own : Option GUnit) (exact' : Bool) : Link :=
  let feet := p.foots
  let older := olderParties c n (own.map GUnit.guardSeq) exact'
  let l : Link := ⟨(older.filter (mustWait feet)).map Older.party, [], []⟩
  let sect := p.gsec == 1 || p.gsec == 2
  let r := match own, sect with
    | some u, true => linkSection c.pool older feet u.spec l
    | _, _ => linkWrites c p older (feet.filter (·.writes)) c.pool c.spareRows l
  { r with deps := r.deps.eraseDups }

/-- The entries that precede a record at place `n` (R302): for an exact record also those that entered behind its `GUARD` before it was
captured, which do not depend on its unit. -/
def precede (c : Core) (n : Nat) (exactOf : Option (BitVec 32)) : List Entry :=
  c.board.entries.take n ++ match exactOf with
    | some g => (c.board.entries.drop n).filter fun e => !e.deps.contains (.unit g)
    | none => []

/-- The read translation (R302, R314): a speculative row of the own unit, else the forward map. -/
def readRows (c : Core) (es : List Entry) (p : Posted) (spec : SMap Nat) : SMap Nat :=
  (p.foots.flatMap Foot.rows).eraseDups.foldl (fun m r =>
    SMap.put 0 m r (match SMap.get 0 spec r with | q + 1 => q + 1 | 0 => forwardRow c es r + 1)) []

/-- Rows whose translation an unresolved unit fixes (R302, R316), for a record posted after its `GEND`: rows of its commit boxes that no later
record has renamed. -/
def deferredRows (c : Core) (n : Nat) (p : Posted) (own : Option (BitVec 32)) : List (Nat × BitVec 32) :=
  let rows := (p.foots.flatMap Foot.rows).eraseDups
  let place (u : GUnit) : Nat := (c.board.entries.findIdx? (·.seq == u.guardSeq)).getD 0
  (c.board.units.filter fun u => some u.guardSeq != own && u.sect == 0 && decide (place u < n)).flatMap fun u =>
    let at' := place u
    let commit := c.commitBoxes u.guardSeq
    (rows.filter fun r => commit.any (fun b => decide (b.rowLo ≤ r) && decide (r < b.rowLo + b.rowCnt)) &&
      !((c.board.entries.take n).drop at').any fun e => !e.inSection && SMap.get 0 e.wtr r != 0).map fun r => (r, u.guardSeq)

/-! ### Entering the window (R78, R289, R298, R317, R337) -/

/-- Copy kinds take a transfer id (R337). -/
def Posted.takesId (p : Posted) : Bool := decide (0x20 ≤ p.kind) && decide (p.kind ≤ 0x23)

/-- Kinds that capture the seed (R65). -/
def Posted.takesSeed (p : Posted) : Bool := p.kind == 0x05 || p.kind == 0x10 || p.kind == 0x11

/-- How a record enters: from another window, the position in the window, bundle and section. -/
structure Entering where
  remote : Bool
  pos : Nat
  bhead : Bool
  bmem : Bool
  head : BitVec 32
  gsec : Nat
  own : Option GUnit
  seed : BitVec 32
  after : Nat
  poster : Option Nat
  origin : Option (Nat × Nat × BitVec 32)

/-- The scoreboard's fields (R65, R76 to R78). -/
def fillRecord (p : Posted) (x : Entering) (seq xfer : BitVec 32) : Posted :=
  let b (v : Bool) (i : Nat) : Nat := if v then 2 ^ i else 0
  let w0 : Word := p.word 0 ||| BitVec.ofNat 64 ((if p.takesSeed then x.seed.toNat else 0) * 2 ^ 32 + b x.bmem 20 + b x.bhead 19 + x.gsec * 2 ^ 15)
  let w12 : Word := p.word 12 ||| (if p.takesId then xfer.setWidth 64 else 0)
  let unitSeq : Nat := match x.own with | some u => if x.gsec = 0 then 0 else u.guardSeq.toNat | none => 0
  let w13 : Word := BitVec.ofNat 64 (unitSeq * 2 ^ 32 + if x.bmem then x.head.toNat else 0)
  { p with words := (((p.words.set 0 w0).set 12 w12).set 13 w13).set 15 (seq.setWidth 64) }

/-- A ring opened by the post of its `SUBSCR` (R339). -/
def openRing (p : Posted) (seq : BitVec 32) : Ring where
  mode := (subscrMode p).getD 0
  slots := nfield (p.word 8) 4 8
  height := p.rowsOf 1 / nfield (p.word 8) 4 8
  items := p.aux.toNat
  pops := 0
  pushes := 0
  box := p.word 2
  seq := seq
  tide := 0
  started := false
  nest := []

/-- Pop or push count raised by a ring record (R345). -/
def Core.countRing (c : Core) (p : Posted) : Core :=
  let n := nfield (p.word 8) 0 4
  match c.ring n with
  | none => c
  | some r =>
    if p.kind = 0x30 then c.setRing n (some { r with pops := r.pops + 1 })
    else if p.kind = 0x31 then c.setRing n (some { r with pushes := r.pushes + 1 })
    else c

/-- A list with an element put at a position. -/
def insertAt {α : Type} (xs : List α) (n : Nat) (x : α) : List α := xs.take n ++ x :: xs.drop n

/-- A progress record at the start. -/
def Progress.fresh : Progress := ⟨0, 0, false, false, 0, .fin false 0 0, [], none, none, [], (0, 0), none⟩

/-- A checked record enters the window of a core. -/
def Core.enter (c : Core) (p0 : Posted) (x : Entering) : Core :=
  let seq := c.board.nextSeq
  let ch := p0.channel
  let xfer := SMap.get 0 c.eng.nextId ch
  let p := fillRecord p0 x seq xfer
  let isGuard := p.kind == 0x38
  let l := if isGuard then ⟨[], [], []⟩ else linkRecord c x.pos p x.own (x.gsec == 3)
  let spec : SMap Nat := match x.own with | some u => if x.gsec = 3 then [] else u.spec | none => []
  let e : Entry :=
    { seq := seq, post := p, state := if isGuard then .unit else .waiting, settled := false, aged := false, remote := x.remote
      poster := x.poster, origin := x.origin, deps := l.deps
      tr := if isGuard then [] else readRows c (precede c x.pos (if x.gsec = 3 then x.own.map GUnit.guardSeq else none)) p spec
      wtr := l.wtr
      defer := if isGuard then [] else deferredRows c x.pos p (x.own.map GUnit.guardSeq)
      seg := none, after := x.after, binds := ringBinds c p.laterFoots, fault := none, report := [], prog := Progress.fresh }
  let c1 := { c with
    board := { c.board with nextSeq := seq + 1, entries := insertAt c.board.entries x.pos e, stalledReported := false }
    eng := { c.eng with nextId := if p.takesId then SMap.put 0 c.eng.nextId ch (xfer + 1) else c.eng.nextId } }
  let c2 := match x.own, (x.gsec == 1 || x.gsec == 2 : Bool) with
    | some u, true => c1.onUnit u.guardSeq fun v => { v with
        spec := l.spec, promise := v.promise - l.wtr.length, feet := v.feet ++ p.foots }
    | _, _ => c1
  let c3 := c2.countRing p
  if p.isSubscr then c3.setRing (nfield (p.word 8) 0 4) (some (openRing p seq)) else c3

/-! ### Posting (R81, R83, R291, R313, R315, R339, R345) -/

/-- What a post comes to: done, no room, or a fault. -/
inductive PostRes where
  | posted (c : Core)
  | full
  | fault (t : Trap)
  deriving DecidableEq, Repr

/-- A scratchpad box names exactly slot `k` of a ring, full-row (R345). -/
def isSlot (r : Ring) (k : Nat) (b : Box) : Bool :=
  b.space == .sp && b.fullRow && b.rowLo == r.row0 + k * r.height && b.rowCnt == r.height

/-- The ring checks that depend on the window the record enters (R339, R345): rings of the record, slot boxes of open
rings, commit boxes. -/
def ringCheck (c : Core) (p : Posted) : Option Trap :=
  let n := nfield (p.word 8) 0 4
  let slotBox := p.box 0
  if p.kind = 0x23 then
    if (c.ring n).isSome then some (recordFault 8 0)
    else match p.box 1 with
      | some b => if meetsRing c ⟨b.cells 0, true, true, none⟩ then some (recordFault 2 1) else none
      | none => none
  else if p.kind = 0x30 then
    match c.ring n, slotBox with
    | some r, some b => if r.mode != 1 && decide (r.pops < r.items) && isSlot r (r.pops % r.slots) b then none else some (recordFault 8 0)
    | _, _ => some (recordFault 8 0)
  else if p.kind = 0x31 then
    match c.ring n, slotBox with
    | some r, some b => if r.mode != 0 && decide (r.pushes < r.items) && isSlot r (r.pushes % r.slots) b then none else some (recordFault 8 0)
    | _, _ => some (recordFault 8 0)
  else if p.kind = 0x38 then
    if (p.foots.any fun f => meetsRing c f) then some (recordFault 1 0) else none
  else none

/-- The context of a local post's checks. -/
def localCtx (c : Core) (own : Nat → Bool) : PostCtx :=
  match c.joinUnit with
  | some u => ⟨c, own, false, u.sect, c.commitBoxes u.guardSeq⟩
  | none => ⟨c, own, false, 0, []⟩

/-- Rows that a `GUARD` record's commit boxes need (R313). -/
def commitRows (p : Posted) : Nat := (((List.range 6).filterMap p.box).map Box.rowCnt).sum

/-- A checked record posted by the thread: it enters the window, or is captured in an exact section. DESIGN CHOICE (log 105): the checks
that no word of a record carries, of its bundle, its section and its ring, come after those of its 16 words (R79). -/
def postChecked (c : Core) (p : Posted) : PostRes :=
  let bundle := c.joinBundle
  let u := c.joinUnit
  let marker := p.kind == 0x38
  if (match bundle with | some b => marker || decide (16 ≤ b.count) | none => false) || (marker && u.isSome) then
    .fault (recordFault 0 0)
  else match ringCheck c p with
    | some t => .fault t
    | none =>
      let bhead := match bundle with | some b => b.count == 0 | none => false
      let bmem := match bundle with | some b => b.count != 0 | none => false
      let head := (bundle.bind Bundle.head).getD 0
      let joined (c : Core) (seq : Option (BitVec 32)) : Core :=
        match bundle with
        | some b => c.withBoard fun d => { d with bundle := some ⟨b.count + 1, if b.count = 0 then seq else b.head⟩ }
        | none => c
      match u with
      | some v =>
        if v.sect = 3 then
          if 16 ≤ v.captured.length then .fault (recordFault 0 0)
          else if !c.room false then .full
          else
            let flag (b : Bool) (i : Nat) : Nat := if b then 2 ^ i else 0
            let q := { p with words := p.words.set 0 (p.word 0 ||| BitVec.ofNat 64 (flag bhead 19 + flag bmem 20)) }
            .posted (joined (c.onUnit v.guardSeq fun w => { w with captured := w.captured ++ [q] }) none)
        else if !c.room false then .full
        else
          .posted (joined (c.enter p ⟨false, c.board.entries.length, bhead, bmem, head, v.sect, some v, c.sp.rnge,
            (c.grp.opBase.getD c.nextOp), none, none⟩) (some c.board.nextSeq))
      | none =>
        if !c.room false || (marker && (decide (4 ≤ c.board.units.length) || decide (c.spareRows < commitRows p))) then .full
        else
          let c1 := joined (c.enter p ⟨false, c.board.entries.length, bhead, bmem, head, 0, none, c.sp.rnge,
            (c.grp.opBase.getD c.nextOp), none, none⟩) (some c.board.nextSeq)
          .posted (if marker then
              c1.withBoard fun b => { b with units := b.units ++ [⟨c.board.nextSeq, 1, commitRows p, [], [], [], [], false, false, false, []⟩] }
            else c1)

/-- A record posted by the thread: checks, then the window (R79, R291). -/
def postRecord (c : Core) (own : Nat → Bool) (ws : List Word) : PostRes :=
  match checkRecord (localCtx c own) ws with
  | .error t => .fault t
  | .ok p => postChecked c p

/-- A record of another window, checked where it was sent (R298, R407): it joins nothing here. -/
def postRemote (c : Core) (p : Posted) (bhead bmem : Bool) (head : BitVec 32) (poster : Option Nat)
    (origin : Option (Nat × Nat × BitVec 32)) : Core :=
  c.enter p ⟨true, c.board.entries.length, bhead, bmem, head, 0, none, field (p.word 0) 32 32, 0, poster, origin⟩

/-! ### Release conditions (R307, R264) -/

/-- A dependence that still holds (R300): within one bundle, until the member completes (R82). A write-after-read dependence holds as long as
the read boxes stay as held boxes (R272, R319; DEDUCED, log 111). -/
def outstanding (c : Core) (e : Entry) (p : Party) : Bool :=
  match p with
  | .entry q => match c.entry q with
    | none => false
    | some o => !(o.state == .completed && o.bundleHead.isSome && o.bundleHead == e.bundleHead)
  | .reads q => (match c.entry q with
      | none => false
      | some o => !(o.state == .completed && o.bundleHead.isSome && o.bundleHead == e.bundleHead)) || c.board.held.any (·.entry.seq == q)
  | .unit g => (c.unit g).isSome
  | .held k => c.board.held.any (·.segment == k)

/-- The pieces of engine state a record touches (R264): the planes as 0, a slot of a store otherwise. -/
def engineState (p : Posted) : List Nat :=
  (if p.kind == 0x01 || p.kind == 0x02 || p.kind == 0x04 then [0] else []) ++
  (if p.kind == 0x06 then [1 + 16 * (p.subop % 2) + p.epiSlot] else []) ++
  (if p.epiEn && (p.kind == 0x05 || p.kind == 0x10) then [1 + 16 * (if p.kind == 0x10 then 1 else 0) + p.epiSlot] else [])

/-- Every earlier record touching the same engine state has been released (R264, R307). -/
def engineOrder (c : Core) (e : Entry) : Bool :=
  !(c.board.entries.takeWhile (·.seq != e.seq)).any fun o =>
    o.state == .waiting && (engineState o.post).any fun k => (engineState e.post).contains k

/-- The ring condition (R344). -/
def ringsReady (c : Core) (e : Entry) : Bool :=
  e.binds.all fun b => match c.ring b.1 with | some r => c.sideReady b.1 r b.2 | none => true

/-- The wait mask is satisfied (R76), and the accesses in groups before an `MTS` to a mailbox that it names have been performed
(R354). -/
def waitsMet (c : Core) (e : Entry) : Bool :=
  (List.range 16).all (fun i => !e.post.waitMask.getLsbD i || c.mb i != 0)
    && c.mbEdges.all fun m => !e.post.waitMask.getLsbD m.1 || c.settledBefore m.2

/-- A device-memory access of the thread, from a group before the record's post, that shares a granule with it, has not
been performed (R354). -/
def threadPending (c : Core) (e : Entry) : Bool :=
  let feet := e.post.foots
  let meets (obj a n : Nat) : Bool := feet.any fun f => f.cells.meets (objCells obj a n)
  (c.earlierAccs e.after).any (fun o => meets o.objId o.addr o.len)
    || (c.earlierReds e.after).any fun r => meets (Cap.obj r.cap) r.addr r.len

/-- The conditions of R307 that the window itself decides, but for settling. -/
def internallyReady (c : Core) (e : Entry) : Bool :=
  e.state == .waiting && !e.deps.any (outstanding c e) && engineOrder c e

/-- Every condition of R307 that this core decides; `coll` is the Collectives condition. -/
def entryReady (c : Core) (e : Entry) (coll : Bool) : Bool :=
  internallyReady c e && e.settled && waitsMet c e && ringsReady c e && coll && !threadPending c e

/-! ### Held boxes (R319) -/

namespace Core

/-- Every record of a segment has retired. -/
def segmentDone (c : Core) (k : Nat) : Bool := !c.board.entries.any (·.seg == some k)

/-- The matrix queue is empty. -/
def matrixIdle (c : Core) : Bool := (SMap.get [] c.eng.queues 0).isEmpty

/-- Held boxes released when their segment's records have retired and a later marker has started or the matrix queue is
empty; all at once (R319). -/
def releaseHeld (c : Core) : Core :=
  c.withBoard fun b => { b with held := b.held.filter fun h =>
    !(c.segmentDone h.segment && (h.segment != c.eng.segment.num || c.matrixIdle)) }

/-- The holds of one segment released (R319: a 65th record). -/
def dropHeld (c : Core) (k : Nat) : Core := c.withBoard fun b => { b with held := b.held.filter (·.segment != k) }

/-! ### Retirement (R309) -/

/-- A mailbox raised by one, saturating; a `WFE` that waits sees the rise (R76, R223). -/
def raiseMb (c : Core) (i : Nat) : Core :=
  let v := c.mb i
  let c1 := c.setMb i (if v = BitVec.allOnes 64 then v else v + 1)
  match c.wait with
  | .wfe m _ => { c1 with wait := .wfe m true }
  | _ => c1

/-- The mailboxes of a mask raised (R76). -/
def raiseMbs (c : Core) (m : BitVec 16) : Core := (List.range 16).foldl (fun c i => if m.getLsbD i then c.raiseMb i else c) c

/-- The run of completed ids passed by `below` (R337). -/
def passIds (ch : Nat) : Nat → List (Nat × BitVec 32) → BitVec 32 → List (Nat × BitVec 32) × BitVec 32
  | 0, ds, b => (ds, b)
  | fuel + 1, ds, b => if ds.contains (ch, b) then passIds ch fuel (ds.filter (· != (ch, b))) (b + 1) else (ds, b)

/-- A transfer id completes (R337). -/
def completeId (c : Core) (ch : Nat) (id : BitVec 32) : Core :=
  let ds := (ch, id) :: c.eng.doneIds
  let (ds, b) := passIds ch ds.length ds (SMap.get 0 c.eng.cpl ch)
  { c with eng := { c.eng with doneIds := ds, cpl := SMap.put 0 c.eng.cpl ch b } }

/-- The renames of an entry committed to the row map (R305); `back` copies each row it replaced into the new one first
(R435). -/
def commitRows' (c : Core) (wtr : SMap Nat) (back : Bool) : Core :=
  wtr.foldl (fun c m =>
    let new := m.2 - 1
    let c := if back then c.setProw new (c.row m.1) else c
    { c with eng := { c.eng with rowMap := SMap.put 0 c.eng.rowMap m.1 (if new = m.1 then 0 else new + 1) } }) c

/-- A record's read boxes are held as it retires: it is of the retained window (R319). -/
def keepsBoxes (c : Core) (e : Entry) : Bool :=
  match e.seg with | some k => k == c.eng.segment.num && c.eng.segment.retained && e.post.foots.any (·.reads) | none => false

/-- An entry leaves the window with the effects of R309, or of R435 where it is discarded. Its slot of a queue goes with
it, and a ring closes with its `SUBSCR` (R340). -/
def leave (c : Core) (e : Entry) (discard : Bool) : Core :=
  let p := e.post
  let hold := !discard && c.keepsBoxes e
  let k := e.seg.getD 0
  let c1 := if hold then c.withBoard fun b => { b with held := b.held ++ [⟨k, e⟩] } else c
  let c2 := if e.inSection then c1 else c1.commitRows' e.wtr discard
  let c3 := if discard then c2 else c2.raiseMbs p.sigMask
  let c4 := if p.takesId then c3.completeId p.channel p.xferId else c3
  let c5 := c4.withBoard fun b => { b with entries := b.entries.filter (·.seq != e.seq) }
  let c6 := { c5 with eng := { c5.eng with queues := c5.eng.queues.map (fun (q : Nat × List (BitVec 32)) => (q.1, q.2.filter (· != e.seq))) } }
  let c7 := { c6 with eng := { c6.eng with queues := c6.eng.queues.filter fun q => !q.2.isEmpty } }
  let c8 := if p.isSubscr then c7.setRing (nfield (p.word 8) 0 4) none else c7
  c8.releaseHeld

/-! ### Units (R86, R316, R484, R485) -/

/-- Translations that waited for a unit are fixed (R316). -/
def fixDeferred (c : Core) (g : BitVec 32) : Core :=
  let fix (x : Entry) : Entry :=
    let n := (c.board.entries.findIdx? (·.seq == x.seq)).getD 0
    let tr := (x.defer.filter (·.2 == g)).foldl (fun m d => SMap.put 0 m d.1 (forwardRow c (c.board.entries.take n) d.1 + 1)) x.tr
    { x with tr := tr, defer := x.defer.filter (·.2 != g) }
  c.withBoard fun b => { b with entries := b.entries.map fix }

/-- A unit resolved (R316): its `GUARD` entry becomes Free. -/
def resolveUnit (c : Core) (g : BitVec 32) : Core :=
  (c.withBoard fun b => { b with
    units := b.units.filter (·.guardSeq != g), entries := b.entries.filter (·.seq != g) }).fixDeferred g

/-- The unit's exact records have all retired (R86). -/
def exactsDone (c : Core) (u : GUnit) : Bool := u.failed && !u.exacts.any fun q => (c.entry q).isSome

/-- Failed units whose exact records have retired, resolved. -/
def resolveFailed (c : Core) : Core :=
  (c.board.units.filter c.exactsDone).foldl (fun c u => c.resolveUnit u.guardSeq) c

/-- An entry retired or discarded, with what follows for failed units. -/
def retire (c : Core) (e : Entry) (discard : Bool) : Core := (c.leave e discard).resolveFailed

/-- Every member of a bundle that is in the window has completed, and the bundle is closed (R82). -/
def bundleDone (c : Core) (h : BitVec 32) : Bool :=
  (match c.board.bundle with | some b => b.head != some h | none => true) &&
    c.board.entries.all fun e => e.bundleHead != some h || e.state == .completed

end Core

/-- A unit's residual (R484). -/
def residual (u : GUnit) (start : BitVec 32) : FVal :=
  let rnd (x : FVal) : FVal := Fmt.a56.value (Fmt.a56.round .rne x 0).bits
  (u.deliveries.mergeSort fun a b => decide ((a.1 - start).toNat ≤ (b.1 - start).toNat)).foldl (fun r d =>
    if d.2.1 then FVal.max r (rnd d.2.2) else rnd (FVal.add .rne r (rnd d.2.2)).1) (.fin false 0 0)

/-- The unit succeeds (R485). -/
def unitPasses (c : Core) (u : GUnit) : Bool :=
  let r := residual u u.guardSeq
  let k := match c.entry u.guardSeq with | some e => nfield (e.post.word 8) 0 4 | none => 0
  let tol := Fmt.f64.value (SMap.get 0 c.sp.gt k).toNat
  !u.breach && !u.discarded && !r.isNan && (match FVal.cmp r tol with | some d => decide (d ≤ 0) | none => false)

/-- The unit may be evaluated (R316). -/
def unitReady (c : Core) (u : GUnit) : Bool :=
  u.sect == 0 && !u.failed && !c.board.entries.any (·.ofUnit u.guardSeq) && !c.board.held.any (·.entry.ofUnit u.guardSeq)

namespace Core

/-- Success (R316): the speculative rows commit, captured records are dropped. -/
def passUnit (c : Core) (u : GUnit) : Core := (c.commitRows' u.spec false).resolveUnit u.guardSeq

/-- Accumulator entries of a footprint set to +0 (R86). -/
def clearAcc (c : Core) (f : Foot) : Core :=
  match f.cells with
  | .acc t r n q k =>
    let inside (x : Nat) : Bool :=
      decide (x / 16384 = t) && decide (r ≤ x % 16384 / 128) && decide (x % 16384 / 128 < r + n) && decide (q ≤ x % 128) && decide (x % 128 < q + k)
    { c with eng := { c.eng with acc := SMap.without c.eng.acc inside } }
  | _ => c

/-- A record that no thread is posting fails a check at post (R79, R339, R345): it does not enter, takes no id and has no effect, and the
window's thread takes the record fault at its next boundary. -/
def refuseRecord (c : Core) (p : Posted) (remote : Bool) (t : Trap) : Core :=
  { c with asyncTraps := c.asyncTraps ++ [{ t with delivery := .boundary, remote := remote, record := p.words }] }

/-- The exact records of a failing unit posted in capture order, after its `GUARD` and one another (R86, R317), each with the checks
against the window's rings at its post (R339). -/
def postExacts (g : BitVec 32) : List Posted → BitVec 32 → Core → Core
  | [], _, c => c
  | p :: ps, head, c =>
    match c.unit g with
    | none => c
    | some u =>
      let pos := (c.board.entries.findIdx? (·.seq == g)).getD 0 + 1 + u.exacts.length
      let seq := c.board.nextSeq
      match ringCheck c p with
      | some t => postExacts g ps head (c.refuseRecord p false t)
      | none =>
      let h := if p.bhead then seq else head
      let c1 := c.enter { p with words := p.words.set 0 (p.word 0 &&& ~~~0x180000) }
        ⟨false, pos, p.bhead, p.bmem, head, 3, some u, c.sp.rnge, c.nextOp, none, none⟩
      postExacts g ps h (c1.onUnit g fun v => { v with exacts := v.exacts ++ [seq] })

/-- Failure (R86, R316, R486). -/
def failUnit (c : Core) (u : GUnit) : Core :=
  let c1 := (u.feet.filter fun f => f.writes).foldl clearAcc
    { c with sp := { c.sp with gfail := c.sp.gfail + 1 } }
  let c2 := c1.onUnit u.guardSeq fun v => { v with failed := true, spec := [], promise := 0, feet := v.feet }
  (postExacts u.guardSeq u.captured 0 c2).resolveFailed

end Core

/-! ### Discard and retry (R435) -/

namespace Core

/-- A discarded surrogate or check task fails its unit (R436). -/
def markDiscarded (c : Core) (e : Entry) : Core :=
  if e.inSection then c.onUnit e.post.unitSeq fun u => { u with discarded := true } else c

/-- A task starts again from its beginning, keeping its translation (R435); one that met an MMX is released again through
the directory, and a collective step or a subscription goes on where it stood. -/
def retryEntry (c : Core) (seq : BitVec 32) : Core :=
  let mmx := match c.entry seq with | some e => (match e.fault with | some f => f.cause == 0x0A | none => false) | none => false
  let c1 := c.onEntry seq fun e =>
    { e with
      fault := none
      report := []
      state := if mmx then .waiting else e.state
      prog := if e.post.kind = 0x28 ∨ (e.post.isSubscr ∧ e.prog.begun) then e.prog else { Progress.fresh with redo := e.prog.redo } }
  if mmx then
    let qs := c1.eng.queues.map fun (q : Nat × List (BitVec 32)) => (q.1, q.2.filter (· != seq))
    { c1 with eng := { c1.eng with queues := qs.filter fun q => !q.2.isEmpty } }
  else c1

end Core

/-- The device-memory footprints of a record with the capability of each (R73, R361). -/
def Posted.dirFeet (p : Posted) : List (Cells × Bool × Cap) :=
  let boxes := (List.range 6).filterMap fun i =>
    match p.box i with
    | some b => if b.empty then none else some (b.cells (p.cap i), b.writes, p.cap i)
    | none => none
  let one (en : Bool) (cap : Cap) (off : Nat) : List (Cells × Bool × Cap) := if en then [(objCells (Cap.obj cap) off 1, false, cap)] else []
  boxes ++ one p.gwEn (p.cap 6) p.gwOff ++ one (p.usesRefs && p.hasRef 9) (p.cap 7) (p.refOff 9)
    ++ one (p.usesRefs && p.hasRef 10) (p.cap 8) (p.refOff 10)

/-- The capability that travels with a message: the object is named by its id at the home chip. -/
def travelCap (c : Cap) (obj : Nat) : Cap := Cap.make obj (Cap.rights c) (Cap.base c) (Cap.len c)

namespace State

/-- The footprints of a record that other chips' directories hold (R361): those in remote space, and those in objects that another chip
serves, by logical chip, as they travel. Those through nocheck are in none (R368). -/
def farFoot (s : State) (n : Nat) (f : Cells × Bool × Cap) : Option (Nat × RemFoot) :=
  if Cap.has f.2.2 6 then none
  else match f.1 with
    | .hbm obj lo cnt => match s.routeOf obj with
      | some (.peer lid far) => some (lid, ⟨travelCap f.2.2 far, lo, cnt, f.2.1⟩)
      | _ => none
    | .rem lid _ lo cnt =>
      let x := SMap.get PeerEntry.initial (s.tenant (s.tenantOf n)).peers lid
      if x.valid && !x.far && decide (x.phys.toNat = s.dev.chip) then none else some (lid, ⟨f.2.2, lo, cnt, f.2.1⟩)
    | _ => none

/-- The same of all its footprints. -/
def farFeet (s : State) (n : Nat) (p : Posted) : List (Nat × RemFoot) := p.dirFeet.filterMap (s.farFoot n)

/-- Of them, those that read boxes hold (R319). -/
def farReads (s : State) (n : Nat) (p : Posted) : List (Nat × RemFoot) :=
  (p.dirFeet.filter fun f => p.foots.any fun x => x.reads && x.cells == f.1).filterMap (s.farFoot n)

/-- The entries of a task at other chips are to be removed, and what it asked there is given up (R362, R402). -/
def leaveFar (s : State) (n : Nat) (seq : BitVec 32) : State :=
  { s with fab := { s.fab with
      remDirs := s.fab.remDirs.map fun (r : RemDir) => if r.core = n ∧ r.party = seq.toNat ∧ (r.stage = .made ∨ r.stage = .kept) then { r with stage := .leaving } else r
      asks := s.fab.asks.filter fun a => !(a.core == n && a.party == seq.toNat && a.role != .thread) } }

/-- The directory entries of a task, removed (R362). -/
def dropTask (s : State) (n : Nat) (seq : BitVec 32) : State := (s.dirRemove s.dev.chip n true seq.toNat).leaveFar n seq

/-- The read footprints of a held record as read entries (R362). -/
def holdTask (s : State) (n : Nat) (e : Entry) : State :=
  { s with hbm := { s.hbm with dir := s.hbm.dir.map fun d =>
      if d.chip == s.dev.chip && d.core == n && d.task && d.party == e.seq.toNat then { d with held := true, writes := false } else d } }

/-- Directory entries of held boxes that are no longer held, removed, here and at other chips (R362). -/
def trimHeld (s : State) (n : Nat) : State :=
  let b := (s.coreAt n).board
  let hs := b.held.map (·.entry.seq.toNat)
  let alive (p : Nat) : Bool := hs.contains p || b.entries.any (·.seq.toNat == p)
  { s with
    hbm := { s.hbm with dir := s.hbm.dir.filter fun d => !(d.chip == s.dev.chip && d.core == n && d.task && d.held && !hs.contains d.party) }
    fab := { s.fab with remDirs := s.fab.remDirs.map fun (r : RemDir) =>
      if r.core = n ∧ (r.stage = .made ∨ r.stage = .kept) ∧ !alive r.party then { r with stage := .leaving } else r } }

/-- The read granules of a record that is held stay in the directory, the others leave it (R362). -/
def leaveDir (s : State) (n : Nat) (e : Entry) : State :=
  let feet := e.post.foots.filter (·.reads)
  let kept := (s.coreAt n).board.held.any (·.entry.seq == e.seq)
  if !kept then s.dropTask n e.seq
  else
    let s1 : State := { s with hbm := { s.hbm with dir := s.hbm.dir.filter fun d =>
        !(d.chip == s.dev.chip && d.core == n && d.task && d.party == e.seq.toNat
          && !feet.any fun f => f.cells.meets (.hbm d.obj d.lo (d.hi - d.lo + 1))) } }
    s1.holdTask n e

/-- An entry retired or discarded, with its directory entries (R309, R362, R435). -/
def retireEntry (s : State) (n : Nat) (e : Entry) (discard : Bool) : State :=
  ((s.onCore n fun c => c.retire e discard).leaveDir n e).trimHeld n

/-- The entries of a task that retires are to be removed at other chips, but for those of the boxes that are held (R319, R362). -/
def partFar (s : State) (n : Nat) (e : Entry) : State :=
  let keep := if (s.coreAt n).keepsBoxes e then s.farReads n e.post else []
  { s with fab := { s.fab with remDirs := s.fab.remDirs.map fun (r : RemDir) =>
      if r.core = n ∧ r.party = e.seq.toNat ∧ r.stage = .made then
        { r with stage := .leaving, keep := (keep.filter fun f => f.1 == r.lid).map fun f => f.2 }
      else r } }

/-- The other chips have removed the entries of a task, but for those of held boxes. -/
def leftFar (s : State) (n : Nat) (e : Entry) : Bool :=
  s.fab.remDirs.all fun r => r.core != n || r.party != e.seq.toNat || (r.stage == .kept && (s.coreAt n).keepsBoxes e)

/-- So have they those of every member of a bundle (R82). -/
def bundleLeft (s : State) (n : Nat) (h : BitVec 32) : Bool :=
  ((s.coreAt n).board.entries.filter (·.bundleHead == some h)).all (s.leftFar n)

/-- Completed members of a finished bundle retired in post order (R82), once their entries at other chips have been removed (R362). -/
def finishBundle (s : State) (n : Nat) (h : BitVec 32) : State :=
  if (s.coreAt n).bundleDone h && s.bundleLeft n h then
    ((s.coreAt n).board.entries.filter (·.bundleHead == some h)).foldl (fun s e => s.retireEntry n e false) s
  else s

/-- A faulted task discarded (R435, R436): its entry is removed, and a bundle it was the last member of finishes. -/
def discardEntry (s : State) (n : Nat) (e : Entry) : State :=
  let s1 := s.retireEntry n e true
  let s2 := s1.onCore n fun c => c.markDiscarded e
  match e.bundleHead with | some h => s2.finishBundle n h | none => s2

end State

end Sys2Proof.Machine
end

