-- ==== Sys2Proof/Machine/Fault.lean ====
section
/-!
DEFINITION. Engine faults (R434 to R437): what a task's fault does to its entry, its queue and the thread of its window;
and the outcome of a record of the front end.
-/

namespace Sys2Proof.Machine

open Sys2Proof.Bits

/-- The queue of a core by number, as the engines hold it. -/
def queueNo : Queue → Nat
  | .matrix => 0 | .stream => 1 | .transpose => 2 | .copy c => 3 + c.val | .walker => 7 | .board => 8

/-- The queue an entry runs in (R66, R308). -/
def Entry.queue (e : Entry) : Queue :=
  match e.post.engine with
  | 0 => .matrix | 1 => .stream | 2 => .transpose
  | 3 => .copy ⟨e.post.channel % 4, Nat.mod_lt _ (by decide)⟩
  | 4 => .walker
  | _ => .board

/-- The trap of a task's fault (R426, R428, R429). -/
def taskTrap (e : Entry) (f : TaskFault) (report : List Word) : Trap where
  delivery := .engine
  cause := f.cause
  reason := f.reason
  word := 0
  remote := e.remote
  info := BitVec.ofNat 64 (e.seq.toNat + f.detail.toNat % 2 ^ 32 * 2 ^ 32)
  seq := e.seq
  report := report
  record := e.post.words
  late := false

namespace State

/-- A collective step of a task is open. -/
def stepOpen (s : State) (n : Nat) (seq : BitVec 32) : Bool := s.fab.steps.any fun x => x.core == n && x.seq == seq

/-- A collective task discarded (R519): its unacknowledged lines are given up, a line whose application faulted is refused
by settling its sender as timed out, and the step goes on to its close. Its end lines still go where its walk had begun. -/
def dropColl (s : State) (n : Nat) (e : Entry) : State :=
  let drop (x : CollStep) : CollStep := { x with
    settles := x.settles.map fun y => if x.badLine.map Prod.fst = some y.member then { y with timedOut := true } else y
    dropped := true, stale := true, unacked := [], badLine := none, endsSent := x.endsSent || !e.prog.begun }
  let s1 := { s with fab := { s.fab with steps := s.fab.steps.map fun (x : CollStep) => if x.core = n ∧ x.seq = e.seq then drop x else x } }
  s1.onCore n fun c => c.onEntry e.seq fun x => { x with fault := none, report := [] }

/-- A task the front end posted ends by a fault, and its record completes with 0x05 (R427). -/
def endPosted (s : State) (n : Nat) (e : Entry) (fn q : Nat) (idx : BitVec 32) : State :=
  (if s.stepOpen n e.seq then s.dropColl n e else s.discardEntry n e).setOutcome fn q idx 0x05 0 none

/-- A task faults (R434, R436, R437). A surrogate or check task is discarded, but for a capability fault. Any other is marked
faulted at the head of its queue: a capability fault or bound trap freezes the engine first, and the fault then ends a record
that the front end posted, or goes to the thread. -/
def faultTask (s0 : State) (n : Nat) (seq : BitVec 32) (f : TaskFault) (report : List Word) : State :=
  match (s0.coreAt n).entry seq with
  | none => s0
  | some e =>
    let s := if e.inSection ∧ f.cause ≠ 0x02 ∧ f.cause ≠ 0x12 then s0
      else if f.cause = 0x12 ∧ e.post.engine < 3 ∧ s0.inTurn n then s0.countFn 0 3 else s0.countTrap n f.cause
    if e.inSection ∧ f.cause ≠ 0x02 then s.discardEntry n e
    else
      let t := taskTrap e f report
      let mark (c : Core) : Core := c.onEntry seq fun x => { x with state := .executing, fault := some f, report := report }
      if f.cause = 0x02 ∨ f.cause = 0x0F then
        s.onCore n fun c =>
          { mark c with frozen := c.frozen ++ [.engine e.queue], frozenTraps := c.frozenTraps ++ [(.engine e.queue, t)] }
      else match e.origin with
        | some (fn, q, idx) => s.endPosted n e fn q idx
        | none => s.onCore n fun c => { mark c with asyncTraps := c.asyncTraps ++ [t] }

end State

end Sys2Proof.Machine
end

