-- ==== Sys2Proof/Machine/Port.lean ====
section
/-!
DEFINITION. An access at the place that performs it (R16, R350, R376, R379, R383, R440, R441, R469), and what the
access unit makes of the outcome (R430, R438, R456).
-/

namespace Sys2Proof.Machine

open Sys2Proof.Bits

/-- What a performing point does for a request. -/
inductive PortOp where
  | read (len : Nat)
  | write (data : Bytes)
  | rmw (op : RmwOp) (t : Ty) (b d : BitVec 128)
  deriving DecidableEq, Repr

/-- Bytes the request touches. -/
def PortOp.len : PortOp → Nat
  | .read n => n
  | .write d => d.length
  | .rmw op t _ _ => rmwWidth op t / 8

/-- It writes memory. -/
def PortOp.writes : PortOp → Bool
  | .read _ => false
  | _ => true

/-- The outcome: performed with the bytes read and the grain stamp they were read under; a fault by cause; a page
fault; or a wait for a migration, a full hold buffer or a reserve grain. -/
inductive PortRes where
  | done (data : Bytes) (stamp : Word) (s : State)
  | fault (cause : BitVec 8)
  | page (ext : Nat)
  | hold (s : State)
  deriving DecidableEq, Repr

namespace State

/-- Blocks of 64 bytes in a hold buffer of the tide engine that copies an extent (R440): one extent per buffer. -/
def heldBlocks (s : State) (obj ext : Nat) : Nat :=
  (s.hbm.holds.filter fun h => h.obj == obj && h.off / extentBytes == ext).foldl
    (fun n h => n + ((h.off + h.data.length - 1) / 64 - h.off / 64 + 1)) 0

/-- The grain stamp of a byte of an object (R457): the highest stamp of the writes applied to its grain, those that a hold buffer has
taken among them, which reads return (R350, R440). -/
def stampAt (s : State) (obj off : Nat) : Word :=
  let base : Word := match s.physGrain obj (off / grainBytes) with | some g => SMap.get 0 s.hbm.stamps g | none => 0
  let held := s.hbm.holds.filter fun h =>
    h.obj == obj && decide (h.off / grainBytes ≤ off / grainBytes) && decide (off / grainBytes ≤ (h.off + h.data.length - 1) / grainBytes)
  held.foldl (fun v h => if v.toNat < h.stamp.toNat then h.stamp else v) base

/-- A write that waits for a reserve grain is listed once (R469). -/
def waitReserve (s : State) (tenant obj off : Nat) : State :=
  match s.physGrain obj (off / grainBytes) with
  | none => s
  | some g =>
    let w : StrataWait := ⟨grainStack g, tenant, obj, off / grainBytes⟩
    if s.hbm.waits.contains w then s else { s with hbm := { s.hbm with waits := s.hbm.waits ++ [w] } }

/-- A write at the port, once its checks have passed. -/
def portWrite (s : State) (tenant obj off : Nat) (bs old : Bytes) (stamp : Word) (atomic : Bool) : PortRes :=
  if s.migrating obj off && (atomic || decide (256 < s.heldBlocks obj (off / extentBytes) + (bs.length + 63) / 64)) then .hold s
  else match s.writeBytes tenant obj off bs stamp with
    | some s1 =>
      .done old stamp { s1 with hbm := { s1.hbm with waits := s1.hbm.waits.filter fun w =>
        !(w.tenant == tenant && w.obj == obj && w.grain == off / grainBytes) } }
    | none => .hold (s.waitReserve tenant obj off)

/-- The effect of a read-modify-write on bytes (R379, R383): what it writes, or a timeline fault. -/
def rmwBytes (op : RmwOp) (t : Ty) (old : Bytes) (b d : BitVec 128) : Option Bytes :=
  (rmwNew op t (natOfBytes old) b.toNat d.toNat).map fun n => toBytes (BitVec.ofNat 128 n) (rmwWidth op t / 8)

/-- The memory port of a byte has stopped clocks: its stack is in a partition that a debug freeze holds (R517). -/
def portStopped (s : State) (obj off : Nat) : Bool :=
  match s.physAddr obj off with | some a => bit s.dev.dbgctl (32 + a / (stackFrames * extentBytes)) | none => false

/-- A request performed at this chip's memory port (R16, R350). -/
def portLocal (s : State) (tenant obj off : Nat) (op : PortOp) (stamp : Word) : PortRes :=
  match s.portCheck tenant obj off op.len with
  | .objectFault => .fault 0x07
  | .pageFault e => .page e
  | .proceed =>
    if s.portStopped obj off then .hold s
    else if s.poisonFault obj off op.len (match op with | .write _ => true | _ => false) then .fault 0x12
    else
      let old := s.bytesAt obj off op.len
      match op with
      | .read _ => .done old (s.stampAt obj off) s
      | .write bs => if bs.isEmpty then .done [] stamp s else s.portWrite tenant obj off bs [] stamp false
      | .rmw o t b d =>
        match rmwBytes o t old b d with
        | none => .fault 0x0D
        | some bs => match s.portWrite tenant obj off bs old stamp true with
          | .done d _ s1 => .done d (s.stampAt obj off) s1
          | r => r

/-- A request performed in host memory over PCIe (R374, R376): the size check of R16 alone. -/
def portHost (s : State) (tenant : Nat) (o : Obj) (base off : Nat) (op : PortOp) : PortRes :=
  if o.tenant ≠ tenant ∨ o.bytes < off + op.len then .fault 0x07
  else
    let old := (List.range op.len).map fun i => s.hostByteAt (base + off + i)
    let s1 := { s with freeCtr := s.freeCtr + 1 }
    match op with
    | .read _ => .done old 0 s1
    | .write bs => .done [] 0 (s1.setHostBytes (base + off) bs)
    | .rmw r t b d =>
      match rmwBytes r t old b d with
      | none => .fault 0x0D
      | some bs => .done old 0 (s1.setHostBytes (base + off) bs)

/-- A request performed by this package, by the route of its object. A peer's requests go through the fabric. -/
def portAccess (s : State) (tenant obj off : Nat) (op : PortOp) (stamp : Word) : PortRes :=
  match s.obj obj with
  | none => .fault 0x07
  | some o => match o.route with
    | .host base => s.portHost tenant o base off op
    | _ => s.portLocal tenant obj off op stamp

end State

/-! ### The access unit and the outcome -/

namespace Core

/-- The window's stamp raised (R456): it never decreases. -/
def raiseStamp (c : Core) (v : Word) : Core := if c.stamp.toNat < v.toNat then { c with stamp := v } else c

/-- The operations of a group from a faulting one on, as a pending set (R430): accesses still in the unit and entries
that the group's reductions made. -/
def groupFrom (c : Core) (grp id : Nat) : List AccOp :=
  (c.acc.filter fun o => o.grp == grp && decide (id ≤ o.id) && o.kind != .fence && o.phase != .performed) ++
  (c.reds.filter fun r => r.grp == grp && decide (id ≤ r.id) && !r.sent).map fun r =>
    ⟨r.id, r.rank, r.grp, r.word, .red r.op r.t, r.cap, r.addr, r.len, r.ord, r.scope, r.data.setWidth 128, 0, 0, .queued, 0⟩

/-- A fault found after issue (R430): the faulting operation and the later memory operations of its group leave the
unit for the pending set, and the trap waits for the next group boundary. It is late if groups have issued since. -/
def faultAfter (c : Core) (grp id : Nat) (t : Trap) : Core :=
  let p := c.groupFrom grp id
  { c with
    acc := c.acc.filter fun o => !p.any fun q => q.id == o.id
    reds := c.reds.filter fun r => !p.any fun q => q.id == r.id
    pendingSet := c.pendingSet ++ p
    asyncTraps := c.asyncTraps ++ [{ t with late := t.late || decide (grp + 1 < c.groups) }] }

end Core

/-- The cause of an after-issue fault as a trap (R426). -/
def accTrap (cause reason : BitVec 8) (word : BitVec 2) (info : Word) (report : List Word) : Trap :=
  ⟨.afterIssue, cause, reason, word, false, info, 0, report, [], false⟩

/-- The request an operation of the unit sends. -/
def AccOp.request (o : AccOp) : PortOp :=
  match o.kind with
  | .load t _ => .read (Ty.bytes t)
  | .loadRegion _ => .read 8
  | .wait .. => .read 8
  | .store => .write (toBytes o.data o.len)
  | .rmw op t _ => .rmw op t o.data o.cmp
  | .red op t => .rmw op t o.data 0
  | .fence => .read 0

/-- The word that a `SIGWAIT` read satisfies it (R384). -/
def waitSatisfied (t : Ty) (v b : Word) : Bool := if t = .i64 then decide (b.toInt ≤ v.toInt) else decide (b.toNat ≤ v.toNat)

namespace State

/-- What an operation's performance leaves in its core: a store is gone, a load waits for its return, a `SIGWAIT` reads
again until it is satisfied; an acquire raises the stamp (R456). -/
def accDone (s : State) (n : Nat) (o : AccOp) (data : Bytes) (stamp : Word) : State :=
  let v := BitVec.ofNat 128 (natOfBytes data)
  s.onCore n fun c =>
    let c := if o.ord.acquires then c.raiseStamp stamp else c
    match o.kind with
    | .store | .red .. | .fence => (c.dropAcc o.id).trimFences
    | .wait t b _ =>
      if waitSatisfied t (v.setWidth 64) b then c.onAcc o.id fun q => { q with phase := .performed, result := v }
      else c.onAcc o.id fun q => { q with phase := .queued }
    | _ => (c.onAcc o.id fun q => { q with phase := .performed, result := v }).trimFences

/-- An operation that faults when it would be performed: nothing is performed, its directory entry goes. The group of a waiting
`SIGWAIT` has come to its end with it (R377, R430). -/
def accFails (s : State) (n : Nat) (o : AccOp) (t : Trap) : State :=
  ((s.dirRemove s.dev.chip n false o.id).countTrap n t.cause).onCore n fun c =>
    (if c.wait = .sigwait o.id then Core.endGroup 1 { c with wait := .none } else c).faultAfter o.grp o.id t

/-- An operation performed at this package's port (R350), with its stamp, and its directory entry removed (R362). A page
fault halts the unit (R438). -/
def performAcc (s : State) (n : Nat) (o : AccOp) : State :=
  match s.portAccess (s.tenantOf n) o.objId o.addr o.request o.stamp with
  | .done data stamp s1 => (s1.dirRemove s1.dev.chip n false o.id).accDone n o data stamp
  | .fault cause =>
    s.accFails n o (accTrap cause 0 o.word (BitVec.ofNat 64 o.addr) [])
  | .page _ => s.onCore n fun c => { c.onAcc o.id fun q => { q with phase := .paged, stamp := o.stamp } with accHalted := true }
  | .hold s1 => s1

/-- An operation entered in the directory (R362); an MMX is a fault after issue (R366). -/
def enterAcc (s : State) (n : Nat) (o : AccOp) : State :=
  match s.dirInsert (s.scalarEntries n o.id o.cap o.addr o.len o.updates o.marked) with
  | .made s1 => s1.onCore n fun c => c.onAcc o.id fun q => { q with phase := .entered }
  | .mmx r => s.accFails n o (accTrap 0x0A 0 o.word ((r[0]?).getD 0) r)
  | .full => s

/-- The object of an operation is served by another chip (R402). -/
def servedByPeer (s : State) (obj : Nat) : Bool := match s.routeOf obj with | some (.peer ..) => true | _ => false

/-- A `SIGWAIT` reads its word once (R384): its directory entry stands for that read alone. -/
def pollWait (s : State) (n id : Nat) : State :=
  match (s.coreAt n).accOp id with
  | none => s
  | some o =>
    let c := s.coreAt n
    if o.phase = .paged ∧ !c.accHalted then s.performAcc n { o with stamp := c.stamp }
    else if (o.phase = .queued ∨ o.phase = .entered) ∧ c.mayPerform o ∧ !c.haltedBefore o.rank ∧ !s.servedByPeer o.objId then
      let s1 := if o.phase = .queued then s.enterAcc n o else s
      match (s1.coreAt n).accOp id with
      | some q => if q.phase = .entered then s1.performAcc n { q with stamp := (s1.coreAt n).stamp } else s1
      | none => s1
    else s

end State

end Sys2Proof.Machine
end

