-- ==== Sys2Proof/Machine/Flow.lean ====
section
/-!
DEFINITION. Sending on the flows of the fabric (R396 to R399, R401, R402): the peer map, the flow of a message, its sequence
number and what is kept of it until it is acknowledged; and requests of a task, a thread or the front end to another chip.
-/

namespace Sys2Proof.Machine

open Sys2Proof.Bits

/-- What sending comes to: sent with a flow and a number, a wait (a remap drains the entry, the flow is held or holds
65,536 messages), or an entry that is not valid. -/
inductive SendRes where
  | sent (flow : FlowId) (seq : BitVec 32) (s : State)
  | waits
  | invalid

namespace State

/-- A peer-map entry of a tenant (R396). -/
def peer (s : State) (t lid : Nat) : PeerEntry := SMap.get PeerEntry.initial (s.tenant t).peers lid

/-- A logical ID of a tenant is this chip's own (R396). -/
def ownLid (s : State) (t lid : Nat) : Bool :=
  let e := s.peer t lid
  e.valid && !e.far && decide (e.phys.toNat = s.dev.chip)

/-- The home core a member's window is named by (R398): where its team was first placed. -/
def homeCore (s : State) (n : Nat) : Nat :=
  match (s.coreAt n).team.bind s.team with
  | some tm => (tm.home[(s.coreAt n).rank]?).getD n
  | none => n

/-- A physical chip as flows number it: far peers are numbered above the chips of the domain (R424). -/
def peerChip (s : State) (t lid : Nat) : Nat := let e := s.peer t lid; if e.far then 1024 + e.phys.toNat else e.phys.toNat

/-- The flow from a core to a logical chip (R399): every flow to a far peer is unordered (R424). -/
def flowTo (s : State) (n t lid : Nat) (cls : Fin 4) (ordered : Bool) : FlowId :=
  ⟨s.dev.chip, n, s.peerChip t lid, cls, ordered && !(s.peer t lid).far⟩

/-- The sending side of a flow. -/
def flowOut (s : State) (f : FlowId) : Option FlowOut := s.fab.flowsOut.find? (·.id == f)

/-- The sending side of a flow replaced, or made. -/
def setFlowOut (s : State) (o : FlowOut) : State :=
  { s with fab := { s.fab with flowsOut := (s.fab.flowsOut.filter (·.id != o.id)) ++ [o] } }

/-- A message on its way (R399): it takes the flow's next number and is kept until its acknowledgement. -/
def sendFlow (s : State) (n t lid : Nat) (cls : Fin 4) (ordered : Bool) (stamp : Word) (body : MsgBody) (party : Nat) (isTask : Bool) : SendRes :=
  let e := s.peer t lid
  if !e.valid then .invalid
  else
    let f := s.flowTo n t lid cls ordered
    let o := (s.flowOut f).getD ⟨f, 0, [], false, []⟩
    if e.drain || o.held || decide (65536 ≤ o.unacked.length) then .waits
    else
      let m : FlowMsg := ⟨f, o.next, s.homeCore n, stamp, body⟩
      let member := (s.coreAt n).team.map fun k => (k, (s.coreAt n).rank)
      let s1 := s.setFlowOut { o with next := o.next + 1, unacked := o.unacked ++ [⟨m, t, lid, 0, party, isTask, member⟩] }
      .sent f o.next { s1 with fab := { s1.fab with net := s1.fab.net ++ [m] } }

/-- A message taken from what is kept, once it is acknowledged or given up. -/
def dropUnacked (s : State) (f : FlowId) (seq : BitVec 32) : State :=
  match s.flowOut f with
  | none => s
  | some o => s.setFlowOut { o with unacked := o.unacked.filter fun u => u.msg.seq != seq }

/-- The message a flow keeps under a number. -/
def unacked (s : State) (f : FlowId) (seq : BitVec 32) : Option Unacked :=
  (s.flowOut f).bind fun o => o.unacked.find? fun u => u.msg.seq == seq

/-- Where the party of a message of core `n` stands now: on the core its member is on, in its saved image, or nowhere. -/
def ownerAt (s : State) (n : Nat) (u : Unacked) : Nat :=
  match u.member with
  | none => n
  | some (t, r) => match s.team t with
    | some tm => if tm.state = .placed ∨ tm.state = .saving then (tm.cores[r]?).getD 0xFFFFFF else if tm.state = .saved then parkNo t r else 0xFFFFFF
    | none => 0xFFFFFF

/-- A message no longer on its way. -/
def dropNet (s : State) (f : FlowId) (seq : BitVec 32) : State :=
  { s with fab := { s.fab with net := s.fab.net.filter fun m => !(m.flow == f && m.seq == seq) } }

/-- An answer of this chip to a message (R401). -/
def reply (s : State) (f : FlowId) (seq : BitVec 32) (reason : BitVec 4) (data : Bytes) (stamp : Word) (fault : BitVec 8) : State :=
  { s with fab := { s.fab with replies := s.fab.replies ++ [⟨f, seq, reason, data, stamp, fault⟩] } }

/-- The receiving side of a flow. -/
def flowIn (s : State) (f : FlowId) : FlowIn := (s.fab.flowsIn.find? (·.id == f)).getD ⟨f, 0, []⟩

end State

namespace FlowIn

/-- A message of the flow that has been delivered, or refused for good. -/
def seen (i : FlowIn) (seq : BitVec 32) : Bool := i.beyond.contains seq || decide (2 ^ 31 ≤ (seq - i.next).toNat)

/-- The next number passes every number already delivered. -/
def pass (i : FlowIn) : Nat → FlowIn
  | 0 => i
  | fuel + 1 => if i.beyond.contains i.next then ({ i with next := i.next + 1, beyond := i.beyond.filter (· != i.next) } : FlowIn).pass fuel else i

end FlowIn

namespace State

/-- A message's number recorded at the destination (R400). -/
def noteIn (s : State) (f : FlowId) (seq : BitVec 32) : State :=
  let i := s.flowIn f
  let j := ({ i with beyond := seq :: i.beyond } : FlowIn).pass (i.beyond.length + 1)
  { s with fab := { s.fab with flowsIn := (s.fab.flowsIn.filter (·.id != f)) ++ [j] } }

/-- A message that its sender gives up: kept and on its way no more, and its number on a flow of this chip passed over. -/
def dropMsg (s : State) (f : FlowId) (seq : BitVec 32) : State :=
  let s1 := (s.dropUnacked f seq).dropNet f seq
  if f.dstChip = s.dev.chip ∧ !(s1.flowIn f).seen seq then s1.noteIn f seq else s1

/-- A message delivered or refused, with its answer: one refused as overrun comes again. -/
def settleMsg (s : State) (msg : Option (FlowId × BitVec 32)) (reason : BitVec 4) : State :=
  match msg with
  | none => s
  | some (f, q) => (if reason = 6 then s else s.noteIn f q).reply f q reason [] 0 0

/-! ### Requests to another chip (R402) -/

/-- A fault of an access of a task, with its detail where the access itself gives one (R426). -/
structure PortFault where
  cause : BitVec 8
  reason : BitVec 8
  detail : Option Word
  deriving DecidableEq, Repr

/-- The fault of a task that meets it, with the detail of the engine that made the access. -/
def PortFault.task (f : PortFault) (detail : Word) : TaskFault := ⟨f.cause, f.reason, f.detail.getD detail⟩

/-- What an access of a task comes to: bytes, a fault, or a wait for firmware, a migration, a reserve grain or an answer. -/
inductive TaskRes where
  | ok (data : Bytes) (s : State)
  | fault (f : PortFault)
  | wait (s : State)

/-- The number that stands for the front end among the windows that ask. -/
def feWindow : Nat := 512

/-- A request of a party to another chip (R402): sent once, and answered when its acknowledgement has come. A window's messages
leave from its core, the front end's as core 0's. A peer-map entry that is not valid is a fabric fault (R403). -/
def peerAsk (s : State) (n party : Nat) (role : AskRole) (t lid : Nat) (cap : Cap) (off : Nat) (op : RemOp) (marked ordered : Bool) (stamp : Word) : TaskRes :=
  match s.fab.asks.find? fun a => a.core == n && a.party == party && a.role == role && a.obj == Cap.obj cap && a.off == off && a.op == op with
  | some a => match a.answer with
    | none => .wait s
    | some (c, bs) => if c = 0 then .ok bs s else .fault ⟨c, 0, none⟩
  | none =>
    match s.sendFlow (if n = feWindow then 0 else n) t lid 1 ordered stamp (.access cap t off op marked (role != .thread && role != .frontEnd)) party true with
    | .sent f q s1 => .wait { s1 with fab := { s1.fab with asks := s1.fab.asks ++ [⟨n, party, role, Cap.obj cap, off, op, (f, q), none⟩] } }
    | .waits => .wait s
    | .invalid => .fault ⟨0x0C, 0x01, some (BitVec.ofNat 64 lid)⟩

/-- Entries of tasks at other chips whose removal is due (R362): the message that removes each leaves, as far as it can. A window that has
ended has the chip speak for it, as core 0. -/
def sendLeaves (s : State) : State :=
  s.fab.remDirs.foldl (fun a r =>
    if r.stage ≠ .leaving ∨ r.msg.isSome then a
    else
      let n := if r.core < 384 then r.core else 0
      match a.sendFlow n r.tenant r.lid 1 true (a.coreAt n).stamp (.leave r.home r.party r.keep) r.party true with
      | .sent f q b => { b with fab := { b.fab with remDirs := b.fab.remDirs.map fun (x : RemDir) => if x = r then { x with stage := .removing, msg := some (f, q) } else x } }
      | .waits => a
      | .invalid => { a with fab := { a.fab with remDirs := a.fab.remDirs.filter (· != r) } }) s

/-- The requests of a party that served their purpose, or will not be used. -/
def dropAsks (s : State) (n party : Nat) (role : AskRole) : State :=
  { s with fab := { s.fab with asks := s.fab.asks.filter fun a => !(a.core == n && a.party == party && a.role == role) } }

/-- An answer that some request awaited. -/
def answerAsk (s : State) (f : FlowId) (seq : BitVec 32) (cause : BitVec 8) (data : Bytes) : State :=
  { s with fab := { s.fab with asks := s.fab.asks.map fun a => if a.msg = (f, seq) then { a with answer := some (cause, data) } else a } }

end State

end Sys2Proof.Machine
end

