-- ==== Sys2Proof/Machine/Frames.lean ====
section
/-!
DEFINITION. Frames (R15, R120, R133, R440, R441, R471): which are free, giving one to an extent, moving an extent, and
what becomes of the grains of strata as it moves.
-/

namespace Sys2Proof.Machine

open Sys2Proof.Bits

/-- The slots of a copy task's sides: source and destination. -/
def copySlots (p : Posted) : Nat × Nat := if p.kind = 0x20 then (0, 1) else (0, 2)

namespace State

/-- Frames that extents hold or migrate to, frames with grains in use of a reserve or kept to be drained, and retired frames. -/
def usedFrames (s : State) : List Nat :=
  (s.hbm.objs.flatMap fun e => match e.2 with
    | none => []
    | some o => o.exts.flatMap fun x => x.2.frame.toList ++ x.2.migrating.toList) ++
  s.hbm.kept.map (fun k => k.phys / frameGrains) ++ s.hbm.moved.map (fun m => (m.2 - 1) / frameGrains) ++
  s.hbm.redirects.flatMap (fun r => [r.old / frameGrains, r.new / frameGrains]) ++ s.hbm.retired.map Prod.fst

/-- The first frame of a stack for objects: the carve-out is the first 128 MiB of stack 0 (R133). -/
def firstFrame (stack : Nat) : Nat := stack * stackFrames + if stack = 0 then 64 else 0

/-- The lowest free frame of a stack outside its reserve (R467). -/
def freeIn (s : State) (used : List Nat) (stack : Nat) : Option Nat :=
  let lo := firstFrame stack
  let hi := (stack + 1) * stackFrames - s.reserveFrames
  (List.range (used.length + 1)).findSome? fun i => if lo + i < hi ∧ !used.contains (lo + i) then some (lo + i) else none

/-- The stacks a mask permits: 0 means any (R119). -/
def stacksOf (mask : BitVec 12) : List Nat := (List.range 12).filter fun d => mask = 0 || mask.getLsbD d

/-- A free frame from a permitted stack. -/
def freeFrame (s : State) (mask : BitVec 12) : Option Nat := (stacksOf mask).findSome? (s.freeIn s.usedFrames)

/-- A frame's bytes, marks and stamps gone: it reads zero. -/
def wipeFrame (s : State) (f : Nat) : State :=
  { s with hbm := { s.hbm with
      mem := SMap.without s.hbm.mem fun a => a / extentBytes == f
      poisoned := SMap.without s.hbm.poisoned fun b => b / (extentBytes / 64) == f
      stamps := SMap.without s.hbm.stamps fun g => g / frameGrains == f } }

/-- An extent of an object changed, and every channel's cached translation of it dropped (R17). -/
def setExt (s : State) (obj ext : Nat) (v : Extent) : State :=
  match s.obj obj with
  | none => s
  | some o =>
    let s1 := s.setObj obj (some (o.setExt ext v))
    { s1 with hbm := { s1.hbm with extCache := s1.hbm.extCache.filter fun x => !(x.obj == obj && x.ext == ext) } }

/-- An extent made resident in a zero-filled frame, if a permitted stack has one (R120, R438). -/
def makeResident (s : State) (obj ext : Nat) : Option State :=
  match s.obj obj with
  | none => none
  | some o => (s.freeFrame o.stackMask).map fun f => (s.wipeFrame f).setExt obj ext ⟨some f, none⟩

/-- A grain copied with its stamp and its poison marks. -/
def moveGrain (s : State) (old new : Nat) : State :=
  let s1 := s.copyGrain old new
  let marks := s1.hbm.poisoned.filterMap fun e => if e.1 / 1024 = old then some (e.1 % 1024) else none
  let kept := SMap.without s1.hbm.poisoned fun b => b / 1024 == new
  { s1 with hbm := { s1.hbm with
      stamps := SMap.put 0 s1.hbm.stamps new (SMap.get 0 s1.hbm.stamps old)
      poisoned := marks.foldl (fun m b => SMap.put false m (new * 1024 + b) true) kept } }

/-- A grain that moved data stood in is given up (R120, R466): it returns to the reserve, or is part of a frame that no object
holds. -/
def giveUp (s : State) (p : Nat) : State :=
  let f := p / frameGrains
  let owned := s.hbm.objs.any fun e => match e.2 with
    | some o => o.exts.any fun x => x.2.frame == some f
    | none => false
  if owned || decide ((f / stackFrames + 1) * stackFrames - s.reserveFrames ≤ f) then s.giveReserve p else s

/-- A redirection replaced, or made. -/
def setRedirect (s : State) (r : Redirect) : State :=
  { s with hbm := { s.hbm with redirects := (s.hbm.redirects.filter fun x => !(x.obj == r.obj && x.grain == r.grain)) ++ [r] } }

/-- The grain of an object is moved to no reserve grain. -/
def unmove (s : State) (obj grain : Nat) : State := { s with hbm := { s.hbm with moved := SMap.put 0 s.hbm.moved (grainKey obj grain) 0 } }

/-- One grain of an extent moved to its place in the new frame (R471): undrained frozen content goes to a reserve grain of
the destination stack and keeps its stratum; a reserve grain that held current data returns. None where no reserve grain
is free. -/
def migrateGrain (s : State) (t obj grain place new : Nat) : Option State :=
  match s.physGrain obj grain with
  | none => some s
  | some g =>
    let frozen (src : Nat) (a : State) : Option State :=
      (a.takeReserve (grainStack new)).map fun (rsv, b) => (b.moveGrain src rsv).setRedirect ⟨obj, grain, rsv, new⟩
    let a0 : Option State :=
      match s.frozenOf t with
      | none => some s
      | some f => match s.redirectOf obj grain with
        | some r => frozen r.old s
        | none => if (SMap.get 0 s.hbm.stamps g).toNat ≤ f.toNat ∧ !s.drainedGrain t obj grain g then frozen g s else some s
    let left := match s.redirectOf obj grain with | some r => [g, r.old] | none => [g]
    a0.map fun a =>
      let b := (a.moveGrain g new).unmove obj grain
      (left.filter (· != place)).foldl giveUp b

/-- The grains of an extent moved in turn. -/
def migrateGrains (s : State) (t obj ext old new : Nat) : List Nat → Option State
  | [] => some s
  | i :: r =>
    match s.migrateGrain t obj (ext * frameGrains + i) (old * frameGrains + i) (new * frameGrains + i) with
    | none => none
    | some s1 => s1.migrateGrains t obj ext old new r

/-- Reserve grains that lie in a frame are grains of the stack's reserve no more once it is freed. -/
def dropReserveIn (s : State) (f : Nat) : State :=
  let k := f / stackFrames
  let r := SMap.get ⟨0, []⟩ s.hbm.reserves k
  { s with hbm := { s.hbm with reserves := SMap.put ⟨0, []⟩ s.hbm.reserves k { r with back := r.back.filter fun g => g / frameGrains != f } } }

/-- A reserve grain that is in use moved to another of its stack. -/
def moveReserve (s : State) (p : Nat) : State :=
  match s.takeReserve (grainStack p) with
  | none => s
  | some (q, a) =>
    let swap (g : Nat) : Nat := if g = p then q else g
    let b := a.moveGrain p q
    { b with hbm := { b.hbm with
        moved := b.hbm.moved.map fun m => (m.1, if m.2 = p + 1 then q + 1 else m.2)
        redirects := b.hbm.redirects.map fun r => { r with old := swap r.old, new := swap r.new }
        kept := b.hbm.kept.map fun k => { k with phys := swap k.phys } } }

/-- A frame leaves the object it belonged to: grains of it that the reserve holds in exchange for others leave the reserve
(R464, R466, R467). -/
def clearFrame (s : State) (f : Nat) : State :=
  let s1 := s.dropReserveIn f
  let lent := (s1.hbm.moved.map fun m => m.2 - 1) ++ s1.hbm.redirects.flatMap (fun r => [r.old, r.new]) ++ s1.hbm.kept.map KeptGrain.phys
  ((lent.filter fun g => g / frameGrains == f).eraseDups.foldl moveReserve s1)

/-- The held writes of an extent performed at its new place in arrival order (R440). -/
def drainHolds (s : State) (t obj ext : Nat) : State :=
  let mine (h : HeldWrite) : Bool := h.obj == obj && h.off / extentBytes == ext
  let hs := s.hbm.holds.filter mine
  let s1 : State := { s with hbm := { s.hbm with holds := s.hbm.holds.filter fun h => !mine h } }
  hs.foldl (fun a h => match a.writeBytes t h.obj h.off h.data h.stamp with
    | some b => b
    | none => { a with hbm := { a.hbm with holds := a.hbm.holds ++ [h] } }) s1

/-- A chunk of a copy channel has translated an extent and is not done (R331): a change of the extent's entry waits for it (R17). -/
def chunkHolds (s : State) (obj ext : Nat) : Bool :=
  let on (e : Entry) (q x : Nat) : Bool := x == ext + 1 && (match e.post.box q with | some b => b.space == .hbm && Cap.obj (e.post.cap q) == obj | none => false)
  s.cores.any fun c => c.2.board.entries.any fun e =>
    e.state == .executing && decide (e.prog.at' < e.prog.lim) && e.post.engine == 3
      && (on e (copySlots e.post).1 e.prog.exts.1 || on e (copySlots e.post).2 e.prog.exts.2)

/-- A migration ended (R440, R471): the bytes stand in the new frame, the entry is switched, the hold buffer drains and
the old frame is free. It waits for chunks that have translated the extent (R17, R331, R348); where a reserve grain is wanting, in the
redirect list. -/
def finishMigration (s : State) (obj ext : Nat) : State :=
  match s.obj obj with
  | none => s
  | some o =>
    if s.chunkHolds obj ext then s
    else match o.ext ext with
    | ⟨some old, some new⟩ =>
      match (s.wipeFrame new).migrateGrains o.tenant obj ext old new (List.range frameGrains) with
      | none => s.waitReserve o.tenant obj (ext * extentBytes)
      | some s1 =>
        let s2 : State := { s1 with hbm := { s1.hbm with waits := s1.hbm.waits.filter fun w =>
          !(w.tenant == o.tenant && w.obj == obj && w.grain == ext * extentBytes / grainBytes) } }
        (((s2.setExt obj ext ⟨some new, none⟩).drainHolds o.tenant obj ext).clearFrame old).wipeFrame old
    | _ => s

/-- A migration begun (R440): a free frame of a permitted stack is set aside. -/
def startMigration (s : State) (obj ext stack : Nat) : State :=
  match s.obj obj with
  | none => s
  | some o =>
    match o.route, o.ext ext with
    | .local, ⟨some f, none⟩ =>
      if !(stacksOf o.stackMask).contains stack then s
      else match s.freeIn s.usedFrames stack with
        | some n => s.setExt obj ext ⟨some f, some n⟩
        | none => s
    | _, _ => s

/-- The extent a frame belongs to. -/
def frameOwner (s : State) (f : Nat) : Option (Nat × Nat) :=
  s.hbm.objs.findSome? fun e => match e.2 with
    | none => none
    | some o => (o.exts.find? fun x => x.2.frame = some f).map fun x => (e.1, x.1)

/-- The tenant an HBM block is charged to (R491): the owner of the frame's object, else none. -/
def frameTenant (s : State) (f : Nat) : Option Nat := (s.frameOwner f).bind fun e => (s.obj e.1).map Obj.tenant

/-- The function an HBM error is charged to (R491). -/
def frameFn (s : State) (f : Nat) : Nat := match s.frameTenant f with | some t => s.fnOf t | none => 0

/-- A block marked poisoned and counted (R441, R490). -/
def poisonBlock (s : State) (block : Nat) : State :=
  let s1 := s.countFn (s.frameFn (block / (extentBytes / 64))) 5
  { s1 with hbm := { s1.hbm with poisoned := SMap.put false s1.hbm.poisoned block true } }

end State

end Sys2Proof.Machine
end

