-- ==== Sys2Proof/Machine/Sync.lean ====
section
/-!
DEFINITION. Synchronisation of the thread: rendezvous points (R387 to R393), signals and atomics (R378 to R384), fences
(R385), snapshots (R458 to R462) and `TWAIT` (R320).
-/

namespace Sys2Proof.Machine

open Sys2Proof.Bits

/-! ### Rendezvous points -/

/-- A point at the start of a team of so many members (R387). -/
def rvInitial (size : Nat) : RvPoint := ⟨0, BitVec.ofNat 32 (2 ^ size - 1), 0⟩

namespace State

/-- The members a team started with. -/
def teamSize (s : State) (t : Nat) : Nat :=
  match s.team t with
  | none => 0
  | some tm => match s.launch tm.launch with | some l => l.teamSize | none => tm.cores.length

/-- A rendezvous point of a team. -/
def point (s : State) (t k : Nat) : RvPoint :=
  match s.team t with | some tm => SMap.get (rvInitial (s.teamSize t)) tm.points k | none => ⟨0, 0, 0⟩

/-- A point changed in one step of the rendezvous unit, which completes the phase when every member has arrived
(R393). -/
def setPoint (s : State) (t k : Nat) (p : RvPoint) : State :=
  let q : RvPoint := if p.members ≠ 0 ∧ p.arrived = p.members then ⟨p.phase + 1, p.members, 0⟩ else p
  match s.team t with
  | some tm => s.setTeam t (some { tm with points := SMap.put (rvInitial (s.teamSize t)) tm.points k q })
  | none => s

end State

/-- The bit of a rank. -/
def rankBit (r : Nat) : BitVec 32 := BitVec.ofNat 32 (2 ^ r)

namespace Core

/-- The core holds an outstanding arrival at a point whose phase is `phase` (R390). -/
def arrivedAt (c : Core) (k : Nat) (phase : BitVec 32) : Bool :=
  c.arrivals.any fun a => a.pt == k && !a.leave && a.phase == phase

/-- The core has left a point and the leave is not registered yet. -/
def leaving (c : Core) (k : Nat) : Bool := c.arrivals.any fun a => a.pt == k && a.leave

/-- An arrival or leave as it is made: the local posts and the units made before it, and the operations (R390). -/
def arrival (c : Core) (k : Nat) (leave : Bool) (phase : BitVec 32) (mask : BitVec 6) : Arrival where
  pt := k
  leave := leave
  phase := phase
  mask := mask
  counted := (c.board.entries.filter fun e => !e.remote).map (·.seq)
  units := c.board.units.map (·.guardSeq)
  after := c.nextOp
  registered := false

/-- A counted post on an engine of the mask has not retired (R320, R390): exact records count as posted with their
unit. -/
def countsLeft (c : Core) (a : Arrival) : Bool :=
  c.board.entries.any fun e => !e.remote && a.mask.getLsbD e.post.engine &&
    (a.counted.contains e.seq || (e.post.gsec == 3 && a.units.contains e.post.unitSeq))

/-- The conditions of a registration (R390, R392). -/
def mayRegister (c : Core) (a : Arrival) : Bool := c.settledBefore a.after && (a.leave || !c.countsLeft a)

end Core

namespace State

/-- An arrival of rank `r` made at issue: a control fault by reason, or the phase and the state (R390). -/
def arrive (s : State) (k : Nat) (mask : BitVec 6) : Except (BitVec 8) (BitVec 32 × State) :=
  let c := s.core
  match c.team with
  | none => .error 0x08
  | some t =>
    let p := s.point t k
    if !p.members.getLsbD c.rank || c.leaving k then .error 0x08
    else if c.arrivedAt k p.phase then .error 0x09
    else .ok (p.phase, s.on fun c =>
      { c with arrivals := (c.arrivals.filter fun a => a.pt != k || a.leave) ++ [c.arrival k false p.phase mask] })

/-- An outstanding arrival of the current core at a point counts no more (R392): a registered one loses its arrived bit. -/
def cancelArrival (s : State) (t k : Nat) : State :=
  let p := s.point t k
  if s.core.arrivals.any fun a => a.pt == k && !a.leave && a.registered && a.phase == p.phase then
    s.setPoint t k ⟨p.phase, p.members, p.arrived &&& ~~~ rankBit s.core.rank⟩
  else s

/-- A leave at issue (R392): the outstanding arrival is cancelled and the leave waits to be registered. -/
def leavePoint (s : State) (k : Nat) : State :=
  let c := s.core
  match c.team with
  | none => s
  | some t =>
    if !(s.point t k).members.getLsbD c.rank || c.leaving k then s
    else (s.cancelArrival t k).on fun c =>
      { c with
        arrivals := (c.arrivals.filter fun a => a.pt != k) ++ [c.arrival k true (s.point t k).phase 0]
        mark := match c.mark with | some m => if m.pt = k then none else some m | none => none }

/-- Every point left (R392). -/
def leaveAll (s : State) : State := (List.range 24).foldl leavePoint s

/-- An arrival or a leave registered (R390, R392, R393). -/
def registerAt (s : State) (n k : Nat) : State :=
  let c := s.coreAt n
  match c.team, c.arrivals.find? (fun a => a.pt == k && !a.registered) with
  | some t, some a =>
    if !c.mayRegister a then s
    else
      let p := s.point t k
      let b := rankBit c.rank
      if a.leave then
        (s.onCore n fun c => { c with arrivals := c.arrivals.filter fun x => !(x.pt == k && x.leave) }).setPoint t k
          ⟨p.phase, p.members &&& ~~~b, p.arrived &&& ~~~b⟩
      else
        (s.onCore n fun c => { c with arrivals := c.arrivals.map fun x =>
            if x.pt = k ∧ !x.leave then { x with registered := true } else x }).setPoint t k
          ⟨p.phase, p.members, p.arrived ||| b⟩
  | _, _ => s

/-- A phase has completed: the count has passed it (R391). -/
def phaseDone (s : State) (t k : Nat) (a : BitVec 32) : Bool :=
  let d := ((s.point t k).phase - a).toNat
  decide (1 ≤ d) && decide (d ≤ 2 ^ 31)

end State

/-- `RVINIT rpK, sa` (R389): arrivals of ranks it removes lapse. -/
def opRvinit (pt : BitVec 5) (a : SReg) (s : State) : OpRes :=
  let c := s.core
  let k := pt.toNat
  match c.team with
  | none => .stall s
  | some t =>
    let p := s.point t k
    if p.arrived ≠ 0 then controlFault 0x0A s
    else
      let m : BitVec 32 := (c.rs a).setWidth 32 &&& BitVec.ofNat 32 (2 ^ s.teamSize t - 1)
      let cores := match s.team t with | some tm => tm.cores | none => []
      let s1 := cores.foldl (fun s n => s.onCore n fun c =>
        if m.getLsbD c.rank then c else { c with arrivals := c.arrivals.filter fun x => x.pt != k || x.leave }) s
      .ok (s1.setPoint t k ⟨p.phase, m, 0⟩)

/-- `RVARRIVE rpK, emask, sd` (R390). -/
def opRvarrive (pt : BitVec 5) (em : BitVec 6) (d : SReg) (s : State) : OpRes :=
  match s.arrive pt.toNat em with
  | .error r => controlFault r s
  | .ok (ph, s1) => onReg s1 fun c => c.ws d (ph.setWidth 64)

/-- `RVWAIT rpK, sa, sd` (R391). -/
def opRvwait (pt : BitVec 5) (a d : SReg) (s : State) : OpRes :=
  match s.core.team with
  | none => .stall s
  | some t =>
    if s.phaseDone t pt.toNat ((s.core.rs a).setWidth 32) then onReg s fun c => c.ws d ((s.point t pt.toNat).phase.setWidth 64)
    else .stall s

/-- `RVARW rpK, emask, sd` (R391): the arrival is made when the group first reaches issue, and the mark keeps it. -/
def opRvarw (pt : BitVec 5) (em : BitVec 6) (d : SReg) (s : State) : OpRes :=
  let wait (s : State) (ph : BitVec 32) : OpRes :=
    match s.core.team with
    | none => .stall s
    | some t =>
      if s.phaseDone t pt.toNat ph then onReg s fun c => { c.ws d (ph.setWidth 64) with mark := none } else .stall s
  let first : OpRes :=
    match s.arrive pt.toNat em with
    | .error r => controlFault r s
    | .ok (ph, s1) => wait (s1.on fun c => { c with mark := some ⟨pt.toNat, ph, c.pc⟩ }) ph
  match s.core.mark with
  | some m => if m.pt = pt.toNat ∧ m.pc = s.core.pc then wait s m.phase else first
  | none => first

/-- `RVLEAVE rpK` (R392). -/
def opRvleave (pt : BitVec 5) (s : State) : OpRes := .ok (s.leavePoint pt.toNat)

/-- `RVLEAVE.ALL` (R392). -/
def opRvleaveAll (s : State) : OpRes := .ok s.leaveAll

/-! ### Signals, atomics and reductions -/

/-- A returning read-modify-write at issue (R377 to R379, R383). -/
def issueRmw (op : RmwOp) (t : Ty) (o : Ord) (sc : Scope) (d : SReg) (cap : Cap) (addr : Int) (data cmp : BitVec 128)
    (s : State) : OpRes :=
  let a : Access := ⟨.rmw op t d, cap, addr, rmwWidth op t / 8, o, sc, data, cmp, [0, 1, 2]⟩
  routed a (some op) t false s (issueAccess a)

/-- `SIGADD` (R383). -/
def opSigadd (t : Ty) (o : Ord) (sc : Scope) (d : SReg) (c : CReg) (a b : SReg) (off : BitVec 20) (s : State) : OpRes :=
  issueRmw .sigadd t o sc d (s.core.rc c) (addrU (s.core.rs a) off) ((s.core.rs b).setWidth 128) 0 s

/-- `SIGSET` (R383). -/
def opSigset (t : Ty) (o : Ord) (sc : Scope) (d : SReg) (c : CReg) (a b : SReg) (off : BitVec 20) (s : State) : OpRes :=
  issueRmw .sigset t o sc d (s.core.rc c) (addrU (s.core.rs a) off) ((s.core.rs b).setWidth 128) 0 s

/-- The operand pair of `.CAS2` (R379). -/
def pair (c : Core) (r : SReg) : BitVec 128 :=
  (c.rs r).setWidth 128 ||| ((c.rs ⟨(r.val + 1) % 32, Nat.mod_lt _ (by decide)⟩).setWidth 128 <<< 64)

/-- An `AMO` with single operands (R379). -/
def amo (op : RmwOp) (t : Ty) (o : Ord) (sc : Scope) (d : SReg) (c : CReg) (a b : SReg) (off : BitVec 16) (s : State) : OpRes :=
  issueRmw op t o sc d (s.core.rc c) (addrU (s.core.rs a) off) ((s.core.rs b).setWidth 128) ((s.core.rs d).setWidth 128) s

/-- `AMO.ADD` (R379). -/
def opAmoAdd (t : Ty) (o : Ord) (sc : Scope) (d : SReg) (c : CReg) (a b : SReg) (off : BitVec 16) : State → OpRes :=
  amo .add t o sc d c a b off
/-- `AMO.MIN` (R379). -/
def opAmoMin (t : Ty) (o : Ord) (sc : Scope) (d : SReg) (c : CReg) (a b : SReg) (off : BitVec 16) : State → OpRes :=
  amo .min t o sc d c a b off
/-- `AMO.MAX` (R379). -/
def opAmoMax (t : Ty) (o : Ord) (sc : Scope) (d : SReg) (c : CReg) (a b : SReg) (off : BitVec 16) : State → OpRes :=
  amo .max t o sc d c a b off
/-- `AMO.AND` (R379). -/
def opAmoAnd (t : Ty) (o : Ord) (sc : Scope) (d : SReg) (c : CReg) (a b : SReg) (off : BitVec 16) : State → OpRes :=
  amo .and t o sc d c a b off
/-- `AMO.OR` (R379). -/
def opAmoOr (t : Ty) (o : Ord) (sc : Scope) (d : SReg) (c : CReg) (a b : SReg) (off : BitVec 16) : State → OpRes :=
  amo .or t o sc d c a b off
/-- `AMO.XOR` (R379). -/
def opAmoXor (t : Ty) (o : Ord) (sc : Scope) (d : SReg) (c : CReg) (a b : SReg) (off : BitVec 16) : State → OpRes :=
  amo .xor t o sc d c a b off
/-- `AMO.XCHG` (R379). -/
def opAmoXchg (t : Ty) (o : Ord) (sc : Scope) (d : SReg) (c : CReg) (a b : SReg) (off : BitVec 16) : State → OpRes :=
  amo .xchg t o sc d c a b off
/-- `AMO.CAS` (R379). -/
def opAmoCas (t : Ty) (o : Ord) (sc : Scope) (d : SReg) (c : CReg) (a b : SReg) (off : BitVec 16) : State → OpRes :=
  amo .cas t o sc d c a b off
/-- `AMO.CAS2` (R379). -/
def opAmoCas2 (t : Ty) (o : Ord) (sc : Scope) (d : SReg) (c : CReg) (a b : SReg) (off : BitVec 16) (s : State) : OpRes :=
  issueRmw .cas2 t o sc d (s.core.rc c) (addrU (s.core.rs a) off) (pair s.core b) (pair s.core d) s

/-- A newer operation or entry than `id` touches the bytes: a `RED` does not combine past it (R352). -/
def newerTouches (c : Core) (id obj a n : Nat) : Bool :=
  c.acc.any (fun o => decide (id < o.id) && o.touches obj a n) || c.reds.any fun r => decide (id < r.id) && r.touches obj a n

/-- An operation or entry newer than `id` belongs to the group at hand: a `RED` of it does not combine past it (R352). -/
def newerOfGroup (c : Core) (id : Nat) : Bool :=
  c.acc.any (fun o => decide (id < o.id) && o.grp == c.groups) || c.reds.any fun r => decide (id < r.id) && r.ofGroup c.groups

/-- The entry a `RED` combines with (R380): one that is in the directory (R362) and is not being flushed. -/
def combinesWith (c : Core) (op : RmwOp) (t : Ty) (o : Ord) (sc : Scope) (obj a n : Nat) : Option RedEntry :=
  if t.isFloat ∨ o ≠ .rlx then none
  else c.reds.find? fun r => !r.flushing && r.entered && r.ord == .rlx && r.op == op && r.t == t && r.scope == sc && Cap.obj r.cap == obj
    && r.addr == a && r.len == n && !newerTouches c r.id obj a n && !newerOfGroup c r.id

/-- The oldest entry that holds a place of the buffer starts its flush (R380). -/
def flushOldest (c : Core) : Core :=
  match c.reds.find? (!·.sent) with
  | some r => c.onRed r.id fun q => { q with flushing := true }
  | none => c

/-- A `RED` into the combining buffer (R380, R381). Entries already sent no longer hold a place. -/
def issueRed (op : RmwOp) (t : Ty) (o : Ord) (sc : Scope) (c : CReg) (a b : SReg) (off : BitVec 16) (s : State) : OpRes :=
  let cap := s.core.rc c
  let addr := addrU (s.core.rs a) off
  let n := rmwWidth op t / 8
  let data : BitVec 64 := if n = 4 then zext (s.core.rs b) 32 else s.core.rs b
  let acc : Access := ⟨.red op t, cap, addr, n, o, sc, data.setWidth 128, 0, [1, 2]⟩
  routed acc (some op) t true s fun s =>
    let k := s.core
    let x := addr.toNat
    let obj := Cap.obj cap
    if k.overlaps (objCells obj x n) then .stall s
    else match combinesWith k op t o sc obj x n with
      | some r =>
        onReg s fun k => k.onRed r.id fun q =>
          { q with joined := k.groups :: q.joined, data := BitVec.ofNat 64 ((rmwNew op t q.data.toNat data.toNat 0).getD q.data.toNat) }
      | none =>
        if 64 ≤ (k.reds.filter fun r => !r.sent).length then .stall (s.on flushOldest)
        else if k.accHalted then .stall s
        else
          -- the entry is made in the directory with it (R362); a race found there is left to the insertion that follows
          let add (entered : Bool) (s : State) : OpRes := onReg s fun k =>
            let k1 := if o.releases then k.flushReds else k
            let e : RedEntry := ⟨k1.nextOp, k1.nextOp, k1.groups, [], BitVec.ofNat 2 k1.grp.word, op, t, cap, x, n, sc, o, data, k1.nextOp, entered,
              t.isFloat || o.releases, false, 0⟩
            { k1 with reds := k1.reds ++ [e], nextOp := k1.nextOp + 1 }
          match s.dirInsert (s.scalarEntries s.cur k.nextOp cap x n true true) with
          | .made s1 => add true s1
          | .mmx _ => add false s
          | .full => .stall s

/-- `RED.ADD` (R379, R380). -/
def opRedAdd (t : Ty) (o : Ord) (sc : Scope) (c : CReg) (a b : SReg) (off : BitVec 16) : State → OpRes := issueRed .add t o sc c a b off
/-- `RED.MIN` (R379, R380). -/
def opRedMin (t : Ty) (o : Ord) (sc : Scope) (c : CReg) (a b : SReg) (off : BitVec 16) : State → OpRes := issueRed .min t o sc c a b off
/-- `RED.MAX` (R379, R380). -/
def opRedMax (t : Ty) (o : Ord) (sc : Scope) (c : CReg) (a b : SReg) (off : BitVec 16) : State → OpRes := issueRed .max t o sc c a b off
/-- `RED.AND` (R379, R380). -/
def opRedAnd (t : Ty) (o : Ord) (sc : Scope) (c : CReg) (a b : SReg) (off : BitVec 16) : State → OpRes := issueRed .and t o sc c a b off
/-- `RED.OR` (R379, R380). -/
def opRedOr (t : Ty) (o : Ord) (sc : Scope) (c : CReg) (a b : SReg) (off : BitVec 16) : State → OpRes := issueRed .or t o sc c a b off
/-- `RED.XOR` (R379, R380). -/
def opRedXor (t : Ty) (o : Ord) (sc : Scope) (c : CReg) (a b : SReg) (off : BitVec 16) : State → OpRes := issueRed .xor t o sc c a b off

/-- `SIGWAIT` (R384): its read stands in the access unit while the group waits; the group issues once a read has found
the word satisfied. -/
def opSigwait (t : Ty) (o : Ord) (sc : Scope) (d : SReg) (c : CReg) (a b : SReg) (off : BitVec 20) (s : State) : OpRes :=
  let finish (s : State) (id : Nat) : OpRes :=
    match s.core.accOp id with
    | some q =>
      if q.phase = .performed then onReg s fun k => ({ k with wait := .none }.dropAcc id).ws d (q.result.setWidth 64) else .stall s
    | none => .ok (s.on fun k => { k with wait := .none })
  match s.core.wait with
  | .sigwait id => finish (s.pollWait s.cur id) id
  | _ =>
    let acc : Access := ⟨.wait t (s.core.rs b) d, s.core.rc c, addrU (s.core.rs a) off, 8, o, sc, 0, 0, [0]⟩
    routed acc none t false s fun s =>
      match issueAccess acc s with
      | .ok s1 =>
        let id := s.core.nextOp
        finish ((s1.on fun k => { k with wait := .sigwait id }).pollWait s1.cur id) id
      | r => r

/-- `FENCE.ord.scope` (R385). -/
def opFence (o : Ord) (sc : Scope) (s : State) : OpRes :=
  onReg s fun c => (c.enqueue ⟨c.nextOp, c.nextOp, c.groups, 0, .fence, nullCap, 0, 0, o, sc, 0, 0, 0, .queued, 0⟩).trimFences

/-! ### Snapshots -/

namespace State

/-- A tenant's generation home changed. -/
def onGen (s : State) (t : Nat) (f : GenHome → GenHome) : State := s.setTenant t { s.tenant t with gen := f (s.tenant t).gen }

/-- The home starts to open the cut of the next generation for an asker (R462): phase 1. The teams that are saved now are those
whose images may belong to the generation (R472). -/
def startCut (s : State) (t : Nat) (a : Asker) : State :=
  let mine (tm : Team) : Bool := match s.launch tm.launch with | some l => l.tenant == t | none => false
  let saved := s.sched.teams.filterMap fun x => match x.2 with
    | some tm => if tm.state = .saved ∧ mine tm then some x.1 else none
    | none => none
  s.onGen t fun g => { g with frozen := some g.current, acks := [], opened := false, asker := a, cuts := [], drained := [], copied := [], images := saved, imageBytes := [] }

end State

/-- A snapshot operation's capability holds snap (R459, R460). No offset goes with the fault: `%einfo` is open. -/
def snapCheck (c : CReg) (s : State) (go : State → OpRes) : OpRes :=
  let cap := s.core.rc c
  if Cap.obj cap != 0 && Cap.has cap 4 then go s
  else let (v, s1) := s.draw; .trap (.precise 0x02 0 v) s1

/-- `SNAP[.NW] sd, cN, pN` (R459). -/
def snapshot (nw : Bool) (d : SReg) (c : CReg) (p : PReg) (s : State) : OpRes :=
  snapCheck c s fun s =>
    let t := s.tenantOf s.cur
    let g := (s.tenant t).gen
    if !s.core.settledBefore s.core.nextOp then .stall s
    else match g.frozen with
      | none => .stall ((s.startCut t (.core s.cur)).on fun k => { k with wait := .snap })
      | some f =>
        if s.core.wait = .snap ∧ g.asker = .core s.cur then
          if g.opened then
            onReg s fun k => { ((k.raiseStamp (f + 1)).ws d f).wp p true with wait := .none }
          else .stall s
        else if nw ∧ g.opened then onReg s fun k => (k.ws d f).wp p false
        else .stall s

/-- `SNAP` (R459). -/
def opSnap (d : SReg) (c : CReg) (p : PReg) : State → OpRes := snapshot false d c p

/-- `SNAP.NW` (R459). -/
def opSnapNw (d : SReg) (c : CReg) (p : PReg) : State → OpRes := snapshot true d c p

/-- A grain of the frozen stratum that is still to be drained: whether it is redirected, its object and number, and where it
stands (R464, R465). -/
structure Undrained where
  moved : Bool
  obj : Nat
  grain : Nat
  phys : Nat
  deriving DecidableEq, Repr

/-- The undrained grains of a tenant's frozen stratum on this chip: of its resident extents, and kept of destroyed objects. Grains
that have never been written, or were written no later than the last durable generation, need no copy (R465). -/
def undrainedGrains (s : State) (t : Nat) : List Undrained :=
  let g := (s.tenant t).gen
  let due (q : Nat) : Bool := SMap.get 0 s.hbm.stamps q != 0 && decide (g.durable.toNat < (SMap.get 0 s.hbm.stamps q).toNat)
    && (match g.frozen with | some f => decide ((SMap.get 0 s.hbm.stamps q).toNat ≤ f.toNat) | none => false)
  (s.hbm.objs.flatMap fun e => match e.2 with
    | none => []
    | some o =>
      if o.tenant ≠ t then []
      else o.exts.flatMap fun x => if x.2.frame.isNone then []
        else (List.range frameGrains).filterMap fun i =>
          let n := x.1 * frameGrains + i
          if g.copied.any (fun y => y.1 == e.1 && y.2.1 == n) then none
          else match s.redirectOf e.1 n, s.physGrain e.1 n with
            | some r, _ => if due r.old then some ⟨true, e.1, n, r.old⟩ else none
            | none, some p => if due p then some ⟨false, e.1, n, p⟩ else none
            | none, none => none) ++
  (s.hbm.kept.filter fun k => k.tenant == t).map fun k => ⟨false, k.obj, k.grain, k.phys⟩

/-- Grains of a tenant's frozen stratum that this chip has still to drain (R460, R465). -/
def remainingGrains (s : State) (t : Nat) : Nat := (undrainedGrains s t).length

/-- The result word of `SNAPQ` (R460). The model counts the 64 most recent generations before the current one, and the grains that remain
on this chip (log 53). -/
def queryGen (s : State) (t : Nat) (q : Word) : Word :=
  let g := (s.tenant t).gen
  if q = 0 ∨ g.current.toNat < q.toNat ∨ q.toNat + 64 < g.current.toNat then 0x0500000000000000
  else if q = g.current then 0
  else match g.history.find? (·.gen == q) with
    | none => 0x0500000000000000
    | some r => match r.phase with
      | .cutting => 0x0100000000000000
      | .draining => 0x0200000000000000 ||| BitVec.ofNat 64 (remainingGrains s t % 2 ^ 48)
      | .durable => 0x0300000000000000
      | .aborted k => 0x0400000000000000 ||| (k.setWidth 64 <<< 48)

/-- `SNAPQ sd, cN, sa` (R460). -/
def opSnapq (d : SReg) (c : CReg) (a : SReg) (s : State) : OpRes :=
  snapCheck c s fun s => onReg s fun k => k.ws d (queryGen s (s.tenantOf s.cur) (k.rs a))

/-! ### Tasks -/

/-- A bundle or a guarded unit is open (R225, R320). -/
def Core.contextOpen (c : Core) : Bool := c.board.bundle.isSome || c.board.units.any (·.sect != 0)

/-- `TWAIT emask` (R320). -/
def opTwait (em : BitVec 6) (s : State) : OpRes :=
  let c := s.core
  if c.contextOpen then controlFault 0x07 s
  else if c.board.entries.any fun e => !e.remote && em.getLsbD e.post.engine then .stall s
  else .ok s

/-! ### Each as a group of its own -/

/-- `RVINIT` as a group of its own (R169). -/
def execRvinit (pt : BitVec 5) (a : SReg) (s : State) : Host.Outcome State Fault Refusal :=
  issueAlone (.solo (.rvinit pt a)) (opRvinit pt a) s

/-- `RVARRIVE` as a group of its own (R169). -/
def execRvarrive (pt : BitVec 5) (em : BitVec 6) (d : SReg) (s : State) : Host.Outcome State Fault Refusal :=
  issueAlone (.solo (.rvarrive pt em d)) (opRvarrive pt em d) s

/-- `RVWAIT` as a group of its own (R169). -/
def execRvwait (pt : BitVec 5) (a : SReg) (d : SReg) (s : State) : Host.Outcome State Fault Refusal :=
  issueAlone (.solo (.rvwait pt a d)) (opRvwait pt a d) s

/-- `RVARW` as a group of its own (R169). -/
def execRvarw (pt : BitVec 5) (em : BitVec 6) (d : SReg) (s : State) : Host.Outcome State Fault Refusal :=
  issueAlone (.solo (.rvarw pt em d)) (opRvarw pt em d) s

/-- `RVLEAVE` as a group of its own (R169). -/
def execRvleave (pt : BitVec 5) (s : State) : Host.Outcome State Fault Refusal :=
  issueAlone (.solo (.rvleave pt)) (opRvleave pt) s

/-- `RVLEAVE_ALL` as a group of its own (R169). -/
def execRvleaveAll (s : State) : Host.Outcome State Fault Refusal :=
  issueAlone (.solo .rvleaveAll) opRvleaveAll s

/-- `SIGADD` as a group of its own (R169). -/
def execSigadd (t : Ty) (o : Ord) (sc : Scope) (d : SReg) (c : CReg) (a : SReg) (b : SReg) (off : BitVec 20) (s : State) : Host.Outcome State Fault Refusal :=
  issueAlone (.solo (.sigadd t o sc d c a b off)) (opSigadd t o sc d c a b off) s

/-- `SIGSET` as a group of its own (R169). -/
def execSigset (t : Ty) (o : Ord) (sc : Scope) (d : SReg) (c : CReg) (a : SReg) (b : SReg) (off : BitVec 20) (s : State) : Host.Outcome State Fault Refusal :=
  issueAlone (.solo (.sigset t o sc d c a b off)) (opSigset t o sc d c a b off) s

/-- `AMO_ADD` as a group of its own (R169). -/
def execAmoAdd (t : Ty) (o : Ord) (sc : Scope) (d : SReg) (c : CReg) (a : SReg) (b : SReg) (off : BitVec 16) (s : State) : Host.Outcome State Fault Refusal :=
  issueAlone (.solo (.amoAdd t o sc d c a b off)) (opAmoAdd t o sc d c a b off) s

/-- `AMO_MIN` as a group of its own (R169). -/
def execAmoMin (t : Ty) (o : Ord) (sc : Scope) (d : SReg) (c : CReg) (a : SReg) (b : SReg) (off : BitVec 16) (s : State) : Host.Outcome State Fault Refusal :=
  issueAlone (.solo (.amoMin t o sc d c a b off)) (opAmoMin t o sc d c a b off) s

/-- `AMO_MAX` as a group of its own (R169). -/
def execAmoMax (t : Ty) (o : Ord) (sc : Scope) (d : SReg) (c : CReg) (a : SReg) (b : SReg) (off : BitVec 16) (s : State) : Host.Outcome State Fault Refusal :=
  issueAlone (.solo (.amoMax t o sc d c a b off)) (opAmoMax t o sc d c a b off) s

/-- `AMO_AND` as a group of its own (R169). -/
def execAmoAnd (t : Ty) (o : Ord) (sc : Scope) (d : SReg) (c : CReg) (a : SReg) (b : SReg) (off : BitVec 16) (s : State) : Host.Outcome State Fault Refusal :=
  issueAlone (.solo (.amoAnd t o sc d c a b off)) (opAmoAnd t o sc d c a b off) s

/-- `AMO_OR` as a group of its own (R169). -/
def execAmoOr (t : Ty) (o : Ord) (sc : Scope) (d : SReg) (c : CReg) (a : SReg) (b : SReg) (off : BitVec 16) (s : State) : Host.Outcome State Fault Refusal :=
  issueAlone (.solo (.amoOr t o sc d c a b off)) (opAmoOr t o sc d c a b off) s

/-- `AMO_XOR` as a group of its own (R169). -/
def execAmoXor (t : Ty) (o : Ord) (sc : Scope) (d : SReg) (c : CReg) (a : SReg) (b : SReg) (off : BitVec 16) (s : State) : Host.Outcome State Fault Refusal :=
  issueAlone (.solo (.amoXor t o sc d c a b off)) (opAmoXor t o sc d c a b off) s

/-- `AMO_XCHG` as a group of its own (R169). -/
def execAmoXchg (t : Ty) (o : Ord) (sc : Scope) (d : SReg) (c : CReg) (a : SReg) (b : SReg) (off : BitVec 16) (s : State) : Host.Outcome State Fault Refusal :=
  issueAlone (.solo (.amoXchg t o sc d c a b off)) (opAmoXchg t o sc d c a b off) s

/-- `AMO_CAS` as a group of its own (R169). -/
def execAmoCas (t : Ty) (o : Ord) (sc : Scope) (d : SReg) (c : CReg) (a : SReg) (b : SReg) (off : BitVec 16) (s : State) : Host.Outcome State Fault Refusal :=
  issueAlone (.solo (.amoCas t o sc d c a b off)) (opAmoCas t o sc d c a b off) s

/-- `AMO_CAS2` as a group of its own (R169). -/
def execAmoCas2 (t : Ty) (o : Ord) (sc : Scope) (d : SReg) (c : CReg) (a : SReg) (b : SReg) (off : BitVec 16) (s : State) : Host.Outcome State Fault Refusal :=
  issueAlone (.solo (.amoCas2 t o sc d c a b off)) (opAmoCas2 t o sc d c a b off) s

/-- `RED_ADD` as a group of its own (R169). -/
def execRedAdd (t : Ty) (o : Ord) (sc : Scope) (c : CReg) (a : SReg) (b : SReg) (off : BitVec 16) (s : State) : Host.Outcome State Fault Refusal :=
  issueAlone (.solo (.redAdd t o sc c a b off)) (opRedAdd t o sc c a b off) s

/-- `RED_MIN` as a group of its own (R169). -/
def execRedMin (t : Ty) (o : Ord) (sc : Scope) (c : CReg) (a : SReg) (b : SReg) (off : BitVec 16) (s : State) : Host.Outcome State Fault Refusal :=
  issueAlone (.solo (.redMin t o sc c a b off)) (opRedMin t o sc c a b off) s

/-- `RED_MAX` as a group of its own (R169). -/
def execRedMax (t : Ty) (o : Ord) (sc : Scope) (c : CReg) (a : SReg) (b : SReg) (off : BitVec 16) (s : State) : Host.Outcome State Fault Refusal :=
  issueAlone (.solo (.redMax t o sc c a b off)) (opRedMax t o sc c a b off) s

/-- `RED_AND` as a group of its own (R169). -/
def execRedAnd (t : Ty) (o : Ord) (sc : Scope) (c : CReg) (a : SReg) (b : SReg) (off : BitVec 16) (s : State) : Host.Outcome State Fault Refusal :=
  issueAlone (.solo (.redAnd t o sc c a b off)) (opRedAnd t o sc c a b off) s

/-- `RED_OR` as a group of its own (R169). -/
def execRedOr (t : Ty) (o : Ord) (sc : Scope) (c : CReg) (a : SReg) (b : SReg) (off : BitVec 16) (s : State) : Host.Outcome State Fault Refusal :=
  issueAlone (.solo (.redOr t o sc c a b off)) (opRedOr t o sc c a b off) s

/-- `RED_XOR` as a group of its own (R169). -/
def execRedXor (t : Ty) (o : Ord) (sc : Scope) (c : CReg) (a : SReg) (b : SReg) (off : BitVec 16) (s : State) : Host.Outcome State Fault Refusal :=
  issueAlone (.solo (.redXor t o sc c a b off)) (opRedXor t o sc c a b off) s

/-- `SIGWAIT` as a group of its own (R169). -/
def execSigwait (t : Ty) (o : Ord) (sc : Scope) (d : SReg) (c : CReg) (a : SReg) (b : SReg) (off : BitVec 20) (s : State) : Host.Outcome State Fault Refusal :=
  issueAlone (.solo (.sigwait t o sc d c a b off)) (opSigwait t o sc d c a b off) s

/-- `FENCE` as a group of its own (R169). -/
def execFence (o : Ord) (sc : Scope) (s : State) : Host.Outcome State Fault Refusal :=
  issueAlone (.solo (.fence o sc)) (opFence o sc) s

/-- `SNAP` as a group of its own (R169). -/
def execSnap (d : SReg) (c : CReg) (p : PReg) (s : State) : Host.Outcome State Fault Refusal :=
  issueAlone (.solo (.snap d c p)) (opSnap d c p) s

/-- `SNAP_NW` as a group of its own (R169). -/
def execSnapNw (d : SReg) (c : CReg) (p : PReg) (s : State) : Host.Outcome State Fault Refusal :=
  issueAlone (.solo (.snapNw d c p)) (opSnapNw d c p) s

/-- `SNAPQ` as a group of its own (R169). -/
def execSnapq (d : SReg) (c : CReg) (a : SReg) (s : State) : Host.Outcome State Fault Refusal :=
  issueAlone (.solo (.snapq d c a)) (opSnapq d c a) s

/-- `TWAIT` as a group of its own (R169). -/
def execTwait (em : BitVec 6) (s : State) : Host.Outcome State Fault Refusal :=
  issueAlone (.solo (.twait em)) (opTwait em) s

end Sys2Proof.Machine
end

