-- ==== Sys2Proof/Machine/System.lean ====
section
/-!
DEFINITION. The system operations (R220 to R225) and the return from a trap handler (R433, R435).
-/

namespace Sys2Proof.Machine

open Sys2Proof.Bits

/-! ### Traps, breakpoints and calls -/

/-- `TRAP code` (R220): a software trap once the group is complete (R430). -/
def opTrap (x : BitVec 16) (s : State) : OpRes := .trap (.of .after 0x10 0 (x.setWidth 64)) s

/-- `DBGCTL.dbg_en` of the partition of a core (R516). -/
def debugEnabled (s : State) (core : Nat) : Bool := bit s.dev.dbgctl (dieOf core)

/-- `BRK code` (R224, R517): the core stops for the debug port, or takes a breakpoint trap. -/
def opBrk (x : BitVec 16) (s : State) : OpRes :=
  if debugEnabled s s.cur then onReg s fun c => { c with run := .broken }
  else .trap (.of .after 0x11 0 (x.setWidth 64)) s

/-- The result of a scheduler service (R221). -/
def syscResult (s : State) (n : Nat) (service : BitVec 16) : Word :=
  match service.toNat with
  | 0 => s.dev.secVersion.setWidth 64
  | 1 => BitVec.ofNat 64 (s.tenantOf n)
  | 2 => match s.launchOf n with | some (_, l) => l.partMask.setWidth 64 | none => 0
  | _ => BitVec.allOnes 64

/-- `SYSC service` (R221): the core stalls until the scheduler returns. -/
def opSysc (x : BitVec 16) (s : State) : OpRes := onReg s fun c => { c with wait := .sysc x }

/-! ### Safe points, waits and the end of the program -/

/-- A pre-emption request is pending (R143, R222). -/
def Core.preempting (c : Core) : Bool := c.preemptAsked || c.preemptForced

/-- `SAFEPT map` (R222): the core stops after this group when a request is pending. -/
def opSafept (map : BitVec 12) (s : State) : OpRes :=
  if s.core.preempting then onReg s fun c => { c.flushReds with run := .stopped (some map) } else .ok s

/-- `WFE mask` completes (R223). `rose` says that a mailbox has risen since its issue. -/
def wfeDone (c : Core) (mask : BitVec 16) (rose : Bool) : Bool :=
  (List.range 16).any (fun i => mask.getLsbD i && c.mb i != 0) || (mask == 0 && rose) || c.preempting

/-- `WFE mask` (R223): what it waits in keeps whether a mailbox has risen. -/
def opWfe (x : BitVec 16) (s : State) : OpRes :=
  let rose := match s.core.wait with | .wfe _ r => r | _ => false
  if wfeDone s.core x rose then onReg s fun c => { c with wait := .none }
  else .stall (s.on fun c => { c with wait := .wfe x rose })

/-- Leaves of a core that wait to be registered, registered as their conditions hold (R392). -/
def registerAll (s : State) : State := (List.range 24).foldl (fun a k => a.registerAt a.cur k) s

/-- `HALT` (R225, R392): every point is left first, and the core stops once the leaves have been registered. -/
def opHalt (s : State) : OpRes :=
  if s.core.contextOpen then controlFault 0x06 s
  else
    let s1 := registerAll s.leaveAll
    if s1.core.arrivals.any (·.leave) then .stall s1
    else onReg s1 fun c => { c with run := .halted, sp := { c.sp with loops := [] } }

/-! ### The return from a handler -/

/-- A doubleword of the trap frame (R429). -/
def frameWord (r : Row) (byte : Nat) : Word := field r (8 * byte) 64

/-- An active level as the frame holds it (R429). -/
def frameLevel (r : Row) (k : Nat) : Loop :=
  ⟨(frameWord r (48 + 24 * k)).setWidth 48, (frameWord r (56 + 24 * k)).setWidth 48, frameWord r (64 + 24 * k)⟩

/-- The active levels of the frame. -/
def frameLevels (r : Row) : List Loop := (List.range (nfield (frameWord r 40) 0 3)).map (frameLevel r)

/-- The frame is well formed (R433). -/
def frameOk (r : Row) : Bool :=
  decide ((frameWord r 24).toNat ≤ 1) && (frameWord r 8).toNat % 8 == 0 && nfield (frameWord r 32) 62 2 != 3
    && decide (nfield (frameWord r 40) 0 3 ≤ 4) && (frameLevels r).all fun l => l.count != 0 && decide (l.start ≤ l.last)

/-- An operation put back in program order. -/
def insertOp (o : AccOp) : List AccOp → List AccOp
  | [] => [o]
  | p :: r => if o.rank < p.rank then o :: p :: r else p :: insertOp o r

/-- A pending reduction as an entry of the combining buffer. -/
def redOf (o : AccOp) (op : RmwOp) (t : Ty) : RedEntry :=
  ⟨o.id, o.rank, o.grp, [], o.word, op, t, o.cap, o.addr, o.len, o.scope, o.ord, o.data.setWidth 64, o.id, false, true, false, 0⟩

namespace Core

/-- An operation of the pending set back in the access unit or the combining buffer. -/
def resumeOp (c : Core) (o : AccOp) : Core :=
  match o.kind with
  | .red op t => { c with reds := c.reds ++ [redOf o op t] }
  | _ => { c with acc := insertOp { o with phase := .queued } c.acc }

/-- A place in the order moved behind every operation issued so far. -/
def behind (c : Core) (o : AccOp) : AccOp := { o with rank := o.rank + c.nextOp }

/-- The pending set ends with the frame's action (R430, R433): retry performs all of it, skip drops the first. Its
operations, and those that wait for it, come after the handler's; a fence orders both what stays before it and what
moves behind it. -/
def endPending (skip : Bool) (c : Core) : Core :=
  let ops := if skip then c.pendingSet.drop 1 else c.pendingSet
  let held := c.heldOps
  let moved := (c.acc.filter fun o => held.any (·.id == o.id) || (o.kind == .fence && c.interrupted o.id)).map c.behind
  let stays := c.acc.filter fun o => !held.any (·.id == o.id)
  let reds := c.reds.map fun r => if c.redHeld r then { r with rank := r.rank + c.nextOp } else r
  let c1 := { c with acc := stays ++ moved, reds := reds, pendingSet := [], nextOp := 2 * c.nextOp }
  ((ops.map c.behind).foldl resumeOp c1).trimFences

/-- `%bpend` as the frame holds it; its reserved bits stay 0 (R8, R173). -/
def frameBpend (r : Row) : Word := setField (frameWord r 32) 48 9 0

/-- The interrupted state restored from the frame (R433). -/
def restoreFrame (r : Row) (c : Core) : Core :=
  { c with
    sp := { c.sp with bpend := frameBpend r, loops := frameLevels r, ecause := setBit c.sp.ecause 22 false }
    brEnds := c.savedBrEnds
    pendingTask := none
    grp := { c.grp with jump := some ((frameWord r 8).setWidth 48) } }

end Core

/-- The frame's action on the task that faulted (R435). -/
def endTask (skip : Bool) (s : State) : State :=
  match s.core.pendingTask with
  | none => s
  | some q =>
    if skip then match s.core.entry q with
      | some e => if s.stepOpen s.cur e.seq then s.dropColl s.cur e else s.discardEntry s.cur e
      | none => s
    else s.on fun c => c.retryEntry q

/-- `ERET` (R433): the frame's action on the pending operations or on the faulted task, and the interrupted state. -/
def opEret (s : State) : OpRes :=
  let c := s.core
  if !c.inHandler then controlFault 0x05 s
  else if 12287 < c.frameRow then controlFault 0x05 s
  else if c.spBusy (.sp c.frameRow 1 0 32) false then .stall s
  else
    let r := c.row c.frameRow
    if !frameOk r then controlFault 0x05 s
    else
      let skip := frameWord r 24 == 1
      let s1 := if bit c.sp.ecause 18 then s.on (Core.endPending skip) else s
      let s2 := if bit c.sp.ecause 19 then endTask skip s1 else s1
      onReg s2 (Core.restoreFrame r)

/-! ### Each as a group of its own -/

/-- `TRAP` as a group of its own (R169). -/
def execTrap (x : BitVec 16) (s : State) : Host.Outcome State Fault Refusal :=
  issueAlone (.solo (.trap x)) (opTrap x) s

/-- `BRK` as a group of its own (R169). -/
def execBrk (x : BitVec 16) (s : State) : Host.Outcome State Fault Refusal :=
  issueAlone (.solo (.brk x)) (opBrk x) s

/-- `SYSC` as a group of its own (R169). -/
def execSysc (x : BitVec 16) (s : State) : Host.Outcome State Fault Refusal :=
  issueAlone (.solo (.sysc x)) (opSysc x) s

/-- `SAFEPT` as a group of its own (R169). -/
def execSafept (map : BitVec 12) (s : State) : Host.Outcome State Fault Refusal :=
  issueAlone (.solo (.safept map)) (opSafept map) s

/-- `WFE` as a group of its own (R169). -/
def execWfe (x : BitVec 16) (s : State) : Host.Outcome State Fault Refusal :=
  issueAlone (.solo (.wfe x)) (opWfe x) s

/-- `HALT` as a group of its own (R169). -/
def execHalt (s : State) : Host.Outcome State Fault Refusal :=
  issueAlone (.solo .halt) opHalt s

/-- `ERET` as a group of its own (R169). -/
def execEret (s : State) : Host.Outcome State Fault Refusal :=
  issueAlone (.solo .eret) opEret s

end Sys2Proof.Machine
end

