-- ==== Sys2Proof/Machine/MemPort.lean ====
section
/-!
DEFINITION. Device events of the access unit, the memory ports and the extents: sending, performing and returning (R350,
R353, R376, R380 to R382, R402, R438), the instruction cache (R157), routes and extent caches (R17, R375), page faults,
migration and retirement (R438 to R441), scrubbing (R488), and the waits of the thread that end (R221, R223, R384, R390).
-/

namespace Sys2Proof.Machine

open Sys2Proof.Bits

/-! ### Sending -/

/-- The code of a reduction's operation (R378, R426). -/
def rmwCode : RmwOp → BitVec 8
  | .add => 0 | .min => 1 | .max => 2 | .and => 3 | .or => 4 | .xor => 5 | .xchg => 6 | .cas => 7 | .cas2 => 8
  | .sigadd => 0 | .sigset => 0

/-- The request as a class 1 message carries it (R402). -/
def remOp : PortOp → RemOp
  | .read n => .read n
  | .write d => .write d
  | .rmw op t b d => .rmw op t b d

/-- The reduction window of a tenant that holds bytes of an object of the chip a logical ID names (R422), by number. -/
def redWindow (s : State) (t lid obj a n : Nat) : Option Nat :=
  let e := s.peer t lid
  (s.tenant t).windows.findSome? fun w => match w.2 with
    | none => none
    | some v =>
      if nfield v.w0 40 24 = obj ∧ nfield v.w0 30 10 = e.phys.toNat ∧ nfield v.w1 8 28 * 4096 ≤ a ∧ a + n ≤ (nfield v.w1 36 28 + 1) * 4096
      then some w.1 else none

namespace State

/-- A reduction that faults when it would be performed is lost: a reduction fault for the next boundary (R382, R426). -/
def redFails (s : State) (n : Nat) (r : RedEntry) (cause reason : BitVec 8) : State :=
  ((s.dirRemove s.dev.chip n false r.id).countTrap n cause).onCore n fun c =>
    ({ c with reds := c.reds.filter (·.id != r.id)
              asyncTraps := c.asyncTraps ++ [{ Trap.of .boundary cause reason (BitVec.ofNat 64 r.addr) with word := r.word }] } : Core).trimFences

/-- A reduction accepted (R380). -/
def redDone (s : State) (n id : Nat) : State :=
  (s.dirRemove s.dev.chip n false id).onCore n fun c => ({ c with reds := c.reds.filter (·.id != id) } : Core).trimFences

/-- An operation leaves for its port, or on the ordered data flow to its object's home (R402), with the window's stamp
(R455). -/
def sendAcc (s : State) (n : Nat) (o : AccOp) : State :=
  let stamp := (s.coreAt n).stamp
  let gone (a : State) : State := a.onCore n fun c => c.onAcc o.id fun q => { q with phase := .sent, stamp := stamp }
  match s.routeOf o.objId with
  | some (.peer lid obj) =>
    let t := s.tenantOf n
    match s.sendFlow n t lid 1 true stamp (.access (travelCap o.cap obj) t o.addr (remOp o.request) o.marked false) o.id false with
    | .sent _ _ s1 => gone s1
    | .waits => s
    | .invalid => s.accFails n o (accTrap 0x0C 0x01 o.word (BitVec.ofNat 64 lid) [])
  | _ => gone s

/-- A buffer entry leaves for its performing point (R374, R380): inside a reduction window, for the switches. -/
def sendRed (s : State) (n : Nat) (r : RedEntry) : State :=
  let stamp := (s.coreAt n).stamp
  let gone (a : State) : State := a.onCore n fun c => c.onRed r.id fun q => { q with sent := true, stamp := stamp }
  match s.routeOf (Cap.obj r.cap) with
  | some (.peer lid obj) =>
    let t := s.tenantOf n
    if (redWindow s t lid obj r.addr r.len).isSome then
      if (s.peer t lid).valid then (if (s.peer t lid).drain then s else gone s) else s.redFails n r 0x0C 0x01
    else match s.sendFlow n t lid 1 true stamp (.access (travelCap r.cap obj) t r.addr (.rmw r.op r.t (r.data.setWidth 128) 0) true false) r.id false with
      | .sent _ _ s1 => gone s1
      | .waits => s
      | .invalid => s.redFails n r 0x0C 0x01
  | _ => gone s

/-- A buffer entry performed at this package's port (R382): an object fault loses it, a page fault makes it wait. -/
def performRed (s : State) (n : Nat) (r : RedEntry) : State :=
  match s.portAccess (s.tenantOf n) (Cap.obj r.cap) r.addr (.rmw r.op r.t (r.data.setWidth 128) 0) r.stamp with
  | .done _ _ s1 => s1.redDone n r.id
  | .fault cause => if cause = 0x07 then s.redFails n r 0x0E (rmwCode r.op) else s.redFails n r cause 0
  | .page _ => s
  | .hold s1 => s1

/-- The next operation of the unit sent, once ordering allows (R353). -/
def requestSend (s : State) (n k : Nat) : State :=
  let c := s.coreAt n
  match c.accOp k with
  | some o => if o.phase = .entered ∧ o.kind ≠ .fence ∧ !c.haltedBefore o.rank ∧ c.mayPerform o then s.sendAcc n o else s
  | none => match c.redEntry k with
    | some r => if r.entered && r.flushing && !r.sent && !c.haltedBefore r.rank && c.mayFlush r then s.sendRed n r else s
    | none => s

/-- A request that has been sent, performed at this package's port. One that met a page fault leaves again once the unit goes on, with
the window's stamp (R438, R455). -/
def portRequest (s : State) (n k : Nat) : State :=
  let c := s.coreAt n
  match c.accOp k with
  | some o =>
    if s.servedByPeer o.objId then s
    else if o.phase = .sent then s.performAcc n o
    else if o.phase = .paged ∧ !c.accHalted then s.performAcc n { o with stamp := c.stamp }
    else s
  | none => match c.redEntry k with
    | some r => if r.sent && !s.servedByPeer (Cap.obj r.cap) then s.performRed n r else s
    | none => s

end State

/-! ### Returning -/

/-- What a performed operation writes to its registers (R207, R294, R379, R383). -/
def returnValue (o : AccOp) (c : Core) : Core :=
  let v : Word := o.result.setWidth 64
  match o.kind with
  | .load t d => c.ws d (loadValue t (toBytes o.result (Ty.bytes t)))
  | .loadRegion d => c.wg d (cleanRegion v)
  | .rmw op t d =>
    if op = .cas2 then (c.ws d v).ws ⟨(d.val + 1) % 32, Nat.mod_lt _ (by decide)⟩ ((o.result >>> 64).setWidth 64)
    else if rmwWidth op t = 32 then c.ws d (if t = .i32 then sext v 32 else zext v 32)
    else c.ws d v
  | .wait _ _ d => c.ws d v
  | _ => c

/-- LOAD_RETURN at a core: the destination is written and becomes ready (R438). The read of a `SIGWAIT` whose group waits is taken by
the group; that of one that a handler's return performs again returns as a load does (R433). -/
def loadReturn (n k : Nat) (s : State) : State :=
  match (s.coreAt n).accOp k with
  | none => s
  | some o => if o.phase = .performed ∧ (s.coreAt n).wait ≠ .sigwait k then s.onCore n fun c => (returnValue o c).dropAcc k else s

/-- LOAD_RETURN (R438). -/
def execLoadReturn (core k : Nat) (s : State) : Host.Outcome State Fault Refusal := atCore core (loadReturn core k) s

/-- MEMORY_REQUEST_SEND (R353). -/
def execMemoryRequestSend (core k : Nat) (s : State) : Host.Outcome State Fault Refusal := atCore core (·.requestSend core k) s

/-- MEMORY_PORT_REQUEST (R16). -/
def execMemoryPortRequest (core k : Nat) (s : State) : Host.Outcome State Fault Refusal := atCore core (·.portRequest core k) s

/-- RED_FLUSH_AGE (R381): the entry starts its flush. -/
def execRedFlushAge (core k : Nat) (s : State) : Host.Outcome State Fault Refusal :=
  atCore core (fun s => s.onCore core fun c => c.onRed k fun r => { r with flushing := true }) s

/-! ### Caches and routes -/

/-- The bytes of an extent of an object as the port returns them now, by offset: listed bytes only, every other byte being
zero. Grains that were moved (R464) stand elsewhere than in the extent's frame. -/
def extentCells (s : State) (obj ext : Nat) : SMap Byte :=
  match s.obj obj with
  | none => []
  | some o => match (o.ext ext).frame with
    | none => []
    | some f =>
      let moved := SMap.window s.hbm.moved (State.grainKey obj (ext * frameGrains)) frameGrains
      let at' (a : Nat) : Nat := ext * extentBytes + a % extentBytes
      let inFrame := s.hbm.mem.filterMap fun e => if e.1 / extentBytes = f then some (at' e.1, e.2) else none
      let stays := inFrame.filter fun e => !moved.any fun m => m.1 == State.grainKey obj (e.1 / grainBytes)
      let cells := moved.foldl (fun a m => SMap.merge 0 a ((s.grainCells (m.2 - 1)).map fun e => (m.1 % 2 ^ 32 * grainBytes + e.1, e.2))) stays
      let held := s.hbm.holds.filter fun h => h.obj == obj
      held.foldl (fun a h => h.data.zipIdx.foldl (fun a x =>
        if (h.off + x.2) / extentBytes = ext then SMap.put 0 a (h.off + x.2) x.1 else a) a) cells

/-- An extent of its code object captured for a team: later stores are not seen (R157). -/
def captureExt (s : State) (ext : Nat) (c : Core) : Core :=
  if c.codeExts.contains ext then c
  else { c with code := SMap.merge 0 c.code (extentCells s (Cap.obj c.fetchCap) ext), codeExts := ext :: c.codeExts }

/-- The code that a team sees as it starts or resumes (R157): every resident extent of its code object, and an empty cache. -/
def captureCode (s : State) (c : Core) : Core :=
  let exts : List Nat := match s.obj (Cap.obj c.fetchCap) with | some o => (o.exts.filter fun e => e.2.frame.isSome).map Prod.fst | none => []
  exts.foldl (fun c e => captureExt s e c) { c with code := [], codeExts := [], codeLines := [] }

/-- Lines of the instruction cache: 64 KiB (R2, R157). -/
def icacheLines : Nat := 512

/-- A line comes into the cache, through the checks of a memory port (R16); the line that came first makes room. An extent that was
not resident as the team started is captured with its first line. -/
def fillLine (n line : Nat) (s : State) : State :=
  let c := s.coreAt n
  match s.portCheck (s.tenantOf n) (Cap.obj c.fetchCap) (line * codeLineBytes) codeLineBytes with
  | .proceed =>
    if c.run ≠ .running ∨ c.codeLines.contains line then s
    else
      s.onCore n fun c =>
        { captureExt s (line * codeLineBytes / extentBytes) c with codeLines := (line :: c.codeLines).take icacheLines }
  | _ => s

/-- ICACHE_LINE_FILL (R157). -/
def execIcacheLineFill (core line : Nat) (s : State) : Host.Outcome State Fault Refusal := atCore core (fillLine core line) s

/-- ROUTE_LOOKUP (R375): the cache holds 256 entries. -/
def execRouteLookup (core obj : Nat) (s : State) : Host.Outcome State Fault Refusal :=
  atCore core (fun s => s.onCore core fun c =>
    { c with routeCache := ((obj, s.routeOf obj) :: c.routeCache.filter (·.1 != obj)).take 256 }) s

/-- A channel, of 384 (R4), walks the object table (R17): its cache holds 4,096 entries. -/
def State.walkTable (chan obj ext : Nat) (s : State) : State :=
  match (s.obj obj).bind fun o => (o.ext ext).frame with
  | none => s
  | some f =>
    if 384 ≤ chan then s
    else
      let mine := (s.hbm.extCache.filter fun e => e.chan == chan && !(e.obj == obj && e.ext == ext)).take 4095
      { s with hbm := { s.hbm with extCache := ⟨chan, obj, ext, f⟩ :: mine ++ s.hbm.extCache.filter (·.chan != chan) } }

/-- EXTENT_TABLE_WALK (R17). -/
def execExtentTableWalk (chan obj ext : Nat) (s : State) : Host.Outcome State Fault Refusal := atDevice (·.walkTable chan obj ext) s

/-- The effect of EXTENT_INVALIDATE (R17, R331). -/
def State.invalidateExt (obj ext : Nat) (s : State) : State :=
  if s.chunkHolds obj ext then s
  else { s with hbm := { s.hbm with extCache := s.hbm.extCache.filter fun x => !(x.obj == obj && x.ext == ext) } }

/-- EXTENT_INVALIDATE (R17, R331). -/
def execExtentInvalidate (obj ext : Nat) (s : State) : Host.Outcome State Fault Refusal := atScheduler (·.invalidateExt obj ext) s

/-! ### Page faults -/

/-- An operation has met a page fault at an extent. -/
def AccOp.inExtent (o : AccOp) (obj ext : Nat) : Bool := o.phase == .paged && o.objId == obj && o.addr / extentBytes == ext

/-- Units halted at an extent go on (R438). -/
def resumeUnits (obj ext : Nat) (s : State) : State :=
  { s with cores := s.cores.map fun e =>
      (e.1, if e.2.acc.any (·.inExtent obj ext) then { e.2 with accHalted := false } else e.2) }

/-! ### Migration, retirement and scrubbing -/

/-- EXTENT_MIGRATION (R440). -/
def execExtentMigration (obj ext stack : Nat) (s : State) : Host.Outcome State Fault Refusal := atScheduler (·.startMigration obj ext stack) s

/-- MIGRATION_COPY_COMPLETE (R440, R471). -/
def execMigrationCopyComplete (obj ext : Nat) (s : State) : Host.Outcome State Fault Refusal := atScheduler (·.finishMigration obj ext) s

/-- A frame that is used no more (R441). -/
def State.retireMark (s : State) (f : Nat) : State := { s with hbm := { s.hbm with retired := SMap.put false s.hbm.retired f true } }

/-- An object's bytes are in host memory (R373). -/
def State.servedByHost (s : State) (obj : Nat) : Bool := match s.routeOf obj with | some (.host _) => true | _ => false

/-- The frame's extent is moved to a free frame of a permitted stack, its uncorrectable blocks
are poisoned there, and the frame is used no more. -/
def State.retireFrame (frame : Nat) (bad : Blocks) (s : State) : State :=
  let retire (a : State) : State := (a.countFn 0 13).retireMark frame
  match s.frameOwner frame with
  | none => (if s.hbm.retired.any (·.1 == frame) then s else retire s)
  | some (obj, ext) =>
    match s.obj obj with
    | none => s
    | some o =>
      let s1 := match (o.ext ext).migrating with
        | some _ => s
        | none => match s.freeFrame o.stackMask with
          | some n => s.setExt obj ext ⟨some frame, some n⟩
          | none => s
      let target := match s1.obj obj with | some o1 => (o1.ext ext).migrating | none => none
      let s2 := s1.finishMigration obj ext
      match target, s2.frameOwner frame with
      | some n, none => (retire (bad.foldl (fun a b => if b < 32768 then a.poisonBlock (n * 32768 + b) else a) s2))
      | _, _ => s2

/-- FRAME_RETIREMENT (R441). -/
def execFrameRetirement (frame : Nat) (bad : Blocks) (s : State) : Host.Outcome State Fault Refusal := atScheduler (·.retireFrame frame bad) s

/-- A corrected block is counted, an uncorrectable one marked poisoned. -/
def State.scrubBlock (block : Nat) (err : EccErr) (s : State) : State :=
  match err with
  | .none => s
  | .corrected => (s.countFn (s.frameFn (block / 32768)) 1)
  | .uncorrectable => (if SMap.get false s.hbm.poisoned block then s else s.poisonBlock block)

/-- MEMORY_SCRUB (R488, R487). -/
def execMemoryScrub (block : Nat) (err : EccErr) (s : State) : Host.Outcome State Fault Refusal := atDevice (·.scrubBlock block err) s

/-- ROW_SWEEP (R488, R487). -/
def execRowSweep (core row : Nat) (err : EccErr) (s : State) : Host.Outcome State Fault Refusal :=
  atCore core (fun s =>
    if 13312 ≤ row then s
    else match err with
      | .none => s
      | .corrected => s.count core 0
      | .uncorrectable => s.onCore core fun c =>
        if c.eng.bad.contains (.row row) then c else { c with eng := { c.eng with bad := .row row :: c.eng.bad } }) s

/-! ### Waits of the thread that end -/

/-- SIGWAIT_POLL (R384). -/
def execSigwaitPoll (core : Nat) (s : State) : Host.Outcome State Fault Refusal :=
  atCore core (fun s => match (s.coreAt core).waitOp with | some id => s.pollWait core id | none => s) s

/-- RV_REGISTER (R390). -/
def execRvRegister (core pt : Nat) (s : State) : Host.Outcome State Fault Refusal := atCore core (·.registerAt core pt) s

/-- SYSC_RETURN (R221). -/
def execSyscReturn (core : Nat) (s : State) : Host.Outcome State Fault Refusal :=
  atCoreByFirmware core (fun s => match (s.coreAt core).wait with
    | .sysc service => s.onCore core fun c => { c.ws 1 (syscResult s core service) with wait := .none }
    | _ => s) s

/-- WFE_WAKE (R223): the wait is over and the next group follows. -/
def execWfeWake (core : Nat) (s : State) : Host.Outcome State Fault Refusal :=
  atCore core (fun s => s.onCore core fun c =>
    match c.wait with
    | .wfe mask rose => if c.run = .running ∧ wfeDone c mask rose then ({ c with wait := .none } : Core).endGroup 1 else c
    | _ => c) s

end Sys2Proof.Machine
end

