-- ==== Sys2Proof/Machine/Steps.lean ====
section
/-!
DEFINITION. Collective steps that need no walk (R408 to R421): groups and member windows as a chip knows them, opening a
step, which members are settled, applying a line, closing, and the report.
-/

namespace Sys2Proof.Machine

open Sys2Proof.Bits

namespace State

/-- A group of a tenant, as this chip holds it (R408). -/
def collGroup (s : State) (t g : Nat) : Option Group := SMap.get none (s.tenant t).groups g

/-- A group replaced. -/
def setGroup (s : State) (t g : Nat) (v : Option Group) : State :=
  s.setTenant t { s.tenant t with groups := SMap.put none (s.tenant t).groups g v }

/-- The current installed version of a group. -/
def collVersion (s : State) (t g : Nat) : Option Version := (s.collGroup t g).bind fun x => x.installed.head?

/-- The member index of the window of a core in a version (R408, R414). -/
def memberOf (s : State) (t n : Nat) (v : Version) : Option Nat :=
  v.members.findIdx? fun m => s.ownLid t m.1 && m.2 == s.homeCore n

/-- The Collectives condition of R307 (R414). -/
def collReady (s : State) (n : Nat) (e : Entry) : Bool :=
  e.post.kind != 0x28 ||
    (let t := s.tenantOf n
     match s.collVersion t (nfield (e.post.word 8) 0 16) with
     | some v => (s.memberOf t n v).isSome
     | none => false)

/-- An open step of a core. -/
def openStep (s : State) (n : Nat) (seq : BitVec 32) : Option CollStep := s.fab.steps.find? fun x => x.core == n && x.seq == seq

/-- An open step changed. -/
def onStep (s : State) (n : Nat) (seq : BitVec 32) (f : CollStep → CollStep) : State :=
  { s with fab := { s.fab with steps := s.fab.steps.map fun x => if x.core = n ∧ x.seq = seq then f x else x } }

end State

/-- The state of a member of a version. -/
def Version.stateOf (v : Version) (m : Nat) : MemberState := (v.states[m]?).getD .withdrawn

/-- The version's member states with one changed. -/
def Version.setState (v : Version) (m : Nat) (x : MemberState) : Version := { v with states := v.states.set m x }

namespace CollStep

/-- The settlement of a member. -/
def settle (x : CollStep) (m : Nat) : Option Settle := x.settles.find? (·.member == m)

/-- A settlement changed. -/
def onSettle (x : CollStep) (m : Nat) (f : Settle → Settle) : CollStep :=
  { x with settles := x.settles.map fun y => if y.member = m then f y else y }

/-- Every line that a member's end line counted has been applied (R418). -/
def allApplied (y : Settle) : Bool := match y.count with | some k => decide (k ≤ y.applied.length) | none => false

/-- A member of the expected set is settled (R418, R500). -/
def settled (x : CollStep) (y : Settle) : Bool := x.atOnce || y.timedOut || allApplied y || x.version.stateOf y.member == .withdrawn

/-- Members whose end line and lines have all been applied (R418). -/
def contributors (x : CollStep) : List Nat := (x.settles.filter allApplied).map Settle.member

/-- The step closes (R418): every member is settled and every line this side sent is acknowledged or refused. -/
def closes (x : CollStep) : Bool := x.settles.all x.settled && x.endsSent && x.unacked.isEmpty

/-- Some member of the expected set did not contribute (R418), or the step's own member was withdrawn (R414, R500). -/
def incomplete (x : CollStep) : Bool := x.atOnce || x.version.stateOf x.own == .withdrawn || (x.settles.map Settle.member).any fun m => !x.contributors.contains m

/-- The step's timer runs (R419): while no member of the expected set is absent-pending. -/
def timerRuns (x : CollStep) : Bool := x.settles.all fun y => x.version.stateOf y.member != .absentPending

end CollStep

namespace State

/-- A `COLL` as it is released (R414): the version and the expected set are captured and the receive side opens. A member
that is itself withdrawn sends nothing. -/
def openColl (s : State) (n : Nat) (e : Entry) : State :=
  let t := s.tenantOf n
  let g := nfield (e.post.word 8) 0 16
  match s.collVersion t g with
  | none => s
  | some v =>
    let own := (s.memberOf t n v).getD 0
    let expect := (List.range v.members.length).filter fun m => v.stateOf m != .withdrawn
    let x : CollStep :=
      { core := n, seq := e.seq, tenant := t, group := g, step := field (e.post.word 8) 32 32, chan := e.post.channel, version := v, own := own
        settles := expect.map fun m => ⟨m, none, [], [], false⟩
        walkAt := 0, sent := [], unacked := [], endsSent := v.stateOf own == .withdrawn, stale := false
        dropped := false, badLine := none, atOnce := v.stateOf own == .withdrawn }
    { s with fab := { s.fab with steps := s.fab.steps ++ [x] } }

/-! ### Reading and writing the boxes of a task -/

/-- A side of a copy or a collective as its accesses reach it: scratchpad bytes by address, an object of this package, or an
object of another chip. -/
inductive Side where
  | sp
  | mem (obj : Nat)
  | far (lid obj : Nat) (cap : Cap)
  deriving DecidableEq, Repr

/-- Where the bytes of a box are (R373, R402). -/
def sideOf (s : State) (b : Box) (cap : Cap) : Side :=
  match b.space with
  | .sp | .acc => .sp
  | .rem => .far b.chip (Cap.obj cap) (travelCap cap (Cap.obj cap))
  | .hbm => match s.routeOf (Cap.obj cap) with
    | some (.peer lid obj) => .far lid obj (travelCap cap obj)
    | _ => .mem (Cap.obj cap)

/-- Byte `i` of a box in the contiguous order of R71: a scratchpad byte address or an object offset. -/
def boxByte (b : Box) (i : Nat) : Nat :=
  match b.space with
  | .sp | .acc => (b.rowLo + i / (16 * b.colCnt)) * 512 + 16 * b.colLo + i % (16 * b.colCnt)
  | .hbm | .rem => b.granOff * 4096 + i

/-- A byte address or offset lies in a box (R40). -/
def boxHolds (b : Box) (a : Nat) : Bool :=
  match b.space with
  | .sp | .acc => decide (b.rowLo ≤ a / 512) && decide (a / 512 < b.rowLo + b.rowCnt) && decide (16 * b.colLo ≤ a % 512)
      && decide (a % 512 < 16 * (b.colLo + b.colCnt))
  | .hbm | .rem => decide (b.granOff * 4096 ≤ a) && decide (a < (b.granOff + b.granCnt) * 4096)

/-- The outcome at this package's port, for a task. -/
def taskRes (s : State) : PortRes → TaskRes
  | .done bs _ s1 => .ok bs s1
  | .fault c => .fault ⟨c, 0, none⟩
  | .page _ => .wait s
  | .hold s1 => .wait s1

/-- A task reads bytes of an object of this package. -/
def taskRead (s : State) (t obj off len : Nat) : TaskRes :=
  if len = 0 then .ok [] s else s.taskRes (s.portAccess t obj off (.read len) 0)

/-- A task writes bytes of an object of this package, with a stamp (R455). -/
def taskWrite (s : State) (t obj off : Nat) (bs : Bytes) (stamp : Word) : TaskRes :=
  if bs.isEmpty then .ok [] s else s.taskRes (s.portAccess t obj off (.write bs) stamp)

/-- A task reads bytes of an object by its route (R376, R402): of another chip's, by a request on its data flow. -/
def routeRead (s : State) (n : Nat) (e : Entry) (role : AskRole) (cap : Cap) (off len : Nat) : TaskRes :=
  match s.routeOf (Cap.obj cap) with
  | some (.peer lid far) =>
    s.peerAsk n e.seq.toNat role (s.tenantOf n) lid (travelCap cap far) off (.read len) false e.post.flowOrd (s.coreAt n).stamp
  | _ => s.taskRead (s.tenantOf n) (Cap.obj cap) off len

end State

namespace Entry

/-- A scratchpad byte that a task reads (R302): what it has itself written, through its write translation, and every other byte through
its read translation. A new row begins as a copy of the one it replaces (R75). -/
def spRead (e : Entry) (c : Core) (a : Nat) : Byte :=
  (c.prow (if SMap.get 0 e.wtr (a / 512) = 0 then e.rrow (a / 512) else e.wrow (a / 512))).extractLsb' (8 * (a % 512)) 8

/-- A scratchpad byte that a task writes, through its translation. -/
def spWrite (e : Entry) (c : Core) (a : Nat) (b : Byte) : Core :=
  let p := e.wrow (a / 512)
  c.setProw p (setField (c.prow p) (8 * (a % 512)) 8 b)

end Entry

/-! ### Lines (R415 to R418) -/

namespace Line

/-- The line's number among the lines of its sender to this receiver (R415). -/
def num (l : Line) : BitVec 32 := field l.flag 32 32
/-- It is an end line. -/
def isEnd (l : Line) : Bool := bit l.flag 7
/-- Its payload bytes. -/
def nbytes (l : Line) : Nat := nfield l.flag 8 8
/-- The count an end line carries. -/
def count (l : Line) : Nat := natOfBytes (l.payload.take 4)

end Line

/-- The width in bytes of an element word of a collective (R412). -/
def collWord (t : Ty) : Nat := match t with | .i64 | .n64 => 8 | _ => 4

/-- One element word combined with an incoming one (R379, R412, R417). -/
def collCombine (op : Nat) (t : Ty) (r : Rnd) (w c : Nat) : Nat :=
  let half (f : Nat → Nat → Nat) : Nat := f (w % 2 ^ 16) (c % 2 ^ 16) + f (w / 2 ^ 16 % 2 ^ 16) (c / 2 ^ 16 % 2 ^ 16) * 2 ^ 16
  let m := 2 ^ (8 * collWord t)
  let pick (x y : Int) (a b : Nat) : Nat := if op = 2 then (if y < x then b else a) else (if x < y then b else a)
  let fpick (f : Fmt) (a b : Nat) : Nat :=
    let x := f.value a
    let y := f.value b
    if x.isNan || y.isNan then f.nanBits
    else if op = 2 then (f.round .rne (FVal.min x y) 0).bits else (f.round .rne (FVal.max x y) 0).bits
  match t with
  | .f32 => if op = 1 then f32Add r w c else fpick .f32 w c
  | .bf16 =>
    if op = 1 then half fun x y => (roundPair .bf16 r (FVal.add r (Fmt.bf16.value x) (Fmt.bf16.value y)) 0).bits
    else half (fpick .bf16)
  | _ => if op = 1 then (w + c) % m else pick (intOf t.signed (8 * collWord t) w) (intOf t.signed (8 * collWord t) c) w c

/-- The new bytes of a receive box under a line: a move writes, the others combine word by word. -/
def collBytes (p : Posted) : Nat → Bytes → Bytes → Bytes
  | 0, _, _ => []
  | fuel + 1, old, new =>
    let op := nfield (p.word 7) 20 4
    let k := collWord p.ta
    if op = 0 ∨ new.isEmpty then new
    else
      toBytes (BitVec.ofNat 64 (collCombine op p.ta p.rnd (natOfBytes (old.take k)) (natOfBytes (new.take k)))) k
        ++ collBytes p fuel (old.drop k) (new.drop k)

namespace State

/-- The detail of an engine's fault in a walk: the object offset of an object fault, the walk byte of every other (R426). -/
def walkDetail (cause : BitVec 8) (walk off : Nat) : Word := BitVec.ofNat 64 (if cause = 0x07 then off else walk)

/-- Bytes `lo` to `lo + len - 1` of a box of a task, in the contiguous order, read, with the exact check of its capability's
window on the offsets of an object (R22). -/
def boxRead (s : State) (n : Nat) (e : Entry) (role : AskRole) (b : Box) (cap : Cap) (lo len : Nat) : TaskRes :=
  let off := boxByte b lo
  match s.sideOf b cap with
  | .sp => .ok ((List.range len).map fun i => e.spRead (s.coreAt n) (boxByte b (lo + i))) s
  | .mem obj => if Cap.within cap off len then s.taskRead (s.tenantOf n) obj off len else .fault ⟨0x02, 0, none⟩
  | .far lid _ far =>
    if Cap.within cap off len then s.peerAsk n e.seq.toNat role (s.tenantOf n) lid far off (.read len) false e.post.flowOrd (s.coreAt n).stamp
    else .fault ⟨0x02, 0, none⟩

/-- The same written. -/
def boxWrite (s : State) (n : Nat) (e : Entry) (role : AskRole) (b : Box) (cap : Cap) (lo : Nat) (bs : Bytes) (stamp : Word) : TaskRes :=
  let off := boxByte b lo
  match s.sideOf b cap with
  | .sp => .ok [] (s.onCore n fun c => (bs.zipIdx).foldl (fun c x => e.spWrite c (boxByte b (lo + x.2)) x.1) c)
  | .mem obj => if Cap.within cap off bs.length then s.taskWrite (s.tenantOf n) obj off bs stamp else .fault ⟨0x02, 0, none⟩
  | .far lid _ far =>
    if Cap.within cap off bs.length then s.peerAsk n e.seq.toNat role (s.tenantOf n) lid far off (.write bs) false e.post.flowOrd stamp
    else .fault ⟨0x02, 0, none⟩

/-- The higher of two stamps. -/
def maxStamp (a b : Word) : Word := if a.toNat < b.toNat then b else a

/-- A line applied to its receive box (R417), with the higher of its stamp and the window's (R456). -/
def lineWrite (s : State) (n : Nat) (e : Entry) (l : Line) : TaskRes :=
  match e.post.box 1 with
  | none => .fault ⟨0x05, 0, none⟩
  | some b =>
    let stamp := maxStamp (s.coreAt n).stamp l.stamp
    if nfield (e.post.word 7) 20 4 = 0 then s.boxWrite n e .line b (e.post.cap 1) l.toOff l.payload stamp
    else match s.boxRead n e .line b (e.post.cap 1) l.toOff l.payload.length with
    | .ok old s1 => s1.boxWrite n e .line b (e.post.cap 1) l.toOff (collBytes e.post (l.payload.length + 1) old l.payload) stamp
    | r => r

/-- The report of a step (R418). -/
def stepReport (x : CollStep) : Bytes :=
  let who := x.contributors
  let b (v : Bool) (i : Nat) : Nat := if v then 2 ^ i else 0
  let mask := natOfBools ((List.range 1024).map who.contains)
  toBytes (BitVec.ofNat 64 (x.step.toNat * 2 ^ 32 + x.version.num.toNat)) 8 ++
  toBytes (BitVec.ofNat 64 (who.length + b x.incomplete 16 + b x.stale 17 + b (x.settles.any (·.timedOut)) 18)) 8 ++
  toBytes (BitVec.ofNat 1024 mask) 128

/-- A step that may close closes, but not while it is saved (R418, R421): the report is written, the task has completed, and lines still held for it are
refused stale (R420). -/
def closeStep (s : State) (n : Nat) (seq : BitVec 32) : State :=
  match s.openStep n seq, (s.coreAt n).entry seq with
  | some x, some e =>
    if !x.closes ∨ e.fault.isSome ∨ !isCore n then s
    else
      let s1 := if bit (e.post.word 7) 32 then
          match e.post.box 1 with
          | some b => s.boxWrite n e .line b (e.post.cap 1) (b.size - 144) (stepReport x) (s.coreAt n).stamp
          | none => .ok [] s
        else .ok [] s
      match s1 with
      | .wait a => a
      | .fault f => (s.dropAsks n seq.toNat .line).faultTask n seq (f.task 0) []
      | .ok _ a0 =>
        let a := a0.dropAsks n seq.toNat .line
        let b := if x.dropped then a.discardEntry n e else a.onCore n fun c => c.onEntry seq fun y => { y with state := .completed }
        let gone (k : ChunkLine) : Bool := k.core == n && k.line.group == x.group && k.line.step == x.step
        let b1 := (b.fab.chunks.filter gone).foldl (fun a k => a.settleMsg k.msg 4) b
        let c : State := { b1 with fab := { b1.fab with
          steps := b1.fab.steps.filter fun y => !(y.core == n && y.seq == seq)
          chunks := b1.fab.chunks.filter fun k => !gone k
          closed := (n, x.group, x.step, x.version.num) :: b1.fab.closed } }
        match e.origin with
        | none => c
        | some (fn, q, idx) =>
          c.setOutcome fn q idx (if x.incomplete then 0x0C else 0) (BitVec.ofNat 32 x.contributors.length) none
  | _, _ => s

end State

end Sys2Proof.Machine
end

