-- ==== Sys2Proof/Machine/Window.lean ====
section
/-!
DEFINITION. Events of a window: the active-region directory (R362 to R366), settling, age and release (R153, R307, R308),
completion and retirement (R309, R82), guarded units (R316, R485), the board's own records (R345), engine faults (R434) and
the stall report (R322, R452).
-/

namespace Sys2Proof.Machine

open Sys2Proof.Bits

/-! ### The directory -/

namespace State

/-- The entries a task makes in this chip's directories (R361), in ascending order of stack (R363): one for each box and
implicit footprint in each span, except through nocheck (R368) and for an object another chip serves. -/
def taskEntries (s : State) (n : Nat) (e : Entry) : List DirEntry :=
  let p : DirParty' := ⟨s.dev.chip, n, true, e.seq.toNat, false, e.post.tag⟩
  let es := e.post.dirFeet.flatMap fun f =>
    let here (obj lo cnt : Nat) := if Cap.has f.2.2 6 ∨ cnt = 0 ∨ s.servedByPeer obj then [] else dirEntries p obj lo (lo + cnt - 1) f.2.1
    match f.1 with
    | .hbm obj lo cnt => here obj lo cnt
    | .rem lid obj lo cnt => if s.ownLid (s.tenantOf n) lid then here obj lo cnt else []
    | _ => []
  (List.range 12).flatMap fun k => es.filter (·.stack == k)

/-- The logical chips whose directories a task's footprint needs (R361, R362). -/
def farLids (s : State) (n : Nat) (e : Entry) : List Nat := ((s.farFeet n e.post).map fun f => f.1).eraseDups

/-- Every entry of a task has been made, at every chip (R362). -/
def taskEntered (s : State) (n : Nat) (e : Entry) : Bool :=
  (s.taskEntries n e).all s.hbm.dir.contains
    && (s.farLids n e).all fun l => s.fab.remDirs.any fun r => r.core == n && r.party == e.seq.toNat && r.lid == l && r.stage == .made

/-- Of some logical chips, the one with the lowest chip ID (R363). -/
def lowestChip (s : State) (t : Nat) (ls : List Nat) : Option Nat :=
  ls.foldl (fun o l => match o with
    | none => some l
    | some k => if s.peerChip t l < s.peerChip t k then some l else some k) none

/-- A task whose footprint has met an MMX, or a fabric fault, as it was entered (R366, R403): it takes its place in its queue, which
halts there (R434), or its unit fails (R436). What had been entered is withdrawn (R363). -/
def enterFails (s : State) (n : Nat) (e : Entry) (f : TaskFault) (report : List Word) : State :=
  let k := queueNo e.queue
  let s1 := (s.dropTask n e.seq).onCore n fun c =>
    let q := SMap.get [] c.eng.queues k
    { c with eng := { c.eng with queues := SMap.put [] c.eng.queues k (q ++ [e.seq]) } }
  s1.faultTask n e.seq f report

/-- A task's entries of one directory made (R363). -/
def enterHere (s : State) (n : Nat) (e : Entry) : State :=
  match s.dirInsert (s.nextEntries (s.taskEntries n e)) with
  | .made s1 => s1
  | .mmx r => s.enterFails n e ⟨0x0A, 0, (r[0]?).getD 0⟩ r
  | .full => s

/-- A task's entries at another chip asked for (R362, R402), on the data flow of its core. -/
def enterFar (s : State) (n : Nat) (e : Entry) (lid : Nat) : State :=
  let t := s.tenantOf n
  let feet := ((s.farFeet n e.post).filter fun f => f.1 == lid).map fun f => f.2
  match s.sendFlow n t lid 1 true (s.coreAt n).stamp (.enter t e.seq.toNat e.post.tag feet) e.seq.toNat true with
  | .sent f q s1 => { s1 with fab := { s1.fab with remDirs := s1.fab.remDirs ++ [⟨n, s.homeCore n, e.seq.toNat, t, lid, .asked, [], some (f, q)⟩] } }
  | .waits => s
  | .invalid => s.enterFails n e ⟨0x0C, 0x01, BitVec.ofNat 64 lid⟩ []

/-- A ready task enters the directories its footprint needs (R362), one at a time, in ascending order of chip and stack (R363): the next of
them, once the one before is complete. -/
def enterTask (s : State) (n : Nat) (e : Entry) : State :=
  if s.taskEntered n e ∨ !entryReady (s.coreAt n) e (s.collReady n e) then s
  else
    let t := s.tenantOf n
    let far := s.fab.remDirs.filter fun r => r.core == n && r.party == e.seq.toNat
    if far.any (·.stage != .made) then s
    else match s.lowestChip t ((s.farLids n e).filter fun l => !far.any (·.lid == l)) with
      | none => s.enterHere n e
      | some l => if (s.nextEntries (s.taskEntries n e)).isEmpty ∨ s.peerChip t l < s.dev.chip then s.enterFar n e l else s.enterHere n e

/-- A reduction that found no room at issue enters (R362); an MMX is a fault after issue (R366). -/
def enterRed (s : State) (n : Nat) (r : RedEntry) : State :=
  if r.entered then s
  else match s.dirInsert (s.scalarEntries n r.id r.cap r.addr r.len true true) with
    | .made s1 => s1.onCore n fun c => c.onRed r.id fun q => { q with entered := true }
    | .mmx rep => (s.countTrap n 0x0A).onCore n fun c => c.faultAfter r.grp r.id (accTrap 0x0A 0 r.word ((rep[0]?).getD 0) rep)
    | .full => s

end State

/-- DIRECTORY_INSERT (R362, R363). -/
def execDirectoryInsert (core : Nat) (p : DirParty) (s : State) : Host.Outcome State Fault Refusal :=
  atCore core (fun s =>
    let c := s.coreAt core
    match p with
    | .op k => match c.accOp k with
      | some o => if o.phase = .queued ∧ o.kind ≠ .fence ∧ !c.accHalted then s.enterAcc core o else s
      | none => s
    | .task seq => match c.entry seq with | some e => (s.enterTask core e).sendLeaves | none => s.sendLeaves
    | .red k => match c.redEntry k with | some r => s.enterRed core r | none => s) s

/-! ### Release -/

/-- ENTRY_SETTLED (R307). -/
def execEntrySettled (core : Nat) (seq : BitVec 32) (s : State) : Host.Outcome State Fault Refusal :=
  atCore core (fun s => s.onCore core fun c => c.onEntry seq fun e => if e.state = .unit then e else { e with settled := true }) s

/-- RELEASE_AGE_EXPIRY (R153). -/
def execReleaseAgeExpiry (core : Nat) (seq : BitVec 32) (s : State) : Host.Outcome State Fault Refusal :=
  atCore core (fun s =>
    match (s.coreAt core).entry seq with
    | none => s
    | some e => if entryReady (s.coreAt core) e (s.collReady core e) then s.onCore core fun c => c.onEntry seq fun x => { x with aged := true } else s) s

/-- The output ring of a stage (R152). -/
def stageRing (c : Core) (stage : Nat) : Option Nat :=
  if stage ≠ 0 ∧ bit c.sp.stgmap (8 * stage + 7) then some (nfield c.sp.stgmap (8 * stage) 4) else none

/-- Items of a side of a ring that are complete, where `n` have been popped or pushed: those below the first that an unretired entry is
bound to (R343). -/
def sideItems (c : Core) (k : Nat) (push : Bool) (n : Nat) : Nat :=
  ((c.board.entries.flatMap (·.binds)).filter fun b => b.1 == k && b.2.1 == push).foldl (fun m b => Nat.min m b.2.2) n

/-- Items of a ring whose fill is complete and whose drain is not (R347), and its slots: zero of one for a ring that is
not open. Fills complete in item order, and so do drains (R343). -/
def ringOccupancy (c : Core) (n : Nat) : Nat × Nat :=
  match c.ring n with
  | none => (0, 1)
  | some r => ((if r.mode = 0 then r.tide else sideItems c n true r.pushes) - (if r.mode = 1 then r.tide else sideItems c n false r.pops), r.slots)

/-- A ready entry goes before another to the same queue (R153). -/
def releaseBefore (c : Core) (a b : Entry) : Bool :=
  let older := decide (ageOf c b.seq < ageOf c a.seq)
  if a.aged || b.aged then (if a.aged && b.aged then older else a.aged)
  else match stageRing c a.post.stage, stageRing c b.post.stage with
    | some x, some y =>
      let p := ringOccupancy c x
      let q := ringOccupancy c y
      if p.1 * q.2 = q.1 * p.2 then older else decide (p.1 * q.2 < q.1 * p.2)
    | some _, none => true
    | none, some _ => false
    | none, none => older

/-- The one that goes first. -/
def firstReady (c : Core) : List Entry → Option Entry
  | [] => none
  | e :: r => match firstReady c r with
    | none => some e
    | some x => if releaseBefore c x e then some x else some e

namespace State

/-- Tasks that a queue may be given: ready, and entered in every directory (R307, R362). -/
def releasable (s : State) (n : Nat) (q : Queue) : List Entry :=
  let c := s.coreAt n
  c.board.entries.filter fun e => e.queue == q && entryReady c e (s.collReady n e) && s.taskEntered n e

/-- A task released to its queue (R308); a collective step opens (R414). -/
def releaseTask (s : State) (n : Nat) (q : Queue) : State :=
  let c := s.coreAt n
  let l := SMap.get [] c.eng.queues (queueNo q)
  if q = .board ∨ 16 ≤ l.length ∨ c.frozen.contains (.engine q) ∨ c.stopping then s
  else match firstReady c (s.releasable n q) with
    | none => s
    | some e =>
      let s1 := s.onCore n fun c =>
        let c1 := (c.onEntry e.seq fun x => { x with state := .queued }).withBoard fun b => { b with stalledReported := false }
        { c1 with eng := { c1.eng with queues := SMap.put [] c1.eng.queues (queueNo q) (l ++ [e.seq]) } }
      if e.post.kind = 0x28 then s1.openColl n e else s1

/-- A record of the scoreboard's own engine completes as it becomes ready (R308, R345). -/
def boardTask (s : State) (n : Nat) (seq : BitVec 32) (kind : Nat) : State :=
  match (s.coreAt n).entry seq with
  | none => s
  | some e =>
    if e.post.kind = kind ∧ entryReady (s.coreAt n) e true then s.onCore n fun c => c.onEntry seq fun x => { x with state := .completed }
    else s

/-- A ring closes once its last item has been filled and drained (R340). -/
def ringEnds (c : Core) (k : Nat) (r : Ring) : Bool :=
  r.started && c.drainDone k (r.items - 1) r && (r.mode == 1 || c.fillDone k (r.items - 1) r)

/-- A subscription whose ring has come to its end (R340). -/
def ringOver (c : Core) (e : Entry) : Bool :=
  e.post.isSubscr && (match c.ring (nfield (e.post.word 8) 0 4) with | some r => r.seq == e.seq && ringEnds c (nfield (e.post.word 8) 0 4) r | none => false)

/-- A task whose engine has done all its work completes, and its queue goes on (R308, R336). -/
def completeTask (s : State) (n : Nat) (seq : BitVec 32) : State :=
  match (s.coreAt n).entry seq with
  | none => s
  | some e =>
    if e.state = .executing ∧ (e.prog.fin ∨ ringOver (s.coreAt n) e) ∧ e.fault.isNone ∧ !(s.coreAt n).frozen.contains (.engine e.queue) then
      s.onCore n fun c =>
        let c1 := c.onEntry seq fun x => { x with state := .completed }
        let k := queueNo e.queue
        { c1 with eng := { c1.eng with queues := SMap.put [] c1.eng.queues k ((SMap.get [] c1.eng.queues k).filter (· != seq)) } }
    else s

/-- A completed task retires (R309), a bundle as a whole (R82), once its entries at other chips have been removed (R362). -/
def retireTask (s : State) (n : Nat) (seq : BitVec 32) : State :=
  match (s.coreAt n).entry seq with
  | none => s.sendLeaves
  | some e =>
    if e.state ≠ .completed then s.sendLeaves
    else match e.bundleHead with
      | some h =>
        if (s.coreAt n).bundleDone h then
          ((((s.coreAt n).board.entries.filter (·.bundleHead == some h)).foldl (fun a x => a.partFar n x) s).finishBundle n h).sendLeaves
        else s.sendLeaves
      | none =>
        let s1 := s.partFar n e
        if s1.leftFar n e then (s1.retireEntry n e false).sendLeaves else s1.sendLeaves

/-- A unit evaluated (R316, R485, R486): a failure is counted. -/
def evaluateUnit (s : State) (n : Nat) (g : BitVec 32) : State :=
  let c := s.coreAt n
  match c.unit g with
  | none => s
  | some u =>
    if !unitReady c u then s
    else if unitPasses c u then s.onCore n fun c => c.passUnit u
    else
      let s1 := (s.count n 8).onCore n fun c => c.failUnit u
      match s1.launchOf n with
      | some (l, la) => s1.setLaunch l (some { la with unitFails := la.unitFails + 1 })
      | none => s1

end State

/-- TASK_RELEASE (R308). -/
def execTaskRelease (core : Nat) (q : Queue) (s : State) : Host.Outcome State Fault Refusal := atCore core (·.releaseTask core q) s

/-- TASK_COMPLETE (R308). -/
def execTaskComplete (core : Nat) (seq : BitVec 32) (s : State) : Host.Outcome State Fault Refusal := atCore core (·.completeTask core seq) s

/-- TASK_RETIRE (R309). -/
def execTaskRetire (core : Nat) (seq : BitVec 32) (s : State) : Host.Outcome State Fault Refusal := atCore core (·.retireTask core seq) s

/-- UNIT_EVALUATION (R316). -/
def execUnitEvaluation (core : Nat) (seq : BitVec 32) (s : State) : Host.Outcome State Fault Refusal := atCore core (·.evaluateUnit core seq) s

/-- RINGPOP_TASK (R345). -/
def execRingpopTask (core : Nat) (seq : BitVec 32) (s : State) : Host.Outcome State Fault Refusal := atCore core (·.boardTask core seq 0x30) s

/-- RINGPUSH_TASK (R345). -/
def execRingpushTask (core : Nat) (seq : BitVec 32) (s : State) : Host.Outcome State Fault Refusal := atCore core (·.boardTask core seq 0x31) s

/-- The causes a task raises as it runs (R426). -/
def taskCauses : List (BitVec 8) := [0x02, 0x04, 0x05, 0x07, 0x0C, 0x0F, 0x12]

/-- ENGINE_FAULT (R434): a fault of a task that executes. -/
def execEngineFault (core : Nat) (seq : BitVec 32) (cause : TaskFault) (s : State) : Host.Outcome State Fault Refusal :=
  atCore core (fun s =>
    match (s.coreAt core).entry seq with
    | none => s
    | some e => if e.state = .executing ∧ e.fault.isNone ∧ taskCauses.contains cause.cause then s.faultTask core seq cause [] else s) s

/-! ### The stall report (R322, R452) -/

/-- A waiting entry lacks an internal condition of its own: settling, an access of the thread, an open unit or bundle. -/
def lacksInternal (c : Core) (e : Entry) : Bool :=
  !e.settled || threadPending c e || e.deps.any fun d =>
    match d with
    | .unit g => (match c.unit g with | some u => u.sect != 0 || unitReady c u | none => false)
    | .entry q | .reads q => (match c.entry q with | some o => o.state == .completed | none => false)
    | .held _ => false

/-- A subscription that its tide engine holds: the entries that wait for its ring count as waiting on the ring (R348), so that it does not
count as executing. -/
def onTide (c : Core) (e : Entry) : Bool :=
  e.post.isSubscr && (match c.ring (nfield (e.post.word 8) 0 4) with | some r => r.started && r.seq == e.seq | none => false)

/-- The window is externally stalled (R322): it holds entries, none is ready, queued or executing, and no waiting one
lacks an internal condition, so that those without open dependences lack external ones. -/
def externallyStalled (s : State) (n : Nat) : Bool :=
  let c := s.coreAt n
  let es := c.board.entries
  let waits := es.filter (·.state == .waiting)
  !waits.isEmpty && !es.any (fun e => e.state == .queued || (e.state == .executing && !onTide c e)) &&
    !waits.any fun e => entryReady c e (s.collReady n e) || lacksInternal c e

/-- The oldest entry of a window. -/
def oldestEntry (c : Core) : Option Entry :=
  c.board.entries.foldl (fun o e => match o with
    | some x => if ageOf c x.seq < ageOf c e.seq then some e else some x
    | none => some e) none

/-- The stall report of a window (R322). -/
def State.stallReport (s : State) (n : Nat) : List Word :=
  let c := s.coreAt n
  let waits := c.board.entries.filter (·.state == .waiting)
  let masks := waits.foldl (fun m e => m ||| e.post.waitMask) 0
  let bits (p : Nat → Bool) : Nat := (List.range 16).foldl (fun v i => if p i then v + 2 ^ i else v) 0
  let onRing (k : Nat) : Bool := waits.any fun e => e.binds.any fun b => b.1 == k && (match c.ring k with | some r => !c.sideReady k r b.2 | none => false)
  let coll := waits.any fun e => e.post.kind == 0x28 && !s.collReady n e
  let (seq, kind, tag) := match oldestEntry c with | some e => (e.seq.toNat, e.post.kind, e.post.tag) | none => (0, 0, 0)
  [BitVec.ofNat 64 (seq * 2 ^ 32 + c.board.entries.length % 1024 * 2 ^ 9 + n % 512),
   BitVec.ofNat 64 (masks.toNat * 2 ^ 48 + bits (fun i => c.mb i != 0) * 2 ^ 32 + (if coll then 2 ^ 16 else 0) + bits onRing),
   BitVec.ofNat 64 (kind % 256), tag]

/-- STALL_REPORT (R322, R452): one report, counted, and a stall trap for the thread; no further one until the window has stopped being
stalled. -/
def execStallReport (core : Nat) (s : State) : Host.Outcome State Fault Refusal :=
  atCore core (fun s =>
    if !externallyStalled s core then s.onCore core fun c => c.withBoard fun b => { b with stalledReported := false }
    else if (s.coreAt core).board.stalledReported then s
    else
      let r := s.stallReport core
      let s1 : State := { s with sched := { s.sched with stallReports := SMap.put [] s.sched.stallReports core r } }
      (s1.count core 10).onCore core fun c =>
        let t := Trap.of .boundary 0x13 0 ((r.headD 0) >>> 32)
        { (c.withBoard fun b => { b with stalledReported := true }) with asyncTraps := c.asyncTraps ++ [t] }) s

end Sys2Proof.Machine
end

