-- ==== Sys2Proof/Machine/EngineOps.lean ====
section
/-!
DEFINITION. What the matrix, stream and transpose engines share (R74, R260, R263, R286, R306): the start of a task, walk rows
and elements through its translation, the checks of an output box (R480, R481), and the delivery to a unit (R484).
-/

namespace Sys2Proof.Machine

open Sys2Proof.Bits

/-- What running a task gives: the core with all its work done, a fault with the core as it stands, or a wait. `breach` says
that a flag or clamp bound was breached (R490). -/
inductive EngRes where
  | done (c : Core) (breach : Bool)
  | bad (f : TaskFault) (c : Core) (breach : Bool)
  | wait

/-- A record fault found at start, with the failing word (R80, R426). -/
def startFault (word : Nat) : TaskFault := ⟨0x04, 0, BitVec.ofNat 64 word⟩

/-! ### Rows and elements -/

/-- The walk row of slot `q` at index `m` (R260). -/
def walkRow (p : Posted) (q m : Nat) : Nat :=
  match p.box q with
  | none => 0
  | some b =>
    let k := p.step q
    if 0 ≤ k then b.rowLo + k.toNat * m else b.rowLo + b.rowCnt - 1 - k.natAbs * m

/-- The first bit of a slot's columns in a row. -/
def colBit (p : Posted) (q : Nat) : Nat := match p.box q with | some b => 128 * b.colLo | none => 0

/-! ### Programs (R274, R276, R278) -/

namespace Epi

/-- The operation. -/
def op (w : BitVec 32) : Nat := nfield w 27 5
/-- The first source. -/
def ea (w : BitVec 32) : Nat := nfield w 20 4
/-- The second source. -/
def eb (w : BitVec 32) : Nat := nfield w 16 4
/-- The `cv` registers a word refers to (R278). -/
def cvs (w : BitVec 32) : List Nat :=
  let of (x : Nat) : List Nat := if 8 ≤ x ∧ x ≤ 11 then [x - 8] else []
  let k := op w
  if k = 0 ∨ k = 0x11 then [] else of (ea w) ++ (if k ≤ 6 ∨ k = 0xF ∨ k = 0x10 ∨ k = 0x12 then of (eb w) else [])

end Epi

/-- The program a task names (R274). -/
def taskProgram (p : Posted) (c : Core) : List (BitVec 32) :=
  if !p.epiEn then []
  else SMap.get [] (if p.kind = 0x05 then c.eng.drainStore else c.eng.streamStore) p.epiSlot

/-- The rows an extent task walks under its clamp (R74). -/
def clampRows (p : Posted) (clamp : Option Nat) : Nat := match clamp with | some n => min (p.ext 1) n | none => p.ext 1

namespace Entry

/-- A row that a task reads, through its translation (R263, R302). -/
def readRow (e : Entry) (c : Core) (r : Nat) : Row := c.prow (e.rrow r)

/-- A row as a task's own writes leave it. -/
def outRow (e : Entry) (c : Core) (r : Nat) : Row := c.prow (e.wrow r)

/-- A row written by a task, through its translation. -/
def writeRow (e : Entry) (c : Core) (r : Nat) (v : Row) : Core := c.setProw (e.wrow r) v

/-- The row a task reads in its walk: what it has itself written there, where the row is renamed (R282, R302). -/
def walked (e : Entry) (c : Core) (r : Nat) : Row := if SMap.get 0 e.wtr r = 0 then e.readRow c r else e.outRow c r

/-- New physical rows begin as copies of the rows they replace, so that unwritten bytes keep their values (R75). -/
def fillRows (e : Entry) (c : Core) : Core := e.wtr.foldl (fun c m => c.setProw (m.2 - 1) (e.readRow c m.1)) c

/-- The rows that a task consumes under its clamp (R74, R263, R271): those its walks and its program's column vectors visit, or for a copy all
rows of its read boxes. -/
def consumed (e : Entry) (clamp : Option Nat) (c : Core) : List Nat :=
  let p := e.post
  let n := clampRows p clamp
  let walk (q k : Nat) : List Nat := if (p.box q).isSome then (List.range k).map (walkRow p q) else []
  let vectors (q : Nat) : List Nat := match p.box q with
    | some b => if n = 0 then [] else ((taskProgram p c).flatMap Epi.cvs).map (b.rowLo + ·)
    | none => []
  match p.kind with
  | 0x01 => walk 0 (ceilDiv n 2) ++ if p.mx then walk 1 (ceilDiv (n * (groupOf p.tb).getD 1 / 32) 4) else []
  | 0x04 => walk 0 n ++ if p.mx then walk 2 n else []
  | 0x05 => vectors 2
  | 0x06 => walk 0 1
  | 0x10 => walk 0 n ++ walk 1 n ++ vectors 3
  | 0x11 | 0x18 => walk 0 n
  | _ => (p.foots.filter (·.reads)).flatMap Foot.rows

/-- The physical rows a task consumes hold an uncorrectable word (R445). -/
def readsBad (e : Entry) (clamp : Option Nat) (c : Core) : Bool := (e.consumed clamp c).any fun r => c.eng.bad.contains (.row (e.rrow r))

/-- No read box of the task shares a cell with a write box (R330, R445). -/
def disjoint (e : Entry) : Bool :=
  !e.post.foots.any fun f => f.reads && (f.writes || e.post.foots.any fun g => g.writes && f.cells.meets g.cells)

end Entry

/-- Element `i` of width `w` of a slot's columns in a row (R44, R263). -/
def slotElem (p : Posted) (q w i : Nat) (r : Row) : Nat := nfield r (colBit p q + w * i) w

/-- The generators a stream or drain task starts with (R54). -/
def taskGens (p : Posted) : List (BitVec 32) := laneSeeds (p.seed ^^^ p.tag.setWidth 32)

/-! ### Start -/

namespace State

/-- The guard word of a task (R74): none where it has no enabled one. -/
inductive GuardRes where
  | none
  | value (n : Nat) (s : State)
  | fault (f : TaskFault)
  | wait (s : State)

/-- A request tag is free for a copy channel or for an engine's read of a guard word, a record or an index table (R332). -/
def tagFree (s : State) (n : Nat) : Bool :=
  let asks := s.fab.asks.filter fun a => a.core == n && a.answer.isNone && (a.role == .start || a.role == .index)
  decide ((s.coreAt n).eng.copyReqs.length + asks.length < 4032)

/-- An engine reads bytes of an object at a task's start (R72, R80): under a request tag. -/
def startRead (s : State) (n : Nat) (e : Entry) (cap : Cap) (off len : Nat) : TaskRes :=
  if s.tagFree n then s.routeRead n e .start cap off len else .wait s

/-- The guard word is read once, at start (R72, R74). -/
def guardWord (s : State) (n : Nat) (e : Entry) : GuardRes :=
  let p := e.post
  if !p.gwEn then .none
  else match e.prog.guard with
    | some g => .value g s
    | none => match s.startRead n e (p.cap 6) p.gwOff 4 with
      | .ok bs s1 => .value (natOfBytes bs) s1
      | .fault f => .fault (f.task (BitVec.ofNat 64 p.gwOff))
      | .wait s1 => .wait s1

/-- A task may start on its engine (R308): it stands released at the head of its queue, with no fault, its engine is not frozen
(R434, R437) and the matrix block is not in retention (R512). While the core stops for a save, only a matrix record under way goes on
(R446). -/
def mayStart (s : State) (n : Nat) (seq : BitVec 32) (kind : Nat) : Option Entry :=
  let c := s.coreAt n
  match c.entry seq with
  | none => none
  | some e =>
    if e.post.kind = kind ∧ (e.state = .queued ∨ (e.state = .executing ∧ !e.prog.begun)) ∧ e.fault.isNone
        ∧ (SMap.get [] c.eng.queues (queueNo e.queue)).head? = some seq ∧ !c.frozen.contains (.engine e.queue)
        ∧ (!c.stopping ∨ (e.post.engine = 0 ∧ e.state = .executing)) ∧ !(c.eng.retention && e.post.engine == 0)
    then some e else none

/-- An entry's state and progress set. -/
def onTask (s : State) (n : Nat) (seq : BitVec 32) (f : Entry → Entry) : State := s.onCore n fun c => c.onEntry seq f

/-- A task has done all its work. -/
def finTask (s : State) (n : Nat) (seq : BitVec 32) : State :=
  s.onTask n seq fun e => { e with state := .executing, prog := { e.prog with begun := true, fin := true } }

/-- A task starts: its guard word, then its work (R74). `mark` is what its start alone does to the engine; work that must wait is
told what then stands of the start, which is the guard word and the requests to other chips. -/
def startTask (s : State) (n : Nat) (seq : BitVec 32) (kind : Nat) (mark : Entry → Core → Core)
    (work : Entry → Option Nat → (State → State) → State → State) : State :=
  match s.mayStart n seq kind with
  | none => s
  | some e =>
    let begin' (a : State) : State := (a.onCore n (mark e)).onTask n seq fun x => { x with state := .executing }
    let stay (s1 a : State) : State := { s1 with fab := a.fab }
    let over' (a : State) : State :=
      match (a.coreAt n).entry seq with
      | some x => if x.prog.begun ∨ x.fault.isSome then a.dropAsks n seq.toNat .start else a
      | none => a
    match s.guardWord n e with
    | .none => over' (work e none (stay s) (begin' s))
    | .wait s1 => s1
    | .fault f => over' ((begin' s).faultTask n seq f [])
    | .value g s1 =>
      let clamp := if g = 0 ∨ e.post.gwClamp then some g else none
      let s2 := s1.onTask n seq fun x => { x with prog := { x.prog with guard := some g } }
      let s3 := (begin' s2).onTask n seq fun x => { x with prog := { x.prog with clamp := clamp } }
      over' (if g = 0 then s3.finTask n seq else work e clamp (stay s2) s3)

/-- The result of an engine's work taken into the state; a breach of a flag or clamp bound is counted once (R490). -/
def settleTask (s : State) (n : Nat) (seq : BitVec 32) (r : EngRes) : State :=
  let count (b : Bool) (a : State) : State := if b then a.count n 6 else a
  match r with
  | .done c b => (count b (s.setCore n c)).finTask n seq
  | .bad f c b => (count b (s.setCore n c)).faultTask n seq f []
  | .wait => s

/-- A stream or transpose task that meets an uncorrectable word (R445): one replay where its boxes are disjoint, else a
soft-error fault. -/
def softError (s : State) (n : Nat) (e : Entry) : State :=
  if e.prog.redo = 0 ∧ e.disjoint then
    s.onTask n e.seq fun x => { x with state := .queued, prog := { Progress.fresh with redo := 1, guard := x.prog.guard } }
  else s.faultTask n e.seq ⟨0x12, 0, 0⟩ []

end State

/-! ### Output elements (R480, R481) -/

/-- What a check of one value makes: the bits to write, whether a flag or clamp bound was breached, whether a trap bound
was. -/
structure Checked where
  bits : Nat
  core : Core
  breach : Bool
  trap : Bool

/-- A breach recorded in its register and, for a surrogate or check task, in its unit (R480). -/
def Core.breachAt (c : Core) (e : Entry) (k : Nat) : Core :=
  let c1 := c.setBrk k
  if e.inSection then c1.onUnit e.post.unitSeq fun u => { u with breach := true } else c1

/-- One output element checked against the bound register of its box (R480): `t` is the output's type. -/
def checkOut (c : Core) (e : Entry) (b : Box) (t : Ty) (bits : Nat) : Checked :=
  if !b.bndEn then ⟨bits, c, false, false⟩
  else
    let w := c.bnd b.bnd
    let v := t.value bits
    if !Bound.breaches w v then ⟨bits, c, false, false⟩
    else
      let c1 := c.breachAt e b.bnd
      match Bound.mode w with
      | 0 => ⟨bits, c1, true, false⟩
      | 1 => ⟨(Bound.clamped w t v).bits, c1, true, false⟩
      | _ => ⟨bits, c1, false, true⟩

/-- A running value delivered to the unit of a check task (R484). -/
def Core.deliver (c : Core) (e : Entry) (maximal : Bool) (v : FVal) : Core :=
  if e.gsec = 2 then
    c.onUnit e.post.unitSeq fun u => { u with deliveries := (u.deliveries.filter (·.1 != e.seq)) ++ [(e.seq, maximal, v)] }
  else c

end Sys2Proof.Machine
end

