-- ==== Sys2Proof/Machine/Matrix.lean ====
section
/-!
DEFINITION. The matrix queue (R265 to R273, R318, R319, R443, R444): planes, tiles, segments, drains without the epilogue
code (which stands in Epilogue), checkpoints and rollback.
-/

namespace Sys2Proof.Machine

open Sys2Proof.Bits

/-! ### Planes -/

/-- The shadow plane: the selector names the active one (R265). -/
def Engines.shadow (g : Engines) : Plane := if g.selector then g.plane0 else g.plane1
/-- The active plane (R265). -/
def Engines.active (g : Engines) : Plane := if g.selector then g.plane1 else g.plane0
/-- The shadow plane replaced. -/
def Engines.setShadow (g : Engines) (p : Plane) : Engines := if g.selector then { g with plane0 := p } else { g with plane1 := p }
/-- The active plane replaced. -/
def Engines.setActive (g : Engines) (p : Plane) : Engines := if g.selector then { g with plane1 := p } else { g with plane0 := p }

/-- The engines of a core changed. -/
def Core.onEng (c : Core) (f : Engines → Engines) : Core := { c with eng := f c.eng }

/-- `MLDST` (R266): the plane it loads. -/
def loadPlane (e : Entry) (c : Core) (np : Nat) : Plane :=
  let p := e.post
  let nc := p.ext 0
  let grp := (groupOf p.tb).getD 1
  let cells := (List.range np).flatMap fun i =>
    let r := e.readRow c (walkRow p 0 (i / 2))
    (List.range nc).map fun j => (128 * i + j, field r (colBit p 0 + 2048 * (i % 2) + 16 * j) 16)
  let scales := if !p.mx then [] else (List.range (np * grp / 32)).flatMap fun k =>
    let r := e.readRow c (walkRow p 1 (k / 4))
    (List.range nc).map fun j => (128 * k + j, field r (colBit p 1 + 1024 * (k % 4) + 8 * j) 8)
  { ty := some p.tb, mx := p.mx, np := np, nc := nc, cells := SMap.ofRising 0 cells, scales := SMap.ofRising 0x7F scales, loaded := true, borrowed := false }

/-- `MLDST` (R266): a borrowed plane is not overwritten in its segment (R272). -/
def runMldst (e : Entry) (clamp : Option Nat) (c : Core) : EngRes :=
  if c.eng.shadow.borrowed then .bad (startFault 0) c false
  else
    let plane : Nat := if c.eng.selector then 0 else 1
    .done (c.onEng fun g => { g.setShadow (loadPlane e c (clampRows e.post clamp)) with
      bad := g.bad.filter fun x => match x with | .plane k _ => k.val != plane | _ => true }) false

/-- `MSWAP` (R267). -/
def runMswap (c : Core) : EngRes := .done (c.onEng fun g => { g with selector := !g.selector }) false

/-! ### Tiles -/

/-- The key of a tile entry. -/
def accKey (tile i j : Nat) : Nat := tile * 16384 + 128 * i + j

/-- The tile box of a record's slot. -/
def tileBox (p : Posted) (q : Nat) : TileBox :=
  match p.box q with | some b => ⟨b.tile, b.rowLo, b.rowCnt, b.colLo, b.colCnt⟩ | none => ⟨0, 0, 0, 0, 0⟩

namespace TileBox

/-- The box covers its tile. -/
def whole (b : TileBox) : Bool := b.rowLo == 0 && b.rowCnt == 128 && b.colLo == 0 && b.colCnt == 128

/-- An entry, by key, lies in the box. -/
def holds (b : TileBox) (k : Nat) : Bool :=
  k / 16384 == b.tile && decide (b.rowLo ≤ k % 16384 / 128) && decide (k % 16384 / 128 < b.rowLo + b.rowCnt)
    && decide (b.colLo ≤ k % 128) && decide (k % 128 < b.colLo + b.colCnt)

/-- One box lies in another. -/
def inside (a b : TileBox) : Bool :=
  a.tile == b.tile && decide (b.rowLo ≤ a.rowLo) && decide (a.rowLo + a.rowCnt ≤ b.rowLo + b.rowCnt)
    && decide (b.colLo ≤ a.colLo) && decide (a.colLo + a.colCnt ≤ b.colLo + b.colCnt)

/-- The keys of a box's entries. -/
def keys (b : TileBox) : List Nat :=
  (List.range b.rowCnt).flatMap fun i => (List.range b.colCnt).map fun j => accKey b.tile (b.rowLo + i) (b.colLo + j)

end TileBox

namespace Core

/-- A tile is in integer mode (R47, R265). -/
def intMode (c : Core) (tile : Nat) : Bool := bit c.eng.modes tile

/-- A write of the segment noted (R443). -/
def noteWrite (c : Core) (seq : BitVec 32) (b : TileBox) (zero : Bool) : Core :=
  c.onEng fun g => { g with segWrites := g.segWrites ++ [⟨seq, b, zero⟩] }

/-- A tile's integer-saturation bit (R58). -/
def setAflag (c : Core) (tile : Nat) (v : Bool) : Core := { c with sp := { c.sp with aflags := setBit c.sp.aflags tile v } }

end Core

/-- `MZERO` (R268): it has no extent that a guard word could clamp (R74). -/
def runMzero (e : Entry) (_ : Option Nat) (c : Core) : EngRes :=
  let b := tileBox e.post 0
  let c1 := c.onEng fun g => { g with
    acc := SMap.without g.acc b.holds
    modes := setBit g.modes b.tile (e.post.td == .i64)
    bad := g.bad.filter fun x => match x with | .tile t i j => !b.holds (accKey t.val i.val j.val) | _ => true }
  .done ((if b.whole then c1.setAflag b.tile false else c1).noteWrite e.seq b true) false

/-- A signed 56-bit integer as a tile holds it. -/
def accInt (v : BitVec 56) : Int := v.toInt

/-- What a pass reads of a row of its first operand or of a column of the plane: the elements, in order of their index, and the
scale codes of their blocks (R265). -/
structure PassSide where
  elems : List Nat
  scales : List Nat

/-- Column `col` of a plane: its first `kn` elements (R265). -/
def planeSide (p : Plane) (t : Ty) (grp kn col : Nat) : PassSide :=
  let cells := p.cells.filter fun x => x.1 % 128 == col
  let scales := p.scales.filter fun x => x.1 % 128 == col
  ⟨(List.range kn).map fun k => nfield (SMap.get 0 cells (128 * (k / grp) + col)) (t.width * (k % grp)) t.width,
    (List.range (ceilDiv kn 32)).map fun b => (SMap.get 0x7F scales (128 * b + col)).toNat⟩

/-- A row of an `MSTREAM`'s first operand and of its scales. -/
def rowSide (p : Posted) (arow srow : Row) (kn : Nat) : PassSide :=
  ⟨(List.range kn).map fun k => slotElem p 0 p.ta.width k arow,
    if p.mx then (List.range (ceilDiv kn 32)).map fun b => slotElem p 2 8 b srow else []⟩

/-- The pairs of elements of the group that starts at index `k0`. -/
def groupPairs (a b : PassSide) (grp k0 : Nat) : List (Nat × Nat) := ((a.elems.drop k0).take grp).zip ((b.elems.drop k0).take grp)

/-- The exact sum of a group's products, scaled (R61, R270). `sc` holds the block's scale codes. -/
def groupSum (p : Posted) (pairs : List (Nat × Nat)) (sc : Option (Nat × Nat)) : FVal :=
  let prod (x : Nat × Nat) : FVal := (FVal.mul (p.ta.value x.1) (p.tb.value x.2)).1
  let s := match pairs with
    | [] => .fin false 0 0
    | x :: r => r.foldl (fun a y => (FVal.add .rne a (prod y)).1) (prod x)
  match sc with
  | some (a, b) => e8m0 (e8m0 s a) b
  | none => s

/-- The integer sum of a group's products (R61). -/
def groupInt (p : Posted) (pairs : List (Nat × Nat)) : Int := (pairs.map fun x => p.ta.int x.1 * p.tb.int x.2).sum

/-- One entry updated by a pass (R61): the entry after it and whether an addition saturated. -/
def passEntry (p : Posted) (row col : PassSide) (grp kn : Nat) (integer : Bool) (v : BitVec 56) : BitVec 56 × Bool :=
  (List.range (ceilDiv kn grp)).foldl (fun a g =>
    let k0 := g * grp
    let pairs := groupPairs row col grp k0
    if integer then
      let x := accInt a.1 + groupInt p pairs
      let y := clampInt (-(2 ^ 55 : Nat)) ((2 ^ 55 : Nat) - 1) x
      (BitVec.ofInt 56 y, a.2 || y != x)
    else
      let sc := if p.mx then some ((row.scales[k0 / 32]?).getD 0x7F, (col.scales[k0 / 32]?).getD 0x7F) else none
      (BitVec.ofNat 56 (Fmt.a56.round .rne (FVal.add .rne (Fmt.a56.value a.1.toNat) (groupSum p pairs sc)).1 0).bits, a.2)) (v, false)

/-- The rows of an `MSTREAM` in turn (R269); `cols` are the columns of the plane. -/
def streamRows (e : Entry) (grp : Nat) (cols : List PassSide) (b : TileBox) (integer : Bool) : List Nat → Core → Core
  | [], c => c
  | m :: ms, c =>
    let p := e.post
    let row := rowSide p (e.readRow c (walkRow p 0 m)) (if p.mx then e.readRow c (walkRow p 2 m) else 0) (ceilDiv (p.ext 0) grp * grp)
    let k0 := accKey b.tile (b.rowLo + m) b.colLo
    let old := SMap.window c.eng.acc k0 b.colCnt
    let out := cols.zipIdx.map fun x => (k0 + x.2, passEntry p row x.1 grp (p.ext 0) integer (SMap.get 0 old (k0 + x.2)))
    let c1 := c.onEng fun g => { g with acc := SMap.merge 0 g.acc (out.map fun x => (x.1, x.2.1)) }
    streamRows e grp cols b integer ms (if out.any fun x => x.2.2 then c1.setAflag b.tile true else c1)

/-- `MSTREAM` (R269), with the checks of R286: type and scaling of the active plane, K, columns and the tile's mode. A
plane not loaded in the segment is borrowed (R272). -/
def runMstream (e : Entry) (clamp : Option Nat) (c : Core) : EngRes :=
  let p := e.post
  let pl := c.eng.active
  let grp := (groupOf p.tb).getD 1
  let b := tileBox p 1
  let integer := p.ta == .i8 || p.ta == .n8
  if pl.ty ≠ some p.tb ∨ pl.mx ≠ p.mx then .bad (startFault 7) c false
  else if pl.np * grp < p.ext 0 then .bad (startFault 8) c false
  else if pl.nc < b.colCnt then .bad (startFault 2) c false
  else if c.intMode b.tile ≠ integer then .bad (startFault 7) c false
  else
    let c1 := if pl.loaded then c else c.onEng fun g => g.setActive { pl with borrowed := true }
    let rows := clampRows p clamp
    let cols := (List.range b.colCnt).map (planeSide pl p.tb grp (ceilDiv (p.ext 0) grp * grp))
    .done ((streamRows e grp cols b integer (List.range rows) c1).noteWrite e.seq { b with rowCnt := rows } false) false

/-! ### Segments (R272, R319, R443) -/

/-- A plane's metadata, as a marker keeps it (R272). -/
def Plane.meta (p : Plane) : Plane := { p with cells := [], scales := [] }

/-- A plane with the metadata a marker kept: one that the segment has borrowed stays borrowed. -/
def Plane.restore (p m : Plane) : Plane := { m with cells := p.cells, scales := p.scales, borrowed := p.borrowed }

/-- The entries and the mode of a tile box (R443). -/
def takeCheckpoint (c : Core) (b : TileBox) : Checkpoint :=
  ⟨b, c.intMode b.tile, c.eng.acc.filter fun x => b.holds x.1⟩

/-- A new segment begins with a marker (R272, R443): both planes' loaded bits are cleared, and the checkpoint buffer takes
the box of a `TSTART`, or is empty. -/
def newSegment (e : Entry) (c : Core) : Core :=
  let g := c.eng
  let p0 := { g.plane0 with loaded := false, borrowed := false }
  let p1 := { g.plane1 with loaded := false, borrowed := false }
  let boxed := e.post.kind == 0x3C && (e.post.box 0).isSome
  let c1 := { c with eng := { g with
    plane0 := p0
    plane1 := p1
    checkpoint := if boxed then some (takeCheckpoint c (tileBox e.post 0)) else none
    segment := ⟨g.segment.num + 1, [], true, 0, g.selector, g.modes, c.sp.aflags, p0.meta, p1.meta⟩
    segWrites := [] } }
  c1.releaseHeld

/-- A record of the matrix queue starts (R319, R443): a marker begins a segment, a 65th record or an `MEPI` without a marker
makes the segment unretained, and the record joins it. One that is retried has joined it already. -/
def matrixMark (e : Entry) (c0 : Core) : Core :=
  if e.post.engine ≠ 0 ∨ c0.eng.segment.started.any (·.seq == e.seq) then c0
  else
    let c := if e.post.tileStart then newSegment e c0 else c0
    let sg := c.eng.segment
    let full := sg.retained && decide (64 ≤ sg.started.length)
    let loose := e.post.kind == 0x06 && !e.post.tileStart
    let sg1 := { sg with retained := sg.retained && !full && !loose, started := if sg.retained && !full then sg.started ++ [e] else sg.started }
    let c1 := (c.onEng fun g => { g with segment := sg1 }).onEntry e.seq fun x => { x with seg := some sg.num }
    if full then c1.dropHeld sg.num else c1

/-! ### Rollback (R272, R443, R444) -/

/-- Tiles a record writes. -/
def writesTile (e : Entry) : List Nat :=
  if e.post.kind = 0x03 then [(tileBox e.post 0).tile] else if e.post.kind = 0x04 then [(tileBox e.post 1).tile] else []

/-- The tile entries that a matrix record adds to or drains, under its clamp. -/
def takesEntries (p : Posted) (clamp : Option Nat) : Option TileBox :=
  let rows := clampRows p clamp
  if p.kind = 0x04 then some { tileBox p 1 with rowCnt := rows }
  else if p.kind = 0x05 then some { tileBox p 0 with rowCnt := rows, colCnt := p.ext 0 }
  else none

/-- A word of the active plane that an `MSTREAM` consumes (R269): a cell of its K and its columns. DESIGN CHOICE (log 112): words from 16,384
on are the planes' scales, by block and column. -/
def takesCell (p : Posted) (clamp : Option Nat) (k : Nat) : Bool :=
  p.kind == 0x04 && clampRows p clamp != 0 && decide (k % 128 < (tileBox p 1).colCnt) &&
    (if k < 16384 then decide (k / 128 < ceilDiv (p.ext 0) ((groupOf p.tb).getD 1)) else p.mx && decide (k / 128 - 128 < ceilDiv (p.ext 0) 32))

/-- A matrix record consumes, under its clamp, a word that its code cannot correct (R271, R443): of a scratchpad row, of the tile entries it
adds to or drains, or of the active plane. -/
def consumesBad (e : Entry) (clamp : Option Nat) (c : Core) : Bool :=
  let active : Nat := if c.eng.selector then 1 else 0
  e.readsBad clamp c || c.eng.bad.any fun x => match x with
    | .tile t i j => (match takesEntries e.post clamp with | some b => b.holds (accKey t.val i.val j.val) | none => false)
    | .plane p k => p.val == active && takesCell e.post clamp k
    | .row _ => false

/-- The tiles an event on a record discards (R271, R443): its target tile, or the tile whose bad word it drains. -/
def discardedTiles (e : Entry) : List Nat := if e.post.kind = 0x05 then [(tileBox e.post 0).tile] else writesTile e

/-- A discarded tile is restorable (R443): every write of the segment to it lies in the checkpointed box or follows an
`MZERO` of the segment over the same entries. -/
def restorable (c : Core) (tile : Nat) : Bool :=
  let ws := c.eng.segWrites.filter (·.box.tile == tile)
  let boxed (b : TileBox) : Bool := match c.eng.checkpoint with | some k => b.inside k.box | none => false
  (ws.zipIdx).all fun w => w.1.zero || boxed w.1.box ||
    w.1.box.keys.all fun k => (ws.take w.2).any (fun z => z.zero && z.box.holds k) || (match c.eng.checkpoint with | some q => q.box.holds k | none => false)

/-- The discarded tiles after a rollback that fails: every entry the segment wrote is the canonical NaN, or −2^55 with the
saturation bit set (R444). -/
def spoilTile (c : Core) (tile : Nat) : Core :=
  let int := c.intMode tile
  let keys := ((c.eng.segWrites.filter (·.box.tile == tile)).flatMap fun w => w.box.keys).eraseDups
  let v : BitVec 56 := if int then 0x80000000000000 else 0x7FF00000000000
  let c1 := c.onEng fun g => { g with
    acc := keys.foldl (fun m k => SMap.put 0 m k v) g.acc
    bad := g.bad.filter fun x => match x with | .tile t i j => !keys.contains (accKey t.val i.val j.val) | _ => true }
  if int && !keys.isEmpty then c1.setAflag tile true else c1

/-- A discarded tile's mode, saturation bit and checkpointed box as they were at the marker (R272, R444). -/
def restoreTile (c : Core) (tile : Nat) : Core :=
  let sg := c.eng.segment
  let c1 := (c.onEng fun g => { g with modes := setBit g.modes tile (sg.modes.getLsbD tile) }).setAflag tile (sg.isat.getLsbD tile)
  match c1.eng.checkpoint with
  | none => c1
  | some k =>
    if k.box.tile ≠ tile then c1
    else c1.onEng fun g => { g with
      acc := SMap.merge 0 (SMap.without g.acc k.box.holds) k.entries
      bad := g.bad.filter fun x => match x with | .tile t i j => !k.box.holds (accKey t.val i.val j.val) | _ => true }

/-- One record replayed: its work alone (R306, R444). -/
def replayRecord (e : Entry) (clamp : Option Nat) (c : Core) : Core :=
  let r := match e.post.kind with
    | 0x01 => runMldst e clamp c
    | 0x02 => runMswap c
    | 0x03 => runMzero e clamp c
    | 0x04 => runMstream e clamp c
    | _ => .done c false
  match r with | .done c1 _ => c1 | .bad _ c1 _ => c1 | .wait => c

/-- The segment replayed with a set of discarded tiles (R444). A record whose guard word gated it out, or clamped it, is so
again. -/
def replaySegment (c : Core) (tiles : List Nat) : Core :=
  let sg := c.eng.segment
  let c1 := c.onEng fun g => { g with selector := sg.selector, plane0 := g.plane0.restore sg.plane0, plane1 := g.plane1.restore sg.plane1 }
  let c2 := tiles.foldl restoreTile c1
  let c3 := c2.onEng fun g => { g with segWrites := g.segWrites.filter fun w => !tiles.contains w.box.tile }
  let again (e : Entry) : Bool := e.post.kind == 0x01 || e.post.kind == 0x02 || (writesTile e).any tiles.contains
  let done := sg.started.filter fun e => again e && e.prog.clamp != some 0
  let c4 := done.foldl (fun c e => replayRecord e e.prog.clamp c) c3
  c4.onEng fun g => { g with segment := { g.segment with replays := g.segment.replays + 1 } }

/-- The segment keeps a started record as its start left it, with what its guard word gave. -/
def Core.keepStarted (c : Core) (seq : BitVec 32) : Core :=
  match c.entry seq with
  | none => c
  | some e => c.onEng fun g => { g with segment := { g.segment with started := g.segment.started.map fun x => if x.seq = seq then e else x } }

/-- A segment may be replayed with a set of discarded tiles (R444). -/
def replayable (c : Core) (tiles : List Nat) : Bool := c.eng.segment.retained && tiles.all (restorable c)

/-- A rollback event on the record at the head of the matrix queue (R443, R444): the segment is replayed, or its discarded
tiles are spoiled and the record takes a soft-error fault. A record that consumes a bad scratchpad row meets it again in its
replay. -/
def State.rollback (s : State) (n : Nat) : State :=
  let c := s.coreAt n
  match ((SMap.get [] c.eng.queues 0).head?).bind c.entry with
  | none => s
  | some e =>
    if e.state ≠ .executing ∨ e.fault.isSome ∨ e.prog.guard = some 0 ∨ c.frozen.contains (.engine .matrix) then s
    else
      let tiles := discardedTiles e
      let s1 := if consumesBad e e.prog.clamp c then s else s.count n 4
      if !replayable c tiles ∨ 1 ≤ c.eng.segment.replays then
        let s2 := s1.onCore n fun c => tiles.foldl spoilTile (c.onEng fun g => { g with segment := { g.segment with replays := 0 } })
        (s2.onTask n e.seq fun x => { x with prog := { x.prog with redo := 1 } }).faultTask n e.seq ⟨0x12, 0, 0⟩ []
      else
        let s2 := s1.onCore n fun c => replaySegment c tiles
        if consumesBad e e.prog.clamp (s2.coreAt n) then s2
        else
          let s3 := s2.count n 2
          if e.prog.fin ∨ e.post.kind = 0x05 then s3 else s3.finTask n e.seq

/-! ### Events -/

/-- A matrix record starts and does its work, unless it consumes a bad word: then a rollback event follows. One retried after a
failed rollback replays its segment first (R444). -/
def matrixTask (n : Nat) (seq : BitVec 32) (kind : Nat) (run : Entry → Option Nat → Core → EngRes) (s : State) : State :=
  let stuck : Bool := match (s.coreAt n).entry seq with
    | some e => e.state == .executing && consumesBad e e.prog.clamp (s.coreAt n)
    | none => false
  let s1 := if stuck then s else s.startTask n seq kind (fun e c => matrixMark e (e.fillRows c)) fun e clamp _ a =>
    if e.prog.redo = 1 then
      let b := a.onTask n seq fun x => { x with prog := { x.prog with redo := 0 } }
      let tiles := discardedTiles e
      if !replayable (b.coreAt n) tiles then b.faultTask n seq ⟨0x12, 0, 0⟩ []
      else
        let b1 := b.onCore n fun c => replaySegment c tiles
        if consumesBad e clamp (b1.coreAt n) then b1
        else if kind = 0x05 then b1.settleTask n seq (run e clamp (b1.coreAt n))
        else b1.finTask n seq
    else if consumesBad e clamp (a.coreAt n) then a
    else a.settleTask n seq (run e clamp (a.coreAt n))
  s1.onCore n fun c => c.keepStarted seq

/-- MLDST_TASK (R266): the queue hands it to the plane loader and goes on. -/
def execMldstTask (core : Nat) (seq : BitVec 32) (s : State) : Host.Outcome State Fault Refusal :=
  atCore core (fun s =>
    let s1 := matrixTask core seq 0x01 runMldst s
    match (s1.coreAt core).entry seq with
    | some e => if e.prog.fin ∧ e.fault.isNone ∧ e.post.kind = 0x01 then s1.onCore core fun c =>
        c.onEng fun g => { g with queues := SMap.put [] g.queues 0 ((SMap.get [] g.queues 0).filter (· != seq)) } else s1
    | none => s1) s

/-- An earlier plane load has not completed (R267). -/
def loadsPending (c : Core) : Bool := c.board.entries.any fun e => e.post.kind == 0x01 && e.state == .executing && e.fault.isNone

/-- MSWAP_TASK (R267). -/
def execMswapTask (core : Nat) (seq : BitVec 32) (s : State) : Host.Outcome State Fault Refusal :=
  atCore core (fun s => if loadsPending (s.coreAt core) then s else matrixTask core seq 0x02 (fun _ _ c => runMswap c) s) s

/-- MZERO_TASK (R268). -/
def execMzeroTask (core : Nat) (seq : BitVec 32) (s : State) : Host.Outcome State Fault Refusal :=
  atCore core (matrixTask core seq 0x03 runMzero) s

/-- MSTREAM_TASK (R269). -/
def execMstreamTask (core : Nat) (seq : BitVec 32) (s : State) : Host.Outcome State Fault Refusal :=
  atCore core (matrixTask core seq 0x04 runMstream) s

/-- TSTART_TASK (R318, R443): a marker does no work. -/
def execTstartTask (core : Nat) (seq : BitVec 32) (s : State) : Host.Outcome State Fault Refusal :=
  atCore core (matrixTask core seq 0x3C fun _ _ c => .done c false) s

/-- ROLLBACK_EVENT (R443). -/
def execRollbackEvent (core : Nat) (s : State) : Host.Outcome State Fault Refusal := atCore core (·.rollback core) s

end Sys2Proof.Machine
end

