-- ==== Sys2Proof/Machine/ScalarFloat.lean ====
section
/-!
DEFINITION. Scalar floating point (R193 to R196, R198). Every result is computed exactly and rounded once; flags are
ORed into `%fflags` at the end of the group (R57).
-/

namespace Sys2Proof.Machine

open Sys2Proof.Bits

/-- `fval` (R182): the value of the low bits of a register in a type. -/
def fval (t : Ty) (v : Word) : FVal := t.value (v.toNat % 2 ^ t.width)

/-- A rounded element as a doubleword, `fenc` (R182). -/
def fenc (r : Rounded) : Word := BitVec.ofNat 64 r.bits

/-- An exact result with the flags of the operation, rounded into a type and written with all flags (R194). -/
def writeFloat (t : Ty) (r : Rnd) (d : SReg) (x : Core → FVal × FFlags) (s : State) : OpRes :=
  onReg s fun c =>
    let (v, f) := x c
    let q := roundElem t r v 0
    (c.ws d (fenc q)).raise (f ||| q.flags)

/-- `FADD` (R194). -/
def opFadd (t : Ty) (r : Rnd) (d a b : SReg) : State → OpRes :=
  writeFloat t r d fun c => FVal.add r (fval t (c.rs a)) (fval t (c.rs b))

/-- `FSUB` (R194). -/
def opFsub (t : Ty) (r : Rnd) (d a b : SReg) : State → OpRes :=
  writeFloat t r d fun c => FVal.add r (fval t (c.rs a)) (fval t (c.rs b)).negate

/-- `FMUL` (R194). -/
def opFmul (t : Ty) (r : Rnd) (d a b : SReg) : State → OpRes :=
  writeFloat t r d fun c => FVal.mul (fval t (c.rs a)) (fval t (c.rs b))

/-- `FDIV` (R194). -/
def opFdiv (t : Ty) (r : Rnd) (d a b : SReg) : State → OpRes :=
  writeFloat t r d fun c => FVal.div (fval t (c.rs a)) (fval t (c.rs b))

/-- `FSQRT` (R194). -/
def opFsqrt (t : Ty) (r : Rnd) (d a : SReg) : State → OpRes :=
  writeFloat t r d fun c => FVal.sqrt (fval t (c.rs a))

/-- `FMA` (R194). -/
def opFma (t : Ty) (r : Rnd) (d a b c : SReg) : State → OpRes :=
  writeFloat t r d fun k => FVal.fma r (fval t (k.rs a)) (fval t (k.rs b)) (fval t (k.rs c))

/-- `FMIN` (R195). -/
def opFmin (t : Ty) (d a b : SReg) : State → OpRes :=
  writeFloat t .rne d fun c => (FVal.min (fval t (c.rs a)) (fval t (c.rs b)), 0)

/-- `FMAX` (R195). -/
def opFmax (t : Ty) (d a b : SReg) : State → OpRes :=
  writeFloat t .rne d fun c => (FVal.max (fval t (c.rs a)) (fval t (c.rs b)), 0)

/-- `FCVT` (R196, R53). -/
def opFcvt (td ta : Ty) (r : Rnd) (d a : SReg) (s : State) : OpRes :=
  onReg s fun c =>
    let q := convert ta td r ((c.rs a).toNat % 2 ^ ta.width) 0
    (c.ws d (fenc q)).raise q.flags

/-- `FCVTI` (R196, R52, R53): sign-extended for a signed target. -/
def opFcvti (td ta : Ty) (r : Rnd) (d a : SReg) (s : State) : OpRes :=
  onReg s fun c =>
    let q := convert ta td r ((c.rs a).toNat % 2 ^ ta.width) 0
    (c.ws d (if td.signed then sext (fenc q) td.width else zext (fenc q) td.width)).raise q.flags

/-- `ICVTF` (R196). -/
def opIcvtf (td ta : Ty) (r : Rnd) (d a : SReg) (s : State) : OpRes :=
  onReg s fun c =>
    let q := convert ta td r ((c.rs a).toNat % 2 ^ ta.width) 0
    (c.ws d (fenc q)).raise q.flags

/-- The bit of `FCLASS` for an encoding (R195). -/
def floatClass (t : Ty) (bits : Nat) : Nat :=
  match t.fmt? with
  | none => 0
  | some f =>
    match f.value bits with
    | .nan => 8
    | .inf n => if n then 0 else 7
    | .fin n m _ =>
      let subnormal := decide (m < 2 ^ f.fracBits)
      if m = 0 then (if n then 3 else 4)
      else if subnormal then (if n then 2 else 5)
      else if n then 1 else 6

/-- `FCLASS` (R195). -/
def opFclass (t : Ty) (d a : SReg) (s : State) : OpRes :=
  onReg s fun c => c.ws d (BitVec.ofNat 64 (2 ^ floatClass t ((c.rs a).toNat % 2 ^ t.width)))

/-- A float condition (R198). -/
def floatCond (k : FCond) (x y : FVal) : Bool :=
  match FVal.cmp x y with
  | none => k == .ne || k == .un
  | some d => match k with
    | .eq => d == 0
    | .ne => d != 0
    | .lt => decide (d < 0)
    | .le => decide (d ≤ 0)
    | .un => false
    | .ord => true

/-- `FCMP` (R198): it sets no flag. -/
def opFcmp (c : FCond) (t : Ty) (p : PReg) (a b : SReg) (s : State) : OpRes :=
  onReg s fun k => k.wp p (floatCond c (fval t (k.rs a)) (fval t (k.rs b)))

/-! ### Each as a group of its own -/

/-- `FADD` as a group of its own (R169). -/
def execFadd (t : Ty) (r : Rnd) (d : SReg) (a : SReg) (b : SReg) (s : State) : Host.Outcome State Fault Refusal :=
  issueAlone (.solo (.fadd t r d a b)) (opFadd t r d a b) s

/-- `FSUB` as a group of its own (R169). -/
def execFsub (t : Ty) (r : Rnd) (d : SReg) (a : SReg) (b : SReg) (s : State) : Host.Outcome State Fault Refusal :=
  issueAlone (.solo (.fsub t r d a b)) (opFsub t r d a b) s

/-- `FMUL` as a group of its own (R169). -/
def execFmul (t : Ty) (r : Rnd) (d : SReg) (a : SReg) (b : SReg) (s : State) : Host.Outcome State Fault Refusal :=
  issueAlone (.solo (.fmul t r d a b)) (opFmul t r d a b) s

/-- `FDIV` as a group of its own (R169). -/
def execFdiv (t : Ty) (r : Rnd) (d : SReg) (a : SReg) (b : SReg) (s : State) : Host.Outcome State Fault Refusal :=
  issueAlone (.solo (.fdiv t r d a b)) (opFdiv t r d a b) s

/-- `FSQRT` as a group of its own (R169). -/
def execFsqrt (t : Ty) (r : Rnd) (d : SReg) (a : SReg) (s : State) : Host.Outcome State Fault Refusal :=
  issueAlone (.solo (.fsqrt t r d a)) (opFsqrt t r d a) s

/-- `FMA` as a group of its own (R169). -/
def execFma (t : Ty) (r : Rnd) (d : SReg) (a : SReg) (b : SReg) (c : SReg) (s : State) : Host.Outcome State Fault Refusal :=
  issueAlone (.solo (.fma t r d a b c)) (opFma t r d a b c) s

/-- `FMIN` as a group of its own (R169). -/
def execFmin (t : Ty) (d : SReg) (a : SReg) (b : SReg) (s : State) : Host.Outcome State Fault Refusal :=
  issueAlone (.solo (.fmin t d a b)) (opFmin t d a b) s

/-- `FMAX` as a group of its own (R169). -/
def execFmax (t : Ty) (d : SReg) (a : SReg) (b : SReg) (s : State) : Host.Outcome State Fault Refusal :=
  issueAlone (.solo (.fmax t d a b)) (opFmax t d a b) s

/-- `FCVT` as a group of its own (R169). -/
def execFcvt (td : Ty) (ta : Ty) (r : Rnd) (d : SReg) (a : SReg) (s : State) : Host.Outcome State Fault Refusal :=
  issueAlone (.solo (.fcvt td ta r d a)) (opFcvt td ta r d a) s

/-- `FCVTI` as a group of its own (R169). -/
def execFcvti (td : Ty) (ta : Ty) (r : Rnd) (d : SReg) (a : SReg) (s : State) : Host.Outcome State Fault Refusal :=
  issueAlone (.solo (.fcvti td ta r d a)) (opFcvti td ta r d a) s

/-- `ICVTF` as a group of its own (R169). -/
def execIcvtf (td : Ty) (ta : Ty) (r : Rnd) (d : SReg) (a : SReg) (s : State) : Host.Outcome State Fault Refusal :=
  issueAlone (.solo (.icvtf td ta r d a)) (opIcvtf td ta r d a) s

/-- `FCLASS` as a group of its own (R169). -/
def execFclass (t : Ty) (d : SReg) (a : SReg) (s : State) : Host.Outcome State Fault Refusal :=
  issueAlone (.solo (.fclass t d a)) (opFclass t d a) s

/-- `FCMP` as a group of its own (R169). -/
def execFcmp (c : FCond) (t : Ty) (p : PReg) (a : SReg) (b : SReg) (s : State) : Host.Outcome State Fault Refusal :=
  issueAlone (.solo (.fcmp c t p a b)) (opFcmp c t p a b) s

end Sys2Proof.Machine
end

