-- ==== Sys2Proof/Machine/Epilogue.lean ====
section
/-!
DEFINITION. Epilogue code and the tasks that run it (R273 to R284): the programs of the two stores, the drain of a tile, the
maps, reductions and transposes of the stream and transpose engines.
-/

namespace Sys2Proof.Machine

open Sys2Proof.Bits

/-! ### Words (R276, R277) -/

/-- A value rounded to binary32 to nearest even (R277). -/
def f32r (x : FVal) : FVal := Fmt.f32.value (Fmt.f32.round .rne x 0).bits

namespace Epi

/-- The destination. -/
def ed (w : BitVec 32) : Nat := nfield w 24 3
/-- The operation's own bits. -/
def imm (w : BitVec 32) : Nat := nfield w 0 16

/-- A source code stands for an `e` or a `cv` register. -/
def reg (x : Nat) : Bool := decide (x < 12)
/-- A source of `EADD` to `EMOV`: a register or K. -/
def src (x : Nat) : Bool := decide (x ≤ 12)

/-- `ECVT`'s target is one without the O flag (R281): all its values are binary32 values. -/
def cvtPlain (f : Nat) : Bool := [0, 1, 4, 5, 8, 9, 10, 11, 12, 13, 16].contains f

/-- A word that validates (R276, R277, R281); `final` says that it is the program's last. -/
def valid (w : BitVec 32) (final : Bool) : Bool :=
  let k := op w
  let a := ea w
  let b := eb w
  let i := imm w
  let kImm := a == 12 || b == 12
  if k = 0 then ed w == 0 && a == 0 && b == 0 && i == 0
  else if k ≤ 6 then src a && src b && (kImm || i == 0)
  else if k ≤ 9 then src a && b == 0 && (a == 12 || i == 0)
  else if k ≤ 0xD then reg a && b == 0 && i == 0
  else if k = 0xE then reg a && b == 0 && decide (i < 256)
  else if k = 0xF then reg a && reg b && decide (i ≤ 4)
  else if k = 0x10 then reg a && reg b && i == 0
  else if k = 0x11 then a == 0 && b == 0 && decide (i ≤ 1)
  else if k = 0x12 then reg a && decide (8 ≤ b) && decide (b ≤ 11) && decide (i < 32)
  else if k = 0x13 then reg a && b == 0 && decide (i < 64)
  else if k = 0x14 then reg a && b == 0 && ed w == 0 && decide (i < 4)
  else if k = 0x15 then
    reg a && b == 0 && i / 32 % 128 == 0 && decide (i / 2 ^ 12 % 8 ≤ 4) && decide (i % 32 ≤ 16)
      && (if 2 ^ 15 ≤ i then final && ed w == 0 else cvtPlain (i % 32))
  else false

/-- The words validate, and at most one is an `ERES` (R275, R277). -/
def validAll (ws : List (BitVec 32)) : Bool :=
  (ws.zipIdx).all (fun w => valid w.1 (w.2 + 1 == ws.length)) && decide ((ws.filter fun w => op w == 0x14).length ≤ 1)

/-- The `ECVT.O` of a program. -/
def output (ws : List (BitVec 32)) : Option (BitVec 32) :=
  match ws.getLast? with | some w => if op w = 0x15 ∧ 2 ^ 15 ≤ imm w then some w else none | none => none

/-- The `ERES` of a program. -/
def residue (ws : List (BitVec 32)) : Option (BitVec 32) := ws.find? fun w => op w == 0x14

end Epi

/-- `MEPI` (R275). -/
def runMepi (e : Entry) (_ : Option Nat) (c : Core) : EngRes :=
  let p := e.post
  let row := e.readRow c (walkRow p 0 0)
  let ws := (List.range (p.ext 0)).map fun i => field row (colBit p 0 + 32 * i) 32
  if !Epi.validAll ws then .bad (startFault 1) c false
  else .done (c.onEng fun g =>
    if p.subop = 0 then { g with drainStore := SMap.put [] g.drainStore p.epiSlot ws }
    else { g with streamStore := SMap.put [] g.streamStore p.epiSlot ws }) false

/-! ### Running a program (R278) -/

/-- What an element's program sees beside its registers: the column vectors, the row and element indices, and the lane. -/
structure EpiEnv where
  cv : Nat → FVal
  table : Nat → Nat → FVal
  m : Nat
  idx : Nat

/-- The state of one element: its registers, the lane's generator, the core (its bounds), whether a flag or clamp bound was
breached and the walk is to end, the output and the residual value. -/
structure EpiState where
  regs : List FVal
  gen : BitVec 32
  core : Core
  breach : Bool
  trap : Bool
  out : Option Nat
  res : Option FVal

namespace EpiState

/-- A register of the element. -/
def reg (x : EpiState) (i : Nat) : FVal := (x.regs[i]?).getD (.fin false 0 0)

/-- A register set. -/
def set (x : EpiState) (i : Nat) (v : FVal) : EpiState := { x with regs := x.regs.set i v }

/-- A source of a word. -/
def source (x : EpiState) (v : EpiEnv) (w : BitVec 32) (code : Nat) : FVal :=
  if code < 8 then x.reg code
  else if code < 12 then v.cv (code - 8)
  else Fmt.bf16.value (Epi.imm w)

end EpiState

/-- A conversion target of `ECVT` (R281): its encoding and, as a value, what it holds. -/
def cvtTo (code : Nat) (r : Rnd) (v : FVal) (g : BitVec 32) : Rounded × FVal :=
  if code = 16 then
    let q := roundToInt (-8) 7 r v g
    (⟨bitsOfInt 4 q.val, q.flags, q.gen⟩, .ofInt q.val)
  else
    let t := Ty.ofCode code
    let q := roundElem t r v g
    (q, t.value q.bits)

/-- One word executed on an element (R277 to R281). -/
def epiWord (e : Entry) (v : EpiEnv) (w : BitVec 32) (x : EpiState) : EpiState :=
  let a := x.source v w (Epi.ea w)
  let b := x.source v w (Epi.eb w)
  let d := Epi.ed w
  let put (y : FVal) : EpiState := x.set d (f32r y)
  match Epi.op w with
  | 0x01 => put (FVal.add .rne a b).1
  | 0x02 => put (FVal.add .rne a b.negate).1
  | 0x03 => put (FVal.mul a b).1
  | 0x04 => put (FVal.fma .rne a b (x.reg d)).1
  | 0x05 => put (FVal.min a b)
  | 0x06 => put (FVal.max a b)
  | 0x07 => put a.abs
  | 0x08 => put a.negate
  | 0x09 => put a
  | 0x0A => put (FVal.rcp a).1
  | 0x0B => put (FVal.rsqrt a).1
  | 0x0C => put (FVal.exp2 a).1
  | 0x0D => put (FVal.log2 a).1
  | 0x0E => put (a.scale (BitVec.ofNat 8 (Epi.imm w)).toInt)
  | 0x0F =>
    let k : FCond := match Epi.imm w with | 0 => .eq | 1 => .ne | 2 => .lt | 3 => .le | _ => .un
    x.set d (if floatCond k a b then .fin false 1 0 else .fin false 0 0)
  | 0x10 => if FVal.cmp a (.fin false 0 0) = some 1 then x.set d b else x
  | 0x11 => put (.ofInt (if Epi.imm w = 0 then v.m else v.idx))
  | 0x12 =>
    let k := Epi.eb w - 8
    let ex : Int := (BitVec.ofNat 5 (Epi.imm w)).toInt
    put (tluValue .rne ex 6 (fun g => v.table k (2 * g)) (fun g => v.table k (2 * g + 1)) a).1
  | 0x13 =>
    let k := Epi.imm w
    let bw := x.core.bnd k
    if !Bound.breaches bw a then x.set d a
    else
      let c1 := x.core.breachAt e k
      match Bound.mode bw with
      | 0 => { x.set d a with core := c1, breach := true }
      | 1 => { x.set d (Fmt.f32.value (Bound.clamped bw .f32 a).bits) with core := c1, breach := true }
      | _ => { x with core := c1, trap := true }
  | 0x14 =>
    let y := match Epi.imm w with
      | 0 => a
      | 2 => (FVal.mul a a).1
      | _ => a.abs
    { x with res := some y }
  | 0x15 =>
    let i := Epi.imm w
    let q := cvtTo (i % 32) ((Rnd.ofCode (i / 2 ^ 12 % 8)).getD .rne) a x.gen
    if 2 ^ 15 ≤ i then { x with out := some q.1.bits, gen := q.1.gen } else { x.set d q.2 with gen := q.1.gen }
  | _ => x

/-- A program run on an element; a breach of a trap bound ends it. -/
def epiRun (e : Entry) (v : EpiEnv) : List (BitVec 32) → EpiState → EpiState
  | [], x => x
  | w :: ws, x => if x.trap then x else epiRun e v ws (epiWord e v w x)

/-! ### The walk of a drain or a map (R273, R278, R282) -/

/-- What a walk carries from element to element: the core, the generators, whether a bound was breached, the row at hand
and the residual values of the row. -/
structure RowWork where
  core : Core
  gens : List (BitVec 32)
  breach : Bool
  trap : Bool
  row : Row
  res : List FVal

/-- The shape of an output (R263, R281): the type of an element, none for INT4, and its width. -/
def outShape (p : Posted) (prog : List (BitVec 32)) : Option Ty × Nat :=
  match Epi.output prog with
  | some w => if Epi.imm w % 32 = 16 then (none, 4) else (some (Ty.ofCode (Epi.imm w % 32)), (Ty.ofCode (Epi.imm w % 32)).width)
  | none => (some p.td, p.td.width)

/-- One element: its program or its plain conversion, the check of its box, and its place in the row. `input` is its value,
`e0` what register e0 starts with and `e1` what e1 starts with. -/
def outElem (e : Entry) (q : Nat) (prog : List (BitVec 32)) (v : EpiEnv) (input e0 e1 : FVal) (lane : Nat) (x : RowWork) : RowWork :=
  if x.trap then x
  else
    let p := e.post
    let g := (x.gens[lane]?).getD 1
    let zero : FVal := .fin false 0 0
    let s0 : EpiState := ⟨[e0, e1, zero, zero, zero, zero, zero, zero], g, x.core, false, false, none, none⟩
    let s := if prog.isEmpty then s0 else epiRun e v prog s0
    let sh := outShape p prog
    let r : Rounded := match s.out with
      | some b => ⟨b, 0, s.gen⟩
      | none => roundElem p.td p.rnd (if prog.isEmpty then input else s.reg 0) s.gen
    let chk : Checked := match p.box q, sh.1 with
      | some b, some t => checkOut s.core e b t r.bits
      | _, _ => ⟨r.bits, s.core, false, false⟩
    if s.trap then { x with core := s.core, breach := x.breach || s.breach, trap := true }
    else
      { core := chk.core
        gens := if r.gen = g then x.gens else x.gens.set lane r.gen
        breach := x.breach || s.breach || chk.breach
        trap := chk.trap
        row := setField x.row (colBit p q + sh.2 * v.idx) sh.2 (BitVec.ofNat sh.2 chk.bits)
        res := match s.res with | some y => x.res ++ [y] | none => x.res }

/-- The accumulation of residual values in ACC56 (R280): additive, or the larger. -/
def resCombine (maximal : Bool) (a b : FVal) : FVal :=
  if maximal then FVal.max a b else Fmt.a56.value (Fmt.a56.round .rne (FVal.add .rne a b).1 0).bits

/-- The start of an accumulation (R280, R283). -/
def resStart (maximal : Bool) : FVal := .fin (!maximal) 0 0

/-- A row's values by the tree of R62, padded to a power of two. -/
def resRow (maximal : Bool) (xs : List FVal) : FVal :=
  let k := Nat.log2 (xs.length * 2 - 1)
  match halvingTree (fun _ a b => resCombine maximal a b) k (xs ++ List.replicate (2 ^ k - xs.length) (resStart maximal)) with
  | [x] => x
  | _ => resStart maximal

/-- The walk of a task, row by row: `one` works one row from its start. A breach of a trap bound leaves its row unwritten and
ends the task with a bound trap that names it; `mode` is that of the program's `ERES`. -/
def walkRows (e : Entry) (q : Nat) (mode : Option Bool) (one : Core → Nat → List (BitVec 32) → RowWork) :
    List Nat → Core → List (BitVec 32) → Bool → FVal → EngRes × List (BitVec 32)
  | [], c, gens, br, run => (.done (match mode with | some m => c.deliver e m run | none => c) br, gens)
  | m :: ms, c, gens, br, run =>
    let x := one c m gens
    if x.trap then (.bad ⟨0x0F, 0, BitVec.ofNat 64 m⟩ x.core (br || x.breach), x.gens)
    else
      let c1 := e.writeRow x.core (walkRow e.post q m) x.row
      let run1 := match mode with | some k => resCombine k run (resRow k x.res) | none => run
      walkRows e q mode one ms c1 x.gens (br || x.breach) run1

/-- Column vector `k` of a task, element `j` (R278): what the task has itself written there, of earlier rows, reads as written (R302). -/
def cvElem (e : Entry) (c : Core) (q k j : Nat) : FVal :=
  match e.post.box q with
  | some b => Fmt.f32.value (elem (e.walked c (b.rowLo + k)) 32 j)
  | none => .fin false 0 0

/-- The checks of R286 on a task with a program or a checked box: the failing word. -/
def epiCheck (e : Entry) (c : Core) (dst cv : Nat) : Option Nat :=
  let p := e.post
  let prog := taskProgram p c
  let rows := p.rowsOf cv
  let sh := outShape p prog
  if p.epiEn && prog.isEmpty then some 7
  else if prog.any fun w => (Epi.cvs w).any fun k => decide (rows ≤ k) then some (1 + cv)
  else if (Epi.output prog).isSome && (nfield (p.word 7) 8 4 != 0 || nfield (p.word 7) 12 3 != 0) then some 7
  else if (Epi.residue prog).isSome && p.gsec != 2 then some 7
  else if p.epiEn && decide (128 * p.colsOf dst < sh.2 * p.ext 0) then some (1 + dst)
  else match p.box dst with
    | some b => if b.bndEn && (match sh.1 with | some t => Bound.fmt (c.bnd b.bnd) != t.code | none => true) then some (1 + dst) else none
    | none => none

/-- The mode of a program's `ERES`: maximal or additive. -/
def resMode (prog : List (BitVec 32)) : Option Bool := (Epi.residue prog).map fun w => Epi.imm w == 3

/-- `MDRAIN` (R273). -/
def runMdrain (e : Entry) (clamp : Option Nat) (c : Core) : EngRes :=
  let p := e.post
  match epiCheck e c 1 2 with
  | some w => .bad (startFault w) c false
  | none =>
    let prog := taskProgram p c
    let b := tileBox p 0
    let int := c.intMode b.tile
    let one (c : Core) (m : Nat) (gens : List (BitVec 32)) : RowWork :=
      let k0 := accKey b.tile (b.rowLo + m) b.colLo
      let entries := SMap.window c.eng.acc k0 (p.ext 0)
      let value (j : Nat) : FVal :=
        let v := SMap.get 0 entries (k0 + j)
        if int then .ofInt (accInt v) else Fmt.a56.value v.toNat
      (List.range (p.ext 0)).foldl (fun x j =>
        let v := value j
        outElem e 1 prog ⟨fun k => cvElem e c 2 k j, fun k i => cvElem e c 2 k i, m, j⟩ v (f32r v) (.fin false 0 0) j x)
        ⟨c, gens, false, false, e.outRow c (walkRow p 1 m), []⟩
    let mode := resMode prog
    let r := walkRows e 1 mode one (List.range (clampRows p clamp)) c (taskGens p) false (resStart (mode.getD false))
    let keep (c : Core) : Core := c.onEng fun g => { g with drainGens := r.2 }
    match r.1 with
    | .done c1 br => .done (keep c1) br
    | .bad f c1 br => .bad f (keep c1) br
    | .wait => .wait

/-- `SMAP` (R282). -/
def runSmap (e : Entry) (clamp : Option Nat) (c : Core) : EngRes :=
  let p := e.post
  match epiCheck e c 2 3 with
  | some w => .bad (startFault w) c false
  | none =>
    let prog := taskProgram p c
    let w := p.ta.width
    let rowcv := p.aux.toNat % 2 == 1
    let one (c : Core) (m : Nat) (gens : List (BitVec 32)) : RowWork :=
      let r0 := e.walked c (walkRow p 0 m)
      let r1 := e.walked c (walkRow p 1 m)
      (List.range (p.ext 0)).foldl (fun x j =>
        let v := f32r (p.ta.value (slotElem p 0 w j r0))
        let u := if (p.box 1).isSome then f32r (p.ta.value (slotElem p 1 w j r1)) else .fin false 0 0
        outElem e 2 prog ⟨fun k => cvElem e c 3 k (if rowcv then m % 128 else j % 128), fun k i => cvElem e c 3 k i, m, j⟩ v v u (j % 128) x)
        ⟨c, gens, false, false, e.outRow c (walkRow p 2 m), []⟩
    let mode := resMode prog
    let r := walkRows e 2 mode one (List.range (clampRows p clamp)) c (taskGens p) false (resStart (mode.getD false))
    let keep (c : Core) : Core := c.onEng fun g => { g with streamGens := r.2 }
    match r.1 with
    | .done c1 br => .done (keep c1) br
    | .bad f c1 br => .bad f (keep c1) br
    | .wait => .wait

/-! ### Reductions and transposes (R283, R284) -/

/-- A leaf of an `SRED` before rounding. -/
def sredLeaf (op : Nat) (x : FVal) : FVal :=
  match op with
  | 0 => x
  | 2 => (FVal.mul x x).1
  | _ => x.abs

/-- One combination of an `SRED`. -/
def sredCombine (op : Nat) (t : Ty) (r : Rnd) (x y : Nat) (g : BitVec 32) : Rounded :=
  if op = 3 then roundElem t r (FVal.max (t.value x) (t.value y)) g
  else roundElem t r (FVal.add r (t.value x) (t.value y)).1 g

/-- One level of the tree: element `i` of the lower half meets element `i` of the upper, drawing from lane `i mod 128`. -/
def sredLevel (f : Nat → Nat → BitVec 32 → Rounded) : List Nat → List Nat → Nat → List Nat → List (BitVec 32) → List Nat × List (BitVec 32)
  | x :: xs, y :: ys, i, done, gens =>
    let g := (gens[i % 128]?).getD 1
    let r := f x y g
    sredLevel f xs ys (i + 1) (r.bits :: done) (if r.gen = g then gens else gens.set (i % 128) r.gen)
  | _, _, _, done, gens => (done.reverse, gens)

/-- The tree of R62 over `2^k` leaves. -/
def sredTree (f : Nat → Nat → BitVec 32 → Rounded) : Nat → List Nat → List (BitVec 32) → List Nat × List (BitVec 32)
  | 0, xs, gens => (xs, gens)
  | k + 1, xs, gens =>
    let h := xs.length / 2
    let a := sredLevel f (xs.take h) (xs.drop h) 0 [] gens
    sredTree f k a.1 a.2

/-- The leaves of a row, in ascending element. -/
def sredLeaves (t : Ty) (r : Rnd) (f : Nat → FVal) : List Nat → List (BitVec 32) → List Nat → List Nat × List (BitVec 32)
  | [], gens, done => (done.reverse, gens)
  | i :: is, gens, done =>
    let g := (gens[i % 128]?).getD 1
    let q := roundElem t r (f i) g
    sredLeaves t r f is (if q.gen = g then gens else gens.set (i % 128) q.gen) (q.bits :: done)

/-- The rows of an `SRED` in turn: the row results, the running value and the generators. -/
def sredRows (e : Entry) (c : Core) (op : Nat) : List Nat → List Nat → Nat → List (BitVec 32) → List Nat × Nat × List (BitVec 32)
  | [], done, run, gens => (done.reverse, run, gens)
  | m :: ms, done, run, gens =>
    let p := e.post
    let n := 4096 / p.ta.width
    let row := e.readRow c (walkRow p 0 m)
    let ident := (roundElem p.td .rne (if op = 3 then .inf true else .fin true 0 0) 0).bits
    let a := sredLeaves p.td p.rnd (fun i => sredLeaf op (p.ta.value (slotElem p 0 p.ta.width i row))) (List.range (p.ext 0)) gens []
    let b := sredTree (sredCombine op p.td p.rnd) (Nat.log2 n) (a.1 ++ List.replicate (n - p.ext 0) ident) a.2
    let res := (b.1.head?).getD ident
    let g := (b.2.head?).getD 1
    let r := sredCombine op p.td p.rnd run res g
    sredRows e c op ms (res :: done) r.bits (if r.gen = g then b.2 else b.2.set 0 r.gen)

/-- `SRED` (R283). -/
def runSred (e : Entry) (clamp : Option Nat) (c : Core) : EngRes :=
  let p := e.post
  let op := p.subop % 8
  let start := (roundElem p.td .rne (resStart (op == 3)) 0).bits
  let (rows, run, gens) := sredRows e c op (List.range (clampRows p clamp)) [] start (taskGens p)
  let k := p.td.width / 8
  let outs := if p.subop / 8 = 1 then rows else [run]
  let c1 := match p.box 1 with
    | none => c
    | some b =>
      let put (c : Core) (x : Nat × Nat) : Core := (List.range k).foldl (fun c i =>
        e.spWrite c (State.boxByte b (k * x.2 + i)) (BitVec.ofNat 8 (x.1 >>> (8 * i)))) c
      (outs.zipIdx).foldl put c
  .done ((c1.onEng fun g => { g with streamGens := gens }).deliver e (op == 3) (p.td.value run)) false

/-- `XPOSE` (R284): C columns by R rows; a clamp lowers the row extent (R74). -/
def runXpose (e : Entry) (clamp : Option Nat) (c : Core) : EngRes :=
  let p := e.post
  let w := p.ta.width
  let rows := (List.range (clampRows p clamp)).map fun m => e.readRow c (walkRow p 0 m)
  .done ((List.range (p.ext 0)).foldl (fun c j =>
    let dst := walkRow p 1 j
    let put (r : Row) (x : Row × Nat) : Row := setField r (colBit p 1 + w * x.2) w (BitVec.ofNat w (slotElem p 0 w j x.1))
    e.writeRow c dst ((rows.zipIdx).foldl put (e.outRow c dst))) c) false

/-! ### Events -/

/-- A stream or transpose task: an uncorrectable word among those it reads ends it first (R445). -/
def streamTask (n : Nat) (seq : BitVec 32) (kind : Nat) (run : Entry → Option Nat → Core → EngRes) (s : State) : State :=
  s.startTask n seq kind (fun e c => e.fillRows c) fun e clamp _ a =>
    if e.readsBad clamp (a.coreAt n) then a.softError n e else a.settleTask n seq (run e clamp (a.coreAt n))

/-- MDRAIN_TASK (R273). -/
def execMdrainTask (core : Nat) (seq : BitVec 32) (s : State) : Host.Outcome State Fault Refusal :=
  atCore core (matrixTask core seq 0x05 runMdrain) s

/-- MEPI_TASK (R275): in the matrix queue, or in the stream engine's. -/
def execMepiTask (core : Nat) (seq : BitVec 32) (s : State) : Host.Outcome State Fault Refusal :=
  atCore core (matrixTask core seq 0x06 runMepi) s

/-- SMAP_TASK (R282). -/
def execSmapTask (core : Nat) (seq : BitVec 32) (s : State) : Host.Outcome State Fault Refusal :=
  atCore core (streamTask core seq 0x10 runSmap) s

/-- SRED_TASK (R283). -/
def execSredTask (core : Nat) (seq : BitVec 32) (s : State) : Host.Outcome State Fault Refusal :=
  atCore core (streamTask core seq 0x11 runSred) s

/-- XPOSE_TASK (R284). -/
def execXposeTask (core : Nat) (seq : BitVec 32) (s : State) : Host.Outcome State Fault Refusal :=
  atCore core (streamTask core seq 0x18 runXpose) s

/-- SOFT_ERROR_REPLAY (R445): a copy, stream or transpose task that executes consumes an uncorrectable word: replayed once
where its boxes are disjoint and counted as recovered, else a soft-error fault. One that its guard word made a no-op consumes nothing (R74). -/
def execSoftErrorReplay (core : Nat) (seq : BitVec 32) (s : State) : Host.Outcome State Fault Refusal :=
  atCore core (fun s =>
    match (s.coreAt core).entry seq with
    | none => s
    | some e =>
      if e.state ≠ .executing ∨ e.fault.isSome ∨ !([1, 2, 3].contains e.post.engine) ∨ e.post.isSubscr ∨ e.prog.guard = some 0 then s
      else if e.prog.redo = 0 ∧ e.disjoint then
        (s.onCore core fun c => ((c.onEntry seq fun x => { x with state := .queued, prog := { Progress.fresh with redo := 1, guard := x.prog.guard } }).onEng fun g =>
          { g with copyReqs := if e.post.engine = 3 then g.copyReqs.filter (·.chan != e.post.channel) else g.copyReqs })).count core 2
      else s.faultTask core seq ⟨0x12, 0, 0⟩ []) s

end Sys2Proof.Machine
end

