-- ==== Sys2Proof/Machine/Control.lean ====
section
/-!
DEFINITION. Control transfer (R170 to R173, R211 to R218).
-/

namespace Sys2Proof.Machine

open Sys2Proof.Bits

/-- `%bpend` as a branch group leaves it (R173): two delay groups to issue. -/
def bpendOf (taken link : Bool) (lreg : Nat) (target : BitVec 48) : Word :=
  setField (setField (setBit (setBit (setField 0 62 2 2) 61 taken) 60 link) 57 3 (BitVec.ofNat 3 lreg)) 0 48 target

/-- A transfer recorded (R170, R172): the target is the register as the branch group reads it. `br` says that it is a
`BR`, which ends the loops it leaves (R218). -/
def startTransfer (taken link br : Bool) (lreg : Nat) (target : BitVec 48) (c : Core) : Core :=
  { c with
    sp := { c.sp with bpend := bpendOf taken link lreg target }
    brEnds := br
    grp := { c.grp with branched := true } }

/-- A taken transfer, which may not stand near the end of a loop body (R218). -/
def transfer (link br : Bool) (lreg : Nat) (b : BReg) (s : State) : OpRes :=
  if s.core.nearEnd (s.core.grp.word + 1) then controlFault 0x04 s
  else onReg s fun c => startTransfer true link br lreg (c.rb b) c

/-- A transfer whose guard is false (R170, R173): its delay groups still follow. -/
def notTaken (b : BReg) (s : State) : OpRes := onReg s fun c => startTransfer false false false 0 (c.rb b) c

/-- `PREPT bN, label` (R211). -/
def opPrept (b : BReg) (off : BitVec 40) (s : State) : OpRes :=
  onReg s fun c => c.wb b (BitVec.ofInt 48 (((c.wordPc c.grp.word).toNat : Int) + 8 * off.toInt))

/-- `BR bN` (R212); the hint changes timing alone (R171). -/
def opBr (b : BReg) (_hint : Bool) : State → OpRes := transfer false true 0 b

/-- `CALL bN, bL` (R213). -/
def opCall (b l : BReg) (_hint : Bool) : State → OpRes := transfer true false l.val b

/-- `RET bN` (R214). -/
def opRet (b : BReg) : State → OpRes := transfer false false 0 b

/-- A loop of `n` passes to the end word `off` words on (R216). Its place in a loop body (R218) is looked at before the number of
levels and their nesting, for which the manual gives no order: DESIGN CHOICE (log 103). -/
def startLoop (n : Core → Word) (read : Core → Core) (off : BitVec 20) (s : State) : OpRes :=
  let c := s.core
  let here := c.wordPc c.grp.word
  let last : BitVec 48 := here + BitVec.ofNat 48 (8 * off.toNat)
  if c.nearEnd (c.grp.word + 1) then controlFault 0x04 s
  else if n c = 0 then
    onReg s fun c => let c := read c; { c with grp := { c.grp with jump := some (last + 8) } }
  else if 4 ≤ c.sp.loops.length then controlFault 0x01 s
  else if (match c.inner with | some l => decide (l.last < last) | none => false) then controlFault 0x02 s
  else
    onReg s fun k =>
      let k := read k
      { k with
        sp := { k.sp with loops := k.sp.loops ++ [⟨here + 8, last, n c⟩] }
        grp := { k.grp with jump := some (here + 8) } }

/-- `LOOP sa, last` (R215, R216). -/
def opLoop (a : SReg) (off : BitVec 20) : State → OpRes := startLoop (fun c => c.rs a) id off

/-- `LOOPM mbI, last` (R215, R216): the mailbox is read and cleared. -/
def opLoopm (mb : Fin 16) (off : BitVec 20) : State → OpRes := startLoop (fun c => c.mb mb.val) (fun c => c.setMb mb.val 0) off

/-- `LOOPM.K mbI, last` (R215, R216): the mailbox is read only. -/
def opLoopmK (mb : Fin 16) (off : BitVec 20) : State → OpRes := startLoop (fun c => c.mb mb.val) id off

/-! ### Each as a group of its own -/

/-- `PREPT` as a group of its own (R169). -/
def execPrept (b : BReg) (off : BitVec 40) (s : State) : Host.Outcome State Fault Refusal :=
  issueAlone (.solo (.prept b off)) (opPrept b off) s

/-- `BR` as a group of its own (R169). -/
def execBr (b : BReg) (hint : Bool) (s : State) : Host.Outcome State Fault Refusal :=
  issueAlone (.solo (.br b hint)) (opBr b hint) s

/-- `CALL` as a group of its own (R169). -/
def execCall (b : BReg) (l : BReg) (hint : Bool) (s : State) : Host.Outcome State Fault Refusal :=
  issueAlone (.solo (.call b l hint)) (opCall b l hint) s

/-- `RET` as a group of its own (R169). -/
def execRet (b : BReg) (s : State) : Host.Outcome State Fault Refusal :=
  issueAlone (.solo (.ret b)) (opRet b) s

/-- `LOOP` as a group of its own (R169). -/
def execLoop (a : SReg) (off : BitVec 20) (s : State) : Host.Outcome State Fault Refusal :=
  issueAlone (.solo (.loop a off)) (opLoop a off) s

/-- `LOOPM` as a group of its own (R169). -/
def execLoopm (mb : Fin 16) (off : BitVec 20) (s : State) : Host.Outcome State Fault Refusal :=
  issueAlone (.solo (.loopm mb off)) (opLoopm mb off) s

/-- `LOOPM_K` as a group of its own (R169). -/
def execLoopmK (mb : Fin 16) (off : BitVec 20) (s : State) : Host.Outcome State Fault Refusal :=
  issueAlone (.solo (.loopmK mb off)) (opLoopmK mb off) s

end Sys2Proof.Machine
end

