-- ==== Sys2Proof/Machine/Post.lean ====
section
/-!
DEFINITION. The posting instructions (R259 to R261, R310 to R315, R318, R324, R325, R404 to R407, R411): the records that
engine instructions build, `POSTM` and `POSTR`, bundles and guard markers.
-/

namespace Sys2Proof.Machine

open Sys2Proof.Bits

/-! ### Records built by an instruction -/

/-- What an instruction says of the header (R259, R324). -/
structure Head where
  kind : Nat
  engine : Nat
  stage : BitVec 3
  ts : Bool
  flow : Bool

/-- The step of a step code, as its 16 bits of word 9 (R260). -/
def stepWord (st : Step) : Nat :=
  match st.toNat with
  | 0 => 1 | 1 => 2 | 2 => 4 | 3 => 8 | 5 => 0xFFFF | 6 => 0xFFFE | _ => 0

/-- Word 9 from the steps of slots 0, 1 and 2; an absent slot has none (R260). -/
def stepsWord (boxes : List Word) (st : List (Option Step)) : Word :=
  let at' (q : Nat) : Nat :=
    match (st[q]?).bind id with
    | some c => if bit ((boxes[q]?).getD 0) 63 then stepWord c * 2 ^ (16 * q) else 0
    | none => 0
  BitVec.ofNat 64 (at' 0 + at' 1 + at' 2)

/-- A box slot filled from an optional field: 0 leaves it invalid (R261). -/
def optSlot (c : Core) (g : GReg) : Word := if g.val = 0 then 0 else c.rg g

/-- The sixteen words of a built record: the header with bnd_chk, up to six boxes, words 7 to 10 (R259). -/
def buildRecord (h : Head) (boxes : List Word) (w7 w8 w9 w10 : Word) : List Word :=
  let b (v : Bool) (i : Nat) : Nat := if v then 2 ^ i else 0
  let bnd := boxes.any fun w => match Box.ofWord w with | some x => x.space == .sp && x.writes && x.bndEn | none => false
  let w0 : Word := BitVec.ofNat 64 (h.kind + h.engine * 2 ^ 8 + h.stage.toNat * 2 ^ 11 + b h.ts 14 + b bnd 17 + b h.flow 18)
  let box (i : Nat) : Word := (boxes[i]?).getD 0
  [w0, box 0, box 1, box 2, box 3, box 4, box 5, w7, w8, w9, w10, 0, 0, 0, 0, 0]

/-- A record posted by an instruction in its plain or its .NB form (R259, R291). -/
def postInstr (nb : NB) (ws : Core → List Word) (s : State) : OpRes :=
  let c := s.core
  match postRecord c (s.ownLid (s.tenantOf s.cur)) (ws c) with
  | .fault t => .trap t s
  | .full => match nb with | none => .stall s | some p => onReg s fun c => c.wp p false
  | .posted c' => .ok (s.setCore s.cur (match nb with | none => c' | some p => c'.wp p true))

/-! ### Matrix, stream and transpose (R261) -/

/-- `MLDST`. -/
def opMldst (nb : NB) (ga gb : GReg) (sx sy : SReg) (st0 st1 : Step) (ts : Bool) (stage : BitVec 3) : State → OpRes :=
  postInstr nb fun c =>
    let bs := [c.rg ga, optSlot c gb]
    buildRecord ⟨0x01, 0, stage, ts, false⟩ bs (c.rs sy) (c.rs sx) (stepsWord bs [some st0, some st1]) 0

/-- `MSWAP`. -/
def opMswap (nb : NB) (ts : Bool) (stage : BitVec 3) : State → OpRes :=
  postInstr nb fun _ => buildRecord ⟨0x02, 0, stage, ts, false⟩ [] 0 0 0 0

/-- `MZERO`. -/
def opMzero (nb : NB) (ga : GReg) (sy : SReg) (ts : Bool) (stage : BitVec 3) : State → OpRes :=
  postInstr nb fun c => buildRecord ⟨0x03, 0, stage, ts, false⟩ [c.rg ga] (c.rs sy) 0 0 0

/-- `MSTREAM`. -/
def opMstream (nb : NB) (ga gb gc : GReg) (sx sy : SReg) (st0 st2 : Step) (ts : Bool) (stage : BitVec 3) : State → OpRes :=
  postInstr nb fun c =>
    let bs := [c.rg ga, c.rg gb, optSlot c gc]
    buildRecord ⟨0x04, 0, stage, ts, false⟩ bs (c.rs sy) (c.rs sx) (stepsWord bs [some st0, none, some st2]) 0

/-- `MDRAIN`. -/
def opMdrain (nb : NB) (ga gb gc : GReg) (sx sy : SReg) (st1 : Step) (ts : Bool) (stage : BitVec 3) : State → OpRes :=
  postInstr nb fun c =>
    let bs := [c.rg ga, c.rg gb, optSlot c gc]
    buildRecord ⟨0x05, 0, stage, ts, false⟩ bs (c.rs sy) (c.rs sx) (stepsWord bs [none, some st1]) 0

/-- `MEPI`: the store it loads gives its engine (R275). -/
def opMepi (nb : NB) (ga : GReg) (sx sy : SReg) (ts : Bool) (stage : BitVec 3) : State → OpRes :=
  postInstr nb fun c =>
    buildRecord ⟨0x06, if bit (c.rs sy) 16 then 1 else 0, stage, ts, false⟩ [c.rg ga] (c.rs sy) (c.rs sx) 0 0

/-- `SMAP`. -/
def opSmap (nb : NB) (ga gb gc gx : GReg) (sx sy : SReg) (st0 st1 st2 : Step) (stage : BitVec 3) : State → OpRes :=
  postInstr nb fun c =>
    let bs := [c.rg ga, optSlot c gb, c.rg gc, optSlot c gx]
    buildRecord ⟨0x10, 1, stage, false, false⟩ bs (c.rs sy) (c.rs sx) (stepsWord bs [some st0, some st1, some st2]) 0

/-- `SRED`. -/
def opSred (nb : NB) (ga gb : GReg) (sx sy : SReg) (st0 : Step) (stage : BitVec 3) : State → OpRes :=
  postInstr nb fun c =>
    let bs := [c.rg ga, optSlot c gb]
    buildRecord ⟨0x11, 1, stage, false, false⟩ bs (c.rs sy) (c.rs sx) (stepsWord bs [some st0]) 0

/-- `XPOSE`. -/
def opXpose (nb : NB) (ga gb : GReg) (sx sy : SReg) (st0 st1 : Step) (stage : BitVec 3) : State → OpRes :=
  postInstr nb fun c =>
    let bs := [c.rg ga, c.rg gb]
    buildRecord ⟨0x18, 2, stage, false, false⟩ bs (c.rs sy) (c.rs sx) (stepsWord bs [some st0, some st1]) 0

/-! ### Copies and rings (R324, R325) -/

/-- `COPY`. -/
def opCopy (nb : NB) (ga gb : GReg) (sx sy sz sw : SReg) (ord : Bool) (stage : BitVec 3) : State → OpRes :=
  postInstr nb fun c => buildRecord ⟨0x20, 3, stage, false, ord⟩ [c.rg ga, c.rg gb] (c.rs sy) (c.rs sx) (c.rs sz) (c.rs sw)

/-- `GATHER`. -/
def opGather (nb : NB) (ga gb gc : GReg) (sx sy sz sw : SReg) (ord : Bool) (stage : BitVec 3) : State → OpRes :=
  postInstr nb fun c => buildRecord ⟨0x21, 3, stage, false, ord⟩ [c.rg ga, c.rg gb, c.rg gc] (c.rs sy) (c.rs sx) (c.rs sz) (c.rs sw)

/-- `SCATTER`. -/
def opScatter (nb : NB) (ga gb gc : GReg) (sx sy sz sw : SReg) (ord : Bool) (stage : BitVec 3) : State → OpRes :=
  postInstr nb fun c => buildRecord ⟨0x22, 3, stage, false, ord⟩ [c.rg ga, c.rg gb, c.rg gc] (c.rs sy) (c.rs sx) (c.rs sz) (c.rs sw)

/-- `SUBSCR`. -/
def opSubscr (nb : NB) (ga gb : GReg) (sx sy sz : SReg) (stage : BitVec 3) : State → OpRes :=
  postInstr nb fun c => buildRecord ⟨0x23, 3, stage, false, false⟩ [c.rg ga, c.rg gb] (c.rs sy) (c.rs sx) (c.rs sz) 0

/-- `RINGPOP`. -/
def opRingpop (nb : NB) (ga : GReg) (sx : SReg) (stage : BitVec 3) : State → OpRes :=
  postInstr nb fun c => buildRecord ⟨0x30, 5, stage, false, false⟩ [c.rg ga] 0 (c.rs sx) 0 0

/-- `RINGPUSH`. -/
def opRingpush (nb : NB) (ga : GReg) (sx : SReg) (stage : BitVec 3) : State → OpRes :=
  postInstr nb fun c => buildRecord ⟨0x31, 5, stage, false, false⟩ [c.rg ga] 0 (c.rs sx) 0 0

/-- `COLL` (R411). -/
def opColl (nb : NB) (ga gb : GReg) (sx sy sz : SReg) (ord : Bool) (stage : BitVec 3) : State → OpRes :=
  postInstr nb fun c => buildRecord ⟨0x28, 4, stage, false, ord⟩ [c.rg ga, c.rg gb] (c.rs sy) (c.rs sx) (c.rs sz) 0

/-- `TSTART` (R318). -/
def opTstart (nb : NB) (ga : GReg) : State → OpRes :=
  postInstr nb fun c => buildRecord ⟨0x3C, 0, 0, true, false⟩ [optSlot c ga] 0 0 0 0

/-! ### Bundles and units (R81, R83, R310 to R315, R432) -/

/-- A bundle or guard instruction: a control fault in a handler (R432). -/
def outsideHandler (go : State → OpRes) (s : State) : OpRes := if s.core.inHandler then controlFault 0x0B s else go s

/-- `BUNDLE` (R81, R310). -/
def opBundle : State → OpRes :=
  outsideHandler fun s =>
    if s.core.board.bundle.isSome then .trap (recordFault 0 0) s
    else onReg s fun c => c.withBoard fun b => { b with bundle := some ⟨0, none⟩ }

/-- `BEND` (R81, R82, R310): with no bundle open it has no effect. -/
def opBend : State → OpRes :=
  outsideHandler fun s =>
    match s.core.board.bundle with
    | none => .ok s
    | some b =>
      let s1 := s.on fun c => c.withBoard fun d => { d with bundle := none }
      .ok (match b.head with | some h => s1.finishBundle s.cur h | none => s1)

/-- `GUARD` (R311): the sixteen words it posts as. -/
def opGuard (nb : NB) (k : Fin 16) (ga gb gc gd ge gf : GReg) : State → OpRes :=
  outsideHandler <| postInstr nb fun c =>
    buildRecord ⟨0x38, 5, 0, false, false⟩ [c.rg ga, optSlot c gb, optSlot c gc, optSlot c gd, optSlot c ge, optSlot c gf]
      0 (BitVec.ofNat 64 k.val) 0 0

/-- A marker of the open unit (R83, R312): it closes section `old` and opens section `new`, and takes a sequence
number. -/
def marker (old new : Nat) : State → OpRes :=
  outsideHandler fun s =>
    match s.core.openUnit with
    | some u =>
      if u.sect != old || s.core.board.bundle.isSome then .trap (recordFault 0 0) s
      else onReg s fun c => (c.onUnit u.guardSeq fun v => { v with sect := new }).withBoard fun b => { b with nextSeq := b.nextSeq + 1 }
    | none => .trap (recordFault 0 0) s

/-- `GCHECK` (R83, R312). -/
def opGcheck : State → OpRes := marker 1 2

/-- `GEXACT` (R83, R312). -/
def opGexact : State → OpRes := marker 2 3

/-- `GEND` (R83, R312). -/
def opGend : State → OpRes := marker 3 0

/-! ### Record areas (R91, R92, R295) -/

/-- A record area: its box, the capability of an HBM area, and how many records it holds. -/
structure Area where
  box : Box
  cap : Cap
  capacity : Nat

/-- The area a region register names, checked (R295). -/
def recordArea (c : Core) (own : Nat → Bool) (g : GReg) : Except Trap Area :=
  match Box.ofWord (c.rg g) with
  | none => .error (regionFault 0)
  | some b =>
    if !b.reads || !(b.fullRow || b.space == .hbm) then .error (regionFault 0)
    else match checkBox ⟨c, own, false, 0, []⟩ 0 b with
      | .error t => .error t
      | .ok cap => .ok ⟨b, cap, Nat.min 65535 (if b.space == .sp then 4 * b.rowCnt else 32 * b.granCnt)⟩

/-- The byte of the scratchpad or of the object at which record `i` stands (R295). -/
def Area.at' (a : Area) (i : Nat) : Nat := (if a.box.space == .sp then a.box.rowLo * 512 else a.box.granOff * 4096) + 128 * i

/-- Cells of records `i` to `i + n - 1`. -/
def Area.cells (a : Area) (i n : Nat) : Cells :=
  if a.box.space == .sp then spCells (a.at' i) (128 * n) else objCells (Cap.obj a.cap) (a.at' i) (128 * n)

/-- The records lie in a write footprint of an unretired task, or in a slot that a ring has still to fill (R296, R344). -/
def areaBusy (c : Core) (f : Cells) : Bool :=
  c.board.entries.any (fun e => e.post.laterFoots.any fun g => g.writes && g.cells.meets f) || c.ringWaits f false

/-- Earlier device-memory accesses of the thread that must be performed before bytes of an object are read with
acquire ordering have not been (R352, R353, R385). -/
def areaPending (c : Core) (obj a n : Nat) : Bool :=
  !c.mayPerform ⟨c.grp.opBase.getD c.nextOp, c.grp.opBase.getD c.nextOp, c.groups, 0, .load .n64 0, Cap.make obj 0 0 0, a, n, .acq, .sys, 0, 0, 0, .queued, 0⟩

/-- What reading records gives: their bytes, a wait, or a fault. -/
inductive AreaRead where
  | bytes (bs : Bytes) (s : State)
  | wait (s : State)
  | fault (t : Trap) (s : State)

/-- Records `i` to `i + n - 1` of an area, read with acquire ordering (R92). -/
def readArea (s : State) (a : Area) (i n : Nat) : AreaRead :=
  let c := s.core
  let x := a.at' i
  let obj := Cap.obj a.cap
  if areaBusy c (a.cells i n) then .wait s
  else if a.box.space == .sp then
    if (List.range n).any fun k => c.eng.bad.contains (.row (c.phys ((x + 128 * k) / 512))) then
      .fault (.precise 0x12 0 (BitVec.ofNat 64 x)) s
    else .bytes (c.spBytes x (128 * n)) s
  else if areaPending c obj x (128 * n) then .wait s
  else match s.routeOf obj with
    | some (.peer lid far) =>
      (match s.peerAsk s.cur c.trapOp .thread (s.tenantOf s.cur) lid (travelCap a.cap far) x (.read (128 * n)) true true c.stamp with
       | .ok bs s1 => .bytes bs (s1.dropAsks s.cur c.trapOp .thread)
       | .fault f => .fault (.precise f.cause f.reason (f.detail.getD (BitVec.ofNat 64 x))) (s.dropAsks s.cur c.trapOp .thread)
       | .wait s1 => .wait s1)
    | _ => match s.portAccess (s.tenantOf s.cur) obj x (.read (128 * n)) c.stamp with
      | .done bs stamp s1 => .bytes bs (s1.on fun c => c.raiseStamp stamp)
      | .fault cause => .fault (.precise cause 0 (BitVec.ofNat 64 x)) s
      | .page _ => .wait s
      | .hold s1 => .wait s1

/-- The doublewords of a record. -/
def recordWords (bs : Bytes) : List Word := (List.range 16).map fun i => wordOfBytes ((bs.drop (8 * i)).take 8)

/-- The record is sealed with a sequence number (R91). -/
def isSealed (bs : Bytes) (seq : BitVec 32) : Bool :=
  let w := wordOfBytes ((bs.drop 120).take 8)
  field w 0 32 == seq && field w 32 32 == crc32c (bs.take 124)

/-- A cursor (R295). -/
def cursor (i : Nat) (seq : BitVec 32) : Word := BitVec.ofNat 64 (i * 2 ^ 48 + seq.toNat)

/-- The record index in a record fault's `%einfo` (R426). -/
def atRecord (i : Nat) (t : Trap) : Trap := if t.cause = 0x04 then { t with info := t.info ||| BitVec.ofNat 64 (i % 65536 * 65536) } else t

/-! ### `POSTM` -/

/-- How the loop of R296 leaves off: at a reason, waiting, or at a fault; with the cursor, the count and the state. -/
inductive PostmEnd where
  | stop (why i : Nat) (seq : BitVec 32) (n : Nat) (s : State)
  | wait (i : Nat) (seq : BitVec 32) (n : Nat) (s : State)
  | fault (t : Trap) (i : Nat) (seq : BitVec 32) (n : Nat) (s : State)

/-- The loop of R296 from record `i` with `n` posted. -/
def postmLoop (a : Area) (lim : Nat) : Nat → Nat → BitVec 32 → Nat → State → PostmEnd
  | 0, i, seq, n, s => .stop 0 i seq n s
  | fuel + 1, i, seq, n, s =>
    if lim ≤ n then .stop 0 i seq n s
    else if a.capacity ≤ i then .stop 1 i seq n s
    else if s.core.preemptAsked then .stop 4 i seq n (s.dropAsks s.cur s.core.trapOp .thread)
    else match readArea s a i 1 with
      | .wait s1 => .wait i seq n s1
      | .fault t s1 => .fault t i seq n s1
      | .bytes bs s1 =>
        if !isSealed bs seq then .stop 2 i seq n s1
        else if !s1.core.room false then .stop 3 i seq n s1
        else
          let ws := recordWords bs
          let kind := nfield ((ws[0]?).getD 0) 0 8
          if 0x38 ≤ kind ∧ kind ≤ 0x3B then .fault (atRecord i (recordFault 0 0)) i seq n s1
          else match postRecord s1.core (s1.ownLid (s1.tenantOf s1.cur)) ws with
            | .fault t => .fault (atRecord i t) i seq n s1
            | .full => .stop 3 i seq n s1
            | .posted c => postmLoop a lim fuel (i + 1) (seq + 1) (n + 1) (s1.setCore s1.cur c)

/-- `POSTM` (R295 to R297). A fault leaves the cursor at the record and the count posted. -/
def opPostm (nb : NB) (ga : GReg) (sx sy : SReg) (s : State) : OpRes :=
  let c := s.core
  let finish (cur res : Word) (s : State) : State := s.on fun c => (({ c with wait := .none } : Core).ws sx cur).ws sy res
  let predicate (v : Bool) (s : State) : State := match nb with | none => s | some p => s.on fun c => c.wp p v
  match recordArea c (s.ownLid (s.tenantOf s.cur)) ga with
  | .error t => .trap t s
  | .ok a =>
    let (lim, n0, cur) := match c.wait with
      | .postm _ _ lim n cur => (lim, n, cur)
      | _ => (Nat.min (c.rs sy).toNat 512, 0, c.rs sx)
    let fresh := match c.wait with | .postm .. => false | _ => true
    if fresh && !c.room false then
      match nb with
      | none => .stall s
      | some _ => .ok (predicate false (s.on fun c => c.ws sy 0x6000000000000000))
    else
      match postmLoop a lim 513 (nfield cur 48 16) (field cur 0 32) n0 s with
      | .stop why i seq n s1 => .ok (predicate true (finish (cursor i seq) (BitVec.ofNat 64 (why * 2 ^ 61 + n)) s1))
      | .wait i seq n s1 => .stall (s1.on fun c => { c with wait := .postm sx sy lim n (cursor i seq) })
      | .fault t i seq n s1 => .trap t (finish (cursor i seq) (BitVec.ofNat 64 n) s1)

/-! ### `POSTR` (R404 to R407) -/

/-- Records in the outbound post buffer (R406). -/
def Core.outbound (c : Core) : Nat := (c.outPosts.map fun o => o.msg.recs.length).sum

/-- The logical chip of a target register (R405). -/
def targetLid (t : Word) : Nat := nfield t 0 10
/-- The core of a target register. -/
def targetCore (t : Word) : Nat := nfield t 16 9
/-- The number of records of a target register. -/
def targetCount (t : Word) : Nat := nfield t 32 5

/-- The target register is well formed and names another core (R406). -/
def targetOk (s : State) (t : Word) : Bool :=
  nfield t 41 23 == 0 && nfield t 37 3 == 0 && nfield t 25 7 == 0 && nfield t 10 6 == 0
    && decide (1 ≤ targetCount t) && decide (targetCount t ≤ 16) && decide (targetCore t ≤ 383)
    && !(s.ownLid (s.tenantOf s.cur) (targetLid t) && targetCore t == s.cur)

/-- The records checked at send (R407), with the capabilities they capture and the sender's seed. -/
def sendRecords (c : Core) (own : Nat → Bool) (i : Nat) : List Bytes → Except Trap (List RemoteRec)
  | [] => .ok []
  | bs :: r =>
    match checkRecord ⟨c, own, true, 0, []⟩ (recordWords bs) with
    | .error t => .error (atRecord i t)
    | .ok p =>
      match sendRecords c own (i + 1) r with
      | .error t => .error t
      | .ok rs =>
        let w0 : Word := if p.takesSeed then p.word 0 ||| (c.sp.rnge.setWidth 64 <<< 32) else p.word 0
        .ok (⟨p.words.set 0 w0, p.caps⟩ :: rs)

/-- A post flow of a core that firmware has ended, with records for a logical chip on it, since the last `POSTR` there (R403). -/
def endedFlow (n tenant lid : Nat) (o : FlowOut) : Bool := o.id.srcCore == n && o.id.cls == 0 && o.ended.contains (tenant, lid)

/-- The report of such an end taken. -/
def dropEnded (n tenant lid : Nat) (o : FlowOut) : FlowOut := if endedFlow n tenant lid o then { o with ended := o.ended.erase (tenant, lid) } else o

/-- The messages of one `POSTR` (R399): its records one by one, or its bundle whole. -/
def postMsgs (bundle : Bool) (rs : List RemoteRec) : List (List RemoteRec) := if bundle then [rs] else rs.map fun r => [r]

/-- `POSTR` (R406): all of its records or none are queued. -/
def opPostr (nb : NB) (ga : GReg) (sx sy sr : SReg) (ord : Bool) (s : State) : OpRes :=
  let c := s.core
  let t := c.rs sy
  let tenant := s.tenantOf s.cur
  let n := targetCount t
  let lid := targetLid t
  let i := nfield (c.rs sx) 48 16
  let q : BitVec 32 := field (c.rs sx) 0 32
  let done (st : Nat) (s : State) : OpRes :=
    onReg s fun c =>
      let c1 := c.ws sr (BitVec.ofNat 64 st)
      match nb with | none => c1 | some p => c1.wp p (decide (st = 0))
  if c.board.bundle.isSome || c.openUnit.isSome || !targetOk s t then .trap (recordFault 0 0) s
  else if !(SMap.get PeerEntry.initial (s.tenant tenant).peers lid).valid then .trap (.precise 0x0C 0x01 (BitVec.ofNat 64 lid)) s
  else if s.fab.flowsOut.any (endedFlow s.cur tenant lid) then
    .trap (.precise 0x0C 0x02 (BitVec.ofNat 64 lid))
      { s with fab := { s.fab with flowsOut := s.fab.flowsOut.map (dropEnded s.cur tenant lid) } }
  else match recordArea c (s.ownLid tenant) ga with
    | .error e => .trap e s
    | .ok a =>
      if a.capacity < i + n then done 3 s
      else match readArea s a i n with
        | .wait s1 => .stall s1
        | .fault e s1 => .trap e s1
        | .bytes bs s1 =>
          let recs := (List.range n).map fun k => (bs.drop (128 * k)).take 128
          if !(List.range n).all fun k => isSealed ((recs[k]?).getD []) (q + BitVec.ofNat 32 k) then done 2 s1
          else match sendRecords c (s.ownLid tenant) 0 recs with
            | .error e => .trap e s1
            | .ok rs =>
              if 32 < c.outbound + n then match nb with | none => .stall s | some _ => done 1 s1
              else
                let out (rs : List RemoteRec) : OutPost := ⟨lid, targetCore t, ord, ⟨s.dev.chip, s.cur, tenant, bit t 40, rs⟩,
                  c.grp.opBase.getD c.nextOp, none⟩
                let ms := (postMsgs (bit t 40) rs).map out
                done 0 (s1.on fun c => ({ c with outPosts := c.outPosts ++ ms } : Core).ws sx (cursor (i + n) (q + BitVec.ofNat 32 n)))

/-! ### Each as a group of its own -/

/-- `MLDST` as a group of its own (R169). -/
def execMldst (nb : NB) (ga : GReg) (gb : GReg) (sx : SReg) (sy : SReg) (st0 : Step) (st1 : Step) (ts : Bool) (stage : BitVec 3) (s : State) : Host.Outcome State Fault Refusal :=
  issueAlone (.solo (.mldst nb ga gb sx sy st0 st1 ts stage)) (opMldst nb ga gb sx sy st0 st1 ts stage) s

/-- `MSWAP` as a group of its own (R169). -/
def execMswap (nb : NB) (ts : Bool) (stage : BitVec 3) (s : State) : Host.Outcome State Fault Refusal :=
  issueAlone (.solo (.mswap nb ts stage)) (opMswap nb ts stage) s

/-- `MZERO` as a group of its own (R169). -/
def execMzero (nb : NB) (ga : GReg) (sy : SReg) (ts : Bool) (stage : BitVec 3) (s : State) : Host.Outcome State Fault Refusal :=
  issueAlone (.solo (.mzero nb ga sy ts stage)) (opMzero nb ga sy ts stage) s

/-- `MSTREAM` as a group of its own (R169). -/
def execMstream (nb : NB) (ga : GReg) (gb : GReg) (gc : GReg) (sx : SReg) (sy : SReg) (st0 : Step) (st2 : Step) (ts : Bool) (stage : BitVec 3) (s : State) : Host.Outcome State Fault Refusal :=
  issueAlone (.solo (.mstream nb ga gb gc sx sy st0 st2 ts stage)) (opMstream nb ga gb gc sx sy st0 st2 ts stage) s

/-- `MDRAIN` as a group of its own (R169). -/
def execMdrain (nb : NB) (ga : GReg) (gb : GReg) (gc : GReg) (sx : SReg) (sy : SReg) (st1 : Step) (ts : Bool) (stage : BitVec 3) (s : State) : Host.Outcome State Fault Refusal :=
  issueAlone (.solo (.mdrain nb ga gb gc sx sy st1 ts stage)) (opMdrain nb ga gb gc sx sy st1 ts stage) s

/-- `MEPI` as a group of its own (R169). -/
def execMepi (nb : NB) (ga : GReg) (sx : SReg) (sy : SReg) (ts : Bool) (stage : BitVec 3) (s : State) : Host.Outcome State Fault Refusal :=
  issueAlone (.solo (.mepi nb ga sx sy ts stage)) (opMepi nb ga sx sy ts stage) s

/-- `SMAP` as a group of its own (R169). -/
def execSmap (nb : NB) (ga : GReg) (gb : GReg) (gc : GReg) (gx : GReg) (sx : SReg) (sy : SReg) (st0 : Step) (st1 : Step) (st2 : Step) (stage : BitVec 3) (s : State) : Host.Outcome State Fault Refusal :=
  issueAlone (.solo (.smap nb ga gb gc gx sx sy st0 st1 st2 stage)) (opSmap nb ga gb gc gx sx sy st0 st1 st2 stage) s

/-- `SRED` as a group of its own (R169). -/
def execSred (nb : NB) (ga : GReg) (gb : GReg) (sx : SReg) (sy : SReg) (st0 : Step) (stage : BitVec 3) (s : State) : Host.Outcome State Fault Refusal :=
  issueAlone (.solo (.sred nb ga gb sx sy st0 stage)) (opSred nb ga gb sx sy st0 stage) s

/-- `XPOSE` as a group of its own (R169). -/
def execXpose (nb : NB) (ga : GReg) (gb : GReg) (sx : SReg) (sy : SReg) (st0 : Step) (st1 : Step) (stage : BitVec 3) (s : State) : Host.Outcome State Fault Refusal :=
  issueAlone (.solo (.xpose nb ga gb sx sy st0 st1 stage)) (opXpose nb ga gb sx sy st0 st1 stage) s

/-- `COPY` as a group of its own (R169). -/
def execCopy (nb : NB) (ga : GReg) (gb : GReg) (sx : SReg) (sy : SReg) (sz : SReg) (sw : SReg) (ord : Bool) (stage : BitVec 3) (s : State) : Host.Outcome State Fault Refusal :=
  issueAlone (.solo (.copy nb ga gb sx sy sz sw ord stage)) (opCopy nb ga gb sx sy sz sw ord stage) s

/-- `GATHER` as a group of its own (R169). -/
def execGather (nb : NB) (ga : GReg) (gb : GReg) (gc : GReg) (sx : SReg) (sy : SReg) (sz : SReg) (sw : SReg) (ord : Bool) (stage : BitVec 3) (s : State) : Host.Outcome State Fault Refusal :=
  issueAlone (.solo (.gather nb ga gb gc sx sy sz sw ord stage)) (opGather nb ga gb gc sx sy sz sw ord stage) s

/-- `SCATTER` as a group of its own (R169). -/
def execScatter (nb : NB) (ga : GReg) (gb : GReg) (gc : GReg) (sx : SReg) (sy : SReg) (sz : SReg) (sw : SReg) (ord : Bool) (stage : BitVec 3) (s : State) : Host.Outcome State Fault Refusal :=
  issueAlone (.solo (.scatter nb ga gb gc sx sy sz sw ord stage)) (opScatter nb ga gb gc sx sy sz sw ord stage) s

/-- `SUBSCR` as a group of its own (R169). -/
def execSubscr (nb : NB) (ga : GReg) (gb : GReg) (sx : SReg) (sy : SReg) (sz : SReg) (stage : BitVec 3) (s : State) : Host.Outcome State Fault Refusal :=
  issueAlone (.solo (.subscr nb ga gb sx sy sz stage)) (opSubscr nb ga gb sx sy sz stage) s

/-- `RINGPOP` as a group of its own (R169). -/
def execRingpop (nb : NB) (ga : GReg) (sx : SReg) (stage : BitVec 3) (s : State) : Host.Outcome State Fault Refusal :=
  issueAlone (.solo (.ringpop nb ga sx stage)) (opRingpop nb ga sx stage) s

/-- `RINGPUSH` as a group of its own (R169). -/
def execRingpush (nb : NB) (ga : GReg) (sx : SReg) (stage : BitVec 3) (s : State) : Host.Outcome State Fault Refusal :=
  issueAlone (.solo (.ringpush nb ga sx stage)) (opRingpush nb ga sx stage) s

/-- `COLL` as a group of its own (R169). -/
def execColl (nb : NB) (ga : GReg) (gb : GReg) (sx : SReg) (sy : SReg) (sz : SReg) (ord : Bool) (stage : BitVec 3) (s : State) : Host.Outcome State Fault Refusal :=
  issueAlone (.solo (.coll nb ga gb sx sy sz ord stage)) (opColl nb ga gb sx sy sz ord stage) s

/-- `TSTART` as a group of its own (R169). -/
def execTstart (nb : NB) (ga : GReg) (s : State) : Host.Outcome State Fault Refusal :=
  issueAlone (.solo (.tstart nb ga)) (opTstart nb ga) s

/-- `BUNDLE` as a group of its own (R169). -/
def execBundle (s : State) : Host.Outcome State Fault Refusal :=
  issueAlone (.solo .bundle) opBundle s

/-- `BEND` as a group of its own (R169). -/
def execBend (s : State) : Host.Outcome State Fault Refusal :=
  issueAlone (.solo .bend) opBend s

/-- `GUARD` as a group of its own (R169). -/
def execGuard (nb : NB) (k : Fin 16) (ga : GReg) (gb : GReg) (gc : GReg) (gd : GReg) (ge : GReg) (gf : GReg) (s : State) : Host.Outcome State Fault Refusal :=
  issueAlone (.solo (.guard nb k ga gb gc gd ge gf)) (opGuard nb k ga gb gc gd ge gf) s

/-- `GCHECK` as a group of its own (R169). -/
def execGcheck (s : State) : Host.Outcome State Fault Refusal :=
  issueAlone (.solo .gcheck) opGcheck s

/-- `GEXACT` as a group of its own (R169). -/
def execGexact (s : State) : Host.Outcome State Fault Refusal :=
  issueAlone (.solo .gexact) opGexact s

/-- `GEND` as a group of its own (R169). -/
def execGend (s : State) : Host.Outcome State Fault Refusal :=
  issueAlone (.solo .gend) opGend s

/-- `POSTM` as a group of its own (R169). -/
def execPostm (nb : NB) (ga : GReg) (sx : SReg) (sy : SReg) (s : State) : Host.Outcome State Fault Refusal :=
  issueAlone (.solo (.postm nb ga sx sy)) (opPostm nb ga sx sy) s

/-- `POSTR` as a group of its own (R169). -/
def execPostr (nb : NB) (ga : GReg) (sx : SReg) (sy : SReg) (sr : SReg) (ord : Bool) (s : State) : Host.Outcome State Fault Refusal :=
  issueAlone (.solo (.postr nb ga sx sy sr ord)) (opPostr nb ga sx sy sr ord) s

end Sys2Proof.Machine
end

