-- ==== Sys2Proof/Machine/Scalar.lean ====
section
/-!
DEFINITION. Integer arithmetic, bit operations, compares and predicates of the sequencer (R184 to R192, R197, R199,
R200), with the scalar-slot forms of R177.
-/

namespace Sys2Proof.Machine

open Sys2Proof.Bits

/-! ### What the operations compute -/

/-- Signed quotient (R184, R185). -/
def divSigned (a b : Word) : Word := if b = 0 then BitVec.allOnes 64 else BitVec.ofInt 64 (a.toInt.tdiv b.toInt)
/-- Unsigned quotient (R184, R185). -/
def divUnsigned (a b : Word) : Word := if b = 0 then BitVec.allOnes 64 else a / b
/-- Signed remainder, with the sign of the dividend (R184, R185). -/
def remSigned (a b : Word) : Word := if b = 0 then a else BitVec.ofInt 64 (a.toInt.tmod b.toInt)
/-- Unsigned remainder (R184, R185). -/
def remUnsigned (a b : Word) : Word := if b = 0 then a else a % b
/-- Bits 127:64 of the signed product (R184). -/
def mulHigh (a b : Word) : Word := BitVec.ofInt 64 (a.toInt * b.toInt / 2 ^ 64)
/-- Bits 127:64 of the unsigned product (R184). -/
def mulHighU (a b : Word) : Word := BitVec.ofNat 64 (a.toNat * b.toNat / 2 ^ 64)
/-- A shift amount: the low six bits (R184). -/
def amount (b : Word) : Nat := nfield b 0 6
/-- Left shift (R184). -/
def shl (a b : Word) : Word := a <<< amount b
/-- Logical right shift (R184). -/
def shr (a b : Word) : Word := a >>> amount b
/-- Arithmetic right shift (R184). -/
def sra (a b : Word) : Word := a.sshiftRight (amount b)
/-- Left rotation (R184). -/
def rol (a b : Word) : Word := a.rotateLeft (amount b)
/-- Right rotation (R184). -/
def ror (a b : Word) : Word := a.rotateRight (amount b)
/-- Signed minimum (R184). -/
def minS (a b : Word) : Word := if b.toInt < a.toInt then b else a
/-- Signed maximum (R184). -/
def maxS (a b : Word) : Word := if a.toInt < b.toInt then b else a
/-- Unsigned minimum (R184). -/
def minU (a b : Word) : Word := if b.toNat < a.toNat then b else a
/-- Unsigned maximum (R184). -/
def maxU (a b : Word) : Word := if a.toNat < b.toNat then b else a
/-- A 32-bit immediate as an operand (R186). -/
def imm32 (i : BitVec 32) : Word := i.signExtend 64
/-- A five-bit slot immediate as an operand (R186). -/
def imm5 (i : BitVec 5) : Word := i.signExtend 64

/-- Bytes in reverse order (R188). -/
def byteSwap (a : Word) : Word := wordOfBytes (toBytes a 8).reverse

/-- Bits of several values interleaved: bit `i` of the k-th of `n` values lands at `n i + k` (R189). -/
def interleave (xs : List Word) (len : Nat) : Word :=
  BitVec.ofNat 64 (natOfBools ((List.range (xs.length * len)).map fun j =>
    match xs[j % xs.length]? with | some x => x.getLsbD (j / xs.length) | none => false))

/-- Every n-th bit from bit `k` up (R190). -/
def deinterleave (a : Word) (n k len : Nat) : Word :=
  BitVec.ofNat 64 (natOfBools ((List.range len).map fun i => a.getLsbD (n * i + k)))

/-- A value with a field replaced by the low bits of another (R191). -/
def insertField (old a : Word) (pos len : Nat) : Word :=
  let m : Word := BitVec.ofNat 64 ((2 ^ len - 1) <<< pos)
  (old &&& ~~~m) ||| ((a <<< pos) &&& m)

/-- A condition on two operands (R197). -/
def condHolds (c : ICond) (a b : Word) : Bool :=
  match c with
  | .eq => a == b
  | .ne => a != b
  | .lt => decide (a.toInt < b.toInt)
  | .ltu => decide (a.toNat < b.toNat)
  | .ge => decide (b.toInt ≤ a.toInt)
  | .geu => decide (b.toNat ≤ a.toNat)
  | .le => decide (a.toInt ≤ b.toInt)
  | .leu => decide (a.toNat ≤ b.toNat)
  | .gt => decide (b.toInt < a.toInt)
  | .gtu => decide (b.toNat < a.toNat)
  | .tst => (a &&& b) != 0
  | .ntst => (a &&& b) == 0

/-! ### The shapes -/

/-- Two sources, one destination. -/
def binary (f : Word → Word → Word) (d a b : SReg) (s : State) : OpRes := onReg s fun c => c.ws d (f (c.rs a) (c.rs b))

/-- One source and an operand, one destination. -/
def unary (f : Word → Word) (d a : SReg) (s : State) : OpRes := onReg s fun c => c.ws d (f (c.rs a))

/-- A signed sum or difference clamped to 64 bits, with SAT when the clamp changed it (R184, R57). -/
def saturating (f : Int → Int → Int) (d a b : SReg) (s : State) : OpRes :=
  onReg s fun c =>
    let x := f (c.rs a).toInt (c.rs b).toInt
    let y := clampInt (-(2 ^ 63)) (2 ^ 63 - 1) x
    (c.ws d (BitVec.ofInt 64 y)).raise (FFlags.when (y != x) .sat)

/-- A compare of a register with an operand (R197). -/
def compare (k : ICond) (p : PReg) (a : SReg) (b : Core → Word) (s : State) : OpRes :=
  onReg s fun c => c.wp p (condHolds k (c.rs a) (b c))

/-- Two predicates into one (R199). -/
def predicate (f : Bool → Bool → Bool) (d a b : PReg) (s : State) : OpRes := onReg s fun c => c.wp d (f (c.rp a) (c.rp b))

/-! ### Three registers, R184, R185 -/

/-- `ADD sd, sa, sb` (R184). -/
def opAdd (d a b : SReg) : State → OpRes := binary (· + ·) d a b

/-- `SUB sd, sa, sb` (R184). -/
def opSub (d a b : SReg) : State → OpRes := binary (· - ·) d a b

/-- `MUL sd, sa, sb` (R184). -/
def opMul (d a b : SReg) : State → OpRes := binary (· * ·) d a b

/-- `MULH sd, sa, sb` (R184). -/
def opMulh (d a b : SReg) : State → OpRes := binary mulHigh d a b

/-- `MULHU sd, sa, sb` (R184). -/
def opMulhu (d a b : SReg) : State → OpRes := binary mulHighU d a b

/-- `DIV sd, sa, sb` (R184). -/
def opDiv (d a b : SReg) : State → OpRes := binary divSigned d a b

/-- `DIVU sd, sa, sb` (R184). -/
def opDivu (d a b : SReg) : State → OpRes := binary divUnsigned d a b

/-- `REM sd, sa, sb` (R184). -/
def opRem (d a b : SReg) : State → OpRes := binary remSigned d a b

/-- `REMU sd, sa, sb` (R184). -/
def opRemu (d a b : SReg) : State → OpRes := binary remUnsigned d a b

/-- `AND sd, sa, sb` (R184). -/
def opAnd (d a b : SReg) : State → OpRes := binary (· &&& ·) d a b

/-- `OR sd, sa, sb` (R184). -/
def opOr (d a b : SReg) : State → OpRes := binary (· ||| ·) d a b

/-- `XOR sd, sa, sb` (R184). -/
def opXor (d a b : SReg) : State → OpRes := binary (· ^^^ ·) d a b

/-- `ANDN sd, sa, sb` (R184). -/
def opAndn (d a b : SReg) : State → OpRes := binary (fun x y => x &&& ~~~y) d a b

/-- `SHL sd, sa, sb` (R184). -/
def opShl (d a b : SReg) : State → OpRes := binary shl d a b

/-- `SHR sd, sa, sb` (R184). -/
def opShr (d a b : SReg) : State → OpRes := binary shr d a b

/-- `SRA sd, sa, sb` (R184). -/
def opSra (d a b : SReg) : State → OpRes := binary sra d a b

/-- `ROL sd, sa, sb` (R184). -/
def opRol (d a b : SReg) : State → OpRes := binary rol d a b

/-- `ROR sd, sa, sb` (R184). -/
def opRor (d a b : SReg) : State → OpRes := binary ror d a b

/-- `MIN sd, sa, sb` (R184). -/
def opMin (d a b : SReg) : State → OpRes := binary minS d a b

/-- `MAX sd, sa, sb` (R184). -/
def opMax (d a b : SReg) : State → OpRes := binary maxS d a b

/-- `MINU sd, sa, sb` (R184). -/
def opMinu (d a b : SReg) : State → OpRes := binary minU d a b

/-- `MAXU sd, sa, sb` (R184). -/
def opMaxu (d a b : SReg) : State → OpRes := binary maxU d a b

/-- `ADDS sd, sa, sb` (R184). -/
def opAdds (d a b : SReg) : State → OpRes := saturating (· + ·) d a b

/-- `SUBS sd, sa, sb` (R184). -/
def opSubs (d a b : SReg) : State → OpRes := saturating (· - ·) d a b

/-! ### Immediates, R186, R187 -/

/-- `ADDI sd, sa, imm` (R186). -/
def opAddi (d a : SReg) (imm : BitVec 32) : State → OpRes := unary (· + imm32 imm) d a

/-- `ANDI sd, sa, imm` (R186). -/
def opAndi (d a : SReg) (imm : BitVec 32) : State → OpRes := unary (· &&& imm32 imm) d a

/-- `ORI sd, sa, imm` (R186). -/
def opOri (d a : SReg) (imm : BitVec 32) : State → OpRes := unary (· ||| imm32 imm) d a

/-- `XORI sd, sa, imm` (R186). -/
def opXori (d a : SReg) (imm : BitVec 32) : State → OpRes := unary (· ^^^ imm32 imm) d a

/-- `SHLI sd, sa, imm` (R186). -/
def opShli (d a : SReg) (imm : BitVec 32) : State → OpRes := unary (fun x => shl x (imm.setWidth 64)) d a

/-- `SHRI sd, sa, imm` (R186). -/
def opShri (d a : SReg) (imm : BitVec 32) : State → OpRes := unary (fun x => shr x (imm.setWidth 64)) d a

/-- `SRAI sd, sa, imm` (R186). -/
def opSrai (d a : SReg) (imm : BitVec 32) : State → OpRes := unary (fun x => sra x (imm.setWidth 64)) d a

/-- `RORI sd, sa, imm` (R186). -/
def opRori (d a : SReg) (imm : BitVec 32) : State → OpRes := unary (fun x => ror x (imm.setWidth 64)) d a

/-- `LI sd, X` (R187). -/
def opLi (d : SReg) (x : Word) : State → OpRes := fun s => onReg s fun c => c.ws d x

/-- `ADDL sd, sa, X` (R187). -/
def opAddl (d a : SReg) (x : Word) : State → OpRes := unary (· + x) d a

/-- `ANDL sd, sa, X` (R187). -/
def opAndl (d a : SReg) (x : Word) : State → OpRes := unary (· &&& x) d a

/-- `ORL sd, sa, X` (R187). -/
def opOrl (d a : SReg) (x : Word) : State → OpRes := unary (· ||| x) d a

/-- `XORL sd, sa, X` (R187). -/
def opXorl (d a : SReg) (x : Word) : State → OpRes := unary (· ^^^ x) d a

/-! ### Bit operations, R188 to R192 -/

/-- `CLZ sd, sa` (R188). -/
def opClz (d a : SReg) : State → OpRes := unary (fun x => BitVec.ofNat 64 (leadingZeros x)) d a

/-- `CTZ sd, sa` (R188). -/
def opCtz (d a : SReg) : State → OpRes := unary (fun x => BitVec.ofNat 64 (trailingZeros x)) d a

/-- `POPC sd, sa` (R188). -/
def opPopc (d a : SReg) : State → OpRes := unary (fun x => BitVec.ofNat 64 (popCount x)) d a

/-- `BREV sd, sa` (R188). -/
def opBrev (d a : SReg) : State → OpRes := unary reverseBits d a

/-- `BSWAP sd, sa` (R188). -/
def opBswap (d a : SReg) : State → OpRes := unary byteSwap d a

/-- `BILV2 sd, sa, sb` (R189). -/
def opBilv2 (d a b : SReg) : State → OpRes := binary (fun x y => interleave [x, y] 32) d a b

/-- `BILV3 sd, sa, sb, sc` (R189). -/
def opBilv3 (d a b c : SReg) : State → OpRes := fun s => onReg s fun k => k.ws d (interleave [k.rs a, k.rs b, k.rs c] 21)

/-- `BDIL2 sd, sa, k` (R190). -/
def opBdil2 (d a : SReg) (k : BitVec 2) : State → OpRes := unary (fun x => deinterleave x 2 k.toNat 32) d a

/-- `BDIL3 sd, sa, k` (R190). -/
def opBdil3 (d a : SReg) (k : BitVec 2) : State → OpRes := unary (fun x => deinterleave x 3 k.toNat 21) d a

/-- `EXT sd, sa, pos, len` (R191). -/
def opExt (d a : SReg) (pos : BitVec 6) (len : BitVec 7) : State → OpRes := unary (fun x => sext (x >>> pos.toNat) len.toNat) d a

/-- `EXTZ sd, sa, pos, len` (R191). -/
def opExtz (d a : SReg) (pos : BitVec 6) (len : BitVec 7) : State → OpRes := unary (fun x => zext (x >>> pos.toNat) len.toNat) d a

/-- `INS sd, sa, pos, len` (R191). -/
def opIns (d a : SReg) (pos : BitVec 6) (len : BitVec 7) : State → OpRes := fun s => onReg s fun c => c.ws d (insertField (c.rs d) (c.rs a) pos.toNat len.toNat)

/-- `SEL sd, sa, sb, pc` (R192). -/
def opSel (d a b : SReg) (p : PReg) : State → OpRes := fun s => onReg s fun c => c.ws d (if c.rp p then c.rs a else c.rs b)

/-! ### Compares and predicates, R197, R199, R200 -/

/-- `CMP.cond pd, sa, sb` (R197). -/
def opCmp (c : ICond) (p : PReg) (a b : SReg) : State → OpRes := compare c p a fun k => k.rs b

/-- `CMPI.cond pd, sa, imm` (R197). -/
def opCmpi (c : ICond) (p : PReg) (a : SReg) (imm : BitVec 32) : State → OpRes := compare c p a fun _ => imm32 imm

/-- `CMPL.cond pd, sa, X` (R187, R197). -/
def opCmpl (c : ICond) (p : PReg) (a : SReg) (x : Word) : State → OpRes := compare c p a fun _ => x

/-- `PAND pd, pa, pb` (R199). -/
def opPand (d a b : PReg) : State → OpRes := predicate and d a b

/-- `POR pd, pa, pb` (R199). -/
def opPor (d a b : PReg) : State → OpRes := predicate or d a b

/-- `PXOR pd, pa, pb` (R199). -/
def opPxor (d a b : PReg) : State → OpRes := predicate xor d a b

/-- `PANDN pd, pa, pb` (R199). -/
def opPandn (d a b : PReg) : State → OpRes := predicate (fun x y => x && !y) d a b

/-- `MFP sd` (R200): bit 0 is always 1. -/
def opMfp (d : SReg) : State → OpRes := fun s => onReg s fun c => c.ws d ((c.regs.p ||| 1).setWidth 64)

/-- `MTP sa, sb` (R200): bit 0 and bits 63:16 are ignored. -/
def opMtp (a b : SReg) : State → OpRes := fun s => onReg s fun c =>
    let m : BitVec 16 := (c.rs b).setWidth 16 &&& 0xFFFE
    { c with regs := { c.regs with p := (c.regs.p &&& ~~~m) ||| ((c.rs a).setWidth 16 &&& m) } }

/-! ### Slot forms, R177, R186 -/

/-- Slot `ADD sd, sa, sb` (R177). -/
def opAddSlot (d a b : SReg) : State → OpRes := binary (· + ·) d a b

/-- Slot `SUB sd, sa, sb` (R177). -/
def opSubSlot (d a b : SReg) : State → OpRes := binary (· - ·) d a b

/-- Slot `MUL sd, sa, sb` (R177). -/
def opMulSlot (d a b : SReg) : State → OpRes := binary (· * ·) d a b

/-- Slot `AND sd, sa, sb` (R177). -/
def opAndSlot (d a b : SReg) : State → OpRes := binary (· &&& ·) d a b

/-- Slot `OR sd, sa, sb` (R177). -/
def opOrSlot (d a b : SReg) : State → OpRes := binary (· ||| ·) d a b

/-- Slot `XOR sd, sa, sb` (R177). -/
def opXorSlot (d a b : SReg) : State → OpRes := binary (· ^^^ ·) d a b

/-- Slot `ANDN sd, sa, sb` (R177). -/
def opAndnSlot (d a b : SReg) : State → OpRes := binary (fun x y => x &&& ~~~y) d a b

/-- Slot `SHL sd, sa, sb` (R177). -/
def opShlSlot (d a b : SReg) : State → OpRes := binary shl d a b

/-- Slot `SHR sd, sa, sb` (R177). -/
def opShrSlot (d a b : SReg) : State → OpRes := binary shr d a b

/-- Slot `SRA sd, sa, sb` (R177). -/
def opSraSlot (d a b : SReg) : State → OpRes := binary sra d a b

/-- Slot `MIN sd, sa, sb` (R177). -/
def opMinSlot (d a b : SReg) : State → OpRes := binary minS d a b

/-- Slot `MAX sd, sa, sb` (R177). -/
def opMaxSlot (d a b : SReg) : State → OpRes := binary maxS d a b

/-- Slot `MINU sd, sa, sb` (R177). -/
def opMinuSlot (d a b : SReg) : State → OpRes := binary minU d a b

/-- Slot `MAXU sd, sa, sb` (R177). -/
def opMaxuSlot (d a b : SReg) : State → OpRes := binary maxU d a b

/-- Slot `ADDI sd, sa, imm5` (R186). -/
def opAddiSlot (d a : SReg) (imm : BitVec 5) : State → OpRes := unary (· + imm5 imm) d a

/-- Slot `SHLI sd, sa, imm5` (R186). -/
def opShliSlot (d a : SReg) (imm : BitVec 5) : State → OpRes := unary (fun x => shl x (imm.setWidth 64)) d a

/-- Slot `SHRI sd, sa, imm5` (R186). -/
def opShriSlot (d a : SReg) (imm : BitVec 5) : State → OpRes := unary (fun x => shr x (imm.setWidth 64)) d a

/-- Slot `SRAI sd, sa, imm5` (R186). -/
def opSraiSlot (d a : SReg) (imm : BitVec 5) : State → OpRes := unary (fun x => sra x (imm.setWidth 64)) d a

/-- Slot `CMP.EQ pd, sa, sb` (R177, R197). -/
def opCmpEqSlot (p : PReg) (a b : SReg) : State → OpRes := compare .eq p a fun k => k.rs b

/-- Slot `CMP.NE pd, sa, sb` (R177, R197). -/
def opCmpNeSlot (p : PReg) (a b : SReg) : State → OpRes := compare .ne p a fun k => k.rs b

/-- Slot `CMP.LT pd, sa, sb` (R177, R197). -/
def opCmpLtSlot (p : PReg) (a b : SReg) : State → OpRes := compare .lt p a fun k => k.rs b

/-- Slot `CMP.LTU pd, sa, sb` (R177, R197). -/
def opCmpLtuSlot (p : PReg) (a b : SReg) : State → OpRes := compare .ltu p a fun k => k.rs b

/-- Slot `CMP.GE pd, sa, sb` (R177, R197). -/
def opCmpGeSlot (p : PReg) (a b : SReg) : State → OpRes := compare .ge p a fun k => k.rs b

/-- Slot `CMP.GEU pd, sa, sb` (R177, R197). -/
def opCmpGeuSlot (p : PReg) (a b : SReg) : State → OpRes := compare .geu p a fun k => k.rs b

/-- Slot `CMPI.EQ pd, sa, imm5` (R197). -/
def opCmpiEqSlot (p : PReg) (a : SReg) (imm : BitVec 5) : State → OpRes := compare .eq p a fun _ => imm5 imm

/-- Slot `PAND pd, pa, pb` (R177, R199). -/
def opPandSlot (d a b : PReg) : State → OpRes := predicate and d a b

/-- Slot `POR pd, pa, pb` (R177, R199). -/
def opPorSlot (d a b : PReg) : State → OpRes := predicate or d a b

/-- Slot `PXOR pd, pa, pb` (R177, R199). -/
def opPxorSlot (d a b : PReg) : State → OpRes := predicate xor d a b

/-- Slot `PANDN pd, pa, pb` (R177, R199). -/
def opPandnSlot (d a b : PReg) : State → OpRes := predicate (fun x y => x && !y) d a b

/-- `SNOP`: no effect (R177). -/
def opSnop : State → OpRes := fun s => .ok s

/-! ### Each as a group of its own -/

/-- `ADD` as a group of its own (R169). -/
def execAdd (d : SReg) (a : SReg) (b : SReg) (s : State) : Host.Outcome State Fault Refusal :=
  issueAlone (.solo (.add d a b)) (opAdd d a b) s

/-- `SUB` as a group of its own (R169). -/
def execSub (d : SReg) (a : SReg) (b : SReg) (s : State) : Host.Outcome State Fault Refusal :=
  issueAlone (.solo (.sub d a b)) (opSub d a b) s

/-- `MUL` as a group of its own (R169). -/
def execMul (d : SReg) (a : SReg) (b : SReg) (s : State) : Host.Outcome State Fault Refusal :=
  issueAlone (.solo (.mul d a b)) (opMul d a b) s

/-- `MULH` as a group of its own (R169). -/
def execMulh (d : SReg) (a : SReg) (b : SReg) (s : State) : Host.Outcome State Fault Refusal :=
  issueAlone (.solo (.mulh d a b)) (opMulh d a b) s

/-- `MULHU` as a group of its own (R169). -/
def execMulhu (d : SReg) (a : SReg) (b : SReg) (s : State) : Host.Outcome State Fault Refusal :=
  issueAlone (.solo (.mulhu d a b)) (opMulhu d a b) s

/-- `DIV` as a group of its own (R169). -/
def execDiv (d : SReg) (a : SReg) (b : SReg) (s : State) : Host.Outcome State Fault Refusal :=
  issueAlone (.solo (.div d a b)) (opDiv d a b) s

/-- `DIVU` as a group of its own (R169). -/
def execDivu (d : SReg) (a : SReg) (b : SReg) (s : State) : Host.Outcome State Fault Refusal :=
  issueAlone (.solo (.divu d a b)) (opDivu d a b) s

/-- `REM` as a group of its own (R169). -/
def execRem (d : SReg) (a : SReg) (b : SReg) (s : State) : Host.Outcome State Fault Refusal :=
  issueAlone (.solo (.rem d a b)) (opRem d a b) s

/-- `REMU` as a group of its own (R169). -/
def execRemu (d : SReg) (a : SReg) (b : SReg) (s : State) : Host.Outcome State Fault Refusal :=
  issueAlone (.solo (.remu d a b)) (opRemu d a b) s

/-- `AND` as a group of its own (R169). -/
def execAnd (d : SReg) (a : SReg) (b : SReg) (s : State) : Host.Outcome State Fault Refusal :=
  issueAlone (.solo (.and d a b)) (opAnd d a b) s

/-- `OR` as a group of its own (R169). -/
def execOr (d : SReg) (a : SReg) (b : SReg) (s : State) : Host.Outcome State Fault Refusal :=
  issueAlone (.solo (.or d a b)) (opOr d a b) s

/-- `XOR` as a group of its own (R169). -/
def execXor (d : SReg) (a : SReg) (b : SReg) (s : State) : Host.Outcome State Fault Refusal :=
  issueAlone (.solo (.xor d a b)) (opXor d a b) s

/-- `ANDN` as a group of its own (R169). -/
def execAndn (d : SReg) (a : SReg) (b : SReg) (s : State) : Host.Outcome State Fault Refusal :=
  issueAlone (.solo (.andn d a b)) (opAndn d a b) s

/-- `SHL` as a group of its own (R169). -/
def execShl (d : SReg) (a : SReg) (b : SReg) (s : State) : Host.Outcome State Fault Refusal :=
  issueAlone (.solo (.shl d a b)) (opShl d a b) s

/-- `SHR` as a group of its own (R169). -/
def execShr (d : SReg) (a : SReg) (b : SReg) (s : State) : Host.Outcome State Fault Refusal :=
  issueAlone (.solo (.shr d a b)) (opShr d a b) s

/-- `SRA` as a group of its own (R169). -/
def execSra (d : SReg) (a : SReg) (b : SReg) (s : State) : Host.Outcome State Fault Refusal :=
  issueAlone (.solo (.sra d a b)) (opSra d a b) s

/-- `ROL` as a group of its own (R169). -/
def execRol (d : SReg) (a : SReg) (b : SReg) (s : State) : Host.Outcome State Fault Refusal :=
  issueAlone (.solo (.rol d a b)) (opRol d a b) s

/-- `ROR` as a group of its own (R169). -/
def execRor (d : SReg) (a : SReg) (b : SReg) (s : State) : Host.Outcome State Fault Refusal :=
  issueAlone (.solo (.ror d a b)) (opRor d a b) s

/-- `MIN` as a group of its own (R169). -/
def execMin (d : SReg) (a : SReg) (b : SReg) (s : State) : Host.Outcome State Fault Refusal :=
  issueAlone (.solo (.min d a b)) (opMin d a b) s

/-- `MAX` as a group of its own (R169). -/
def execMax (d : SReg) (a : SReg) (b : SReg) (s : State) : Host.Outcome State Fault Refusal :=
  issueAlone (.solo (.max d a b)) (opMax d a b) s

/-- `MINU` as a group of its own (R169). -/
def execMinu (d : SReg) (a : SReg) (b : SReg) (s : State) : Host.Outcome State Fault Refusal :=
  issueAlone (.solo (.minu d a b)) (opMinu d a b) s

/-- `MAXU` as a group of its own (R169). -/
def execMaxu (d : SReg) (a : SReg) (b : SReg) (s : State) : Host.Outcome State Fault Refusal :=
  issueAlone (.solo (.maxu d a b)) (opMaxu d a b) s

/-- `ADDS` as a group of its own (R169). -/
def execAdds (d : SReg) (a : SReg) (b : SReg) (s : State) : Host.Outcome State Fault Refusal :=
  issueAlone (.solo (.adds d a b)) (opAdds d a b) s

/-- `SUBS` as a group of its own (R169). -/
def execSubs (d : SReg) (a : SReg) (b : SReg) (s : State) : Host.Outcome State Fault Refusal :=
  issueAlone (.solo (.subs d a b)) (opSubs d a b) s

/-- `ADDI` as a group of its own (R169). -/
def execAddi (d : SReg) (a : SReg) (imm : BitVec 32) (s : State) : Host.Outcome State Fault Refusal :=
  issueAlone (.solo (.addi d a imm)) (opAddi d a imm) s

/-- `ANDI` as a group of its own (R169). -/
def execAndi (d : SReg) (a : SReg) (imm : BitVec 32) (s : State) : Host.Outcome State Fault Refusal :=
  issueAlone (.solo (.andi d a imm)) (opAndi d a imm) s

/-- `ORI` as a group of its own (R169). -/
def execOri (d : SReg) (a : SReg) (imm : BitVec 32) (s : State) : Host.Outcome State Fault Refusal :=
  issueAlone (.solo (.ori d a imm)) (opOri d a imm) s

/-- `XORI` as a group of its own (R169). -/
def execXori (d : SReg) (a : SReg) (imm : BitVec 32) (s : State) : Host.Outcome State Fault Refusal :=
  issueAlone (.solo (.xori d a imm)) (opXori d a imm) s

/-- `SHLI` as a group of its own (R169). -/
def execShli (d : SReg) (a : SReg) (imm : BitVec 32) (s : State) : Host.Outcome State Fault Refusal :=
  issueAlone (.solo (.shli d a imm)) (opShli d a imm) s

/-- `SHRI` as a group of its own (R169). -/
def execShri (d : SReg) (a : SReg) (imm : BitVec 32) (s : State) : Host.Outcome State Fault Refusal :=
  issueAlone (.solo (.shri d a imm)) (opShri d a imm) s

/-- `SRAI` as a group of its own (R169). -/
def execSrai (d : SReg) (a : SReg) (imm : BitVec 32) (s : State) : Host.Outcome State Fault Refusal :=
  issueAlone (.solo (.srai d a imm)) (opSrai d a imm) s

/-- `RORI` as a group of its own (R169). -/
def execRori (d : SReg) (a : SReg) (imm : BitVec 32) (s : State) : Host.Outcome State Fault Refusal :=
  issueAlone (.solo (.rori d a imm)) (opRori d a imm) s

/-- `LI` as a group of its own (R169). -/
def execLi (d : SReg) (x : Word) (s : State) : Host.Outcome State Fault Refusal :=
  issueAlone (.solo (.li d x)) (opLi d x) s

/-- `ADDL` as a group of its own (R169). -/
def execAddl (d : SReg) (a : SReg) (x : Word) (s : State) : Host.Outcome State Fault Refusal :=
  issueAlone (.solo (.addl d a x)) (opAddl d a x) s

/-- `ANDL` as a group of its own (R169). -/
def execAndl (d : SReg) (a : SReg) (x : Word) (s : State) : Host.Outcome State Fault Refusal :=
  issueAlone (.solo (.andl d a x)) (opAndl d a x) s

/-- `ORL` as a group of its own (R169). -/
def execOrl (d : SReg) (a : SReg) (x : Word) (s : State) : Host.Outcome State Fault Refusal :=
  issueAlone (.solo (.orl d a x)) (opOrl d a x) s

/-- `XORL` as a group of its own (R169). -/
def execXorl (d : SReg) (a : SReg) (x : Word) (s : State) : Host.Outcome State Fault Refusal :=
  issueAlone (.solo (.xorl d a x)) (opXorl d a x) s

/-- `CLZ` as a group of its own (R169). -/
def execClz (d : SReg) (a : SReg) (s : State) : Host.Outcome State Fault Refusal :=
  issueAlone (.solo (.clz d a)) (opClz d a) s

/-- `CTZ` as a group of its own (R169). -/
def execCtz (d : SReg) (a : SReg) (s : State) : Host.Outcome State Fault Refusal :=
  issueAlone (.solo (.ctz d a)) (opCtz d a) s

/-- `POPC` as a group of its own (R169). -/
def execPopc (d : SReg) (a : SReg) (s : State) : Host.Outcome State Fault Refusal :=
  issueAlone (.solo (.popc d a)) (opPopc d a) s

/-- `BREV` as a group of its own (R169). -/
def execBrev (d : SReg) (a : SReg) (s : State) : Host.Outcome State Fault Refusal :=
  issueAlone (.solo (.brev d a)) (opBrev d a) s

/-- `BSWAP` as a group of its own (R169). -/
def execBswap (d : SReg) (a : SReg) (s : State) : Host.Outcome State Fault Refusal :=
  issueAlone (.solo (.bswap d a)) (opBswap d a) s

/-- `BILV2` as a group of its own (R169). -/
def execBilv2 (d : SReg) (a : SReg) (b : SReg) (s : State) : Host.Outcome State Fault Refusal :=
  issueAlone (.solo (.bilv2 d a b)) (opBilv2 d a b) s

/-- `BILV3` as a group of its own (R169). -/
def execBilv3 (d : SReg) (a : SReg) (b : SReg) (c : SReg) (s : State) : Host.Outcome State Fault Refusal :=
  issueAlone (.solo (.bilv3 d a b c)) (opBilv3 d a b c) s

/-- `BDIL2` as a group of its own (R169). -/
def execBdil2 (d : SReg) (a : SReg) (k : BitVec 2) (s : State) : Host.Outcome State Fault Refusal :=
  issueAlone (.solo (.bdil2 d a k)) (opBdil2 d a k) s

/-- `BDIL3` as a group of its own (R169). -/
def execBdil3 (d : SReg) (a : SReg) (k : BitVec 2) (s : State) : Host.Outcome State Fault Refusal :=
  issueAlone (.solo (.bdil3 d a k)) (opBdil3 d a k) s

/-- `EXT` as a group of its own (R169). -/
def execExt (d : SReg) (a : SReg) (pos : BitVec 6) (len : BitVec 7) (s : State) : Host.Outcome State Fault Refusal :=
  issueAlone (.solo (.ext d a pos len)) (opExt d a pos len) s

/-- `EXTZ` as a group of its own (R169). -/
def execExtz (d : SReg) (a : SReg) (pos : BitVec 6) (len : BitVec 7) (s : State) : Host.Outcome State Fault Refusal :=
  issueAlone (.solo (.extz d a pos len)) (opExtz d a pos len) s

/-- `INS` as a group of its own (R169). -/
def execIns (d : SReg) (a : SReg) (pos : BitVec 6) (len : BitVec 7) (s : State) : Host.Outcome State Fault Refusal :=
  issueAlone (.solo (.ins d a pos len)) (opIns d a pos len) s

/-- `SEL` as a group of its own (R169). -/
def execSel (d : SReg) (a : SReg) (b : SReg) (p : PReg) (s : State) : Host.Outcome State Fault Refusal :=
  issueAlone (.solo (.sel d a b p)) (opSel d a b p) s

/-- `CMP` as a group of its own (R169). -/
def execCmp (c : ICond) (p : PReg) (a : SReg) (b : SReg) (s : State) : Host.Outcome State Fault Refusal :=
  issueAlone (.solo (.cmp c p a b)) (opCmp c p a b) s

/-- `CMPI` as a group of its own (R169). -/
def execCmpi (c : ICond) (p : PReg) (a : SReg) (imm : BitVec 32) (s : State) : Host.Outcome State Fault Refusal :=
  issueAlone (.solo (.cmpi c p a imm)) (opCmpi c p a imm) s

/-- `CMPL` as a group of its own (R169). -/
def execCmpl (c : ICond) (p : PReg) (a : SReg) (x : Word) (s : State) : Host.Outcome State Fault Refusal :=
  issueAlone (.solo (.cmpl c p a x)) (opCmpl c p a x) s

/-- `PAND` as a group of its own (R169). -/
def execPand (d : PReg) (a : PReg) (b : PReg) (s : State) : Host.Outcome State Fault Refusal :=
  issueAlone (.solo (.pand d a b)) (opPand d a b) s

/-- `POR` as a group of its own (R169). -/
def execPor (d : PReg) (a : PReg) (b : PReg) (s : State) : Host.Outcome State Fault Refusal :=
  issueAlone (.solo (.por d a b)) (opPor d a b) s

/-- `PXOR` as a group of its own (R169). -/
def execPxor (d : PReg) (a : PReg) (b : PReg) (s : State) : Host.Outcome State Fault Refusal :=
  issueAlone (.solo (.pxor d a b)) (opPxor d a b) s

/-- `PANDN` as a group of its own (R169). -/
def execPandn (d : PReg) (a : PReg) (b : PReg) (s : State) : Host.Outcome State Fault Refusal :=
  issueAlone (.solo (.pandn d a b)) (opPandn d a b) s

/-- `MFP` as a group of its own (R169). -/
def execMfp (d : SReg) (s : State) : Host.Outcome State Fault Refusal :=
  issueAlone (.solo (.mfp d)) (opMfp d) s

/-- `MTP` as a group of its own (R169). -/
def execMtp (a : SReg) (b : SReg) (s : State) : Host.Outcome State Fault Refusal :=
  issueAlone (.solo (.mtp a b)) (opMtp a b) s

/-- `ADD_SLOT` as a group of its own (R169). -/
def execAddSlot (d : SReg) (a : SReg) (b : SReg) (s : State) : Host.Outcome State Fault Refusal :=
  issueAlone (.slot (.addSlot d a b)) (opAddSlot d a b) s

/-- `SUB_SLOT` as a group of its own (R169). -/
def execSubSlot (d : SReg) (a : SReg) (b : SReg) (s : State) : Host.Outcome State Fault Refusal :=
  issueAlone (.slot (.subSlot d a b)) (opSubSlot d a b) s

/-- `MUL_SLOT` as a group of its own (R169). -/
def execMulSlot (d : SReg) (a : SReg) (b : SReg) (s : State) : Host.Outcome State Fault Refusal :=
  issueAlone (.slot (.mulSlot d a b)) (opMulSlot d a b) s

/-- `AND_SLOT` as a group of its own (R169). -/
def execAndSlot (d : SReg) (a : SReg) (b : SReg) (s : State) : Host.Outcome State Fault Refusal :=
  issueAlone (.slot (.andSlot d a b)) (opAndSlot d a b) s

/-- `OR_SLOT` as a group of its own (R169). -/
def execOrSlot (d : SReg) (a : SReg) (b : SReg) (s : State) : Host.Outcome State Fault Refusal :=
  issueAlone (.slot (.orSlot d a b)) (opOrSlot d a b) s

/-- `XOR_SLOT` as a group of its own (R169). -/
def execXorSlot (d : SReg) (a : SReg) (b : SReg) (s : State) : Host.Outcome State Fault Refusal :=
  issueAlone (.slot (.xorSlot d a b)) (opXorSlot d a b) s

/-- `ANDN_SLOT` as a group of its own (R169). -/
def execAndnSlot (d : SReg) (a : SReg) (b : SReg) (s : State) : Host.Outcome State Fault Refusal :=
  issueAlone (.slot (.andnSlot d a b)) (opAndnSlot d a b) s

/-- `SHL_SLOT` as a group of its own (R169). -/
def execShlSlot (d : SReg) (a : SReg) (b : SReg) (s : State) : Host.Outcome State Fault Refusal :=
  issueAlone (.slot (.shlSlot d a b)) (opShlSlot d a b) s

/-- `SHR_SLOT` as a group of its own (R169). -/
def execShrSlot (d : SReg) (a : SReg) (b : SReg) (s : State) : Host.Outcome State Fault Refusal :=
  issueAlone (.slot (.shrSlot d a b)) (opShrSlot d a b) s

/-- `SRA_SLOT` as a group of its own (R169). -/
def execSraSlot (d : SReg) (a : SReg) (b : SReg) (s : State) : Host.Outcome State Fault Refusal :=
  issueAlone (.slot (.sraSlot d a b)) (opSraSlot d a b) s

/-- `MIN_SLOT` as a group of its own (R169). -/
def execMinSlot (d : SReg) (a : SReg) (b : SReg) (s : State) : Host.Outcome State Fault Refusal :=
  issueAlone (.slot (.minSlot d a b)) (opMinSlot d a b) s

/-- `MAX_SLOT` as a group of its own (R169). -/
def execMaxSlot (d : SReg) (a : SReg) (b : SReg) (s : State) : Host.Outcome State Fault Refusal :=
  issueAlone (.slot (.maxSlot d a b)) (opMaxSlot d a b) s

/-- `MINU_SLOT` as a group of its own (R169). -/
def execMinuSlot (d : SReg) (a : SReg) (b : SReg) (s : State) : Host.Outcome State Fault Refusal :=
  issueAlone (.slot (.minuSlot d a b)) (opMinuSlot d a b) s

/-- `MAXU_SLOT` as a group of its own (R169). -/
def execMaxuSlot (d : SReg) (a : SReg) (b : SReg) (s : State) : Host.Outcome State Fault Refusal :=
  issueAlone (.slot (.maxuSlot d a b)) (opMaxuSlot d a b) s

/-- `ADDI_SLOT` as a group of its own (R169). -/
def execAddiSlot (d : SReg) (a : SReg) (imm : BitVec 5) (s : State) : Host.Outcome State Fault Refusal :=
  issueAlone (.slot (.addiSlot d a imm)) (opAddiSlot d a imm) s

/-- `SHLI_SLOT` as a group of its own (R169). -/
def execShliSlot (d : SReg) (a : SReg) (imm : BitVec 5) (s : State) : Host.Outcome State Fault Refusal :=
  issueAlone (.slot (.shliSlot d a imm)) (opShliSlot d a imm) s

/-- `SHRI_SLOT` as a group of its own (R169). -/
def execShriSlot (d : SReg) (a : SReg) (imm : BitVec 5) (s : State) : Host.Outcome State Fault Refusal :=
  issueAlone (.slot (.shriSlot d a imm)) (opShriSlot d a imm) s

/-- `SRAI_SLOT` as a group of its own (R169). -/
def execSraiSlot (d : SReg) (a : SReg) (imm : BitVec 5) (s : State) : Host.Outcome State Fault Refusal :=
  issueAlone (.slot (.sraiSlot d a imm)) (opSraiSlot d a imm) s

/-- `CMP_EQ_SLOT` as a group of its own (R169). -/
def execCmpEqSlot (p : PReg) (a : SReg) (b : SReg) (s : State) : Host.Outcome State Fault Refusal :=
  issueAlone (.slot (.cmpEqSlot p a b)) (opCmpEqSlot p a b) s

/-- `CMP_NE_SLOT` as a group of its own (R169). -/
def execCmpNeSlot (p : PReg) (a : SReg) (b : SReg) (s : State) : Host.Outcome State Fault Refusal :=
  issueAlone (.slot (.cmpNeSlot p a b)) (opCmpNeSlot p a b) s

/-- `CMP_LT_SLOT` as a group of its own (R169). -/
def execCmpLtSlot (p : PReg) (a : SReg) (b : SReg) (s : State) : Host.Outcome State Fault Refusal :=
  issueAlone (.slot (.cmpLtSlot p a b)) (opCmpLtSlot p a b) s

/-- `CMP_LTU_SLOT` as a group of its own (R169). -/
def execCmpLtuSlot (p : PReg) (a : SReg) (b : SReg) (s : State) : Host.Outcome State Fault Refusal :=
  issueAlone (.slot (.cmpLtuSlot p a b)) (opCmpLtuSlot p a b) s

/-- `CMP_GE_SLOT` as a group of its own (R169). -/
def execCmpGeSlot (p : PReg) (a : SReg) (b : SReg) (s : State) : Host.Outcome State Fault Refusal :=
  issueAlone (.slot (.cmpGeSlot p a b)) (opCmpGeSlot p a b) s

/-- `CMP_GEU_SLOT` as a group of its own (R169). -/
def execCmpGeuSlot (p : PReg) (a : SReg) (b : SReg) (s : State) : Host.Outcome State Fault Refusal :=
  issueAlone (.slot (.cmpGeuSlot p a b)) (opCmpGeuSlot p a b) s

/-- `CMPI_EQ_SLOT` as a group of its own (R169). -/
def execCmpiEqSlot (p : PReg) (a : SReg) (imm : BitVec 5) (s : State) : Host.Outcome State Fault Refusal :=
  issueAlone (.slot (.cmpiEqSlot p a imm)) (opCmpiEqSlot p a imm) s

/-- `PAND_SLOT` as a group of its own (R169). -/
def execPandSlot (d : PReg) (a : PReg) (b : PReg) (s : State) : Host.Outcome State Fault Refusal :=
  issueAlone (.slot (.pandSlot d a b)) (opPandSlot d a b) s

/-- `POR_SLOT` as a group of its own (R169). -/
def execPorSlot (d : PReg) (a : PReg) (b : PReg) (s : State) : Host.Outcome State Fault Refusal :=
  issueAlone (.slot (.porSlot d a b)) (opPorSlot d a b) s

/-- `PXOR_SLOT` as a group of its own (R169). -/
def execPxorSlot (d : PReg) (a : PReg) (b : PReg) (s : State) : Host.Outcome State Fault Refusal :=
  issueAlone (.slot (.pxorSlot d a b)) (opPxorSlot d a b) s

/-- `PANDN_SLOT` as a group of its own (R169). -/
def execPandnSlot (d : PReg) (a : PReg) (b : PReg) (s : State) : Host.Outcome State Fault Refusal :=
  issueAlone (.slot (.pandnSlot d a b)) (opPandnSlot d a b) s

/-- `SNOP` as a group of its own (R169). -/
def execSnop (s : State) : Host.Outcome State Fault Refusal :=
  issueAlone (.slot .snop) opSnop s

end Sys2Proof.Machine
end

