-- ==== Sys2Proof/Machine/ScalarMem.lean ====
section
/-!
DEFINITION. Capabilities, scalar loads and stores, and the region load (R204 to R210, R294).
-/

namespace Sys2Proof.Machine

open Sys2Proof.Bits

/-! ### Capabilities -/

/-- An entry of a tenant's capability table as `CLD` reads it (R25, R204): null unless well formed. -/
def tableEntry (s : State) (tenant k : Nat) : Cap :=
  let c := SMap.get nullCap (s.tenant tenant).table k
  if Cap.wf c then c else nullCap

/-- `CLD cd, sa, idx` (R204). -/
def opCld (d : CReg) (a : SReg) (idx : BitVec 12) (s : State) : OpRes :=
  let k := (s.core.rs a).toNat + idx.toNat
  if 4095 < k then .trap (.precise 0x02 0 (BitVec.ofNat 64 k)) s
  else onReg s fun c => c.wc d (tableEntry s (s.tenantOf s.cur) k)

/-- Derivation (R23, R205); what it would place must be well formed (R21). The offset that `%einfo` reports is the base
asked for. -/
def derive (d a : CReg) (base len : Core → Nat) (mask : BitVec 8) (s : State) : OpRes :=
  let c := s.core
  let p := c.rc a
  let r := Cap.make (Cap.obj p) (Cap.rights p &&& mask) (base c) (len c)
  if Cap.has p 7 && decide (Cap.base p ≤ base c) && decide (base c + len c ≤ Cap.base p + Cap.len p) && Cap.wf r then
    onReg s fun k => k.wc d r
  else .trap (.precise 0x02 0 (BitVec.ofNat 64 (base c))) s

/-- `CDER cd, ca, sb, sc, mask` (R205). -/
def opCder (d a : CReg) (b c : SReg) (mask : BitVec 8) : State → OpRes :=
  derive d a (fun k => (k.rs b).toNat) (fun k => (k.rs c).toNat) mask

/-- `CRST cd, ca, mask` (R205). -/
def opCrst (d a : CReg) (mask : BitVec 8) : State → OpRes :=
  derive d a (fun k => Cap.base (k.rc a)) (fun k => Cap.len (k.rc a)) mask

/-- `CNULL cd` (R205). -/
def opCnull (d : CReg) (s : State) : OpRes := onReg s fun c => c.wc d nullCap

/-! ### Device memory -/

/-- The access of a load (R206 to R209). -/
def loadAccess (t : Ty) (o : Ord) (sc : Scope) (d : SReg) (cap : Cap) (addr : Int) : Access :=
  ⟨.load t d, cap, addr, Ty.bytes t, o, sc, 0, 0, [0]⟩

/-- The access of a store: its data is captured at issue (R438). -/
def storeAccess (t : Ty) (o : Ord) (sc : Scope) (v : Word) (cap : Cap) (addr : Int) : Access :=
  ⟨.store, cap, addr, Ty.bytes t, o, sc, BitVec.ofNat 128 (natOfBytes (storeBytes t v)), 0, [1]⟩

/-- `LD.type.ord.scope sd, cN, sa, off` (R206). -/
def opLd (t : Ty) (o : Ord) (sc : Scope) (d : SReg) (c : CReg) (a : SReg) (off : BitVec 20) (s : State) : OpRes :=
  issueAccess (loadAccess t o sc d (s.core.rc c) (addrU (s.core.rs a) off)) s

/-- `ST.type.ord.scope cN, sa, off, sd` (R206). -/
def opSt (t : Ty) (o : Ord) (sc : Scope) (c : CReg) (a : SReg) (off : BitVec 20) (d : SReg) (s : State) : OpRes :=
  issueAccess (storeAccess t o sc (s.core.rs d) (s.core.rc c) (addrU (s.core.rs a) off)) s

/-- `LDL.type.ord.scope sd, cN, sa, X` (R206). -/
def opLdl (t : Ty) (o : Ord) (sc : Scope) (d : SReg) (c : CReg) (a : SReg) (x : BitVec 48) (s : State) : OpRes :=
  issueAccess (loadAccess t o sc d (s.core.rc c) ((s.core.rs a).toNat + x.toNat : Nat)) s

/-- `STL.type.ord.scope cN, sa, X, sd` (R206). -/
def opStl (t : Ty) (o : Ord) (sc : Scope) (c : CReg) (a : SReg) (x : BitVec 48) (d : SReg) (s : State) : OpRes :=
  issueAccess (storeAccess t o sc (s.core.rs d) (s.core.rc c) ((s.core.rs a).toNat + x.toNat : Nat)) s

/-- The signed sum that `LDX`, `STX` and `RGLD` address by (R206, R294). -/
def indexed (c : Core) (a b : SReg) (size : Nat) (off : BitVec 20) : Int :=
  (c.rs a).toInt + (c.rs b).toInt * size + off.toInt

/-- `RGLD.ord.scope gd, cN, sa, sb, off` (R294). -/
def opRgld (o : Ord) (sc : Scope) (d : GReg) (c : CReg) (a b : SReg) (off : BitVec 20) (s : State) : OpRes :=
  issueAccess ⟨.loadRegion d, s.core.rc c, indexed s.core a b 8 off, 8, o, sc, 0, 0, [0]⟩ s

/-! ### Scratchpad -/

/-- A scratchpad access of the sequencer at issue: alignment, the range, the stall (R209, R210). A load that
consumes a bad word takes a soft-error fault (R445). -/
def spAccess (addr : Int) (len : Nat) (store : Bool) (f : Nat → Core → Core) (s : State) : OpRes :=
  if addr % len ≠ 0 then .trap (.precise 0x06 0 (infoOf addr)) s
  else if addr < 0 ∨ 0x600000 < addr + len then .trap (.precise 0x03 0 (infoOf addr)) s
  else if s.core.spBusy (spCells addr.toNat len) store then .stall s
  else if !store && s.core.eng.bad.contains (.row (s.core.phys (addr.toNat / 512))) then .trap (.precise 0x12 0 (infoOf addr)) s
  else onReg s (f addr.toNat)

/-- `LDX.type sd, sa, sb, off` (R206). -/
def opLdx (t : Ty) (d a b : SReg) (off : BitVec 20) (s : State) : OpRes :=
  spAccess (indexed s.core a b (Ty.bytes t) off) (Ty.bytes t) false
    (fun x c => c.ws d (loadValue t (c.spBytes x (Ty.bytes t)))) s

/-- `STX.type sa, sb, off, sd` (R206). -/
def opStx (t : Ty) (a b : SReg) (off : BitVec 20) (d : SReg) (s : State) : OpRes :=
  spAccess (indexed s.core a b (Ty.bytes t) off) (Ty.bytes t) true (fun x c => c.setSpBytes x (storeBytes t (c.rs d))) s

/-! ### Each as a group of its own -/

/-- `CLD` as a group of its own (R169). -/
def execCld (d : CReg) (a : SReg) (idx : BitVec 12) (s : State) : Host.Outcome State Fault Refusal :=
  issueAlone (.solo (.cld d a idx)) (opCld d a idx) s

/-- `CDER` as a group of its own (R169). -/
def execCder (d : CReg) (a : CReg) (b : SReg) (c : SReg) (mask : BitVec 8) (s : State) : Host.Outcome State Fault Refusal :=
  issueAlone (.solo (.cder d a b c mask)) (opCder d a b c mask) s

/-- `CRST` as a group of its own (R169). -/
def execCrst (d : CReg) (a : CReg) (mask : BitVec 8) (s : State) : Host.Outcome State Fault Refusal :=
  issueAlone (.solo (.crst d a mask)) (opCrst d a mask) s

/-- `CNULL` as a group of its own (R169). -/
def execCnull (d : CReg) (s : State) : Host.Outcome State Fault Refusal :=
  issueAlone (.solo (.cnull d)) (opCnull d) s

/-- `LD` as a group of its own (R169). -/
def execLd (t : Ty) (o : Ord) (sc : Scope) (d : SReg) (c : CReg) (a : SReg) (off : BitVec 20) (s : State) : Host.Outcome State Fault Refusal :=
  issueAlone (.solo (.ld t o sc d c a off)) (opLd t o sc d c a off) s

/-- `ST` as a group of its own (R169). -/
def execSt (t : Ty) (o : Ord) (sc : Scope) (c : CReg) (a : SReg) (off : BitVec 20) (d : SReg) (s : State) : Host.Outcome State Fault Refusal :=
  issueAlone (.solo (.st t o sc c a off d)) (opSt t o sc c a off d) s

/-- `LDL` as a group of its own (R169). -/
def execLdl (t : Ty) (o : Ord) (sc : Scope) (d : SReg) (c : CReg) (a : SReg) (x : BitVec 48) (s : State) : Host.Outcome State Fault Refusal :=
  issueAlone (.solo (.ldl t o sc d c a x)) (opLdl t o sc d c a x) s

/-- `STL` as a group of its own (R169). -/
def execStl (t : Ty) (o : Ord) (sc : Scope) (c : CReg) (a : SReg) (x : BitVec 48) (d : SReg) (s : State) : Host.Outcome State Fault Refusal :=
  issueAlone (.solo (.stl t o sc c a x d)) (opStl t o sc c a x d) s

/-- `RGLD` as a group of its own (R169). -/
def execRgld (o : Ord) (sc : Scope) (d : GReg) (c : CReg) (a : SReg) (b : SReg) (off : BitVec 20) (s : State) : Host.Outcome State Fault Refusal :=
  issueAlone (.solo (.rgld o sc d c a b off)) (opRgld o sc d c a b off) s

/-- `LDX` as a group of its own (R169). -/
def execLdx (t : Ty) (d : SReg) (a : SReg) (b : SReg) (off : BitVec 20) (s : State) : Host.Outcome State Fault Refusal :=
  issueAlone (.solo (.ldx t d a b off)) (opLdx t d a b off) s

/-- `STX` as a group of its own (R169). -/
def execStx (t : Ty) (a : SReg) (b : SReg) (off : BitVec 20) (d : SReg) (s : State) : Host.Outcome State Fault Refusal :=
  issueAlone (.solo (.stx t a b off d)) (opStx t a b off d) s

end Sys2Proof.Machine
end

