-- ==== Sys2Proof/Machine/Special.lean ====
section
/-!
DEFINITION. Special registers as `MFS` and `MTS` see them (R163, R201, and the field maps it names), and `RGSET`
(R293).
-/

namespace Sys2Proof.Machine

open Sys2Proof.Bits

/-- The value `MFS` reads of a special register of core `n` (R163): reserved fields read zero. -/
def readSpecial (n : Nat) (c : Core) (k : Nat) : Word :=
  if k = 0 then BitVec.ofNat 64 n
  else if k = 1 then c.sp.cyc
  else if k = 2 then c.sp.vt
  else if k = 3 then c.sp.fflags.setWidth 64
  else if k = 4 then c.sp.aflags.setWidth 64
  else if k = 5 then c.sp.rngl.setWidth 64
  else if k = 6 then c.sp.rnge.setWidth 64
  else if k = 7 then c.sp.gfail
  else if k = 8 then c.sp.stgmap
  else if k = 9 then c.sp.bpend
  else if k < 0x10 then 0
  else if k < 0x14 then (SMap.get 0 c.eng.cpl (k - 0x10)).setWidth 64
  else if k < 0x18 then (match c.sp.loops[k - 0x14]? with | some l => l.count | none => 0)
  else if k = 0x18 then c.sp.tmrank.setWidth 64
  else if k = 0x19 then c.sp.tmsize.setWidth 64
  else if k = 0x1A then c.sp.tmid.setWidth 64
  else if k = 0x1B then c.sp.tmcount.setWidth 64
  else if k < 0x20 then 0
  else if k < 0x30 then c.mb (k - 0x20)
  else if k = 0x30 then c.sp.epc.setWidth 64
  else if k = 0x31 then c.sp.ecause.setWidth 64
  else if k = 0x32 then c.sp.einfo
  else if k = 0x33 then c.sp.evec
  else if k < 0x100 then 0
  else if k < 0x140 then c.bnd (k - 0x100)
  else if k < 0x150 then SMap.get 0 c.sp.gt (k - 0x140)
  else 0

/-- `%vt` written (R231, R43): a reserved rounding code leaves rnd unchanged. -/
def writeVt (old v : Word) : Word :=
  let w := v &&& 0xF1F7F
  if nfield v 4 3 ≤ 4 then w else setField w 4 3 (field old 4 3)

/-- The formats a bound register takes (R478). -/
def bndFmtOk (f : Nat) : Bool := f ≤ 2 || (4 ≤ f && f ≤ 6) || (8 ≤ f && f ≤ 13)

/-- A bound register written (R478): a reserved fmt or mode leaves that field unchanged, brk is cleared by writing 1. -/
def writeBnd (old v : Word) : Word :=
  let w := setBit (setBit v 2 false) 3 (bit old 3 && !bit v 3)
  let w := if bndFmtOk (nfield v 4 4) then w else setField w 4 4 (field old 4 4)
  if nfield v 0 2 = 3 then setField w 0 2 (field old 0 2) else w

/-- A mailbox written by `MTS`: the accesses in groups before it come before the tasks that wait for the mailbox (R354). -/
def Core.noteMb (c : Core) (i : Nat) : Core :=
  { c with mbEdges := (c.mbEdges.filter fun m => !(m.1 == i && c.settledBefore m.2)) ++ [(i, c.grp.opBase.getD c.nextOp)] }

/-- What `MTS` makes of a core (R201): read-only registers ignore it; `%fflags`, `%aflags` and `%rngl` take effect at the end
of the group, which the rest of it does not see (R57, R56, R168, R169). -/
def writeSpecial (c : Core) (k : Nat) (v : Word) : Core :=
  if k = 2 then { c with sp := { c.sp with vt := writeVt c.sp.vt v } }
  else if k = 3 then { c with grp := { c.grp with setFlags := some (v.setWidth 6) } }
  else if k = 4 then { c with grp := { c.grp with clrAflags := c.grp.clrAflags ||| v.setWidth 4 } }
  else if k = 5 then { c with grp := { c.grp with seed := some (v.setWidth 32) } }
  else if k = 6 then { c with sp := { c.sp with rnge := v.setWidth 32 } }
  else if k = 7 then { c with sp := { c.sp with gfail := v } }
  else if k = 8 then { c with sp := { c.sp with stgmap := v &&& 0x8F8F8F8F8F8F8F00 } }
  else if k < 0x20 then c
  else if k < 0x30 then (c.setMb (k - 0x20) v).noteMb (k - 0x20)
  else if k = 0x33 then { c with sp := { c.sp with evec := v &&& 0xBFFFFFFFFFFFFFF8 } }
  else if k < 0x100 then c
  else if k < 0x140 then c.setBnd (k - 0x100) (writeBnd (c.bnd (k - 0x100)) v)
  else if k < 0x150 then { c with sp := { c.sp with gt := SMap.put 0 c.sp.gt (k - 0x140) v } }
  else c

/-- A task of the window uses a bound register: a checked box names it, or an epilogue may (R482). -/
def usesBnd (p : Posted) (i : Nat) : Bool :=
  p.epiEn || (List.range 6).any fun k => match p.box k with | some b => b.bndEn && b.bnd == i | none => false

/-- `MTS` waits (R482, R483): a bound register in use by an unretired task, a tolerance named by an unresolved unit. -/
def mtsWaits (c : Core) (k : Nat) : Bool :=
  if 0x100 ≤ k ∧ k < 0x140 then c.visible.any fun e => usesBnd e.post (k - 0x100)
  else if 0x140 ≤ k ∧ k < 0x150 then c.visible.any fun e => e.post.kind == 0x38 && nfield (e.post.word 8) 0 4 == k - 0x140
  else false

/-- `MFS sd, %name` (R201). -/
def opMfs (d : SReg) (sr : BitVec 12) (s : State) : OpRes := onReg s fun c => c.ws d (readSpecial s.cur c sr.toNat)

/-- `MTS %name, sa` (R201). -/
def opMts (sr : BitVec 12) (a : SReg) (s : State) : OpRes :=
  if mtsWaits s.core sr.toNat then .stall s else onReg s fun c => writeSpecial c sr.toNat (c.rs a)

/-- `RGSET gd, X` (R293): reserved fields are written as zero. -/
def opRgset (d : GReg) (x : Word) (s : State) : OpRes := onReg s fun c => c.wg d (cleanRegion x)

/-! ### Each as a group of its own -/

/-- `MFS` as a group of its own (R169). -/
def execMfs (d : SReg) (sr : BitVec 12) (s : State) : Host.Outcome State Fault Refusal :=
  issueAlone (.solo (.mfs d sr)) (opMfs d sr) s

/-- `MTS` as a group of its own (R169). -/
def execMts (sr : BitVec 12) (a : SReg) (s : State) : Host.Outcome State Fault Refusal :=
  issueAlone (.solo (.mts sr a)) (opMts sr a) s

/-- `RGSET` as a group of its own (R169). -/
def execRgset (d : GReg) (x : Word) (s : State) : Host.Outcome State Fault Refusal :=
  issueAlone (.solo (.rgset d x)) (opRgset d x) s

end Sys2Proof.Machine
end

