-- ==== Sys2Proof/Machine/VectorSlot.lean ====
section
/-!
DEFINITION. The vector slots of pair words (R178, R233): the solo forms without a merge mask, under the type and the
rounding of `%vt`, which is checked before the group issues.
-/

namespace Sys2Proof.Machine

open Sys2Proof.Bits

/-- The types an operation of a slot accepts under `%vt` (R233, R237). -/
def slotTypeOk (c : Core) : SlotOp → Bool
  | .vrcpSlot .. | .vrsqSlot .. | .vexp2Slot .. | .vlog2Slot .. | .vsinSlot .. | .vrintSlot .. | .vtluSlot .. => Ty.laneFn (vtTy c)
  | .vshlSlot .. | .vshrSlot .. | .vsraSlot .. | .vaddsSlot .. | .vsubsSlot .. => (vtTy c).isInt
  | .vandSlot .. | .vorSlot .. | .vxorSlot .. | .vandnSlot .. | .vslduSlot .. | .vslddSlot .. | .vpermSlot .. => Ty.notF4 (vtTy c)
  | .vcvtSlot .. => cvtPair (vtCty c) (vtTy c)
  | .vaddSlot .. | .vsubSlot .. | .vmulSlot .. | .vfmaSlot .. | .vfmsSlot .. | .vminSlot .. | .vmaxSlot .. | .vabsSlot ..
  | .vnegSlot .. | .vcmpEqSlot .. | .vcmpNeSlot .. | .vcmpLtSlot .. | .vcmpLeSlot .. => Ty.laneArith (vtTy c)
  | _ => true

/-- An operation of a slot under `%vt` (R233): a type it does not accept is an illegal encoding with reason 0x07. -/
def underVt (o : SlotOp) (go : Ty → Rnd → State → OpRes) (s : State) : OpRes :=
  let c := s.core
  if slotTypeOk c o then go (vtTy c) (vtRnd c) s else .trap (illegalTrap 0x07 c.grp.word (c.wordPc c.grp.word)) s

/-- `VNOP` (R178). -/
def opVnop (s : State) : OpRes := .ok s

/-- `VMOV` (R233). -/
def opVmov (d a : VReg) (s : State) : OpRes := onReg s fun c => c.wv d (c.rv a)

/-- Slot `VADD` (R233). -/
def opVaddSlot (d a b : VReg) : State → OpRes := underVt (.vaddSlot d a b) fun t r => opVadd t r d a b 0

/-- Slot `VSUB` (R233). -/
def opVsubSlot (d a b : VReg) : State → OpRes := underVt (.vsubSlot d a b) fun t r => opVsub t r d a b 0

/-- Slot `VMUL` (R233). -/
def opVmulSlot (d a b : VReg) : State → OpRes := underVt (.vmulSlot d a b) fun t r => opVmul t r d a b 0

/-- Slot `VFMA` (R233). -/
def opVfmaSlot (d a b : VReg) : State → OpRes := underVt (.vfmaSlot d a b) fun t r => opVfma t r d a b 0

/-- Slot `VFMS` (R233). -/
def opVfmsSlot (d a b : VReg) : State → OpRes := underVt (.vfmsSlot d a b) fun t r => opVfms t r d a b 0

/-- Slot `VMIN` (R233). -/
def opVminSlot (d a b : VReg) : State → OpRes := underVt (.vminSlot d a b) fun t _ => opVmin t d a b 0

/-- Slot `VMAX` (R233). -/
def opVmaxSlot (d a b : VReg) : State → OpRes := underVt (.vmaxSlot d a b) fun t _ => opVmax t d a b 0

/-- Slot `VAND` (R233). -/
def opVandSlot (d a b : VReg) : State → OpRes := underVt (.vandSlot d a b) fun t _ => opVand t d a b 0

/-- Slot `VOR` (R233). -/
def opVorSlot (d a b : VReg) : State → OpRes := underVt (.vorSlot d a b) fun t _ => opVor t d a b 0

/-- Slot `VXOR` (R233). -/
def opVxorSlot (d a b : VReg) : State → OpRes := underVt (.vxorSlot d a b) fun t _ => opVxor t d a b 0

/-- Slot `VANDN` (R233). -/
def opVandnSlot (d a b : VReg) : State → OpRes := underVt (.vandnSlot d a b) fun t _ => opVandn t d a b 0

/-- Slot `VSHL` (R233). -/
def opVshlSlot (d a b : VReg) : State → OpRes := underVt (.vshlSlot d a b) fun t _ => opVshl t d a b 0

/-- Slot `VSHR` (R233). -/
def opVshrSlot (d a b : VReg) : State → OpRes := underVt (.vshrSlot d a b) fun t _ => opVshr t d a b 0

/-- Slot `VSRA` (R233). -/
def opVsraSlot (d a b : VReg) : State → OpRes := underVt (.vsraSlot d a b) fun t _ => opVsra t d a b 0

/-- Slot `VADDS` (R233). -/
def opVaddsSlot (d a b : VReg) : State → OpRes := underVt (.vaddsSlot d a b) fun t _ => opVadds t d a b 0

/-- Slot `VSUBS` (R233). -/
def opVsubsSlot (d a b : VReg) : State → OpRes := underVt (.vsubsSlot d a b) fun t _ => opVsubs t d a b 0

/-- Slot `VPERM` (R233). -/
def opVpermSlot (d a b : VReg) : State → OpRes := underVt (.vpermSlot d a b) fun t _ => opVperm t d a b 0

/-- Slot `VSLDU` (R233). -/
def opVslduSlot (d a b : VReg) : State → OpRes := underVt (.vslduSlot d a b) fun t _ => opVsldu t d a b 1 0

/-- Slot `VSLDD` (R233). -/
def opVslddSlot (d a b : VReg) : State → OpRes := underVt (.vslddSlot d a b) fun t _ => opVsldd t d a b 1 0

/-- Slot `VABS` (R233). -/
def opVabsSlot (d a : VReg) : State → OpRes := underVt (.vabsSlot d a) fun t _ => opVabs t d a 0

/-- Slot `VNEG` (R233). -/
def opVnegSlot (d a : VReg) : State → OpRes := underVt (.vnegSlot d a) fun t _ => opVneg t d a 0

/-- Slot `VRCP` (R233). -/
def opVrcpSlot (d a : VReg) : State → OpRes := underVt (.vrcpSlot d a) fun t r => opVrcp t r d a 0

/-- Slot `VRSQ` (R233). -/
def opVrsqSlot (d a : VReg) : State → OpRes := underVt (.vrsqSlot d a) fun t r => opVrsq t r d a 0

/-- Slot `VEXP2` (R233). -/
def opVexp2Slot (d a : VReg) : State → OpRes := underVt (.vexp2Slot d a) fun t r => opVexp2 t r d a 0

/-- Slot `VLOG2` (R233). -/
def opVlog2Slot (d a : VReg) : State → OpRes := underVt (.vlog2Slot d a) fun t r => opVlog2 t r d a 0

/-- Slot `VSIN` (R233). -/
def opVsinSlot (d a : VReg) : State → OpRes := underVt (.vsinSlot d a) fun t r => opVsin t r d a 0

/-- Slot `VRINT` (R233). -/
def opVrintSlot (d a : VReg) : State → OpRes := underVt (.vrintSlot d a) fun t r => opVrint t r d a 0

/-- Slot `VTLU` (R233). -/
def opVtluSlot (d a b : VReg) : State → OpRes := underVt (.vtluSlot d a b) fun t r => opVtlu t r d a b 0

/-- Slot `VCMP.EQ` (R233). -/
def opVcmpEqSlot (d : MReg) (a b : VReg) : State → OpRes := underVt (.vcmpEqSlot d a b) fun t _ => opVcmp .eq t d a b 0

/-- Slot `VCMP.NE` (R233). -/
def opVcmpNeSlot (d : MReg) (a b : VReg) : State → OpRes := underVt (.vcmpNeSlot d a b) fun t _ => opVcmp .ne t d a b 0

/-- Slot `VCMP.LT` (R233). -/
def opVcmpLtSlot (d : MReg) (a b : VReg) : State → OpRes := underVt (.vcmpLtSlot d a b) fun t _ => opVcmp .lt t d a b 0

/-- Slot `VCMP.LE` (R233). -/
def opVcmpLeSlot (d : MReg) (a b : VReg) : State → OpRes := underVt (.vcmpLeSlot d a b) fun t _ => opVcmp .le t d a b 0

/-- Slot `VCVT` (R233): from `%vt`.type to `%vt`.ctype with part 0. -/
def opVcvtSlot (d a b : VReg) (s : State) : OpRes :=
  underVt (.vcvtSlot d a b) (fun t r => opVcvt (vtCty s.core) t r d a b 0 0) s

/-! ### Each as a group of its own -/

/-- `VNOP` as a group of its own (R169). -/
def execVnop (s : State) : Host.Outcome State Fault Refusal :=
  issueAlone (.slot .vnop) opVnop s

/-- `VMOV` as a group of its own (R169). -/
def execVmov (d : VReg) (a : VReg) (s : State) : Host.Outcome State Fault Refusal :=
  issueAlone (.slot (.vmov d a)) (opVmov d a) s

/-- `VADD_SLOT` as a group of its own (R169). -/
def execVaddSlot (d : VReg) (a : VReg) (b : VReg) (s : State) : Host.Outcome State Fault Refusal :=
  issueAlone (.slot (.vaddSlot d a b)) (opVaddSlot d a b) s

/-- `VSUB_SLOT` as a group of its own (R169). -/
def execVsubSlot (d : VReg) (a : VReg) (b : VReg) (s : State) : Host.Outcome State Fault Refusal :=
  issueAlone (.slot (.vsubSlot d a b)) (opVsubSlot d a b) s

/-- `VMUL_SLOT` as a group of its own (R169). -/
def execVmulSlot (d : VReg) (a : VReg) (b : VReg) (s : State) : Host.Outcome State Fault Refusal :=
  issueAlone (.slot (.vmulSlot d a b)) (opVmulSlot d a b) s

/-- `VFMA_SLOT` as a group of its own (R169). -/
def execVfmaSlot (d : VReg) (a : VReg) (b : VReg) (s : State) : Host.Outcome State Fault Refusal :=
  issueAlone (.slot (.vfmaSlot d a b)) (opVfmaSlot d a b) s

/-- `VFMS_SLOT` as a group of its own (R169). -/
def execVfmsSlot (d : VReg) (a : VReg) (b : VReg) (s : State) : Host.Outcome State Fault Refusal :=
  issueAlone (.slot (.vfmsSlot d a b)) (opVfmsSlot d a b) s

/-- `VMIN_SLOT` as a group of its own (R169). -/
def execVminSlot (d : VReg) (a : VReg) (b : VReg) (s : State) : Host.Outcome State Fault Refusal :=
  issueAlone (.slot (.vminSlot d a b)) (opVminSlot d a b) s

/-- `VMAX_SLOT` as a group of its own (R169). -/
def execVmaxSlot (d : VReg) (a : VReg) (b : VReg) (s : State) : Host.Outcome State Fault Refusal :=
  issueAlone (.slot (.vmaxSlot d a b)) (opVmaxSlot d a b) s

/-- `VAND_SLOT` as a group of its own (R169). -/
def execVandSlot (d : VReg) (a : VReg) (b : VReg) (s : State) : Host.Outcome State Fault Refusal :=
  issueAlone (.slot (.vandSlot d a b)) (opVandSlot d a b) s

/-- `VOR_SLOT` as a group of its own (R169). -/
def execVorSlot (d : VReg) (a : VReg) (b : VReg) (s : State) : Host.Outcome State Fault Refusal :=
  issueAlone (.slot (.vorSlot d a b)) (opVorSlot d a b) s

/-- `VXOR_SLOT` as a group of its own (R169). -/
def execVxorSlot (d : VReg) (a : VReg) (b : VReg) (s : State) : Host.Outcome State Fault Refusal :=
  issueAlone (.slot (.vxorSlot d a b)) (opVxorSlot d a b) s

/-- `VANDN_SLOT` as a group of its own (R169). -/
def execVandnSlot (d : VReg) (a : VReg) (b : VReg) (s : State) : Host.Outcome State Fault Refusal :=
  issueAlone (.slot (.vandnSlot d a b)) (opVandnSlot d a b) s

/-- `VSHL_SLOT` as a group of its own (R169). -/
def execVshlSlot (d : VReg) (a : VReg) (b : VReg) (s : State) : Host.Outcome State Fault Refusal :=
  issueAlone (.slot (.vshlSlot d a b)) (opVshlSlot d a b) s

/-- `VSHR_SLOT` as a group of its own (R169). -/
def execVshrSlot (d : VReg) (a : VReg) (b : VReg) (s : State) : Host.Outcome State Fault Refusal :=
  issueAlone (.slot (.vshrSlot d a b)) (opVshrSlot d a b) s

/-- `VSRA_SLOT` as a group of its own (R169). -/
def execVsraSlot (d : VReg) (a : VReg) (b : VReg) (s : State) : Host.Outcome State Fault Refusal :=
  issueAlone (.slot (.vsraSlot d a b)) (opVsraSlot d a b) s

/-- `VADDS_SLOT` as a group of its own (R169). -/
def execVaddsSlot (d : VReg) (a : VReg) (b : VReg) (s : State) : Host.Outcome State Fault Refusal :=
  issueAlone (.slot (.vaddsSlot d a b)) (opVaddsSlot d a b) s

/-- `VSUBS_SLOT` as a group of its own (R169). -/
def execVsubsSlot (d : VReg) (a : VReg) (b : VReg) (s : State) : Host.Outcome State Fault Refusal :=
  issueAlone (.slot (.vsubsSlot d a b)) (opVsubsSlot d a b) s

/-- `VPERM_SLOT` as a group of its own (R169). -/
def execVpermSlot (d : VReg) (a : VReg) (b : VReg) (s : State) : Host.Outcome State Fault Refusal :=
  issueAlone (.slot (.vpermSlot d a b)) (opVpermSlot d a b) s

/-- `VSLDU_SLOT` as a group of its own (R169). -/
def execVslduSlot (d : VReg) (a : VReg) (b : VReg) (s : State) : Host.Outcome State Fault Refusal :=
  issueAlone (.slot (.vslduSlot d a b)) (opVslduSlot d a b) s

/-- `VSLDD_SLOT` as a group of its own (R169). -/
def execVslddSlot (d : VReg) (a : VReg) (b : VReg) (s : State) : Host.Outcome State Fault Refusal :=
  issueAlone (.slot (.vslddSlot d a b)) (opVslddSlot d a b) s

/-- `VABS_SLOT` as a group of its own (R169). -/
def execVabsSlot (d : VReg) (a : VReg) (s : State) : Host.Outcome State Fault Refusal :=
  issueAlone (.slot (.vabsSlot d a)) (opVabsSlot d a) s

/-- `VNEG_SLOT` as a group of its own (R169). -/
def execVnegSlot (d : VReg) (a : VReg) (s : State) : Host.Outcome State Fault Refusal :=
  issueAlone (.slot (.vnegSlot d a)) (opVnegSlot d a) s

/-- `VRCP_SLOT` as a group of its own (R169). -/
def execVrcpSlot (d : VReg) (a : VReg) (s : State) : Host.Outcome State Fault Refusal :=
  issueAlone (.slot (.vrcpSlot d a)) (opVrcpSlot d a) s

/-- `VRSQ_SLOT` as a group of its own (R169). -/
def execVrsqSlot (d : VReg) (a : VReg) (s : State) : Host.Outcome State Fault Refusal :=
  issueAlone (.slot (.vrsqSlot d a)) (opVrsqSlot d a) s

/-- `VEXP2_SLOT` as a group of its own (R169). -/
def execVexp2Slot (d : VReg) (a : VReg) (s : State) : Host.Outcome State Fault Refusal :=
  issueAlone (.slot (.vexp2Slot d a)) (opVexp2Slot d a) s

/-- `VLOG2_SLOT` as a group of its own (R169). -/
def execVlog2Slot (d : VReg) (a : VReg) (s : State) : Host.Outcome State Fault Refusal :=
  issueAlone (.slot (.vlog2Slot d a)) (opVlog2Slot d a) s

/-- `VSIN_SLOT` as a group of its own (R169). -/
def execVsinSlot (d : VReg) (a : VReg) (s : State) : Host.Outcome State Fault Refusal :=
  issueAlone (.slot (.vsinSlot d a)) (opVsinSlot d a) s

/-- `VRINT_SLOT` as a group of its own (R169). -/
def execVrintSlot (d : VReg) (a : VReg) (s : State) : Host.Outcome State Fault Refusal :=
  issueAlone (.slot (.vrintSlot d a)) (opVrintSlot d a) s

/-- `VTLU_SLOT` as a group of its own (R169). -/
def execVtluSlot (d : VReg) (a : VReg) (b : VReg) (s : State) : Host.Outcome State Fault Refusal :=
  issueAlone (.slot (.vtluSlot d a b)) (opVtluSlot d a b) s

/-- `VCMP_EQ_SLOT` as a group of its own (R169). -/
def execVcmpEqSlot (d : MReg) (a : VReg) (b : VReg) (s : State) : Host.Outcome State Fault Refusal :=
  issueAlone (.slot (.vcmpEqSlot d a b)) (opVcmpEqSlot d a b) s

/-- `VCMP_NE_SLOT` as a group of its own (R169). -/
def execVcmpNeSlot (d : MReg) (a : VReg) (b : VReg) (s : State) : Host.Outcome State Fault Refusal :=
  issueAlone (.slot (.vcmpNeSlot d a b)) (opVcmpNeSlot d a b) s

/-- `VCMP_LT_SLOT` as a group of its own (R169). -/
def execVcmpLtSlot (d : MReg) (a : VReg) (b : VReg) (s : State) : Host.Outcome State Fault Refusal :=
  issueAlone (.slot (.vcmpLtSlot d a b)) (opVcmpLtSlot d a b) s

/-- `VCMP_LE_SLOT` as a group of its own (R169). -/
def execVcmpLeSlot (d : MReg) (a : VReg) (b : VReg) (s : State) : Host.Outcome State Fault Refusal :=
  issueAlone (.slot (.vcmpLeSlot d a b)) (opVcmpLeSlot d a b) s

/-- `VCVT_SLOT` as a group of its own (R169). -/
def execVcvtSlot (d : VReg) (a : VReg) (b : VReg) (s : State) : Host.Outcome State Fault Refusal :=
  issueAlone (.slot (.vcvtSlot d a b)) (opVcvtSlot d a b) s

end Sys2Proof.Machine
end

