-- ==== Sys2Proof/Machine/Run.lean ====
section
/-!
DEFINITION. What each operation of a decoded group does at issue.
-/

namespace Sys2Proof.Machine

open Sys2Proof

/-- Solo and double words. -/
def runSolo : SoloOp → State → OpRes
  | .add d a b => opAdd d a b
  | .sub d a b => opSub d a b
  | .mul d a b => opMul d a b
  | .mulh d a b => opMulh d a b
  | .mulhu d a b => opMulhu d a b
  | .div d a b => opDiv d a b
  | .divu d a b => opDivu d a b
  | .rem d a b => opRem d a b
  | .remu d a b => opRemu d a b
  | .and d a b => opAnd d a b
  | .or d a b => opOr d a b
  | .xor d a b => opXor d a b
  | .andn d a b => opAndn d a b
  | .shl d a b => opShl d a b
  | .shr d a b => opShr d a b
  | .sra d a b => opSra d a b
  | .rol d a b => opRol d a b
  | .ror d a b => opRor d a b
  | .min d a b => opMin d a b
  | .max d a b => opMax d a b
  | .minu d a b => opMinu d a b
  | .maxu d a b => opMaxu d a b
  | .adds d a b => opAdds d a b
  | .subs d a b => opSubs d a b
  | .addi d a imm => opAddi d a imm
  | .andi d a imm => opAndi d a imm
  | .ori d a imm => opOri d a imm
  | .xori d a imm => opXori d a imm
  | .shli d a imm => opShli d a imm
  | .shri d a imm => opShri d a imm
  | .srai d a imm => opSrai d a imm
  | .rori d a imm => opRori d a imm
  | .clz d a => opClz d a
  | .ctz d a => opCtz d a
  | .popc d a => opPopc d a
  | .brev d a => opBrev d a
  | .bswap d a => opBswap d a
  | .bilv2 d a b => opBilv2 d a b
  | .bilv3 d a b c => opBilv3 d a b c
  | .bdil2 d a k => opBdil2 d a k
  | .bdil3 d a k => opBdil3 d a k
  | .ext d a pos len => opExt d a pos len
  | .extz d a pos len => opExtz d a pos len
  | .ins d a pos len => opIns d a pos len
  | .sel d a b p => opSel d a b p
  | .fadd t r d a b => opFadd t r d a b
  | .fsub t r d a b => opFsub t r d a b
  | .fmul t r d a b => opFmul t r d a b
  | .fdiv t r d a b => opFdiv t r d a b
  | .fsqrt t r d a => opFsqrt t r d a
  | .fma t r d a b c => opFma t r d a b c
  | .fmin t d a b => opFmin t d a b
  | .fmax t d a b => opFmax t d a b
  | .fcvt td ta r d a => opFcvt td ta r d a
  | .fcvti td ta r d a => opFcvti td ta r d a
  | .icvtf td ta r d a => opIcvtf td ta r d a
  | .fclass t d a => opFclass t d a
  | .fcmp c t p a b => opFcmp c t p a b
  | .cmp c p a b => opCmp c p a b
  | .cmpi c p a imm => opCmpi c p a imm
  | .pand d a b => opPand d a b
  | .por d a b => opPor d a b
  | .pxor d a b => opPxor d a b
  | .pandn d a b => opPandn d a b
  | .mfp d => opMfp d
  | .mtp a b => opMtp a b
  | .mfs d sr => opMfs d sr
  | .mts sr a => opMts sr a
  | .cld d a idx => opCld d a idx
  | .cder d a b c mask => opCder d a b c mask
  | .crst d a mask => opCrst d a mask
  | .cnull d => opCnull d
  | .ld t o sc d c a off => opLd t o sc d c a off
  | .st t o sc c a off d => opSt t o sc c a off d
  | .ldx t d a b off => opLdx t d a b off
  | .stx t a b off d => opStx t a b off d
  | .prept b off => opPrept b off
  | .br b hint => opBr b hint
  | .call b l hint => opCall b l hint
  | .ret b => opRet b
  | .loop a off => opLoop a off
  | .loopm mb off => opLoopm mb off
  | .loopmK mb off => opLoopmK mb off
  | .trap x => opTrap x
  | .eret => opEret
  | .sysc x => opSysc x
  | .safept map => opSafept map
  | .wfe x => opWfe x
  | .brk x => opBrk x
  | .halt => opHalt
  | .rvinit pt a => opRvinit pt a
  | .rvarrive pt em d => opRvarrive pt em d
  | .rvwait pt a d => opRvwait pt a d
  | .rvarw pt em d => opRvarw pt em d
  | .rvleave pt => opRvleave pt
  | .rvleaveAll => opRvleaveAll
  | .sigadd t o sc d c a b off => opSigadd t o sc d c a b off
  | .sigset t o sc d c a b off => opSigset t o sc d c a b off
  | .sigwait t o sc d c a b off => opSigwait t o sc d c a b off
  | .amoAdd t o sc d c a b off => opAmoAdd t o sc d c a b off
  | .amoMin t o sc d c a b off => opAmoMin t o sc d c a b off
  | .amoMax t o sc d c a b off => opAmoMax t o sc d c a b off
  | .amoAnd t o sc d c a b off => opAmoAnd t o sc d c a b off
  | .amoOr t o sc d c a b off => opAmoOr t o sc d c a b off
  | .amoXor t o sc d c a b off => opAmoXor t o sc d c a b off
  | .amoXchg t o sc d c a b off => opAmoXchg t o sc d c a b off
  | .amoCas t o sc d c a b off => opAmoCas t o sc d c a b off
  | .amoCas2 t o sc d c a b off => opAmoCas2 t o sc d c a b off
  | .redAdd t o sc c a b off => opRedAdd t o sc c a b off
  | .redMin t o sc c a b off => opRedMin t o sc c a b off
  | .redMax t o sc c a b off => opRedMax t o sc c a b off
  | .redAnd t o sc c a b off => opRedAnd t o sc c a b off
  | .redOr t o sc c a b off => opRedOr t o sc c a b off
  | .redXor t o sc c a b off => opRedXor t o sc c a b off
  | .fence o sc => opFence o sc
  | .snap d c p => opSnap d c p
  | .snapNw d c p => opSnapNw d c p
  | .snapq d c a => opSnapq d c a
  | .vadd t r d a b m => opVadd t r d a b m
  | .vadds t d a b m => opVadds t d a b m
  | .vsub t r d a b m => opVsub t r d a b m
  | .vsubs t d a b m => opVsubs t d a b m
  | .vmul t r d a b m => opVmul t r d a b m
  | .vfma t r d a b m => opVfma t r d a b m
  | .vfms t r d a b m => opVfms t r d a b m
  | .vmin t d a b m => opVmin t d a b m
  | .vmax t d a b m => opVmax t d a b m
  | .vabs t d a m => opVabs t d a m
  | .vneg t d a m => opVneg t d a m
  | .vand t d a b m => opVand t d a b m
  | .vor t d a b m => opVor t d a b m
  | .vxor t d a b m => opVxor t d a b m
  | .vandn t d a b m => opVandn t d a b m
  | .vshl t d a b m => opVshl t d a b m
  | .vshr t d a b m => opVshr t d a b m
  | .vsra t d a b m => opVsra t d a b m
  | .vcmp c t d a b m => opVcmp c t d a b m
  | .vsel t d a b m => opVsel t d a b m
  | .vcvt td ts r d a b k m => opVcvt td ts r d a b k m
  | .vpk4 ts r d a b k m => opVpk4 ts r d a b k m
  | .vupk4 td r d a k m => opVupk4 td r d a k m
  | .vrcp t r d a m => opVrcp t r d a m
  | .vrsq t r d a m => opVrsq t r d a m
  | .vexp2 t r d a m => opVexp2 t r d a m
  | .vlog2 t r d a m => opVlog2 t r d a m
  | .vsin t r d a m => opVsin t r d a m
  | .vtlu t r d a o m => opVtlu t r d a o m
  | .vrint t r d a m => opVrint t r d a m
  | .vsett t r ct e => opVsett t r ct e
  | .vbcst t d a m => opVbcst t d a m
  | .vext t d a b => opVext t d a b
  | .vins t d a b => opVins t d a b
  | .vperm t d a b m => opVperm t d a b m
  | .vsldu t d a b k m => opVsldu t d a b k m
  | .vsldd t d a b k m => opVsldd t d a b k m
  | .vcmpr t d a m => opVcmpr t d a m
  | .vxpnd t d a m => opVxpnd t d a m
  | .viota t d m => opViota t d m
  | .vredSum t d a m => opVredSum t d a m
  | .vredMin t d a m => opVredMin t d a m
  | .vredMax t d a m => opVredMax t d a m
  | .vredAnd t d a m => opVredAnd t d a m
  | .vredOr t d a m => opVredOr t d a m
  | .vredXor t d a m => opVredXor t d a m
  | .vredSums t d a m => opVredSums t d a m
  | .vany t d a m => opVany t d a m
  | .vall t d a m => opVall t d a m
  | .vmpop t d a m => opVmpop t d a m
  | .mlogAnd d a b => opMlogAnd d a b
  | .mlogOr d a b => opMlogOr d a b
  | .mlogXor d a b => opMlogXor d a b
  | .mlogAndn d a b => opMlogAndn d a b
  | .mlogNot d a => opMlogNot d a
  | .vld t d a off m => opVld t d a off m
  | .vst t a off v m => opVst t a off v m
  | .vstB t a off v m k => opVstB t a off v m k
  | .mldst nb ga gb sx sy st0 st1 ts stage => opMldst nb ga gb sx sy st0 st1 ts stage
  | .mswap nb ts stage => opMswap nb ts stage
  | .mzero nb ga sy ts stage => opMzero nb ga sy ts stage
  | .mstream nb ga gb gc sx sy st0 st2 ts stage => opMstream nb ga gb gc sx sy st0 st2 ts stage
  | .mdrain nb ga gb gc sx sy st1 ts stage => opMdrain nb ga gb gc sx sy st1 ts stage
  | .mepi nb ga sx sy ts stage => opMepi nb ga sx sy ts stage
  | .smap nb ga gb gc gx sx sy st0 st1 st2 stage => opSmap nb ga gb gc gx sx sy st0 st1 st2 stage
  | .sred nb ga gb sx sy st0 stage => opSred nb ga gb sx sy st0 stage
  | .xpose nb ga gb sx sy st0 st1 stage => opXpose nb ga gb sx sy st0 st1 stage
  | .copy nb ga gb sx sy sz sw ord stage => opCopy nb ga gb sx sy sz sw ord stage
  | .gather nb ga gb gc sx sy sz sw ord stage => opGather nb ga gb gc sx sy sz sw ord stage
  | .scatter nb ga gb gc sx sy sz sw ord stage => opScatter nb ga gb gc sx sy sz sw ord stage
  | .subscr nb ga gb sx sy sz stage => opSubscr nb ga gb sx sy sz stage
  | .ringpop nb ga sx stage => opRingpop nb ga sx stage
  | .ringpush nb ga sx stage => opRingpush nb ga sx stage
  | .coll nb ga gb sx sy sz ord stage => opColl nb ga gb sx sy sz ord stage
  | .postm nb ga sx sy => opPostm nb ga sx sy
  | .postr nb ga sx sy sr ord => opPostr nb ga sx sy sr ord
  | .bundle => opBundle
  | .bend => opBend
  | .guard nb k ga gb gc gd ge gf => opGuard nb k ga gb gc gd ge gf
  | .gcheck => opGcheck
  | .gexact => opGexact
  | .gend => opGend
  | .tstart nb ga => opTstart nb ga
  | .rgld o sc d c a b off => opRgld o sc d c a b off
  | .twait em => opTwait em
  | .li d x => opLi d x
  | .addl d a x => opAddl d a x
  | .andl d a x => opAndl d a x
  | .orl d a x => opOrl d a x
  | .xorl d a x => opXorl d a x
  | .cmpl c p a x => opCmpl c p a x
  | .ldl t o sc d c a x => opLdl t o sc d c a x
  | .stl t o sc c a x d => opStl t o sc c a x d
  | .rgset d x => opRgset d x
  | .vli d x => opVli d x

/-- The slots of a pair word. -/
def runSlot : SlotOp → State → OpRes
  | .snop => opSnop
  | .addSlot d a b => opAddSlot d a b
  | .subSlot d a b => opSubSlot d a b
  | .andSlot d a b => opAndSlot d a b
  | .orSlot d a b => opOrSlot d a b
  | .xorSlot d a b => opXorSlot d a b
  | .andnSlot d a b => opAndnSlot d a b
  | .shlSlot d a b => opShlSlot d a b
  | .shrSlot d a b => opShrSlot d a b
  | .sraSlot d a b => opSraSlot d a b
  | .minSlot d a b => opMinSlot d a b
  | .maxSlot d a b => opMaxSlot d a b
  | .minuSlot d a b => opMinuSlot d a b
  | .maxuSlot d a b => opMaxuSlot d a b
  | .mulSlot d a b => opMulSlot d a b
  | .addiSlot d a imm => opAddiSlot d a imm
  | .shliSlot d a imm => opShliSlot d a imm
  | .shriSlot d a imm => opShriSlot d a imm
  | .sraiSlot d a imm => opSraiSlot d a imm
  | .cmpEqSlot p a b => opCmpEqSlot p a b
  | .cmpNeSlot p a b => opCmpNeSlot p a b
  | .cmpLtSlot p a b => opCmpLtSlot p a b
  | .cmpLtuSlot p a b => opCmpLtuSlot p a b
  | .cmpGeSlot p a b => opCmpGeSlot p a b
  | .cmpGeuSlot p a b => opCmpGeuSlot p a b
  | .cmpiEqSlot p a imm => opCmpiEqSlot p a imm
  | .pandSlot d a b => opPandSlot d a b
  | .porSlot d a b => opPorSlot d a b
  | .pxorSlot d a b => opPxorSlot d a b
  | .pandnSlot d a b => opPandnSlot d a b
  | .vnop => opVnop
  | .vmov d a => opVmov d a
  | .vaddSlot d a b => opVaddSlot d a b
  | .vsubSlot d a b => opVsubSlot d a b
  | .vmulSlot d a b => opVmulSlot d a b
  | .vfmaSlot d a b => opVfmaSlot d a b
  | .vfmsSlot d a b => opVfmsSlot d a b
  | .vminSlot d a b => opVminSlot d a b
  | .vmaxSlot d a b => opVmaxSlot d a b
  | .vabsSlot d a => opVabsSlot d a
  | .vnegSlot d a => opVnegSlot d a
  | .vandSlot d a b => opVandSlot d a b
  | .vorSlot d a b => opVorSlot d a b
  | .vxorSlot d a b => opVxorSlot d a b
  | .vandnSlot d a b => opVandnSlot d a b
  | .vshlSlot d a b => opVshlSlot d a b
  | .vshrSlot d a b => opVshrSlot d a b
  | .vsraSlot d a b => opVsraSlot d a b
  | .vrcpSlot d a => opVrcpSlot d a
  | .vrsqSlot d a => opVrsqSlot d a
  | .vexp2Slot d a => opVexp2Slot d a
  | .vlog2Slot d a => opVlog2Slot d a
  | .vsinSlot d a => opVsinSlot d a
  | .vrintSlot d a => opVrintSlot d a
  | .vcmpEqSlot d a b => opVcmpEqSlot d a b
  | .vcmpNeSlot d a b => opVcmpNeSlot d a b
  | .vcmpLtSlot d a b => opVcmpLtSlot d a b
  | .vcmpLeSlot d a b => opVcmpLeSlot d a b
  | .vslduSlot d a b => opVslduSlot d a b
  | .vslddSlot d a b => opVslddSlot d a b
  | .vpermSlot d a b => opVpermSlot d a b
  | .vtluSlot d a b => opVtluSlot d a b
  | .vcvtSlot d a b => opVcvtSlot d a b
  | .vaddsSlot d a b => opVaddsSlot d a b
  | .vsubsSlot d a b => opVsubsSlot d a b

/-- Any operation. -/
def runOp : Op → State → OpRes
  | .solo o => runSolo o
  | .slot o => runSlot o

end Sys2Proof.Machine
end

