-- ==== Sys2Proof/Machine/Group.lean ====
section
/-!
DEFINITION. The issue of a group (R156 to R159, R167 to R170, R174, R183): its words fetched, decoded and checked, its
operations run as one, and what follows for the thread.
-/

namespace Sys2Proof.Machine

open Sys2Proof.Bits

/-! ### The instructions of a group -/

/-- An instruction of a group: the word it begins with and what the word says. -/
structure GInstr where
  word : Nat
  dec : Decode.Decoded
  deriving DecidableEq, Repr

/-- A breach of an encoding rule: its reason and the earliest word (R174). -/
structure Breach where
  reason : BitVec 8
  word : Nat
  deriving DecidableEq, Repr

namespace Breach

/-- The lower reason, then the earlier word (R174). -/
def worse (a b : Breach) : Breach :=
  if b.reason < a.reason ∨ (b.reason = a.reason ∧ b.word < a.word) then b else a

/-- The breach that is reported. -/
def reported : List Breach → Option Breach
  | [] => none
  | b :: r => some (r.foldl worse b)

end Breach

/-- The words of a group cut into instructions: number, word and extension. A group that does not end with its words,
or whose last word begins a double word, is too long (R167). -/
def cutWords : Nat → List Nat → Except Breach (List (Nat × Nat × Option Nat))
  | _, [] => .error ⟨0x01, 3⟩
  | k, w :: r =>
    let last := w / 2 ^ 63 % 2 = 1
    if Decode.isDouble w then
      match r with
      | [] => .error ⟨0x01, 3⟩
      | e :: r' => if last then .ok [(k, w, some e)] else (cutWords (k + 2) r').map ((k, w, some e) :: ·)
    else if last then .ok [(k, w, none)]
    else (cutWords (k + 1) r).map ((k, w, none) :: ·)

/-- An instruction decoded, with its breach where it breaks an encoding rule. A scalar `.RSR` is still looked at for its
class and registers, its reason being the highest (R174): its rounding field is read as zero. -/
def readInstr (x : Nat × Nat × Option Nat) : Option GInstr × Option Breach :=
  match Decode.decodeWord x.2.1 x.2.2 with
  | .ok d => (some ⟨x.1, d⟩, none)
  | .error e =>
    let b : Breach := ⟨e.reason, x.1⟩
    if e = .stochastic then
      match Decode.decodeWord (x.2.1 - x.2.1 / 2 ^ 8 % 8 * 2 ^ 8) x.2.2 with
      | .ok d => (some ⟨x.1, d⟩, some b)
      | .error _ => (none, some b)
    else (none, some b)

/-- The guard predicate as a source (R159, R168). -/
def GInstr.guardReads (i : GInstr) : List RegName := nP i.dec.guard

/-- The guard's value (R159). -/
def GInstr.holds (c : Core) (i : GInstr) : Bool := xor (c.rp i.dec.guard) i.dec.inverted

/-- The operations of a group with their words and effects, in order. -/
def groupOps (vt : Word) (is : List GInstr) : List (GInstr × Op × Effects) :=
  is.flatMap fun i => i.dec.ops.map fun o => (i, o, opEffects vt o)

/-- Operations of a class beyond a number (R167). -/
def tooMany (cls : Cls) (n : Nat) (os : List (GInstr × Op × Effects)) : List Breach :=
  ((os.filter fun x => x.2.2.cls == cls).drop n).map fun x => ⟨0x08, x.1.word⟩

/-- C operations that are not the last instruction (R167). -/
def misplacedC (os : List (GInstr × Op × Effects)) : List Breach :=
  os.dropLast.filterMap fun x => if x.2.2.cls = .C then some ⟨0x09, x.1.word⟩ else none

/-- Y operations in a group of more than one instruction (R167). -/
def crowdedY (is : List GInstr) (os : List (GInstr × Op × Effects)) : List Breach :=
  if is.length ≤ 1 then [] else os.filterMap fun x => if x.2.2.cls = .Y then some ⟨0x0A, x.1.word⟩ else none

/-- C and Y operations in a delay group (R170). -/
def badDelays (c : Core) (os : List (GInstr × Op × Effects)) : List Breach :=
  if c.pend = 0 then [] else os.filterMap fun x => if x.2.2.cls = .C ∨ x.2.2.cls = .Y then some ⟨0x0B, x.1.word⟩ else none

/-- Dependences within a group (R168): an operation reads or writes what an earlier one writes. Two pushes do not
conflict (R235). Every operation of a guarded word reads its guard, a no-op slot too: DEDUCED (log 102). -/
def dependences : List RegName → List (GInstr × Op × Effects) → List Breach
  | _, [] => []
  | written, (i, _, e) :: r =>
    let reads := e.reads ++ i.guardReads
    (if reads.any written.contains || (e.writes.filter (· != .y)).any written.contains then [⟨0x0C, i.word⟩] else [])
      ++ dependences (written ++ e.writes) r

/-- Slot operations under a `%vt` whose types they do not take (R233). -/
def slotTypes (c : Core) (os : List (GInstr × Op × Effects)) : List Breach :=
  os.filterMap fun x => match x.2.1 with
    | .slot o => if slotTypeOk c o then none else some ⟨0x07, x.1.word⟩
    | .solo _ => none

/-- The instructions of a group that has been fetched, or the breach it is trapped for (R174). -/
def readGroup (c : Core) (ws : List Nat) : Except Breach (List GInstr) :=
  match cutWords 0 ws with
  | .error b => .error b
  | .ok xs =>
    let rs := xs.map readInstr
    let is := rs.filterMap Prod.fst
    let os := groupOps c.sp.vt is
    let bs := rs.filterMap Prod.snd ++ slotTypes c os ++ tooMany .M 2 os ++ tooMany .E 1 os ++ misplacedC os ++ crowdedY is os
      ++ badDelays c os ++ dependences [] os
    match Breach.reported bs with
    | some b => .error b
    | none => .ok is

/-! ### Its operations run as one -/

/-- The operation at hand and its word, for faults and for offsets. -/
def atWord (k : Nat) (s : State) : State := s.on fun c => { c with grp := { c.grp with word := k } }

/-- A trap names its word (R169, R428). -/
def named (k : Nat) (t : Trap) : Trap := { t with word := BitVec.ofNat 2 k }

/-- What running operations in word order comes to: the state, whether one waits, and the first trap with its word. -/
structure Ran where
  state : State
  waits : Bool
  fault : Option (Nat × Trap × State)

/-- Every operation but the post, in word order (R169, R256): checks go on past one that waits, to find a trap. -/
def runOthers (s0 : State) : List (Nat × Op) → State → Bool → Ran
  | [], s, w => ⟨s, w, none⟩
  | (k, o) :: r, s, w =>
    match runOp o (atWord k s) with
    | .ok s1 => runOthers s0 r s1 w
    | .stall _ => runOthers s0 r s true
    | .trap t _ =>
      -- a bound trap leaves the breach bit of its register, which `%einfo` names (R257, R480); nothing else of the group stands
      let s2 := if t.cause = 0x0F then s0.on fun c => c.setBrk t.info.toNat else s0
      ⟨s, w, some (k, named k t, s2)⟩

/-- Registers of a core overlaid with those that an operation writes, as another core has them. -/
def overlay (ws : List RegName) (c d : Core) : Core :=
  ws.foldl (fun c r => match r with
    | .s n => { c with regs := { c.regs with s := SMap.put 0 c.regs.s n (SMap.get 0 d.regs.s n) } }
    | .p n => { c with regs := { c.regs with p := setBit c.regs.p n (d.regs.p.getLsbD n) } }
    | _ => c) c

/-- The post of a group runs last, on the registers as the group began (R169, R256). -/
def postView (c0 c1 : Core) : Core := { c1 with regs := c0.regs, sp := { c1.sp with rnge := c0.sp.rnge } }

/-- What the post leaves joined with what the other operations left. -/
def joinPost (e : Effects) (c1 c2 : Core) : Core :=
  overlay e.writes { c2 with regs := c1.regs, sp := { c2.sp with rnge := c1.sp.rnge } } c2

/-- What stands of a post that trapped or waits part of the way (R296, R297): its records, its cursor and its wait, on
the state before the group. -/
def partPost (e : Effects) (s0 s2 : State) : State :=
  let d := s2.core
  { s0 with freeCtr := s2.freeCtr }.on fun c =>
    overlay e.writes { c with board := d.board, eng := { c.eng with rings := d.eng.rings, nextId := d.eng.nextId }
                              stamp := d.stamp, wait := d.wait } d

/-- An operation that takes an entry of the combining buffer (R380). -/
def takesEntry : Op → Bool
  | .solo (.redAdd ..) | .solo (.redMin ..) | .solo (.redMax ..) | .solo (.redAnd ..) | .solo (.redOr ..) | .solo (.redXor ..) => true
  | _ => false

/-- The oldest buffered reduction starts its flush where a `RED` finds the buffer full (R380), though its group waits. -/
def flushFull (os : List (Nat × Op × Effects)) (s : State) : State :=
  if os.any (fun x => takesEntry x.2.1) ∧ 64 ≤ (s.core.reds.filter fun r => !r.sent).length then s.on flushOldest else s

/-- The issue check of a post, apart from the records that `POSTM` comes to as it runs (R169, R296). -/
def postCheck (o : Op) (s : State) : Option Trap :=
  match o with
  | .solo (.postm _ ga _ _) =>
    match recordArea s.core (s.ownLid (s.tenantOf s.cur)) ga with | .error t => some t | .ok _ => none
  | _ => match runOp o s with | .trap t _ => some t | _ => none

/-- The operations of a group of more than one, guards already looked at. `s` is the state as the group begins; `idle` is
the word of a transfer or loop that may not stand there though its guard is false (R218). -/
def runGroup (idle : Option Nat) (os : List (Nat × Op × Effects)) (s : State) : OpRes :=
  let others := (os.filter fun x => x.2.2.cls != .E).map fun x => (x.1, x.2.1)
  let post := os.find? fun x => x.2.2.cls == .E
  let r := runOthers s others s false
  let late : Option (Nat × Trap × State) := idle.map fun k => (k, .precise 0x09 0x04 0, s)
  match r.fault.orElse fun _ => late.map fun x => (x.1, named x.1 x.2.1, x.2.2) with
  | some (k, t, s1) =>
    match post with
    | some (j, o, _) =>
      match (if j < k then postCheck o (atWord j s) else none) with
      | some t' => .trap (named j t') s
      | none => .trap t s1
    | none => .trap t s1
  | none =>
    match post with
    | none => if r.waits then .stall (flushFull os s) else .ok r.state
    | some (j, o, e) =>
      if r.waits then
        match postCheck o (atWord j s) with
        | some t => .trap (named j t) s
        | none => .stall (flushFull os s)
      else
        let c1 := r.state.core
        match runOp o (atWord j (r.state.on (postView s.core))) with
        | .ok s2 => .ok (s2.on (joinPost e c1))
        | .trap t s2 => .trap (named j t) (partPost e s s2)
        | .stall s2 => .stall (partPost e s s2)

/-- What a branch does whose guard is false (R170). -/
def branchNotTaken : Op → Option BReg
  | .solo (.br b _) => some b
  | .solo (.call b _ _) => some b
  | .solo (.ret b) => some b
  | _ => none

/-- The operations of a decoded group that act: a false guard leaves a branch not taken and nothing else (R159). -/
def activeOps (c : Core) (os : List (GInstr × Op × Effects)) : List (Nat × Op × Effects) :=
  os.filterMap fun x =>
    if x.1.holds c ∧ x.2.1 ≠ .slot .snop ∧ x.2.1 ≠ .slot .vnop then some (x.1.word, x.2.1, x.2.2) else none

/-- A transfer or loop whose guard is false, too near the end of a loop body: it is in the wrong place whatever its guard
(R218). -/
def idleNearEnd (c : Core) (os : List (GInstr × Op × Effects)) : Option Nat :=
  (os.find? fun x => !x.1.holds c && x.2.2.cls == .C && c.nearEnd (x.1.word + 1)).map fun x => x.1.word

/-- The branch of a group that is not taken, if it has one. -/
def idleBranch (c : Core) (os : List (GInstr × Op × Effects)) : Option BReg :=
  os.findSome? fun x => if x.1.holds c then none else branchNotTaken x.2.1

/-- Words that the instructions of a group take. -/
def wordsOf (is : List GInstr) : Nat := (is.map fun i => i.dec.words).sum

/-- The instruction of a group that holds one operation and is not under a false guard. -/
def onlyOp (c : Core) (is : List GInstr) : Option Op :=
  match is with
  | [i] => if i.holds c then Decode.single i.dec.ops else none
  | _ => none

/-- A decoded group issued. A group of one operation is that instruction as it issues alone. -/
def issueGroup (is : List GInstr) (s : State) : Host.Outcome State Fault Refusal :=
  let c := s.core
  match onlyOp c is with
  | some o => issueAlone o (runOp o) s
  | none =>
    let os := groupOps c.sp.vt is
    let es := (os.map fun x => x.2.2) ++ is.map fun i => ⟨.A, 1, i.guardReads, []⟩
    let solitary := os.any fun x => x.2.2.cls == .Y && x.1.holds c
    let w := wordsOf is
    settle w ((beforeIssue es w s).getD
      (let s0 := s.on fun c => c.begin' solitary
       match runGroup (idleNearEnd s0.core os) (activeOps s0.core os) s0 with
       | .ok s1 => match idleBranch s0.core os with
         | some b => notTaken b s1
         | none => .ok s1
       | r => r))

/-! ### The thread between groups -/

/-- Cycles pass on a core: one for the group at hand and those its issue waits (R183, R202), which the manual leaves to
the part. -/
def tick (n : Nat) (s : State) : State :=
  { s with freeCtr := s.freeCtr + 1 }.onCore n fun c =>
    { c with sp := { c.sp with cyc := c.sp.cyc + 1 + Config.stallCycles s.freeCtr } }

namespace Core

/-- A trap stands in the way of the next group: one that waits for its frame's row, or an asynchronous one that may be
delivered (R427, R430, R431). -/
def trapAhead (c : Core) : Bool :=
  c.waitingTrap.isSome || c.asyncTraps.any fun t => !c.awaitsEret t

/-- A forced pre-emption stops the thread at this boundary, before any asynchronous trap (R430, R446): a `POSTM` under way and
a scheduler call end first (R296, R221), and a frozen sequencer is unfrozen first (R437). -/
def forcedHere (c : Core) : Bool :=
  c.preemptForced && c.run == .running && !c.frozen.contains .thread && match c.wait with | .postm .. => false | .sysc _ => false | _ => true

/-- A `WFE` that waits ends, and the thread stands at the next group (R223). -/
def endWfe (c : Core) : Core := match c.wait with | .wfe .. => Core.endGroup 1 { c with wait := .none } | _ => c

/-- The read of a `SIGWAIT` that a handler's return performs again holds the thread, as its group was held (R384, R433). -/
def retriesWait (c : Core) : Bool := match c.wait with | .sigwait _ => false | _ => c.waitOp.isSome

/-- The thread may issue a group: it runs, it is not frozen (R437), no scheduler call is in progress (R221), and no trap
comes first. -/
def mayRun (c : Core) : Bool :=
  c.run == .running && !c.frozen.contains .thread && (match c.wait with | .sysc _ => false | _ => true) && !c.trapAhead && !c.retriesWait

end Core

/-- The group that the thread of a core comes to: fetched, decoded and issued. The words that the instruction cache
does not hold are waited for. -/
def nextGroup (s : State) : Host.Outcome State Fault Refusal :=
  let c := s.core
  match fetchGroup s c 4 0 false false with
  | .wait _ => .next s
  | .fault t => .next (s.raiseTrap s.cur t)
  | .words ws =>
    match readGroup c ws with
    | .error b => .next (s.raiseTrap s.cur (illegalTrap b.reason b.word (c.wordPc b.word)))
    | .ok is => issueGroup is s

/-- The thread of a core at a group boundary. -/
def runThread (n : Nat) (s : State) : Host.Outcome State Fault Refusal :=
  let s1 := { s with cur := n }
  let c := s1.core
  if s.freezing n then .next s
  else if c.forcedHere then .next ((s1.dropAsks n c.trapOp .thread).on fun c => { c.endWfe.dropWait.flushReds with run := .stopped none })
  else if !c.mayRun then .next s
  else nextGroup (tick n s1)

/-- GROUP_ISSUE: a group of core `core` issues (R169). -/
def execGroupIssue (core : Nat) (s : State) : Host.Outcome State Fault Refusal := runThread core s

end Sys2Proof.Machine
end

