-- ==== Sys2Proof/Machine/Digest.lean ====
section
/-!
DEFINITION. The standard functions that R134 to R137 name: SHA-384 (FIPS 180-4) and the verification of an ECDSA signature on the curve
P-384 (FIPS 186-4).
-/

namespace Sys2Proof.Machine

open Sys2Proof.Bits

namespace Sha

/-- The 80 round constants of SHA-384. -/
def consts : List Word :=
  [0x428a2f98d728ae22, 0x7137449123ef65cd, 0xb5c0fbcfec4d3b2f, 0xe9b5dba58189dbbc, 0x3956c25bf348b538, 0x59f111f1b605d019, 0x923f82a4af194f9b, 0xab1c5ed5da6d8118, 0xd807aa98a3030242, 0x12835b0145706fbe] ++
  [0x243185be4ee4b28c, 0x550c7dc3d5ffb4e2, 0x72be5d74f27b896f, 0x80deb1fe3b1696b1, 0x9bdc06a725c71235, 0xc19bf174cf692694, 0xe49b69c19ef14ad2, 0xefbe4786384f25e3, 0x0fc19dc68b8cd5b5, 0x240ca1cc77ac9c65] ++
  [0x2de92c6f592b0275, 0x4a7484aa6ea6e483, 0x5cb0a9dcbd41fbd4, 0x76f988da831153b5, 0x983e5152ee66dfab, 0xa831c66d2db43210, 0xb00327c898fb213f, 0xbf597fc7beef0ee4, 0xc6e00bf33da88fc2, 0xd5a79147930aa725] ++
  [0x06ca6351e003826f, 0x142929670a0e6e70, 0x27b70a8546d22ffc, 0x2e1b21385c26c926, 0x4d2c6dfc5ac42aed, 0x53380d139d95b3df, 0x650a73548baf63de, 0x766a0abb3c77b2a8, 0x81c2c92e47edaee6, 0x92722c851482353b] ++
  [0xa2bfe8a14cf10364, 0xa81a664bbc423001, 0xc24b8b70d0f89791, 0xc76c51a30654be30, 0xd192e819d6ef5218, 0xd69906245565a910, 0xf40e35855771202a, 0x106aa07032bbd1b8, 0x19a4c116b8d2d0c8, 0x1e376c085141ab53] ++
  [0x2748774cdf8eeb99, 0x34b0bcb5e19b48a8, 0x391c0cb3c5c95a63, 0x4ed8aa4ae3418acb, 0x5b9cca4f7763e373, 0x682e6ff3d6b2b8a3, 0x748f82ee5defb2fc, 0x78a5636f43172f60, 0x84c87814a1f0ab72, 0x8cc702081a6439ec] ++
  [0x90befffa23631e28, 0xa4506cebde82bde9, 0xbef9a3f7b2c67915, 0xc67178f2e372532b, 0xca273eceea26619c, 0xd186b8c721c0c207, 0xeada7dd6cde0eb1e, 0xf57d4f7fee6ed178, 0x06f067aa72176fba, 0x0a637dc5a2c898a6] ++
  [0x113f9804bef90dae, 0x1b710b35131c471b, 0x28db77f523047d84, 0x32caab7b40c72493, 0x3c9ebe0a15c9bebc, 0x431d67c49c100d4c, 0x4cc5d4becb3e42b6, 0x597f299cfc657e2a, 0x5fcb6fab3ad6faec, 0x6c44198c4a475817]

/-- The eight words of a hash. -/
structure Hash where
  a : Word
  b : Word
  c : Word
  d : Word
  e : Word
  f : Word
  g : Word
  h : Word
  deriving DecidableEq, Repr

/-- The initial hash of SHA-384. -/
def start : Hash :=
  ⟨0xcbbb9d5dc1059ed8, 0x629a292a367cd507, 0x9159015a3070dd17, 0x152fecd8f70e5939,
    0x67332667ffc00b31, 0x8eb44a8768581511, 0xdb0c2e0d64f98fa7, 0x47b5481dbefa4fa4⟩

/-- The next word of a message schedule, of which the words are listed from the last back to the first. -/
def nextWord (ws : List Word) : Word :=
  let w (i : Nat) : Word := (ws[i]?).getD 0
  let x := w 1
  let y := w 14
  (x.rotateRight 19 ^^^ x.rotateRight 61 ^^^ (x >>> 6)) + w 6 + (y.rotateRight 1 ^^^ y.rotateRight 8 ^^^ (y >>> 7)) + w 15

/-- A schedule continued by a number of words. -/
def schedule (ws : List Word) : Nat → List Word
  | 0 => ws
  | n + 1 => schedule (nextWord ws :: ws) n

/-- One round with its constant and its schedule word. -/
def round (s : Hash) (kw : Word × Word) : Hash :=
  let t1 := s.h + (s.e.rotateRight 14 ^^^ s.e.rotateRight 18 ^^^ s.e.rotateRight 41) + ((s.e &&& s.f) ^^^ (~~~ s.e &&& s.g)) + kw.1 + kw.2
  let t2 := (s.a.rotateRight 28 ^^^ s.a.rotateRight 34 ^^^ s.a.rotateRight 39) + ((s.a &&& s.b) ^^^ (s.a &&& s.c) ^^^ (s.b &&& s.c))
  ⟨t1 + t2, s.a, s.b, s.c, s.d + t1, s.e, s.f, s.g⟩

/-- A number's bytes, highest first. -/
def bigEndian (n len : Nat) : List Byte := (toBytes (BitVec.ofNat (8 * len) n) len).reverse

/-- A block of 128 bytes taken into the hash. -/
def block (s : Hash) (bs : List Byte) : Hash :=
  let ws := (List.range 16).map fun i => wordOfBytes ((bs.drop (8 * i)).take 8).reverse
  let r := (consts.zip (schedule ws.reverse 64).reverse).foldl round s
  ⟨s.a + r.a, s.b + r.b, s.c + r.c, s.d + r.d, s.e + r.e, s.f + r.f, s.g + r.g, s.h + r.h⟩

/-- A message padded to whole blocks. -/
def padded (bs : List Byte) : List Byte :=
  bs ++ [0x80] ++ List.replicate ((239 - bs.length % 128) % 128) 0 ++ bigEndian (8 * bs.length) 16

/-- The digest of a message: its bytes in order, the first the lowest. -/
def sha384 (bs : List Byte) : BitVec 384 :=
  let p := padded bs
  let r := (List.range (p.length / 128)).foldl (fun s i => block s ((p.drop (128 * i)).take 128)) start
  BitVec.ofNat 384 (natOfBytes ([r.a, r.b, r.c, r.d, r.e, r.f].flatMap fun w => bigEndian w.toNat 8))

end Sha

/-! ### P-384 -/

namespace P384

/-- The prime of the field. -/
def p : Nat := 2 ^ 384 - 2 ^ 128 - 2 ^ 96 + 2 ^ 32 - 1

/-- The order of the base point. -/
def order : Nat := 0xffffffffffffffffffffffffffffffffffffffffffffffffc7634d81f4372ddf581a0db248b0a77aecec196accc52973

/-- The coefficient b of the curve y² = x³ − 3x + b. -/
def coeff : Nat := 0xb3312fa7e23ee7e4988e056be3f82d19181d9c6efe8141120314088f5013875ac656398d8a2ed19d2a85c8edd3ec2aef

/-- The base point. -/
def base : Nat × Nat :=
  (0xaa87ca22be8b05378eb1c71ef320ad746e1d3b628ba79b9859f741e082542a385502f25dbf55296c3a545e3872760ab7,
   0x3617de4a96262c6f5d9e98bf9292dc29f8f41dbd289a147ce9da3113b5f0b8c00a60b1ce1d7e819d7a431d7c90ea0e5f)

/-- A power modulo `m`, by the bits of the exponent from the highest of `k` down. -/
def pow (m b e : Nat) : Nat → Nat
  | 0 => 1 % m
  | k + 1 => let r := pow m b (e / 2) k
    r * r % m * (if e % 2 = 1 then b else 1) % m

/-- The inverse modulo a prime of 384 bits. -/
def inv (m a : Nat) : Nat := pow m a (m - 2) 384

/-- The sum of two points; none is the point at infinity. -/
def add : Option (Nat × Nat) → Option (Nat × Nat) → Option (Nat × Nat)
  | none, q => q
  | q, none => q
  | some (x1, y1), some (x2, y2) =>
    if x1 = x2 ∧ (y1 + y2) % p = 0 then none
    else
      let l := if x1 = x2 then (3 * x1 * x1 + (p - 3)) * inv p (2 * y1 % p) % p else (y2 + (p - y1)) * inv p ((x2 + (p - x1)) % p) % p
      let x := (l * l + (p - x1) + (p - x2)) % p
      some (x, (l * (x1 + (p - x)) + (p - y1)) % p)

/-- A multiple of a point, by the bits of the factor from the highest of `k` down. -/
def mul (e : Nat) (q : Option (Nat × Nat)) : Nat → Option (Nat × Nat)
  | 0 => none
  | k + 1 => let r := mul (e / 2) q k
    if e % 2 = 1 then add (add r r) q else add r r

/-- A point lies on the curve. -/
def onCurve (x y : Nat) : Bool := decide (x < p) && decide (y < p) && y * y % p == (x * x * x + (p - 3) * x + coeff) % p

/-- A number spelled highest byte first. -/
def bigNat (bs : List Byte) : Nat := natOfBytes bs.reverse

/-- A signature, r then s, over a digest verifies under a public key, x then y (R134, R135). -/
def verify (key : List Byte) (digest : BitVec 384) (sig : List Byte) : Bool :=
  let x := bigNat (key.take 48)
  let y := bigNat (key.drop 48)
  let r := bigNat (sig.take 48)
  let s := bigNat (sig.drop 48)
  let e := bigNat (toBytes digest 48)
  let w := inv order s
  onCurve x y && decide (1 ≤ r) && decide (r < order) && decide (1 ≤ s) && decide (s < order) &&
    (match add (mul (e * w % order) (some base) 384) (mul (r * w % order) (some (x, y)) 384) with
     | some q => q.1 % order == r
     | none => false)

end P384

end Sys2Proof.Machine
end

