-- ==== Sys2Proof/Machine/Walk.lean ====
section
/-!
DEFINITION. Layout and loop-nest records and their walks (R71, R74, R80, R87 to R90, R326 to R328, R341): what a copy, a
subscription or a collective reads at its start, and where the bytes of its walk are.
-/

namespace Sys2Proof.Machine

open Sys2Proof.Bits

/-- A dimension of a layout: extent and signed byte stride (R87). -/
structure Dim where
  count : Nat
  stride : Int
  deriving DecidableEq, Repr

/-- A layout record (R87). -/
structure Layout where
  dims : List Dim
  esz : Nat
  ind : Option Nat
  tblCap : Nat
  tblOff : Nat
  base : Nat
  deriving DecidableEq, Repr

/-- A level of a loop nest: iterations, strides and peer coefficient (R89). -/
structure Level where
  count : Nat
  src : Int
  dst : Int
  peer : Int
  deriving DecidableEq, Repr

/-- A loop-nest record (R89). -/
structure Nest where
  levels : List Level
  len : Nat
  src : Nat
  dst : Nat
  peer : Int
  coll : Bool
  deriving DecidableEq, Repr

/-- A doubleword of a record's bytes. -/
def recWord (bs : Bytes) (i : Nat) : Word := wordOfBytes ((bs.drop (8 * i)).take 8)

/-- A layout record from its bytes; none where it breaks R87. -/
def Layout.parse (bs : Bytes) : Option Layout :=
  let w0 := recWord bs 0
  let w1 := recWord bs 1
  let rank := nfield w0 0 3
  let ind := nfield w0 5 3
  let dim (d : Nat) : Word := recWord bs (2 + d)
  if rank = 0 ∨ rank = 7 ∨ nfield w0 8 4 ≠ 0 ∨ nfield w1 48 16 ≠ 0 ∨ ind = 6 ∨ (ind ≠ 7 ∧ rank ≤ ind) then none
  else if ind = 7 ∧ (nfield w0 12 4 ≠ 0 ∨ nfield w0 16 48 ≠ 0) then none
  else if nfield w0 16 48 % 4 ≠ 0 then none
  else if (List.range 6).any fun d => decide (rank ≤ d) && dim d != 0 then none
  else some ⟨(List.range rank).map fun d => ⟨nfield (dim d) 48 16, (field (dim d) 0 48).toInt⟩, nfield w0 3 2,
    if ind = 7 then none else some ind, nfield w0 12 4, nfield w0 16 48, nfield w1 0 48⟩

/-- A loop-nest record from its bytes; none where it breaks R89. -/
def Nest.parse (bs : Bytes) : Option Nest :=
  let w0 := recWord bs 0
  let n := nfield w0 0 3
  let coll := bit w0 3
  let a (l : Nat) : Word := recWord bs (4 + 2 * l)
  let b (l : Nat) : Word := recWord bs (5 + 2 * l)
  if n = 0 ∨ n = 7 ∨ nfield w0 48 16 ≠ 0 ∨ nfield w0 4 4 ≠ 0 ∨ nfield (recWord bs 1) 48 16 ≠ 0 ∨ nfield (recWord bs 2) 48 16 ≠ 0
      ∨ recWord bs 3 ≠ 0 then none
  else if (List.range 6).any fun l => decide (n ≤ l) && (a l != 0 || b l != 0) then none
  else if !coll && (nfield w0 32 16 != 0 || (List.range 6).any fun l => nfield (b l) 48 16 != 0) then none
  else some ⟨(List.range n).map fun l => ⟨nfield (a l) 48 16, (field (a l) 0 48).toInt, (field (b l) 0 48).toInt, (field (b l) 48 16).toInt⟩,
    nfield w0 8 24, nfield (recWord bs 1) 0 48, nfield (recWord bs 2) 0 48, (field w0 32 16).toInt, coll⟩

/-- A count lowered by a clamp (R74). -/
def clampTo (clamp : Option Nat) (n : Nat) : Nat := match clamp with | some k => min n k | none => n

/-- A list with its last member changed. -/
def onLast {α : Type} (f : α → α) : List α → List α
  | [] => []
  | [x] => [f x]
  | x :: xs => x :: onLast f xs

/-- A layout's outermost dimension clamped (R74). -/
def Layout.clamp (l : Layout) (k : Option Nat) : Layout := { l with dims := onLast (fun d => { d with count := clampTo k d.count }) l.dims }
/-- A nest's outermost level clamped (R74). -/
def Nest.clamp (x : Nest) (k : Option Nat) : Nest := { x with levels := onLast (fun d => { d with count := clampTo k d.count }) x.levels }

/-- The bytes of a layout's walk (R88). -/
def Layout.total (l : Layout) : Nat := (l.dims.map Dim.count).prod * 2 ^ l.esz
/-- The transfers of a nest's walk (R90). -/
def Nest.transfers (x : Nest) : Nat := (x.levels.map Level.count).prod
/-- The bytes of a nest's walk. -/
def Nest.total (x : Nest) : Nat := x.transfers * x.len

/-- The indices of tuple number `k`, the first dimension fastest (R88, R90). -/
def indices : List Nat → Nat → List Nat
  | [], _ => []
  | c :: cs, k => (if c = 0 then 0 else k % c) :: indices cs (if c = 0 then 0 else k / c)

/-- The offset of an element without its indirect dimension, and the index and stride of that dimension (R88). -/
def Layout.offset (l : Layout) (k : Nat) : Int × Option (Nat × Int) :=
  let is := indices (l.dims.map Dim.count) k
  let terms := (l.dims.zip is).zipIdx
  let direct := (terms.filter fun t => some t.2 != l.ind).map fun t => (t.1.2 : Int) * t.1.1.stride
  ((l.base : Int) + direct.sum, (terms.find? fun t => some t.2 == l.ind).map fun t => (t.1.2, t.1.1.stride))

/-- Transfer `k` of a nest: the offset of each side and the peer before its modulus (R90). -/
def Nest.transfer (x : Nest) (k : Nat) : Int × Int × Int :=
  let ts := x.levels.zip (indices (x.levels.map Level.count) k)
  ((x.src : Int) + (ts.map fun t => (t.2 : Int) * t.1.src).sum, (x.dst : Int) + (ts.map fun t => (t.2 : Int) * t.1.dst).sum,
    x.peer + (ts.map fun t => (t.2 : Int) * t.1.peer).sum)

/-- How one side of a copy is walked (R326). -/
inductive SideWalk where
  | dense
  | layout (l : Layout)
  | nest (x : Nest) (src : Bool)
  deriving DecidableEq, Repr

/-- A copy's walk: either side and the bytes in all. -/
structure CopyWalk where
  src : SideWalk
  dst : SideWalk
  total : Nat
  deriving DecidableEq, Repr

/-! ### The records of a copy task (R69, R326 to R328) -/

/-- A layout of an indirect side agrees with slot 1 (R327). -/
def tableOk (p : Posted) (l : Layout) : Bool :=
  match l.ind, p.box 1 with
  | none, _ => true
  | some _, some b => l.tblCap == (if b.space == .hbm then b.capIdx else 0)
  | some _, none => false

/-- The walk that a copy task's records give, clamped; the failing word where they break R87, R89 or R326 to R328. -/
def copyWalk (p : Posted) (recs : List Bytes) (clamp : Option Nat) : Except Nat CopyWalk :=
  let r9 := (recs[0]?).getD []
  let r10 := (recs[1]?).getD []
  let slots := copySlots p
  let fits (q n : Nat) : Bool := match p.box q with | some b => decide (n ≤ b.size) | none => false
  let layout (bs : Bytes) (ind : Bool) : Option Layout :=
    match Layout.parse bs with
    | some l => if l.ind.isSome = ind ∧ tableOk p l then some (l.clamp clamp) else none
    | none => none
  let nest9 := p.hasRef 9 && !p.refLayout 9
  let nest10 := p.hasRef 10 && !p.refLayout 10
  if nest9 || nest10 then
    let w := if nest9 then 9 else 10
    if p.hasRef 9 && p.hasRef 10 then .error 10
    else match Nest.parse (if nest9 then r9 else r10) with
      | some x => if x.coll then .error w else let y := x.clamp clamp; .ok ⟨.nest y true, .nest y false, y.total⟩
      | none => .error w
  else
    let src : Except Nat (Option Layout) :=
      if !p.hasRef 9 then .ok none else match layout r9 (p.kind == 0x21) with | some l => .ok (some l) | none => .error 9
    let dst : Except Nat (Option Layout) :=
      if !p.hasRef 10 then .ok none else match layout r10 (p.kind == 0x22) with | some l => .ok (some l) | none => .error 10
    match src, dst with
    | .error w, _ => .error w
    | _, .error w => .error w
    | .ok none, .ok none => .ok ⟨.dense, .dense, clampTo clamp (nfield (p.word 8) 0 48)⟩
    | .ok (some l), .ok none => if fits slots.2 l.total then .ok ⟨.layout l, .dense, l.total⟩ else .error 9
    | .ok none, .ok (some l) => if fits slots.1 l.total then .ok ⟨.dense, .layout l, l.total⟩ else .error 10
    | .ok (some l), .ok (some m) => if l.total = m.total then .ok ⟨.layout l, .layout m, l.total⟩ else .error 9

/-! ### Where a byte of the walk is -/

/-- A run of a side's bytes from a position of the walk: where its element or transfer begins, how far into it the position is, its
length, and the index entry that it was found by; a box-overrun, a fault of an index read, or a wait for it. -/
inductive RunRes where
  | run (start : Int) (into len : Nat) (idx : Option (Nat × Int)) (s : State)
  | overrun
  | fault (f : TaskFault)
  | wait (s : State)

/-- An entry of the index table (R88, R327), for byte `k` of the walk: a signed 32-bit value from slot 1's box, within the
window of its capability (R22), read under a request tag (R332). -/
inductive IndexRes where
  | value (v : Int) (s : State)
  | overrun
  | fault (f : TaskFault)
  | wait (s : State)

/-- The entry for index `i`. -/
def State.indexAt (s : State) (n : Nat) (e : Entry) (l : Layout) (i k : Nat) : IndexRes :=
  let p := e.post
  match p.box 1 with
  | none => .overrun
  | some b =>
    let a := l.tblOff + 4 * i
    let cap := p.cap 1
    let value (r : State.TaskRes) : IndexRes :=
      match r with
      | .ok bs s1 => .value (BitVec.ofNat 32 (natOfBytes bs)).toInt s1
      | .fault f => .fault (f.task (State.walkDetail f.cause k a))
      | .wait s1 => .wait s1
    if !((List.range 4).all fun k => State.boxHolds b (a + k)) then .overrun
    else if (b.space == .hbm || b.space == .rem) && !Cap.within cap a 4 then .fault ⟨0x02, 0, BitVec.ofNat 64 k⟩
    else match s.sideOf b cap with
      | .sp => value (.ok ((List.range 4).map fun k => e.spRead (s.coreAt n) (a + k)) s)
      | .mem obj => if s.tagFree n then value (s.taskRead (s.tenantOf n) obj a 4) else .wait s
      | .far lid _ far =>
        if s.tagFree n then value (s.peerAsk n e.seq.toNat .index (s.tenantOf n) lid far a (.read 4) false e.post.flowOrd (s.coreAt n).stamp)
        else .wait s

/-- The run of a side that holds byte `k` of the walk (R71, R88, R90). `idx` is the index entry read last, by the number of its element:
an element's entry is read once (R327). -/
def State.sideRun (s : State) (n : Nat) (e : Entry) (b : Box) (w : SideWalk) (idx : Option (Nat × Int)) (total k : Nat) : RunRes :=
  match w with
  | .dense =>
    let row := 16 * b.colCnt
    .run (State.boxByte b k) 0 (if b.space == .sp then min (row - k % row) (total - k) else total - k) idx s
  | .nest x src =>
    let t := x.transfer (k / x.len)
    .run (if src then t.1 else t.2.1) (k % x.len) x.len idx s
  | .layout l =>
    let sz := 2 ^ l.esz
    let o := l.offset (k / sz)
    match o.2 with
    | none => .run o.1 (k % sz) sz idx s
    | some (i, stride) => match idx with
      | some (j, v) =>
        if j = k / sz then .run (o.1 + v * stride) (k % sz) sz idx s
        else match s.indexAt n e l i k with
          | .value v s1 => .run (o.1 + v * stride) (k % sz) sz (some (k / sz, v)) s1
          | .overrun => .overrun
          | .fault f => .fault f
          | .wait s1 => .wait s1
      | none => match s.indexAt n e l i k with
        | .value v s1 => .run (o.1 + v * stride) (k % sz) sz (some (k / sz, v)) s1
        | .overrun => .overrun
        | .fault f => .fault f
        | .wait s1 => .wait s1

/-- The bytes of a run lie in a box (R40, R88): contiguous addresses cross from row to row of a full-row scratchpad box alone. -/
def boxSpan (b : Box) (off : Int) (len : Nat) : Bool :=
  decide (0 ≤ off) && decide (0 < len) && State.boxHolds b off.toNat && State.boxHolds b (off.toNat + len - 1) &&
    (b.fullRow || b.space == .hbm || b.space == .rem || decide (off.toNat / 512 = (off.toNat + len - 1) / 512))

/-- The bytes of a run lie in the window of a box's capability (R22): all of them do in the scratchpad. -/
def windowHolds (b : Box) (cap : Cap) (a len : Nat) : Bool :=
  match b.space with
  | .sp | .acc => true
  | .hbm | .rem => Cap.within cap a len

/-- How many bytes of a dense side's run from `a` on lie in the window of its capability: a dense side has no elements, so each byte is
an access of its own (R22). -/
def windowSpan (b : Box) (cap : Cap) (a len : Nat) : Nat :=
  match b.space with
  | .sp | .acc => len
  | .hbm | .rem => if Cap.within cap a 1 then min len (Cap.base cap + Cap.len cap - a) else 0

/-- A step of a copy: the same bytes of either side, with the index entry they were found by; or its fault. -/
inductive StepRes where
  | move (src dst len : Nat) (idx : Option (Nat × Int)) (s : State)
  | overrun
  | fault (f : TaskFault)
  | wait (s : State)

/-- How many bytes from byte `k` a run allows (R22, R40): those to the end of an element or a transfer that lies wholly in its box and
in the window of its capability; none where that is not so. -/
def runSpan (b : Box) (cap : Cap) (w : SideWalk) (start : Int) (into len : Nat) : Except Bool Nat :=
  match w with
  | .dense =>
    if !boxSpan b start 1 then .error true
    else
      let m := windowSpan b cap start.toNat len
      if m = 0 then .error false else .ok m
  | _ =>
    if !boxSpan b start len then .error true
    else if !windowHolds b cap start.toNat len then .error false
    else .ok (len - into)

/-- The longest run from byte `k` of a copy's walk that is one run on either side, in their boxes. -/
def State.copyStep (s : State) (n : Nat) (e : Entry) (w : CopyWalk) (idx : Option (Nat × Int)) (k : Nat) : StepRes :=
  let slots := copySlots e.post
  match e.post.box slots.1, e.post.box slots.2 with
  | some bs, some bd =>
    match s.sideRun n e bs w.src idx w.total k with
    | .run x i len idx1 s1 => match s1.sideRun n e bd w.dst idx1 w.total k with
      | .run y j len' idx2 s2 =>
        (match runSpan bs (e.post.cap slots.1) w.src x i len, runSpan bd (e.post.cap slots.2) w.dst y j len' with
         | .ok p, .ok q => .move (x.toNat + i) (y.toNat + j) (min p q) idx2 s2
         | .error true, _ => .overrun
         | _, .error true => .overrun
         | _, _ => .fault ⟨0x02, 0, BitVec.ofNat 64 k⟩)
      | .overrun => .overrun
      | .fault f => .fault f
      | .wait s2 => .wait s2
    | .overrun => .overrun
    | .fault f => .fault f
    | .wait s1 => .wait s1
  | _, _ => .overrun

/-- The bytes of a record that a reference names, through its captured capability (R39, R70), read under a request tag (R332). -/
def State.readRef (s : State) (n : Nat) (e : Entry) (w i : Nat) : State.TaskRes :=
  let p := e.post
  if !p.hasRef w then .ok [] s else s.startRead n e (p.cap i) (p.refOff w) (if p.refLayout w then 64 else 128)

end Sys2Proof.Machine
end

