-- ==== Sys2Proof/Machine/Copy.lean ====
section
/-!
DEFINITION. The copy engine and the tide engines (R326 to R347): the start of a copy, its chunks and requests, subscriptions,
and the items of rings.
-/

namespace Sys2Proof.Machine

open Sys2Proof.Bits

namespace State

/-! ### The start of a copy (R326 to R329) -/

/-- A copy task's walk as its start left it. -/
def taskWalk (e : Entry) : Option CopyWalk := match copyWalk e.post e.prog.recs e.prog.clamp with | .ok w => some w | .error _ => none

/-- A copy reads its records and checks them (R80, R328); a walk of no bytes is complete at once (R329). -/
def startCopy (s : State) (n : Nat) (seq : BitVec 32) (kind : Nat) : State :=
  s.startTask n seq kind (fun e c => e.fillRows c) fun e clamp stay a =>
    match a.readRef n e 9 7 with
    | .wait a1 => stay a1
    | .fault f => a.faultTask n seq (f.task (BitVec.ofNat 64 (e.post.refOff 9))) []
    | .ok r9 a1 => match a1.readRef n e 10 8 with
      | .wait a2 => stay a2
      | .fault f => a1.faultTask n seq (f.task (BitVec.ofNat 64 (e.post.refOff 10))) []
      | .ok r10 a2 => match copyWalk e.post [r9, r10] clamp with
        | .error w => a2.faultTask n seq (startFault w) []
        | .ok w =>
          let b := a2.onTask n seq fun x => { x with prog := { x.prog with begun := true, recs := [r9, r10], clamp := clamp } }
          if w.total = 0 then b.finTask n seq else b

/-! ### Chunks and requests (R330 to R336) -/

/-- The task that runs on a copy channel: begun, not done, not faulted, its engine not frozen. -/
def channelTask (s : State) (n chan : Nat) : Option (Entry × CopyWalk) :=
  let c := s.coreAt n
  match ((SMap.get [] c.eng.queues (3 + chan)).head?).bind c.entry with
  | none => none
  | some e =>
    if e.state = .executing ∧ e.prog.begun ∧ !e.prog.fin ∧ e.fault.isNone ∧ !c.frozen.contains (.engine e.queue) then
      (taskWalk e).map fun w => (e, w)
    else none

/-- Requests of a channel in flight, oldest first. -/
def chanReqs (c : Core) (chan : Nat) : List CopyReq := c.eng.copyReqs.filter (·.chan == chan)

/-- A copy task faults: its requests in flight end, and what it had written stands (R328). -/
def faultCopy (s : State) (n chan : Nat) (e : Entry) (f : TaskFault) : State :=
  (s.onCore n fun c => c.onEng fun g => { g with copyReqs := g.copyReqs.filter (·.chan != chan) }).faultTask n e.seq f []

/-- Progress to byte `k` of the walk; the last byte ends the work. -/
def advance (s : State) (n : Nat) (e : Entry) (total k : Nat) : State :=
  s.onTask n e.seq fun x => { x with prog := { x.prog with at' := k, lim := Nat.max x.prog.lim k, fin := decide (total ≤ k) } }

/-- Both sides are scratchpad: no request is needed (R332). -/
def onlyPad (s : State) (e : Entry) : Bool :=
  let q := copySlots e.post
  match e.post.box q.1, e.post.box q.2 with
  | some a, some b => s.sideOf a (e.post.cap q.1) == .sp && s.sideOf b (e.post.cap q.2) == .sp
  | _, _ => false

/-- One more than the extent of an offset on a side that translates; zero on the scratchpad (R331). -/
def extentOn (s : State) (e : Entry) (q off : Nat) : Nat :=
  match e.post.box q with
  | some b => (match s.sideOf b (e.post.cap q) with | .sp => 0 | _ => off / extentBytes + 1)
  | none => 0

/-- A side of a copy translates its extent as a chunk begins (R331): an object fault, a page fault at which the channel halts (R439), or
neither. Another chip translates for itself. -/
def sideCheck (s : State) (n : Nat) (e : Entry) (q off len : Nat) : PortCheck :=
  match e.post.box q with
  | some b => (match s.sideOf b (e.post.cap q) with
    | .mem obj => (match s.routeOf obj with
      | some (.host _) => .proceed
      | _ => s.portCheck (s.tenantOf n) obj off len)
    | _ => .proceed)
  | none => .proceed

/-- The runs of a chunk that begins at byte `from'`, from byte `k` on: at most 64 KiB, and one extent on each side that translates (R331). A
task in serial mode takes one element or transfer at a time (R330). A step that meets a fault or a wait ends the chunk. -/
def planChunk (s : State) (n : Nat) (e : Entry) (w : CopyWalk) (from' : Nat) (exts : Nat × Nat) (idx : Option (Nat × Int)) :
    Nat → Nat → List CopyRun × Option (Nat × Int) × State
  | 0, _ => ([], idx, s)
  | fuel + 1, k =>
    if w.total ≤ k ∨ from' + 65536 ≤ k ∨ (!e.disjoint ∧ k ≠ from') then ([], idx, s)
    else match s.copyStep n e w idx k with
      | .move a d len idx1 s1 =>
        let q := copySlots e.post
        if s.extentOn e q.1 a ≠ exts.1 ∨ s.extentOn e q.2 d ≠ exts.2 then ([], idx, s)
        else
          let room (q off : Nat) : Nat := if s.extentOn e q off = 0 then len else extentBytes - off % extentBytes
          let m := min (min len (from' + 65536 - k)) (min (room q.1 a) (room q.2 d))
          let r := s1.planChunk n e w from' exts idx1 fuel (k + m)
          (⟨k, a, d, m⟩ :: r.1, r.2)
      | .wait s1 => ([], idx, s1)
      | _ => ([], idx, s)

/-- A scratchpad run moved byte by byte, in walk order (R330). -/
def padMove (e : Entry) (src dst : Nat) : List Nat → Core → Core
  | [], c => c
  | i :: is, c => padMove e src dst is (e.spWrite c (dst + i) (e.spRead c (src + i)))

/-- The moves of a chunk within the scratchpad, to byte `lim` at most. -/
def padChunk (s : State) (n chan : Nat) (e : Entry) (w : CopyWalk) (lim : Nat) (idx : Option (Nat × Int)) : Nat → Nat → State
  | 0, k => s.advance n e w.total k
  | fuel + 1, k =>
    if lim ≤ k then s.advance n e w.total k
    else match s.copyStep n e w idx k with
      | .move a d len idx1 s1 =>
        let m := min len (lim - k)
        (s1.onCore n (padMove e a d (List.range m))).padChunk n chan e w lim idx1 fuel (k + m)
      | .overrun => s.faultCopy n chan e ⟨0x05, 0, BitVec.ofNat 64 k⟩
      | .fault f => s.faultCopy n chan e f
      | .wait s1 => s1.advance n e w.total k

/-- A channel begins a chunk once the one before it is done (R331): it translates its extents and reads the index entries of its elements;
within the scratchpad it is moved at once. -/
def beginChunk (s : State) (n chan : Nat) : State :=
  match s.channelTask n chan with
  | none => s
  | some (e, w) =>
    let k := e.prog.at'
    if k < e.prog.lim ∨ !(chanReqs (s.coreAt n) chan).isEmpty ∨ (s.coreAt n).stopping then s
    else if s.onlyPad e then
      (if e.readsBad none (s.coreAt n) then s.softError n e else s.padChunk n chan e w (min w.total (k + 65536)) e.prog.idx 65537 k)
    else match s.copyStep n e w e.prog.idx k with
      | .overrun => s.faultCopy n chan e ⟨0x05, 0, BitVec.ofNat 64 k⟩
      | .fault f => (s.dropAsks n e.seq.toNat .index).faultCopy n chan e f
      | .wait s1 => s1
      | .move a d len _ s1 =>
        let q := copySlots e.post
        let m := min len (min (extentBytes - a % extentBytes) (extentBytes - d % extentBytes))
        (match s1.sideCheck n e q.1 a m, s1.sideCheck n e q.2 d m with
         | .objectFault, _ => s.faultCopy n chan e ⟨0x07, 0, BitVec.ofNat 64 a⟩
         | _, .objectFault => s.faultCopy n chan e ⟨0x07, 0, BitVec.ofNat 64 d⟩
         | .proceed, .proceed =>
           let exts := (s.extentOn e q.1 a, s.extentOn e q.2 d)
           let (plan, idx, s2) := s.planChunk n e w k exts e.prog.idx 65537 k
           let lim := match plan.getLast? with | some r => r.walk + r.len | none => k
           s2.onTask n e.seq fun x => { x with prog := { x.prog with lim := lim, plan := plan, exts := exts, idx := idx } }
         | _, _ => s)

/-- The next byte a channel's requests are to carry. -/
def nextByte (c : Core) (chan : Nat) (e : Entry) : Nat :=
  match (chanReqs c chan).getLast? with | some r => r.walk + r.len | none => e.prog.at'

/-- A channel has a request ready: a byte of its chunk is not yet requested, and in serial mode none is in flight (R330). -/
def requestReady (s : State) (n chan : Nat) : Option (Entry × CopyWalk × Nat) :=
  match s.channelTask n chan with
  | none => none
  | some (e, w) =>
    let c := s.coreAt n
    let k := nextByte c chan e
    if k < e.prog.lim ∧ (e.disjoint ∨ (chanReqs c chan).isEmpty) ∧ !s.onlyPad e then some (e, w, k) else none

/-- Another channel's request goes first (R333): of a higher priority, or of the same one and next in turn after the channel that issued
last. -/
def goesFirst (s : State) (n chan : Nat) (e : Entry) (x : Nat) : Bool :=
  let last := (s.coreAt n).eng.copyTurn
  let turn (y : Nat) : Nat := (y + 3 - last) % 4
  x != chan && (match s.requestReady n x with
    | some (f, _, _) => decide (e.post.priority < f.post.priority) || (e.post.priority == f.post.priority && decide (turn x < turn chan))
    | none => false)

/-- How many bytes of a run may be read whole before they are written (R330): a walk in serial mode whose run begins below its
destination reads what it has written. -/
def wholeRead (e : Entry) (src dst len : Nat) : Nat := if e.disjoint ∨ dst ≤ src then len else min len (dst - src)

/-- A request is issued (R332, R333): it takes the lowest free of 4,032 tags and moves at most 64 bytes that lie in one 64-byte
block on either side. A remote source is asked for its bytes (R402). -/
def issueRequest (s : State) (n chan : Nat) : State :=
  match s.requestReady n chan with
  | none => s
  | some (e, _, k) =>
    let c := s.coreAt n
    let tags := c.eng.copyReqs.map CopyReq.tag
    if !s.tagFree n ∨ (List.range 4).any (s.goesFirst n chan e) then s
    else match e.prog.plan.find? fun r => decide (r.walk ≤ k) && decide (k < r.walk + r.len) with
      | none => s
      | some r =>
        let i := k - r.walk
        let a := r.src + i
        let d := r.dst + i
        let m := wholeRead e a d (min (r.len - i) (min (64 - a % 64) (64 - d % 64)))
        let tag := ((List.range (tags.length + 1)).find? fun t => !tags.contains t).getD 0
        let q := copySlots e.post
        let add (f : Option (FlowId × BitVec 32)) (b : State) : State :=
          b.onCore n fun c => c.onEng fun g => { g with copyTurn := chan, copyReqs := g.copyReqs ++ [⟨tag, chan, k, m, a, d, f, none, false⟩] }
        match e.post.box q.1 with
        | none => s
        | some bx => match s.sideOf bx (e.post.cap q.1) with
          | .far lid _ cap =>
            (match s.sendFlow n (s.tenantOf n) lid 1 e.post.flowOrd (s.coreAt n).stamp (.access cap (s.tenantOf n) a (.read m) false true) e.seq.toNat true with
             | .sent f i b => add (some (f, i)) b
             | .waits => s
             | .invalid => s.faultCopy n chan e ⟨0x0C, 0x01, BitVec.ofNat 64 lid⟩)
          | _ => add none s

/-- A request of a core changed. -/
def onReq (s : State) (n tag : Nat) (f : CopyReq → CopyReq) : State :=
  s.onCore n fun c => c.onEng fun g => { g with copyReqs := g.copyReqs.map fun r => if r.tag = tag then f r else r }

/-- A request has moved its bytes: its tag is free (R332). -/
def endRequest (s : State) (n : Nat) (e : Entry) (w : CopyWalk) (r : CopyReq) : State :=
  (s.onCore n fun c => c.onEng fun g => { g with copyReqs := g.copyReqs.filter (·.tag != r.tag) }).advance n e w.total (r.walk + r.len)

/-- The bytes of a request written at its destination: here, or by a message to the destination chip, which acknowledges
it (R336, R402). -/
def deliverRequest (s : State) (n chan : Nat) (e : Entry) (w : CopyWalk) (r : CopyReq) (bs : Bytes) : State :=
  let q := (copySlots e.post).2
  match e.post.box q with
  | none => s
  | some b => match s.sideOf b (e.post.cap q) with
    | .sp => (s.onCore n fun c => (bs.zipIdx).foldl (fun c x => e.spWrite c (r.dst + x.2) x.1) c).endRequest n e w r
    | .mem obj => match s.taskWrite (s.tenantOf n) obj r.dst bs (s.coreAt n).stamp with
      | .ok _ s1 => s1.endRequest n e w r
      | .fault f => s.faultCopy n chan e (f.task (walkDetail f.cause r.walk r.dst))
      | .wait s1 => s1
    | .far lid _ cap =>
      match s.sendFlow n (s.tenantOf n) lid 1 e.post.flowOrd (s.coreAt n).stamp (.access cap (s.tenantOf n) r.dst (.write bs) false true) e.seq.toNat true with
      | .sent f i s1 => s1.onReq n r.tag fun x => { x with flow := some (f, i), data := some bs, answered := false }
      | .waits => s
      | .invalid => s.faultCopy n chan e ⟨0x0C, 0x01, BitVec.ofNat 64 lid⟩

/-- The oldest request of a channel gets its response (R332): its bytes are read where the source is here, or have come;
then they are written. -/
def respond (s : State) (n chan : Nat) : State :=
  match s.channelTask n chan, (chanReqs (s.coreAt n) chan).head? with
  | some (e, w), some r =>
    if r.answered then s.endRequest n e w r
    else if r.flow.isSome then s
    else match r.data with
      | some bs => s.deliverRequest n chan e w r bs
      | none =>
        let q := (copySlots e.post).1
        match e.post.box q with
        | none => s
        | some b => match s.sideOf b (e.post.cap q) with
          | .sp =>
            if e.readsBad none (s.coreAt n) then
              (s.onCore n fun c => c.onEng fun g => { g with copyReqs := g.copyReqs.filter (·.chan != chan) }).softError n e
            else
              let c := s.coreAt n
              s.deliverRequest n chan e w r ((List.range r.len).map fun i => e.spRead c (r.src + i))
          | .mem obj => match s.taskRead (s.tenantOf n) obj r.src r.len with
            | .ok bs s1 => s1.deliverRequest n chan e w r bs
            | .fault f => s.faultCopy n chan e (f.task (walkDetail f.cause r.walk r.src))
            | .wait s1 => s1
          | .far .. => s
  | _, _ => s

/-! ### Subscriptions and rings (R339 to R344) -/

/-- The bytes of one item of a ring (R341). -/
def itemBytes (r : Ring) : Nat := 512 * r.height

/-- The nest a subscription walks, as its start read and clamped it (R74, R341). -/
def ringNest (e : Entry) (r : Ring) : Option Nest := (Nest.parse r.nest).map fun x => x.clamp e.prog.clamp

/-- The checks of R341 on a subscription's nest. -/
def nestFits (r : Ring) (x : Nest) : Bool :=
  let other := if r.mode = 0 then x.dst == 0 && x.levels.all (·.dst == 0) else x.src == 0 && x.levels.all (·.src == 0)
  !x.coll && other && decide ((r.items - 1) * itemBytes r < x.total) && decide (x.total ≤ r.items * itemBytes r)

/-- A subscription starts (R340, R341, R376): it reads its nest, hands its ring to the tide engine and leaves its channel. -/
def startSubscr (s : State) (n : Nat) (seq : BitVec 32) : State :=
  s.startTask n seq 0x23 (fun _ c => c) fun e clamp stay a =>
    let k := nfield (e.post.word 8) 0 4
    match (a.coreAt n).ring k with
    | none => s
    | some r =>
      let routed := match e.post.box 0 with | some _ => (match a.routeOf (Cap.obj (e.post.cap 0)) with | some .local | none => false | _ => true) | none => false
      let go (bs : Bytes) (b : State) : State :=
        b.onCore n fun c =>
          let c1 := (c.setRing k (some { r with started := true, nest := bs })).onEntry seq fun x => { x with prog := { x.prog with begun := true, clamp := clamp } }
          c1.onEng fun g => { g with queues := SMap.put [] g.queues (3 + e.post.channel) ((SMap.get [] g.queues (3 + e.post.channel)).filter (· != seq)) }
      if routed then a.faultTask n seq (startFault 1) []
      else if r.mode = 2 then go [] a
      else match a.readRef n e 9 7 with
        | .wait a1 => stay a1
        | .fault f => a.faultTask n seq (f.task (BitVec.ofNat 64 (e.post.refOff 9))) []
        | .ok bs a1 => match Nest.parse bs with
          | some x => if nestFits r (x.clamp clamp) then go bs a1 else a1.faultTask n seq (startFault 9) []
          | none => a1.faultTask n seq (startFault 9) []

/-- The moves of an item, run by run, from byte `k` of the walk to `hi`; `pad` is the scratchpad address of the item's slot. A transfer lies
wholly in its box and in the window of its capability (R22, R40). None where an access waits, and then the item begins again (R439). -/
def itemMoves (s : State) (n : Nat) (cap : Cap) (b : Box) (x : Nest) (fill : Bool) (lo pad : Nat) : Nat → Nat → Nat → Except (Option TaskFault) State
  | 0, _, _ => .ok s
  | fuel + 1, k, hi =>
    if hi ≤ k then .ok s
    else
      let t := x.transfer (k / x.len)
      let start := if fill then t.1 else t.2.1
      match runSpan b cap (.nest x fill) start (k % x.len) x.len with
      | .error beyond => .error (some ⟨if beyond then 0x05 else 0x02, 0, BitVec.ofNat 64 k⟩)
      | .ok span =>
        let a := start.toNat + k % x.len
        let at' := pad + (k - lo)
        let len := min span (hi - k)
        let go (r : TaskRes) (next : Bytes → State → Except (Option TaskFault) State) : Except (Option TaskFault) State :=
          match r with
          | .ok bs s1 => next bs s1
          | .fault f => .error (some (f.task (walkDetail f.cause k a)))
          | .wait _ => .error none
        if fill then
          go (s.taskRead (s.tenantOf n) (Cap.obj cap) a len) fun bs s1 =>
            (s1.onCore n fun c => c.setSpBytes at' bs).itemMoves n cap b x fill lo pad fuel (k + len) hi
        else
          go (s.taskWrite (s.tenantOf n) (Cap.obj cap) a ((s.coreAt n).spBytes at' len) (s.coreAt n).stamp) fun _ s1 =>
            s1.itemMoves n cap b x fill lo pad fuel (k + len) hi

/-- A tide engine fills or drains the next item of a ring (R341, R343). -/
def tideItem (s : State) (n k : Nat) (fill : Bool) : State :=
  let c := s.coreAt n
  match c.ring k with
  | none => s
  | some r => match c.entry r.seq with
    | none => s
    | some e =>
      let j := r.tide
      let ready := if fill then decide (j < r.slots) || c.drainDone k (j - r.slots) r else c.fillDone k j r
      if !r.started ∨ r.mode ≠ (if fill then 0 else 1) ∨ r.items ≤ j ∨ !ready ∨ e.fault.isSome ∨ c.frozen.contains (.engine e.queue) ∨ c.stopping then s
      else match ringNest e r, e.post.box 0 with
        | some x, some b =>
          let lo := j * itemBytes r
          let hi := min (lo + itemBytes r) x.total
          match s.itemMoves n (e.post.cap 0) b x fill lo ((r.row0 + j % r.slots * r.height) * 512) (hi - lo + 1) lo hi with
          | .ok s1 => s1.onCore n fun c => c.setRing k (some { r with tide := j + 1 })
          | .error (some f) => s.faultTask n r.seq f []
          | .error none => s
        | _, _ => s

end State

/-! ### Events -/

/-- COPY_TASK (R326). -/
def execCopyTask (core : Nat) (seq : BitVec 32) (s : State) : Host.Outcome State Fault Refusal := atCore core (·.startCopy core seq 0x20) s

/-- GATHER_TASK (R327). -/
def execGatherTask (core : Nat) (seq : BitVec 32) (s : State) : Host.Outcome State Fault Refusal := atCore core (·.startCopy core seq 0x21) s

/-- SCATTER_TASK (R327). -/
def execScatterTask (core : Nat) (seq : BitVec 32) (s : State) : Host.Outcome State Fault Refusal := atCore core (·.startCopy core seq 0x22) s

/-- SUBSCR_TASK (R340). -/
def execSubscrTask (core : Nat) (seq : BitVec 32) (s : State) : Host.Outcome State Fault Refusal := atCore core (·.startSubscr core seq) s

/-- COPY_CHUNK (R331). -/
def execCopyChunk (core chan : Nat) (s : State) : Host.Outcome State Fault Refusal := atCore core (·.beginChunk core chan) s

/-- COPY_REQUEST_ISSUE (R333). -/
def execCopyRequestIssue (core chan : Nat) (s : State) : Host.Outcome State Fault Refusal := atCore core (·.issueRequest core chan) s

/-- REQUEST_RESPONSE (R332). -/
def execRequestResponse (core chan : Nat) (s : State) : Host.Outcome State Fault Refusal := atCore core (·.respond core chan) s

/-- TIDE_FILL_ITEM (R343). -/
def execTideFillItem (core : Nat) (ring : Fin 16) (s : State) : Host.Outcome State Fault Refusal :=
  atCore core (·.tideItem core ring.val true) s

/-- TIDE_DRAIN_ITEM (R343). -/
def execTideDrainItem (core : Nat) (ring : Fin 16) (s : State) : Host.Outcome State Fault Refusal :=
  atCore core (·.tideItem core ring.val false) s

end Sys2Proof.Machine
end

