-- ==== Sys2Proof/Machine/Coll.lean ====
section
/-!
DEFINITION. Collective steps as they run (R90, R398, R414 to R421, R519): the send walk, lines as they arrive, wait in chunk
slots and are applied, end lines, and the timer.
-/

namespace Sys2Proof.Machine

open Sys2Proof.Bits

/-! ### The send walk -/

/-- Payload bytes of a full line (R415). -/
def lineBytes : Nat := 248

/-- The lines of one transfer (R415). -/
def linesPer (len : Nat) : Nat := ceilDiv len lineBytes

/-- A line's flag word (R415). -/
def lineFlag (num : Nat) (step : BitVec 32) (nbytes : Nat) (last : Bool) : Word :=
  BitVec.ofNat 64 (num % 2 ^ 32 * 2 ^ 32 + step.toNat % 2 ^ 16 * 2 ^ 16 + nbytes * 2 ^ 8 + (if last then 128 else 0))

namespace State

/-- A line for this chip's own receive side, held for its application (R414). -/
def localLine (s : State) (n : Nat) (l : Line) : State := { s with fab := { s.fab with chunks := s.fab.chunks ++ [⟨n, l, none, false⟩] } }

/-- One line leaves for a member (R414, R415): to itself, locally; else on the collective flow to its home core. -/
def sendLine (s : State) (n : Nat) (e : Entry) (x : CollStep) (m : Nat) (l : Line) : SendRes :=
  let mem := (x.version.members[m]?).getD (0, 0)
  if m = x.own then .sent ⟨s.dev.chip, n, s.dev.chip, 2, false⟩ 0 (s.localLine n l)
  else s.sendFlow n x.tenant mem.1 2 e.post.flowOrd (s.coreAt n).stamp (.line mem.2 x.tenant l) e.seq.toNat true

/-- A line to another member is kept until it is answered. -/
def keepLine (x : CollStep) (m num : Nat) : List (Nat × BitVec 32) := if m = x.own then x.unacked else x.unacked ++ [(m, BitVec.ofNat 32 num)]

/-- The next line of the send walk (R90, R414, R415): skipped to a withdrawn member. None where the walk is over. -/
inductive WalkRes where
  | more (s : State)
  | stop (s : State)
  | fault (f : TaskFault)

/-- One line of the send walk of a step. -/
def walkLine (s : State) (n : Nat) (e : Entry) (x : CollStep) (nest : Nest) (b : Box) : WalkRes :=
  let lp := linesPer nest.len
  let k := x.walkAt / lp
  let i := x.walkAt % lp
  let t := nest.transfer k
  let size := x.version.members.length
  let m := (t.2.2 % (size : Int)).toNat
  let len := min lineBytes (nest.len - i * lineBytes)
  let from' := t.1 + (i * lineBytes : Nat)
  let tgt := t.2.1 + (i * lineBytes : Nat)
  let next (a : State) (f : CollStep → CollStep) : State := a.onStep n e.seq fun y => f { y with walkAt := x.walkAt + 1 }
  if x.version.stateOf m = .withdrawn then .more (next s id)
  else if from' < 0 ∨ (b.size : Int) < from' + len ∨ tgt < 0 then .fault ⟨0x05, 0, BitVec.ofNat 64 (k * nest.len + i * lineBytes)⟩
  else match s.boxRead n e .walk b (e.post.cap 0) from'.toNat len with
    | .wait a => .stop a
    | .fault f => .fault (f.task (walkDetail f.cause (k * nest.len + i * lineBytes) t.1.toNat))
    | .ok bs a =>
      let num := SMap.get 0 x.sent m
      let l : Line := ⟨x.group, x.version.num, x.step, x.own, ⟨x.chan % 4, Nat.mod_lt _ (by decide)⟩, tgt.toNat, k, lineFlag num x.step len false, bs,
        (a.coreAt n).stamp⟩
      match a.sendLine n e x m l with
      | .sent _ _ a1 => .more (next (a1.dropAsks n e.seq.toNat .walk) fun y => { y with sent := SMap.put 0 y.sent m (num + 1), unacked := keepLine y m num })
      | .waits => .stop s
      | .invalid => .fault ⟨0x0C, 0x01, BitVec.ofNat 64 ((x.version.members[m]?).getD (0, 0)).1⟩

/-- The end lines of a step, one for each member of the expected set (R414): the position in the set is `walkAt` beyond the
walk's own lines. A peer-map entry that is not valid is a fabric fault (R403). -/
def endLines (s : State) (n : Nat) (e : Entry) : List Nat → WalkRes
  | [] => .more s
  | m :: ms =>
    match s.openStep n e.seq with
    | none => .more s
    | some x =>
      let count := SMap.get 0 x.sent m
      let l : Line := ⟨x.group, x.version.num, x.step, x.own, ⟨x.chan % 4, Nat.mod_lt _ (by decide)⟩, 0, 0, lineFlag count x.step 0 true,
        toBytes (BitVec.ofNat 32 count) 4, (s.coreAt n).stamp⟩
      let done (a : State) : State := a.onStep n e.seq fun y => { y with walkAt := y.walkAt + 1, unacked := keepLine y m count }
      if m = x.own then ((done s).onStep n e.seq fun y => y.onSettle m fun z => { z with count := some count }).endLines n e ms
      else match s.sendLine n e x m l with
        | .sent _ _ a => (done a).endLines n e ms
        | .waits => .stop s
        | .invalid =>
          if x.dropped then (s.onStep n e.seq fun y => { y with walkAt := y.walkAt + 1 }).endLines n e ms
          else .fault ⟨0x0C, 0x01, BitVec.ofNat 64 ((x.version.members[m]?).getD (0, 0)).1⟩

/-- A fault of the send walk (R519): where the receive side has faulted before it, the walk waits with the rest of the step. -/
def walkFault (s : State) (n : Nat) (e : Entry) (f : TaskFault) : State :=
  if ((s.coreAt n).entry e.seq).any (·.fault.isSome) then s else (s.dropAsks n e.seq.toNat .walk).faultTask n e.seq f []

/-- The send walk as far as it goes (R414): its lines, then the end lines, and then the walker goes on to its next entry. A
step whose task is discarded sends no more lines, but its end lines (R519). -/
def runWalk (s : State) (n : Nat) (e : Entry) (nest : Nest) (b : Box) : Nat → State
  | 0 => s
  | fuel + 1 =>
    match s.openStep n e.seq with
    | none => s
    | some x =>
      let total := nest.transfers * linesPer nest.len
      if x.endsSent then s
      else if x.walkAt < total ∧ !x.dropped then
        match s.walkLine n e x nest b with
        | .more a => a.runWalk n e nest b fuel
        | .stop a => a
        | .fault f => s.walkFault n e f
      else
        let at' := Nat.max x.walkAt total
        match (s.onStep n e.seq fun y => { y with walkAt := at' }).endLines n e ((x.settles.map Settle.member).drop (at' - total)) with
        | .more a =>
          ((a.onStep n e.seq fun y => { y with endsSent := true }).onCore n fun c => c.onEng fun g =>
            { g with queues := SMap.put [] g.queues 7 ((SMap.get [] g.queues 7).filter (· != e.seq)) }).closeStep n e.seq
        | .stop a => a
        | .fault f => s.walkFault n e f

/-- The checks of a collective's nest at start (R412): peer expressions in use, and words whole. -/
def collNestOk (p : Posted) (x : Nest) : Bool :=
  let k := collWord p.ta
  let ok (v : Int) : Bool := v % (k : Int) == 0
  x.coll && (nfield (p.word 7) 20 4 == 0 ||
    (x.len % k == 0 && x.src % k == 0 && x.dst % k == 0 && x.levels.all fun l => ok l.src && ok l.dst))

/-- The nest of a collective that has started. -/
def collNest (e : Entry) : Option Nest := (Nest.parse ((e.prog.recs[0]?).getD [])).map fun x => x.clamp e.prog.clamp

/-- The send walk of a collective that runs goes on (R414). -/
def goWalk (s : State) (n : Nat) (e : Entry) : State :=
  match collNest e, e.post.box 0 with
  | some x, some b => s.runWalk n e x b (x.transfers * linesPer x.len + 2)
  | _, _ => s

/-- The own member of an open step has been withdrawn (R410), and the step is still to hear of it. -/
def mustQuit (x : CollStep) : Bool := x.version.stateOf x.own == .withdrawn && !x.atOnce && !x.closes

/-- It sends nothing further, applies no line and settles every other member without contribution, and the walker goes on to its next entry
(R500). -/
def quitStep (s : State) (n : Nat) (seq : BitVec 32) : State :=
  let s1 := (s.onStep n seq fun y => { y with atOnce := true, endsSent := true }).dropAsks n seq.toNat .walk
  ((s1.onTask n seq fun x => { x with state := .executing }).onCore n fun c => c.onEng fun g =>
    { g with queues := SMap.put [] g.queues 7 ((SMap.get [] g.queues 7).filter (· != seq)) }).closeStep n seq

/-- A collective starts on the walker, or goes on with its walk (R414), which a fault of its receive side does not halt (R519), unless its
member has been withdrawn (R500). One that its guard word gates out drops its step. -/
def collTask (s : State) (n : Nat) (seq : BitVec 32) : State :=
  let c := s.coreAt n
  match c.entry seq with
  | none => s
  | some e =>
    let sent : Bool := match s.openStep n seq with | some x => x.endsSent | none => false
    let bad : Bool := match s.openStep n seq with | some x => x.badLine.isSome | none => false
    let turn : Bool := e.state == .executing || (e.state == .queued && (SMap.get [] c.eng.queues 7).head? == some seq)
    if (s.openStep n seq).any mustQuit ∧ e.post.kind = 0x28 ∧ turn ∧ e.fault.isNone ∧ !c.stopping ∧ !c.frozen.contains (.engine .walker) then s.quitStep n seq
    else if sent ∧ e.post.kind = 0x28 ∧ e.state = .executing then s.closeStep n seq
    else if e.post.kind = 0x28 ∧ e.state = .executing ∧ e.prog.begun then
      (if (e.fault.isNone ∨ bad) ∧ !c.stopping ∧ (SMap.get [] c.eng.queues 7).head? = some seq ∧ !c.frozen.contains (.engine .walker) then s.goWalk n e else s)
    else
      let s1 := s.startTask n seq 0x28 (fun _ c => c) fun e clamp stay a =>
        match a.readRef n e 9 7 with
        | .wait a1 => stay a1
        | .fault f => a.faultTask n seq (f.task (BitVec.ofNat 64 (e.post.refOff 9))) []
        | .ok bs a1 => match Nest.parse bs with
          | none => a1.faultTask n seq (startFault 9) []
          | some x =>
            if !collNestOk e.post x then a1.faultTask n seq (startFault 9) []
            else
              let b := a1.onTask n seq fun y => { y with prog := { y.prog with begun := true, recs := [bs], clamp := clamp } }
              match (b.coreAt n).entry seq with | some e1 => b.goWalk n e1 | none => b
      match (s1.coreAt n).entry seq with
      | some e1 =>
        if e1.prog.fin then { s1 with fab := { s1.fab with steps := s1.fab.steps.filter fun y => !(y.core == n && y.seq == seq) } } else s1
      | none => s1

/-! ### Where a message is for (R398) -/

/-- The team and the rank whose window a home core names for a tenant: the one placed there last, placed, being saved or
saved. -/
def homeWindow (s : State) (t core : Nat) : Option (Team × Nat) :=
  let of (tm : Team) : Option (Team × Nat) :=
    match s.launch tm.launch, tm.home.findIdx? (· == core) with
    | some l, some k => if l.tenant = t ∧ (tm.state = .placed ∨ tm.state = .saving ∨ tm.state = .saved) then some (tm, k) else none
    | _, _ => none
  (s.sched.teams.filterMap fun e => e.2.bind of).foldl (fun a x => match a with
    | none => some x
    | some y => if y.1.placedAt ≤ x.1.placedAt then some x else some y) none

/-- The present core of a home core's window, or the reason of a refusal: absent while it is saved, moved where there is
none. -/
def windowOf (s : State) (t core : Nat) : Except (BitVec 4) Nat :=
  match s.homeWindow t core with
  | none => .error 5
  | some (tm, k) => if tm.state = .saved then .error 3 else match tm.cores[k]? with | some n => .ok n | none => .error 3

/-! ### Lines as they arrive (R416 to R420) -/

/-- What arrival comes to: applied or recorded, held in a slot, refused with a reason, or waiting at the port. -/
inductive ArriveRes where
  | done (s : State)
  | held (s : State)
  | refused (reason : BitVec 4) (s : State)
  | wait (s : State)

/-- The step of a window that a line is for. -/
def lineStep (s : State) (n : Nat) (l : Line) : Option CollStep := s.fab.steps.find? fun x => x.core == n && x.group == l.group && x.step == l.step

/-- The step has closed at this window (R420). -/
def stepClosed (s : State) (n : Nat) (l : Line) : Bool := s.fab.closed.any fun y => y.1 == n && y.2.1 == l.group && y.2.2.1 == l.step

/-- A line that comes before its step opens is from a member that is withdrawn here, in the version it carries (R420). -/
def earlyStale (s : State) (n : Nat) (l : Line) : Bool :=
  match s.collGroup (s.tenantOf n) l.group with
  | some g => g.installed.any fun v => v.num == l.version && v.stateOf l.sender == .withdrawn
  | none => false

/-- A line of another version, of a withdrawn, unexpected or timed-out member (R417, R419, R420), or for a step that applies no more
(R500). -/
def staleLine (x : CollStep) (l : Line) : Bool :=
  x.atOnce || l.version != x.version.num || x.version.stateOf l.sender == .withdrawn ||
    (match x.settle l.sender with | none => true | some y => y.timedOut)

/-- A line can be applied at once (R417): every member below its sender is settled, and it is its sender's next. -/
def appliesNow (x : CollStep) (l : Line) : Bool :=
  x.settles.all (fun y => !decide (y.member < l.sender) || x.settled y) &&
    (match x.settle l.sender with
     | some y => decide ((y.applied.filter fun q => decide (q.toNat < (Line.num l).toNat)).length = (Line.num l).toNat)
     | none => false)

/-- A line already applied, or already held. -/
def lineSeen (s : State) (n : Nat) (l : Line) : Bool :=
  (match s.lineStep n l with
   | some x => (match x.settle l.sender with | some y => y.applied.contains (Line.num l) | none => false)
   | none => false)
  || s.fab.chunks.any fun k => k.core == n && k.line.group == l.group && k.line.step == l.step && k.line.sender == l.sender && (Line.num k.line) == (Line.num l)

/-- The chunk a line is in: up to 16 consecutive lines of one transfer (R416). -/
def chunkOf (l : Line) : Nat × BitVec 32 × Nat × Nat × Nat := (l.group, l.step, l.sender, l.xfer, (Line.num l).toNat / 16)

/-- The chunks that hold a slot of a channel. -/
def chunksOn (s : State) (n : Nat) (chan : Fin 4) : List (Nat × BitVec 32 × Nat × Nat × Nat) :=
  ((s.fab.chunks.filter fun k => k.core == n && k.line.chan == chan && k.slot).map fun k => chunkOf k.line).eraseDups

/-- The depth of a channel in effect: a written one counts once the channel holds no chunk (R413). -/
def chanDepth (s : State) (n : Nat) (chan : Fin 4) : Nat :=
  let b := (s.coreAt n).board
  nfield (if (s.chunksOn n chan).isEmpty then b.cwcfg else b.depths) (8 * chan.val) 7

/-- The depth in effect of a channel that holds nothing brought up to date. -/
def syncDepth (s : State) (n : Nat) (chan : Fin 4) : State :=
  if (s.chunksOn n chan).isEmpty then
    s.onCore n fun c => c.withBoard fun b => { b with depths := setField b.depths (8 * chan.val) 7 (field b.cwcfg (8 * chan.val) 7) }
  else s

/-- A chunk may take a slot (R416): one stays free after it, or it can be applied at once. -/
def slotFree (s : State) (n : Nat) (l : Line) (now : Bool) : Bool :=
  let cs := s.chunksOn n l.chan
  cs.contains (chunkOf l) || decide (cs.length + (if now then 1 else 2) ≤ s.chanDepth n l.chan)

/-- A line lies in its receive box. -/
def lineInBox (e : Entry) (l : Line) : Bool := match e.post.box 1 with | some b => decide (l.toOff + l.payload.length ≤ b.size) | none => false

/-- The window's stamp raised by a message of class 0 or 2 (R456). -/
def stampBy (s : State) (n : Nat) (v : Word) : State := s.onCore n fun c => c.raiseStamp v

/-- A line whose application faults (R519): its task faults, naming the line's to offset. -/
def lineFault (s : State) (n : Nat) (x : CollStep) (l : Line) (f : PortFault) : State :=
  ((s.dropAsks n x.seq.toNat .line).onStep n x.seq fun y => { y with badLine := some (l.sender, (Line.num l)) }).faultTask n x.seq
    (f.task (BitVec.ofNat 64 l.toOff)) []

/-- A line applied to the receive box of an open step (R417, R519). -/
def applyLine (s : State) (n : Nat) (x : CollStep) (e : Entry) (l : Line) : ArriveRes :=
  if !lineInBox e l then .refused 6 s
  else match s.lineWrite n e l with
    | .wait a => .wait a
    | .fault f => .wait (s.lineFault n x l f)
    | .ok _ a0 =>
      let a := a0.dropAsks n x.seq.toNat .line
      .done (((a.stampBy n l.stamp).onStep n x.seq fun y => { (y.onSettle l.sender fun z => { z with applied := z.applied ++ [(Line.num l)] }) with badLine := none }).closeStep n x.seq)

/-- An end line at a window (R416): recorded for an open step; refused full before it opens, stale after it has closed. -/
def endLineAt (s : State) (n : Nat) (l : Line) : ArriveRes :=
  match s.lineStep n l with
  | some x =>
    if staleLine x l then .refused 4 s
    else .done (((s.stampBy n l.stamp).onStep n x.seq fun y => y.onSettle l.sender fun z => { z with count := some (Line.count l) }).closeStep n x.seq)
  | none => if s.stepClosed n l || s.earlyStale n l then .refused 4 s else .refused 1 s

/-- A line at a window (R416, R420): applied at once, held in a slot of its channel, or refused. `msg` names its message,
`turn` says that its flow lets it be applied (R400). -/
def lineAt (s0 : State) (n : Nat) (l : Line) (msg : Option (FlowId × BitVec 32)) (turn : Bool) : ArriveRes :=
  let s := s0.syncDepth n l.chan
  let slot (now : Bool) : ArriveRes :=
    if s.slotFree n l now then .held { s with fab := { s.fab with chunks := s.fab.chunks ++ [⟨n, l, msg, true⟩] } } else .refused 1 s
  if s.lineSeen n l then .done s
  else match s.lineStep n l with
    | none => if s.stepClosed n l || s.earlyStale n l then .refused 4 s else slot false
    | some x =>
      if staleLine x l then .refused 4 s
      else if !appliesNow x l || !turn then slot false
      else match (s.coreAt n).entry x.seq with
        | none => .refused 4 s
        | some e =>
          if e.fault.isSome then slot true
          else if !s.slotFree n l true then .refused 1 s
          else match s.applyLine n x e l with
            | .wait a => (match slot true with
              | .held _ => .held { a with fab := { a.fab with chunks := a.fab.chunks ++ [⟨n, l, msg, true⟩] } }
              | r => r)
            | r => r

/-! ### The timer and withdrawal (R410, R419) -/

/-- A step's timer expires (R419): every unsettled member is timed out, the lines still unacknowledged are given up and the
report says stale. -/
def expireStep (s : State) (n : Nat) (seq : BitVec 32) : State :=
  match s.openStep n seq with
  | none => s
  | some x =>
    if x.version.timeout = 0 ∨ !x.timerRuns then s
    else
      (s.onStep n seq fun y => { y with
        settles := y.settles.map fun z => if y.settled z then z else { z with timedOut := true }
        unacked := []
        stale := true }).closeStep n seq

/-- A line to the window `w` that has been answered, or is given up, is kept no more; one refused as stale is reported (R401, R420). -/
def dropLine (s : State) (n : Nat) (seq : BitVec 32) (num : BitVec 32) (w : Nat × Nat) (stale : Bool) : State :=
  (s.onStep n seq fun y =>
    let hit (u : Nat × BitVec 32) : Bool := u.2 == num && y.version.members[u.1]? == some w
    { y with unacked := (match y.unacked.find? hit with | some u => y.unacked.erase u | none => y.unacked), stale := y.stale || stale }).closeStep n seq

end State

end Sys2Proof.Machine
end

