-- ==== Sys2Proof/Machine/Fabric.lean ====
section
/-!
DEFINITION. Messages as they arrive and as their answers return (R298, R397 to R407, R416, R417): the reorder buffer, delivery,
acknowledgement, refusal, retry, the end of a flow, and records leaving for other windows.
-/

namespace Sys2Proof.Machine

open Sys2Proof.Bits

/-- What delivery of a message comes to (R400, R401): delivered with what its answer carries, held (its answer comes later),
refused with a reason, or waiting at the destination. -/
inductive Delivered where
  | done (data : Bytes) (stamp : Word) (fault : BitVec 8) (s : State)
  | held (s : State)
  | refused (reason : BitVec 4) (s : State)
  | wait (s : State)

/-! ### Records (R298) -/

/-- Remote entries that a window has free (R288). -/
def Core.remoteRoom (c : Core) : Nat := c.board.rres.toNat - (c.board.entries.filter (·.remote)).length

namespace State

/-- Records enter a window one after another, as one bundle where they form one (R82, R298): each is checked against the window's rings as
it enters (R339, R345). The record that fails, with its fault, where one does. -/
def enterPosts (s : State) (n : Nat) (bundle : Bool) (poster : Option Nat) : List RemoteRec → Option (BitVec 32) → Except (Posted × Trap) State
  | [], _ => .ok s
  | r :: rs, head =>
    let c := s.coreAt n
    let p : Posted := ⟨r.words, r.caps⟩
    match ringCheck c p with
    | some t => .error (p, t)
    | none =>
      (s.setCore n (postRemote c p (bundle && head.isNone) (bundle && head.isSome) (if bundle then head.getD 0 else 0) poster none)).enterPosts
        n bundle poster rs (some (head.getD c.board.nextSeq))

/-- A record, or a bundle, for a window of this chip (R298): accepted whole, or refused full. One that fails a check at post does not
enter. `poster` is the team of this chip it comes from. A message carries one record, or a bundle (R399). -/
def acceptAt (s : State) (n : Nat) (m : PostMsg) (poster : Option Nat) (stamp : Word) : Delivered :=
  if !m.bundle ∧ m.recs.length ≠ 1 then .wait s
  else if (s.coreAt n).remoteRoom < m.recs.length then .refused 1 s
  else match s.enterPosts n m.bundle poster m.recs none with
    | .ok a => .done [] 0 0 (a.stampBy n stamp)
    | .error (p, t) => .done [] 0 0 (s.onCore n fun c => c.refuseRecord p true t)

/-! ### Accesses (R402) -/

/-- The request of a class 1 message. -/
def portOp : RemOp → PortOp
  | .read n => .read n
  | .write d => .write d
  | .rmw op t b d => .rmw op t b d

/-- A report as an answer's bytes. -/
def mmxBytes (ws : List Word) : Bytes := ws.flatMap fun w => toBytes w 8

/-- The number that names the window of a message in this chip's directories: its home core (R398), or, of a window of this chip, the one its
own entries have. -/
def windowFrom (s : State) (m : FlowMsg) : Nat :=
  if m.flow.srcChip = s.dev.chip then (match s.unacked m.flow m.seq with | some u => s.ownerAt m.flow.srcCore u | none => m.home) else m.home

/-- An access of another window at this chip's port (R402), checked under R16 and performed; one of a thread is entered in the directory
until it has been performed, a task's footprint stands there already (R362). A write is refused where a hold buffer is full (R401) or no
reserve grain is free (R469); an atomic operation waits for a migration to end (R440). -/
def serveAccess (s : State) (m : FlowMsg) (cap : Cap) (t off : Nat) (op : RemOp) (marked task : Bool) : Delivered :=
  let p := portOp op
  let w := s.windowFrom m
  let es := if Cap.has cap 6 ∨ p.len = 0 ∨ task then []
    else dirEntries ⟨m.flow.srcChip, w, false, m.seq.toNat, marked, 0⟩ (Cap.obj cap) (off / 4096) ((off + p.len - 1) / 4096) p.writes
  let clear (a : State) : State := if task then a else a.dirRemove m.flow.srcChip w false m.seq.toNat
  match s.dirInsert (es.filter fun e => !s.hbm.dir.contains e) with
  | .full => .wait s
  | .mmx r => .done (mmxBytes r) 0 0x0A s
  | .made s1 => match s1.portAccess t (Cap.obj cap) off p m.stamp with
    | .done data stamp s2 => .done data stamp 0 (clear s2)
    | .fault c => .done [] 0 c (clear s1)
    | .page _ => .wait s1
    | .hold s2 =>
      let waits := s.portStopped (Cap.obj cap) off || (s.migrating (Cap.obj cap) off && match p with | .rmw .. => true | _ => false)
      if waits then .wait s2 else .refused 2 (clear s2)

/-! ### Footprints of other chips' tasks (R361 to R363) -/

/-- The entries of a task of another chip in this chip's directories, in ascending order of stack: one for each of its footprints here in
each span, except through nocheck (R368). -/
def farEntries (m : FlowMsg) (party : Nat) (tag : Word) (feet : List RemFoot) : List DirEntry :=
  let p : DirParty' := ⟨m.flow.srcChip, m.home, true, party, false, tag⟩
  let es := feet.flatMap fun f => if Cap.has f.cap 6 ∨ f.count = 0 then [] else dirEntries p (Cap.obj f.cap) f.lo (f.lo + f.count - 1) f.writes
  (List.range 12).flatMap fun k => es.filter (·.stack == k)

/-- The entries of a task of another chip made, one directory at a time (R363); a conflict withdraws those made so far, and its report is
the answer. -/
def serveEnter (s : State) (m : FlowMsg) (party : Nat) (tag : Word) (feet : List RemFoot) : Delivered :=
  let es := farEntries m party tag feet
  match s.dirInsert (s.nextEntries es) with
  | .full => .wait s
  | .mmx r => .done (mmxBytes r) 0 0x0A (s.dirRemove m.flow.srcChip m.home true party)
  | .made s1 => if (s1.nextEntries es).isEmpty then .done [] 0 0 s1 else .wait s1

/-- The entries of a task of another chip removed, but for those of footprints it still holds, which stay as read entries (R362). -/
def serveLeave (s : State) (m : FlowMsg) (home party : Nat) (keep : List RemFoot) : State :=
  let mine (d : DirEntry) : Bool := d.chip == m.flow.srcChip && d.core == home && d.task && d.party == party
  let held (d : DirEntry) : Bool := keep.any fun f => Cap.obj f.cap == d.obj && decide (f.lo ≤ d.hi ∧ d.lo < f.lo + f.count)
  { s with hbm := { s.hbm with dir := (s.hbm.dir.filter fun d => !mine d || held d).map fun d => if mine d then { d with writes := false } else d } }

/-! ### Lines (R416, R422) -/

/-- The receive box of a step, where its adds merge in the switches: in HBM of this chip, of op add (R422). -/
def mergeBox (s : State) (n : Nat) (x : CollStep) : Option Box :=
  match (s.coreAt n).entry x.seq with
  | none => none
  | some e => match e.post.box 1 with
    | none => none
    | some b => if nfield (e.post.word 7) 20 4 = 1 ∧ s.sideOf b (e.post.cap 1) = .mem (Cap.obj (e.post.cap 1)) then some b else none

/-- A line of an open step is merged in the switches (R422): its bytes lie wholly in a window of its group. -/
def lineWindowed (s : State) (n : Nat) (x : CollStep) (l : Line) : Bool :=
  match s.mergeBox n x, (s.coreAt n).entry x.seq with
  | some b, some e =>
    (s.tenant x.tenant).windows.any fun w => match w.2 with
      | some v => nfield v.w0 0 16 == x.group && nfield v.w0 40 24 == Cap.obj (e.post.cap 1) && nfield v.w0 30 10 == s.dev.chip
          && decide (nfield v.w1 8 28 * 4096 ≤ boxByte b l.toOff) && decide (boxByte b l.toOff + l.payload.length ≤ (nfield v.w1 36 28 + 1) * 4096)
      | none => false
  | _, _ => false

/-- A line for the window of a core of this chip. One of an open step that the switches merge does not arrive as a line, unless it is stale. -/
def serveLine (s : State) (n : Nat) (l : Line) (msg : Option (FlowId × BitVec 32)) (turn : Bool) : Delivered :=
  let of (r : ArriveRes) : Delivered := match r with
    | .done a => .done [] 0 0 a
    | .held a => .held a
    | .refused k a => .refused k a
    | .wait a => .wait a
  if Line.isEnd l then of (s.endLineAt n l)
  else match s.lineStep n l with
    | some x => if s.lineWindowed n x l ∧ !staleLine x l then .wait s else of (s.lineAt n l msg turn)
    | none => of (s.lineAt n l msg turn)

/-- A held line's message. -/
def inSlot (s : State) (f : FlowId) (seq : BitVec 32) : Bool := s.fab.chunks.any fun k => k.msg == some (f, seq)

/-- A message that brought a version which is still to be installed. -/
def inWaiting (s : State) (f : FlowId) (seq : BitVec 32) : Bool :=
  s.sched.tenants.any fun t => t.2.groups.any fun g => match g.2 with | some x => x.waiting.any fun w => w.msg == some (f, seq) | none => false

/-- Every earlier message of an ordered flow has been delivered or stands in a chunk slot (R400). -/
def turnOf (s : State) (f : FlowId) (seq : BitVec 32) : Bool :=
  let i := s.flowIn f
  let d := (seq - i.next).toNat
  decide (d ≤ 65536) && (List.range d).all fun k => i.beyond.contains (i.next + BitVec.ofNat 32 k) || s.inSlot f (i.next + BitVec.ofNat 32 k)

/-! ### Member notices and installations (R409, R410) -/

/-- The window a member index of a group's newest installed version names. -/
def memberAt (s : State) (t g m : Nat) : Option (Nat × Nat) := (s.collVersion t g).bind fun v => v.members[m]?

end State

/-- A version with the state of one window changed; a withdrawn member stays withdrawn (R410). -/
def Version.mark (v : Version) (w : Nat × Nat) (x : MemberState) : Version :=
  { v with states := (v.members.zip v.states).map fun p => if p.1 = w ∧ p.2 ≠ .withdrawn then x else p.2 }

/-- A group with the state of one window changed, in the versions that wait, too. -/
def Group.mark (a : Group) (w : Nat × Nat) (x : MemberState) : Group :=
  let later (v : Waiting) : Waiting := { v with version := v.version.mark w x }
  { a with installed := a.installed.map fun (v : Version) => v.mark w x, waiting := a.waiting.map later }

/-- The states that the members of a new version begin with (R410): those it withdraws are withdrawn, and a window that the version before
it holds absent-pending stays so until its present notice. -/
def startStates (old : Option Version) (members : List (Nat × Nat)) (withdrawn : List Nat) : List MemberState :=
  (members.zipIdx).map fun w =>
    if withdrawn.contains w.2 then .withdrawn
    else match old with
      | none => .present
      | some v => if (v.members.zip v.states).contains (w.1, .absentPending) then .absentPending else .present

namespace State

/-- The state of a window changed in every version of a group that this chip holds, and in the steps that are open (R409,
R410). -/
def markMember (s : State) (t g : Nat) (w : Nat × Nat) (x : MemberState) : State :=
  let s1 := match s.collGroup t g with
    | none => s
    | some a => s.setGroup t g (some (a.mark w x))
  let on (y : CollStep) : CollStep := if y.tenant = t ∧ y.group = g then { y with version := y.version.mark w x } else y
  { s1 with fab := { s1.fab with steps := s1.fab.steps.map on } }

/-- A line that stands in a slot and can be applied, applied (R417): its message is then acknowledged. A line that can never be
applied is refused stale. -/
def applyHeld (s : State) (n : Nat) (seq : BitVec 32) : State :=
  match s.openStep n seq, (s.coreAt n).entry seq with
  | some x, some e =>
    let mine (k : ChunkLine) : Bool := k.core == n && k.line.group == x.group && k.line.step == x.step
    let dead (k : ChunkLine) : Bool := mine k && (x.atOnce || k.line.version != x.version.num ||
      (match x.settle k.line.sender with | none => true | some y => y.timedOut))
    let s1 := (s.fab.chunks.filter dead).foldl (fun a k => a.settleMsg k.msg 4) s
    let s2 : State := { s1 with fab := { s1.fab with chunks := s1.fab.chunks.filter fun k => !dead k } }
    let first (k : ChunkLine) : Bool := match k.msg with | some (f, q) => !f.ordered || (s2.flowIn f).next == q | none => true
    match s2.fab.chunks.find? fun k => mine k && appliesNow x k.line && first k && !s2.lineWindowed n x k.line with
    | none => s2
    | some k =>
      if e.fault.isSome then s2
      else
        let rest : State := { s2 with fab := { s2.fab with chunks := s2.fab.chunks.erase k } }
        match rest.applyLine n x e k.line with
        | .done a => a.settleMsg k.msg 0
        | .refused r a => a.settleMsg k.msg r
        | .held a => a
        | .wait a => { a with fab := { a.fab with chunks := a.fab.chunks ++ [k] } }
  | _, _ => s

/-- Held lines of a step applied as far as they can be. -/
def applyAll (s : State) (n : Nat) (seq : BitVec 32) : Nat → State
  | 0 => s
  | fuel + 1 => (s.applyHeld n seq).applyAll n seq fuel

/-- Messages of a flow sent again from a number on (R401): that message, and on an ordered flow every later one. -/
def resend (s : State) (f : FlowId) (seq : BitVec 32) : State :=
  match s.flowOut f with
  | none => s
  | some o =>
    if o.held then s
    else
      let again (u : Unacked) : Bool := u.msg.seq == seq || (f.ordered && decide ((u.msg.seq - seq).toNat < 2 ^ 31))
      let ms := (o.unacked.filter again).map Unacked.msg
      let s1 := s.setFlowOut { o with unacked := o.unacked.map fun u => if again u then { u with hold := 0 } else u }
      { s1 with fab := { s1.fab with net := (s1.fab.net.filter fun m => !ms.contains m) ++ ms } }

/-- Messages that wait for a window's present notice (R401), by flow and number. -/
def absentFor (s : State) (t : Nat) (w : Nat × Nat) : List (FlowId × BitVec 32) :=
  s.fab.flowsOut.flatMap fun o => (o.unacked.filter fun u => u.hold == 3 && u.tenant == t && u.lid == w.1 &&
    (match u.msg.body with | .post c _ => c == w.2 | .line c _ _ => c == w.2 | _ => true)).map fun u => (o.id, u.msg.seq)

/-- Messages of this chip that wait for a window of it, sent again as its team resumes (R401). -/
def windowBack (s : State) (n : Nat) : State :=
  let t := s.tenantOf n
  let mine := (s.tenant t).peers.map Prod.fst |>.filter (s.ownLid t)
  mine.foldl (fun a lid => (a.absentFor t (lid, s.homeCore n)).foldl (fun b x => b.resend x.1 x.2) a) s

/-- A member becomes absent-pending (R410). -/
def memberAbsent (s : State) (t g m : Nat) : State :=
  match s.memberAt t g m with | some w => s.markMember t g w .absentPending | none => s

/-- A member is present again (R410): messages that waited for it are sent again. -/
def memberPresent (s : State) (t g m : Nat) : State :=
  match s.memberAt t g m with
  | none => s
  | some w => (s.absentFor t w).foldl (fun a x => a.resend x.1 x.2) (s.markMember t g w .present)

/-- A window is withdrawn from a group (R410): lines of its that wait in slots are applied if they can be, lines held back for
it are dropped, and steps that are now settled close. -/
def withdrawWindow (s : State) (t g : Nat) (w : Nat × Nat) : State :=
  let open' := s.fab.steps.filter fun x => x.tenant == t && x.group == g
  let s1 := open'.foldl (fun a x => a.applyAll x.core x.seq a.fab.chunks.length) s
  let s2 := s1.markMember t g w .withdrawn
  let held := s2.fab.flowsOut.flatMap fun o => (o.unacked.filter fun u => u.hold != 0 && u.tenant == t && u.lid == w.1 &&
    (match u.msg.body with | .line c _ l => c == w.2 && l.group == g | _ => false)).map fun u => (o.id, u)
  let s3 := held.foldl (fun a x => match x.2.msg.body with
    | .line _ _ l => (a.dropMsg x.1 x.2.msg.seq).dropLine (a.ownerAt x.1.srcCore x.2) (BitVec.ofNat 32 x.2.party) (Line.num l) w false
    | _ => a) s2
  (s3.fab.steps.filter fun x => x.tenant == t && x.group == g).foldl (fun a x => a.closeStep x.core x.seq) s3

/-- A member is withdrawn (R410). -/
def memberWithdrawn (s : State) (t g m : Nat) : State :=
  match s.memberAt t g m with | some w => s.withdrawWindow t g w | none => s

/-- A notice of a kind, as messages carry it. -/
def noticeOf (s : State) (t g m kind : Nat) : State :=
  match kind with
  | 0 => s.memberAbsent t g m
  | 1 => s.memberPresent t g m
  | 2 => s.memberWithdrawn t g m
  | _ => s

/-- The newest version of a group, installed or waiting: the one a membership record names (R116, R409). -/
def newestVersion (s : State) (t g : Nat) : Option Version :=
  match s.collGroup t g with
  | none => none
  | some x => match x.waiting.getLast? with | some w => some w.version | none => x.installed.head?

/-- A version put where it waits for its installation. -/
def queueVersion (s : State) (t g : Nat) (w : Waiting) : State :=
  let x := (s.collGroup t g).getD ⟨[], [], []⟩
  s.setGroup t g (some { x with waiting := x.waiting ++ [w] })

/-! ### Delivery (R400) -/

/-- The team that sent a message of this chip's. -/
def sender (s : State) (m : FlowMsg) : Option Nat := ((s.unacked m.flow m.seq).bind Unacked.member).map Prod.fst

/-- The body of a message delivered at this chip. -/
def deliverBody (s : State) (m : FlowMsg) (turn : Bool) : Delivered :=
  match m.body with
  | .post home p => match s.windowOf p.tenant home with
    | .error r => .refused r s
    | .ok n => if s.clockStopped n then .wait s else s.acceptAt n p (s.sender m) m.stamp
  | .access cap t off op marked task => s.serveAccess m cap t off op marked task
  | .line home t l => match s.windowOf t home with
    | .error r => .refused r s
    | .ok n => if s.clockStopped n then .wait s else s.serveLine n l (some (m.flow, m.seq)) turn
  | .notice t g k kind => .done [] 0 0 (s.noticeOf t g k kind)
  | .install t g ver limit members withdrawn =>
    .held (s.queueVersion t g ⟨⟨ver, limit, members, startStates (s.newestVersion t g) members withdrawn⟩, some (m.flow, m.seq)⟩)
  | .enter _ party tag feet => s.serveEnter m party tag feet
  | .leave home party keep => .done [] 0 0 (s.serveLeave m home party keep)

/-- A message of a flow at this chip (R400, R401): delivered once, in order on an ordered flow. A message of this chip's own
must be on its way. -/
def receive (s : State) (m : FlowMsg) : State :=
  if m.flow.dstChip ≠ s.dev.chip ∨ (m.flow.srcChip = s.dev.chip ∧ !s.fab.net.contains m) then s
  else if (s.flowIn m.flow).seen m.seq ∨ s.inSlot m.flow m.seq ∨ s.inWaiting m.flow m.seq then s.dropNet m.flow m.seq
  else if m.flow.ordered ∧ !s.turnOf m.flow m.seq then s
  else match s.deliverBody m (!m.flow.ordered || (s.flowIn m.flow).next == m.seq) with
    | .done data stamp fault a => ((a.dropNet m.flow m.seq).noteIn m.flow m.seq).reply m.flow m.seq 0 data stamp fault
    | .held a => a.dropNet m.flow m.seq
    | .wait a => a
    | .refused r a =>
      let b := a.dropNet m.flow m.seq
      (if r = 4 then b.noteIn m.flow m.seq else b).reply m.flow m.seq r [] 0 0

/-- A message on its way here whose body satisfies a test. -/
def inNet (s : State) (p : MsgBody → Bool) : Option FlowMsg := s.fab.net.find? fun m => m.flow.dstChip == s.dev.chip && p m.body

/-- The window that a home core names stands on a core. -/
def answersOn (s : State) (t home n : Nat) : Bool := match s.windowOf t home with | .ok k => k == n | .error _ => false

/-- What an arrival from another chip, named without its flow, leaves. -/
def outcomeOf (s : State) (r : Delivered) : State :=
  match r with | .done _ _ _ a => a | .held a => a | .wait a => a | .refused .. => s

/-- A collective line or end line at the window of a core (R416). One of a member on this chip must be on its way. -/
def lineArrives (s : State) (n : Nat) (l : Line) (isEnd : Bool) : State :=
  if Line.isEnd l ≠ isEnd then s
  else
    let fit (b : MsgBody) : Bool := match b with | .line home t k => k == l && s.answersOn t home n | _ => false
    match s.inNet fit with
    | some m => s.receive m
    | none =>
      let t := s.tenantOf n
      let version := match s.lineStep n l with | some x => some x.version | none => s.collVersion t l.group
      let local' : Bool := match version.bind fun v => v.members[l.sender]? with | some w => s.ownLid t w.1 | none => false
      if (s.coreAt n).team.isNone ∨ local' ∨ (!isEnd ∧ s.lineSeen n l) then s else s.outcomeOf (s.serveLine n l none true)

/-! ### Answers (R401, R403) -/

/-- This chip's answer to one of its own messages, taken; none where it has not been given. -/
def takeReply (s : State) (f : FlowId) (seq : BitVec 32) (p : FlowReply → Bool) : Option (FlowReply × State) :=
  match s.fab.replies.find? fun r => r.flow == f && r.seq == seq && p r with
  | none => none
  | some r => some (r, { s with fab := { s.fab with replies := s.fab.replies.erase r } })

/-- Bytes an access returns. -/
def answerLen : RemOp → Nat
  | .read n => n
  | .write _ => 0
  | .rmw op t _ _ => rmwWidth op t / 8

/-- Bytes that another chip's memory returns: nothing in this package holds them. -/
def remoteBytes : Nat → State → Bytes × State
  | 0, s => ([], s)
  | n + 1, s =>
    let (v, s1) := s.draw
    let (bs, s2) := remoteBytes n s1
    (toBytes v 8 ++ bs, s2)

/-- The faults that another chip's port may answer with (R16, R366, R379): performed, an object fault, an MMX, a timeline fault or a soft
error. -/
def portFaults : List (BitVec 8) := [0, 0x07, 0x0A, 0x0D, 0x12]

/-- The acknowledgement that returns: this chip's own, or another chip's, whose fault, bytes and stamp are free values. -/
def ackOf (s : State) (u : Unacked) : Option (FlowReply × State) :=
  if u.msg.flow.dstChip = s.dev.chip then s.takeReply u.msg.flow u.msg.seq (·.reason == 0)
  else match u.msg.body with
    | .access _ _ _ op .. =>
      let (w, s0) := s.draw
      let fault := (portFaults[w.toNat % portFaults.length]?).getD 0
      let (bs, s1) := remoteBytes (if fault = 0x0A then 4 else (answerLen op + 7) / 8) s0
      let (v, s2) := s1.draw
      some (⟨u.msg.flow, u.msg.seq, 0, if fault = 0x0A then bs else bs.take (answerLen op), v, fault⟩, s2)
    | .enter .. =>
      let (w, s0) := s.draw
      let (bs, s1) := remoteBytes 4 s0
      some (⟨u.msg.flow, u.msg.seq, 0, bs, 0, if w.toNat % 2 = 0 then 0 else 0x0A⟩, s1)
    | _ => some (⟨u.msg.flow, u.msg.seq, 0, [], 0, 0⟩, s)

/-- The report that an answer carries with an MMX (R367). -/
def answerReport (r : FlowReply) : List Word :=
  if r.fault = 0x0A then (List.range 4).map fun i => wordOfBytes ((r.data.drop (8 * i)).take 8) else []

/-- A scalar access or a reduction gets its answer (R402). -/
def answerOp (s : State) (n k : Nat) (r : FlowReply) : State :=
  let c := s.coreAt n
  match c.accOp k with
  | some o =>
    if r.fault = 0 then s.accDone n o r.data r.stamp
    else
      let report := answerReport r
      s.accFails n o (accTrap r.fault 0 o.word ((report.head?).getD (BitVec.ofNat 64 o.addr)) report)
  | none => match c.redEntry k with
    | none => s
    | some q => if r.fault = 0 then s.redDone n k
        else if r.fault = 0x0A then
          let report := answerReport r
          ((s.countTrap n 0x0A).onCore n fun c => (c.onRed q.id fun y => { y with sent := false })).onCore n fun c =>
            c.faultAfter q.grp q.id (accTrap 0x0A 0 q.word ((report.head?).getD 0) report)
        else if r.fault = 0x07 then s.redFails n q 0x0E (rmwCode q.op) else s.redFails n q r.fault 0

/-- A request of a copy task gets its answer (R336, R402). -/
def answerTask (s : State) (n : Nat) (seq : BitVec 32) (f : FlowId) (q : BitVec 32) (r : FlowReply) : State :=
  let c := s.coreAt n
  match c.eng.copyReqs.find? (·.flow == some (f, q)), c.entry seq with
  | some x, some e =>
    if r.fault ≠ 0 then s.faultCopy n x.chan e ⟨r.fault, 0, walkDetail r.fault x.walk (if x.data.isSome then x.dst else x.src)⟩
    else if x.data.isNone then s.onReq n x.tag fun y => { y with flow := none, data := some r.data }
    else s.onReq n x.tag fun y => { y with flow := none, answered := true }
  | _, _ => s

/-- A member chip has installed a version that a record of this chip asked for (R116): once all have, the record completes. -/
def chipInstalled (s : State) (t g : Nat) (ver : BitVec 32) (lid : Nat) : State :=
  match s.collGroup t g with
  | none => s
  | some x =>
    let step (a : Asked) : Asked := if a.num = ver then { a with chips := a.chips.filter (· != lid) } else a
    let all := x.asked.map step
    let s1 := s.setGroup t g (some { x with asked := all.filter fun a => !a.chips.isEmpty })
    (all.filter fun a => a.chips.isEmpty).foldl (fun b a => b.setOutcome a.rec'.1 a.rec'.2.1 a.rec'.2.2 0 a.num none) s1

/-- A request made apart from the access unit gets its answer (R402): a thread's reading of records raises its stamp (R456). -/
def askAnswered (s : State) (f : FlowId) (q : BitVec 32) (r : FlowReply) : State :=
  let s1 := match s.fab.asks.find? fun a => a.msg == (f, q) && a.role == .thread with | some a => s.stampBy a.core r.stamp | none => s
  s1.answerAsk f q r.fault r.data

/-- One record of a task's entries at another chip changed, or dropped. -/
def onRemDir (s : State) (msg : FlowId × BitVec 32) (g : RemDir → Option RemDir) : State :=
  { s with fab := { s.fab with remDirs := s.fab.remDirs.filterMap fun (r : RemDir) => if r.msg = some msg then g r else some r } }

/-- The answer to a task's entries at another chip, or to their removal (R362, R363). Entries of a task that is no more are to be removed
again. -/
def dirAnswered (s : State) (f : FlowId) (q : BitVec 32) (r : FlowReply) : State :=
  match s.fab.remDirs.find? fun x => x.msg == some (f, q) with
  | none => s
  | some x =>
    let e := (s.coreAt x.core).entry (BitVec.ofNat 32 x.party)
    if x.stage = .removing then
      if x.keep.isEmpty then s.onRemDir (f, q) fun _ => none
      else
        let alive := e.isSome || (s.coreAt x.core).board.held.any (·.entry.seq.toNat == x.party)
        s.onRemDir (f, q) fun y => some { y with msg := none, keep := [], stage := if alive then .kept else .leaving }
    else if r.fault = 0 then
      s.onRemDir (f, q) fun y => some { y with msg := none, stage := if y.stage = .asked ∧ e.isSome then .made else .leaving }
    else
      let s1 := s.onRemDir (f, q) fun _ => none
      let report := answerReport r
      match e with
      | some e => s1.enterFails x.core e ⟨0x0A, 0, (report.head?).getD 0⟩ report
      | none => s1

/-- Control messages that were kept back leave in order, as far as they can (R397); `blocked` are the logical chips of those that cannot. -/
def sendKept (s : State) (blocked : List (Nat × Nat)) : List (Nat × Nat × MsgBody) → State
  | [] => s
  | (t, lid, b) :: r =>
    let keep : State := { s with fab := { s.fab with control := s.fab.control ++ [(t, lid, b)] } }
    if blocked.contains (t, lid) then keep.sendKept blocked r
    else match s.sendFlow 0 t lid 3 false 0 b 0 false with
      | .sent _ _ a => a.sendKept blocked r
      | .invalid => s.sendKept blocked r
      | .waits => keep.sendKept ((t, lid) :: blocked) r

/-- The same of all of them. -/
def sendControls (s : State) : State := ({ s with fab := { s.fab with control := [] } } : State).sendKept [] s.fab.control

/-- An acknowledgement reaches its sender (R401). -/
def acked (s : State) (core : Nat) (f : FlowId) (seq : BitVec 32) : State :=
  if f.srcChip ≠ s.dev.chip ∨ f.srcCore ≠ core then s
  else match s.unacked f seq with
    | none => s
    | some u => match s.ackOf u with
      | none => s
      | some (r, s1) =>
        let s2 := (s1.dropUnacked f seq).dropNet f seq
        let n := s.ownerAt core u
        sendControls <| match u.msg.body with
        | .access .. =>
          if s.fab.asks.any (·.msg == (f, seq)) then s2.askAnswered f seq r
          else if u.isTask then s2.answerTask n (BitVec.ofNat 32 u.party) f seq r
          else s2.answerOp n u.party r
        | .post .. => s2.onCore n fun c => { c with outPosts := c.outPosts.filter fun o => o.sent != some (f, seq) }
        | .line home _ l => s2.dropLine n (BitVec.ofNat 32 u.party) (Line.num l) (u.lid, home) false
        | .notice .. => s2
        | .install t g ver .. => s2.chipInstalled t g ver u.lid
        | .enter .. | .leave .. => (s2.dirAnswered f seq r).sendLeaves

/-- A task that has met no fault yet faults. -/
def faultOnce (s : State) (n : Nat) (seq : BitVec 32) (f : TaskFault) : State :=
  match (s.coreAt n).entry seq with
  | some e => if e.fault.isSome then s else s.faultTask n seq f []
  | none => s

/-- What a kept message is marked with after a refusal. -/
def holdBack (s : State) (f : FlowId) (seq : BitVec 32) (reason : BitVec 4) : State :=
  match s.flowOut f with
  | none => s
  | some o => s.setFlowOut { o with
      held := o.held || reason == 5
      unacked := o.unacked.map fun u => if u.msg.seq = seq then { u with hold := reason } else u }

/-- A member that a step's line was for is withdrawn in it (R410): a refusal settles the line. -/
def lineGone (s : State) (n : Nat) (seq : BitVec 32) (w : Nat × Nat) : Bool :=
  match s.openStep n seq with
  | none => false
  | some x => (x.version.members.zip x.version.states).contains (w, .withdrawn)

/-- A refusal reaches its sender (R401). -/
def refusedBy (s : State) (core : Nat) (f : FlowId) (seq : BitVec 32) (reason : BitVec 4) : State :=
  if f.srcChip ≠ s.dev.chip ∨ f.srcCore ≠ core then s
  else match s.unacked f seq with
    | none => s
    | some u =>
      let r : Option State := if f.dstChip = s.dev.chip then (s.takeReply f seq fun r => r.reason == reason && reason != 0).map Prod.snd else some s
      match r with
      | none => s
      | some s0 =>
        let s1 := s0.dropNet f seq
        let q := BitVec.ofNat 32 u.party
        let n := s.ownerAt core u
        match reason.toNat with
        | 1 | 2 | 3 | 5 =>
          (match u.msg.body with
           | .line home _ l =>
             if s1.lineGone n q (u.lid, home) then
               ((if reason = 5 then s1.holdBack f seq reason else s1).dropMsg f seq).dropLine n q (Line.num l) (u.lid, home) false
             else s1.holdBack f seq reason
           | _ => s1.holdBack f seq reason)
        | 4 => match u.msg.body with
          | .line home _ l => (s1.dropUnacked f seq).dropLine n q (Line.num l) (u.lid, home) true
          | _ => s1.dropUnacked f seq
        | 6 => match u.msg.body with
          | .line _ _ l =>
            let len := match (s.coreAt n).entry q with | some e => (match collNest e with | some x => x.len | none => 0) | none => 0
            (s1.holdBack f seq 6).faultOnce n q ⟨0x05, 0, BitVec.ofNat 64 (l.xfer * len)⟩
          | _ => s1.dropUnacked f seq
        | 7 => s1.resend f seq
        | _ => s

/-- A message waits for the present notice of a window that no group of its tenant names (R401): none of R410 tells of it, so that its
coming back is this chip's to find out. -/
def ungrouped (s : State) (u : Unacked) : Bool :=
  match u.msg.body with
  | .post home _ | .line home _ _ =>
    !(s.tenant u.tenant).groups.any fun g => match g.2 with | some x => x.installed.any fun v => v.members.contains (u.lid, home) | none => false
  | _ => false

/-- A refused message is sent again after its wait (R401). -/
def retryMsg (s : State) (core : Nat) (f : FlowId) (seq : BitVec 32) : State :=
  if f.srcChip ≠ s.dev.chip ∨ f.srcCore ≠ core then s
  else match s.unacked f seq with
    | some u => if u.hold = 1 ∨ u.hold = 2 ∨ (u.hold = 3 ∧ s.ungrouped u) then s.resend f seq else s
    | none => s

/-- What a party learns when firmware ends its flow (R403): a fabric fault of reason 2. -/
def partyEnds (s : State) (n : Nat) (u : Unacked) : State :=
  let q := BitVec.ofNat 32 u.party
  let info : Word := BitVec.ofNat 64 u.lid
  let id := (u.msg.flow, u.msg.seq)
  match u.msg.body with
  | .access .. =>
    if s.fab.asks.any (·.msg == id) then s.answerAsk u.msg.flow u.msg.seq 0x0C []
    else if u.isTask then
      (match (s.coreAt n).eng.copyReqs.find? (·.flow == some (u.msg.flow, u.msg.seq)), (s.coreAt n).entry q with
       | some x, some e => s.faultCopy n x.chan e ⟨0x0C, 0x02, info⟩
       | _, _ => s)
    else (match (s.coreAt n).accOp u.party with
      | some o => s.accFails n o (accTrap 0x0C 0x02 o.word info [])
      | none => match (s.coreAt n).redEntry u.party with | some r => s.redFails n r 0x0C 0x02 | none => s)
  | .post .. => s.onCore n fun c => { c with outPosts := c.outPosts.filter fun o => o.sent != some (u.msg.flow, u.msg.seq) }
  | .line home _ l =>
    (s.faultOnce n q ⟨0x0C, 0x02, info⟩).dropLine n q (Line.num l) (u.lid, home) false
  | .enter .. =>
    let s1 := s.onRemDir id fun _ => none
    (match (s.coreAt n).entry q with | some e => s1.enterFails n e ⟨0x0C, 0x02, info⟩ [] | none => s1)
  | .leave .. => s.onRemDir id fun _ => none
  | _ => s

/-- Firmware ends a flow that is held after reason moved (R401, R403). Its parties fault; records of `POSTR` are lost, which the
next `POSTR` there reports. -/
def endFlow (s : State) (core : Nat) (f : FlowId) : State :=
  match s.flowOut f with
  | none => s
  | some o =>
    if f.srcChip ≠ s.dev.chip ∨ f.srcCore ≠ core ∨ !o.held then s
    else
      let posts := (o.unacked.filterMap fun u => match u.msg.body with | .post .. => some (u.tenant, u.lid) | _ => none).eraseDups
      let left : List FlowOut := if posts.isEmpty then [] else [{ o with next := 0, unacked := [], held := false, ended := posts }]
      let gone : State := { s with fab := { s.fab with
        flowsOut := (s.fab.flowsOut.filter (·.id != f)) ++ left
        flowsIn := if f.dstChip = s.dev.chip then s.fab.flowsIn.filter (·.id != f) else s.fab.flowsIn
        net := s.fab.net.filter (·.flow != f) } }
      sendControls (o.unacked.foldl (fun a u => a.partyEnds (s.ownerAt core u) u) gone)

/-- Lines refused as overrun (R401): sent again once their task has been retried, given up once its step is dropped or over. -/
def overruns (s : State) (n : Nat) (seq : BitVec 32) : State :=
  let mine := s.fab.flowsOut.flatMap fun o => if o.id.cls = 2 then
    (o.unacked.filter fun u => u.hold == 6 && u.party == seq.toNat && s.ownerAt o.id.srcCore u == n).map fun u => (o.id, u.msg.seq) else []
  let dead : Bool := match s.openStep n seq with | some x => x.dropped || x.unacked.isEmpty | none => true
  let faulted : Bool := match (s.coreAt n).entry seq with | some e => e.fault.isSome | none => false
  if dead then mine.foldl (fun a x => a.dropMsg x.1 x.2) s
  else if faulted then s
  else mine.foldl (fun a x => a.resend x.1 x.2) s

/-! ### Remapping (R397) -/

/-- What waits for a message's answer waits for that of the message it is sent again as. -/
def moveParty (s : State) (n : Nat) (old new : FlowId × BitVec 32) : State :=
  let s1 := s.onCore n fun c =>
    let c1 : Core := { c with outPosts := c.outPosts.map fun o => if o.sent = some old then { o with sent := some new } else o }
    c1.onEng fun g => { g with copyReqs := g.copyReqs.map fun x => if x.flow = some old then { x with flow := some new } else x }
  { s1 with fab := { s1.fab with
      asks := s1.fab.asks.map fun (a : Ask) => if a.msg = old then { a with msg := new } else a
      remDirs := s1.fab.remDirs.map fun (r : RemDir) => if r.msg = some old then { r with msg := some new } else r } }

/-- Messages of an old flow sent on the new one, in order. -/
def moveMsgs (s : State) (t lid : Nat) : List (FlowId × Unacked) → State
  | [] => s
  | (f, u) :: r =>
    match s.sendFlow f.srcCore t lid f.cls f.ordered u.msg.stamp u.msg.body u.party u.isTask with
    | .sent f1 q1 s1 =>
      let same (x : Unacked) : Unacked := if x.msg.seq = q1 then { x with member := u.member, msg := { x.msg with home := u.msg.home } } else x
      let s2 := match s1.flowOut f1 with | some o => s1.setFlowOut { o with unacked := o.unacked.map same } | none => s1
      let s3 : State := { s2 with fab := { s2.fab with net := s2.fab.net.map fun (m : FlowMsg) => if m.flow = f1 ∧ m.seq = q1 then { m with home := u.msg.home } else m } }
      (s3.moveParty (s.ownerAt f.srcCore u) (f, u.msg.seq) (f1, q1)).moveMsgs t lid r
    | _ => s.moveMsgs t lid r

/-- A peer-map entry of a tenant replaced (R396). -/
def setPeer (s : State) (t lid : Nat) (e : PeerEntry) : State :=
  s.setTenant t { s.tenant t with peers := SMap.put PeerEntry.initial (s.tenant t).peers lid e }

/-- A message sent through an entry needs no more waiting for before the entry is remapped (R397): it has been refused, so that it stands
with its sender, or on an ordered flow it follows one that has been, which the old chip never delivers. -/
def mayMove (o : FlowOut) (u : Unacked) : Bool :=
  let stopped (v : Unacked) : Bool := v.hold != 0 && (v.msg.seq == u.msg.seq || (o.id.ordered && decide ((u.msg.seq - v.msg.seq).toNat < 2 ^ 31)))
  o.held && o.unacked.any stopped

/-- Firmware remaps a logical ID (R397): it sets drain, and once every earlier message through the entry has been answered for good or
reported it writes the new chip; messages that were held then leave for it on new flows. The generation home's logical ID waits while a
generation is frozen (R454). -/
def remap (s : State) (t lid : Nat) (phys : BitVec 10) (far : Bool) : State :=
  let e := s.peer t lid
  let home := ((List.range 1024).find? fun l => (s.peer t l).valid) == some lid
  if !e.valid ∨ (home ∧ (s.tenant t).gen.frozen.isSome) then s
  else
    let mine (u : Unacked) : Bool := u.tenant == t && u.lid == lid
    let old := s.fab.flowsOut.filter fun o => o.unacked.any mine
    if old.all fun o => (o.unacked.filter mine).all (mayMove o) then
      let msgs := old.flatMap fun o => (o.unacked.filter mine).map fun u => (o.id, u)
      let s1 := msgs.foldl (fun a x => a.dropMsg x.1 x.2.msg.seq) s
      -- a flow of the entry that nothing else is on ends with it; the flow to the new chip begins anew
      let through (o : FlowOut) : Bool := o.id.dstChip == s.peerChip t lid && o.unacked.isEmpty && o.ended.isEmpty
      let ends := (s1.fab.flowsOut.filter through).map FlowOut.id
      let s2 : State := { s1 with fab := { s1.fab with
        flowsOut := s1.fab.flowsOut.filter fun o => !through o
        flowsIn := s1.fab.flowsIn.filter fun i => !ends.contains i.id } }
      sendControls ((s2.setPeer t lid ⟨true, false, far, phys, e.epoch + 1⟩).moveMsgs t lid msgs)
    else s.setPeer t lid { e with drain := true }

/-! ### Records leaving (R406) -/

/-- The first queued message equal to `o` marked as sent. -/
def markSent (o : OutPost) (msg : FlowId × BitVec 32) : List OutPost → List OutPost
  | [] => []
  | x :: r => if x = o then { x with sent := some msg } :: r else x :: markSent o msg r

/-- Queued records leave, flow by flow in order, once the thread's earlier accesses have been performed. -/
def sendPosts (s : State) (n : Nat) : List OutPost → List (Nat × Bool) → State
  | [], _ => s
  | o :: r, blocked =>
    if o.sent.isSome ∨ blocked.contains (o.lid, o.ordered) then s.sendPosts n r blocked
    else if !(s.coreAt n).settledBefore o.after then s
    else match s.sendFlow n o.msg.tenant o.lid 0 o.ordered (s.coreAt n).stamp (.post o.core o.msg) 0 false with
      | .sent f q s1 => s1.onCore n fun c => { c with outPosts := markSent o (f, q) c.outPosts }
      | _ => s.sendPosts n r ((o.lid, o.ordered) :: blocked)

end State

/-! ### Events -/

/-- FLOW_MESSAGE_DELIVERY (R400). -/
def execFlowMessageDelivery (msg : FlowMsg) (s : State) : Host.Outcome State Fault Refusal := atDevice (·.receive msg) s

/-- REMOTE_ACCESS (R402): a class 1 access alone. -/
def execRemoteAccess (msg : FlowMsg) (s : State) : Host.Outcome State Fault Refusal :=
  atDevice (fun s => match msg.body with | .access .. => s.receive msg | _ => s) s

/-- REMOTE_POST_ARRIVAL (R298): at the window on a core. Records of this chip must be on their way. -/
def execRemotePostArrival (core : Nat) (msg : PostMsg) (s : State) : Host.Outcome State Fault Refusal :=
  let fit (b : MsgBody) : Bool := match b with | .post home m => m == msg && s.answersOn m.tenant home core | _ => false
  atCore core (fun s => match s.inNet fit with
    | some m => s.receive m
    | none =>
      if msg.srcChip = s.dev.chip ∨ (s.coreAt core).team.isNone ∨ s.tenantOf core ≠ msg.tenant ∨ msg.recs.isEmpty ∨ 16 < msg.recs.length then s
      else s.outcomeOf (s.acceptAt core msg none 0)) s

/-- FLOW_ACK (R401). -/
def execFlowAck (core : Nat) (flow : FlowId) (seq : BitVec 32) (s : State) : Host.Outcome State Fault Refusal := atCore core (·.acked core flow seq) s

/-- FLOW_REFUSAL (R401). -/
def execFlowRefusal (core : Nat) (flow : FlowId) (seq : BitVec 32) (reason : BitVec 4) (s : State) : Host.Outcome State Fault Refusal :=
  atCore core (·.refusedBy core flow seq reason) s

/-- FLOW_RETRY (R401). -/
def execFlowRetry (core : Nat) (flow : FlowId) (seq : BitVec 32) (s : State) : Host.Outcome State Fault Refusal := atCore core (·.retryMsg core flow seq) s

/-- FLOW_END (R403). -/
def execFlowEnd (core : Nat) (flow : FlowId) (s : State) : Host.Outcome State Fault Refusal := atCoreByFirmware core (·.endFlow core flow) s

/-- PEER_REMAP (R397). -/
def execPeerRemap (tenant lid : Nat) (phys : BitVec 10) (far : Bool) (s : State) : Host.Outcome State Fault Refusal :=
  atScheduler (·.remap tenant lid phys far) s

/-- POSTR_SEND (R406). -/
def execPostrSend (core : Nat) (s : State) : Host.Outcome State Fault Refusal :=
  atCore core (fun s => s.sendPosts core (s.coreAt core).outPosts []) s

/-- COLL_TASK (R414). -/
def execCollTask (core : Nat) (seq : BitVec 32) (s : State) : Host.Outcome State Fault Refusal := atCore core (fun s => (s.overruns core seq).collTask core seq) s

/-- COLL_LINE_ARRIVAL (R416). -/
def execCollLineArrival (core : Nat) (ln : Line) (s : State) : Host.Outcome State Fault Refusal := atCore core (·.lineArrives core ln false) s

/-- COLL_END_LINE (R416). -/
def execCollEndLine (core : Nat) (ln : Line) (s : State) : Host.Outcome State Fault Refusal := atCore core (·.lineArrives core ln true) s

/-- COLL_LINE_APPLY (R417, R418). -/
def execCollLineApply (core : Nat) (seq : BitVec 32) (s : State) : Host.Outcome State Fault Refusal := atCore core (·.applyHeld core seq) s

/-- STEP_TIMER_EXPIRY (R419). -/
def execStepTimerExpiry (core : Nat) (seq : BitVec 32) (s : State) : Host.Outcome State Fault Refusal := atCore core (·.expireStep core seq) s

end Sys2Proof.Machine
end

