-- ==== Sys2Proof/Machine/Members.lean ====
section
/-!
DEFINITION. Versions and members of groups as they change (R408 to R410), and the merging slots of the Jedom switches (R422,
R423).
-/

namespace Sys2Proof.Machine

open Sys2Proof.Bits

namespace State

/-! ### Control messages -/

/-- A control message to a logical chip (R399): it leaves on behalf of the chip, numbered as core 0's, once those kept before it have left
and neither a remap nor a held flow keeps it (R397). -/
def sendControl (s : State) (t lid : Nat) (body : MsgBody) : State :=
  sendControls { s with fab := { s.fab with control := s.fab.control ++ [(t, lid, body)] } }

/-- The other chips that members of a version are on, by logical ID. -/
def otherChips (s : State) (t : Nat) (v : Version) : List Nat := ((v.members.map Prod.fst).eraseDups).filter fun l => !s.ownLid t l

/-- The kind of a notice as messages carry it. -/
def noticeKind (x : MemberState) : Nat := match x with | .absentPending => 0 | .present => 1 | .withdrawn => 2

/-- The change of a member of this chip made known to every member chip of its group (R410): to this chip's own part in its time,
to others by control messages. -/
def notify (s : State) (t g m : Nat) (x : MemberState) : State :=
  match s.collVersion t g with
  | none => s
  | some v =>
    let s1 := (s.otherChips t v).foldl (fun a l => a.sendControl t l (.notice t g m (noticeKind x))) s
    { s1 with fab := { s1.fab with notices := s1.fab.notices ++ [(t, g, m, x)] } }

/-- A notice at this chip (R410). One of a member of this chip must have gone out. -/
def noticeAt (s : State) (t g m : Nat) (x : MemberState) : State :=
  match s.memberAt t g m with
  | none => s
  | some w =>
    if s.ownLid t w.1 then
      if s.fab.notices.contains (t, g, m, x) then
        ({ s with fab := { s.fab with notices := s.fab.notices.erase (t, g, m, x) } } : State).noticeOf t g m (noticeKind x)
      else s
    else s.noticeOf t g m (noticeKind x)

/-! ### Installation (R409, R116) -/

/-- This chip may install one more version: it holds no open step under its older one. -/
def mayInstall (s : State) (t g : Nat) (x : Group) : Bool :=
  match x.installed.tail.head? with
  | none => true
  | some old => !s.fab.steps.any fun y => y.tenant == t && y.group == g && y.version.num == old.num

/-- The next waiting version of a group installed: members it withdraws are withdrawn in open steps too. -/
def installNext (s : State) (t g : Nat) (ver : BitVec 32) : State :=
  match s.collGroup t g with
  | none => s
  | some x => match x.waiting with
    | [] => s
    | w :: rest =>
      if w.version.num ≠ ver ∨ !s.mayInstall t g x then s
      else
        let s1 := s.setGroup t g (some { x with installed := (w.version :: x.installed).take 2, waiting := rest })
        let gone := ((w.version.members.zip w.version.states).filter fun p => p.2 == .withdrawn).map Prod.fst
        let s2 := gone.foldl (fun a p => a.withdrawWindow t g p) s1
        let own := ((List.range 1024).filter fun l => s.ownLid t l)
        let before : Option Version := x.installed.head?
        let tells := ((w.version.members.zip w.version.states).zipIdx).filter fun p =>
          own.contains p.1.1.1 && p.1.2 == .withdrawn && (match before with | some v => !(v.members.zip v.states).contains p.1 | none => true)
        let s2 := tells.foldl (fun a p => a.notify t g p.2 .withdrawn) s2
        own.foldl (fun a l => a.chipInstalled t g ver l) (s2.settleMsg w.msg 0)

/-- A version that a membership record of this chip makes (R116, R409): it waits here and goes to every other member chip. -/
def askVersion (s : State) (t g : Nat) (v : Version) (r : Nat × Nat × BitVec 32) : State :=
  let out := (List.range v.states.length).filter fun i => v.states[i]? == some .withdrawn
  let others := s.otherChips t v
  let own := (List.range 1024).filter fun l => s.ownLid t l
  let s1 := s.queueVersion t g ⟨v, none⟩
  let s2 := match s1.collGroup t g with
    | some x => s1.setGroup t g (some { x with asked := x.asked ++ [⟨v.num, r, own.take 1 ++ others⟩] })
    | none => s1
  others.foldl (fun a l => a.sendControl t l (.install t g v.num v.timeout v.members out)) s2

/-! ### Merging in the switches (R422, R423) -/

/-- The object of a window at its home chip. -/
def windowObj (w : RedWindow) : Nat := nfield w.w0 40 24

/-- The home chip of a window. -/
def windowHome (w : RedWindow) : Nat := nfield w.w0 30 10

/-- The bytes of an element word of a slot. -/
def slotBytes (k : SwitchKey) : Nat := rmwWidth k.op k.t / 8

/-- A slot of the switches. -/
def switchSlot (s : State) (k : SwitchKey) : Option SwitchSlot := s.fab.switches.find? (·.key == k)

/-- The window of a slot: the one it opened under, else the one in force (R124). -/
def slotWindow (s : State) (k : SwitchKey) : Option RedWindow :=
  match s.switchSlot k with | some y => some y.window | none => SMap.get none (s.tenant k.tenant).windows k.win

/-- A slot removed. -/
def dropSlot (s : State) (k : SwitchKey) : State := { s with fab := { s.fab with switches := s.fab.switches.filter (·.key != k) } }

/-- A contribution taken into its slot. -/
def addTo (s : State) (k : SwitchKey) (c : Contribution) : State :=
  let y := (s.switchSlot k).getD ⟨k, (s.slotWindow k).getD ⟨0, 0⟩, []⟩
  { s with fab := { s.fab with switches := (s.fab.switches.filter (·.key != k)) ++ [{ y with got := y.got ++ [c] }] } }

/-- Contributions merged with memory (R423): floats summed exactly and rounded once to nearest even, integers in their modulus. -/
def mergeInto (k : SwitchKey) (old : Nat) (vals : List Nat) : Nat :=
  let total (f : Fmt) (xs : List Nat) : Nat := (f.round .rne (xs.foldl (fun a x => (FVal.add .rne a (f.value x)).1) (f.value old)) 0).bits
  let half (sh : Nat) : Nat :=
    (Fmt.bf16.round .rne (vals.foldl (fun a x => (FVal.add .rne a (Fmt.bf16.value (x / 2 ^ sh % 2 ^ 16))).1) (Fmt.bf16.value (old / 2 ^ sh % 2 ^ 16))) 0).bits
  match k.t with
  | .f32 => total .f32 vals
  | .bf16 => half 0 + half 16 * 2 ^ 16
  | _ => vals.foldl (fun a x => (rmwNew k.op k.t a x 0).getD a) old

/-- A merged result added into memory at this chip's port. -/
def mergeHere (s : State) (k : SwitchKey) (obj : Nat) (cs : List Contribution) (stamp : Word) : PortRes :=
  match s.portAccess k.tenant obj k.off (.read (slotBytes k)) 0 with
  | .done old _ s1 =>
    let v := mergeInto k (natOfBytes old) (cs.map fun c => c.val.toNat)
    s1.portAccess k.tenant obj k.off (.rmw .xchg (if slotBytes k = 8 then .n64 else .n32) (BitVec.ofNat 128 v) 0) (cs.foldl (fun a c => maxStamp a c.stamp) stamp)
  | r => r

/-- The reduction of a core of this chip that a contribution stands for: `member` is the core and `line` its number; parties of
other chips have numbers from 512 up. -/
def redOfPart (s : State) (k : SwitchKey) (c : Contribution) : Option RedEntry :=
  match (s.coreAt c.member).redEntry c.line.toNat with
  | none => none
  | some r => match s.routeOf (Cap.obj r.cap) with
    | some (.peer lid obj) =>
      if r.sent ∧ r.op = k.op ∧ r.t = k.t ∧ r.addr = k.off ∧ s.tenantOf c.member = k.tenant ∧ redWindow s k.tenant lid obj r.addr r.len = some k.win
          ∧ r.data = c.val then some r else none
    | _ => none

/-- The step and its receive box, at this chip, that a slot's lines are for. -/
def slotStep (s : State) (k : SwitchKey) : Option (CollStep × Box) :=
  match k.coll, s.slotWindow k with
  | some (g, st, ver), some w =>
    (s.fab.steps.find? fun x => x.tenant == k.tenant && x.group == g && x.step == st && x.version.num == ver && windowHome w == s.dev.chip &&
      nfield w.w0 0 16 == g && (match (s.coreAt x.core).entry x.seq with
        | some e => Cap.obj (e.post.cap 1) == windowObj w && e.post.ta == k.t && (s.mergeBox x.core x).isSome
        | none => false)).bind fun x => (s.mergeBox x.core x).map fun b => (x, b)
  | _, _ => none

/-- A line holds, at a slot's word, what a contribution says. -/
def lineGives (s : State) (x : CollStep) (b : Box) (k : SwitchKey) (c : Contribution) (l : Line) : Bool :=
  let a := boxByte b l.toOff
  l.group == x.group && l.step == x.step && l.version == x.version.num && l.sender == c.member && Line.num l == c.line && !Line.isEnd l
    && s.lineWindowed x.core x l && decide (a ≤ k.off) && decide (k.off < a + l.payload.length) && (k.off - a) % slotBytes k == 0
    && natOfBytes ((l.payload.drop (k.off - a)).take (slotBytes k)) == c.val.toNat && l.payload.length / slotBytes k == c.words

/-- A contribution of a member of a step: one of this chip must have a line on its way, or held at the receiver. -/
def partOfLine (s : State) (x : CollStep) (b : Box) (k : SwitchKey) (c : Contribution) : Bool :=
  match x.version.members[c.member]? with
  | none => false
  | some w =>
    if s.ownLid k.tenant w.1 then
      (s.fab.net.any fun m => match m.body with | .line home t l => home == s.homeCore x.core && t == k.tenant && s.lineGives x b k c l | _ => false)
        || s.fab.chunks.any fun h => h.core == x.core && s.lineGives x b k c h.line
    else decide (0 < c.words)

/-- A member whose line a switch has delivered word by word: once every word is in, its line counts as applied (R423). -/
def mergedLine (s : State) (x : CollStep) (off : Nat) (c : Contribution) : State :=
  let got := (match x.settle c.member with | some y => (y.merged.filter (·.1 == c.line)).length | none => 0) + 1
  let s1 := s.onStep x.core x.seq fun y => y.onSettle c.member fun z => { z with
    merged := z.merged ++ [(c.line, off)]
    applied := if got = c.words then z.applied ++ [c.line] else z.applied }
  if got ≠ c.words then s1
  else
    let it (l : Line) : Bool := l.group == x.group && l.step == x.step && l.version == x.version.num && l.sender == c.member && Line.num l == c.line && !Line.isEnd l
    let msgs := s1.fab.net.filter fun m => match m.body with | .line home t l => home == s.homeCore x.core && t == x.tenant && it l | _ => false
    let s2 := msgs.foldl (fun a m => (a.dropNet m.flow m.seq).settleMsg (some (m.flow, m.seq)) 0) s1
    let here (h : ChunkLine) : Bool := h.core == x.core && it h.line
    let s3 := (s2.fab.chunks.filter here).foldl (fun a h => a.settleMsg h.msg 0) s2
    { s3 with fab := { s3.fab with chunks := s3.fab.chunks.filter fun h => !here h } }

/-- A word of a member's line has been delivered with its slot, so that it is not merged again (R423). -/
def mergedWord (x : CollStep) (k : SwitchKey) (c : Contribution) : Bool :=
  match x.settle c.member with | some y => y.merged.contains (c.line, k.off) | none => false

/-- A member of a step contributes to its slots: neither withdrawn nor timed out, after which no line of it is applied (R419). -/
def mayContribute (x : CollStep) (m : Nat) : Bool :=
  match x.settle m with | some y => !y.timedOut && x.version.stateOf m != .withdrawn | none => false

/-- A slot of a step delivers once every expected member that is neither withdrawn nor timed out has contributed (R419, R423). -/
def deliverLine (s : State) (k : SwitchKey) : State :=
  match s.switchSlot k, s.slotStep k with
  | some y, some (x, _) =>
    let expect := (x.settles.map Settle.member).filter (mayContribute x)
    let got := y.got.filter fun c => !(x.settle c.member).any Settle.timedOut
    if x.atOnce ∨ !expect.all fun m => y.got.any (·.member == m) then s
    else match s.slotWindow k with
      | none => s
      | some w => match s.mergeHere k (windowObj w) got (s.coreAt x.core).stamp with
        | .done _ _ s1 =>
          let s2 := got.foldl (fun a c => match a.openStep x.core x.seq with
            | some z => (a.stampBy x.core c.stamp).mergedLine z k.off c
            | none => a) (s1.dropSlot k)
          s2.closeStep x.core x.seq
        | .fault c => s.faultOnce x.core x.seq ⟨c, 0, BitVec.ofNat 64 k.off⟩
        | .page _ => s
        | .hold a => a
  | _, _ => s

/-- A contribution at a switch (R423): an element word of a `RED`, or of a line of a step. -/
def contribute (s : State) (k : SwitchKey) (c : Contribution) : State :=
  let again : Bool := match s.switchSlot k with | some y => y.got.any fun d => d.member == c.member && d.line == c.line | none => false
  match s.slotWindow k with
  | none => s
  | some w =>
    if again ∨ k.off < nfield w.w1 8 28 * 4096 ∨ (nfield w.w1 36 28 + 1) * 4096 < k.off + slotBytes k then s
    else match k.coll with
      | none =>
        if c.member < 512 then (match s.redOfPart k c with | some r => s.addTo k { c with stamp := r.stamp } | none => s)
        else s.addTo k c
      | some _ => match s.slotStep k with
        | none => s
        | some (x, b) =>
          if k.op = .add ∧ !x.atOnce ∧ mayContribute x c.member ∧ !mergedWord x k c ∧ s.partOfLine x b k c then
            (s.addTo k c).deliverLine k
          else s

/-- The reductions of this chip that a slot has merged. -/
def slotReds (s : State) (y : SwitchSlot) : List (Nat × RedEntry) :=
  y.got.filterMap fun c => if c.member < 512 then ((s.coreAt c.member).redEntry c.line.toNat).map fun r => (c.member, r) else none

/-- A merged reduction reaches its home (R423). At this chip it is performed; a fault loses it (R382). -/
def deliverRed (s : State) (k : SwitchKey) : State :=
  match s.switchSlot k, s.slotWindow k with
  | some y, some w =>
    let finish (a : State) : State := (a.slotReds y).foldl (fun b x => b.redDone x.1 x.2.id) (a.dropSlot k)
    if windowHome w ≠ s.dev.chip then finish s
    else match s.mergeHere k (windowObj w) y.got 0 with
      | .done _ _ s1 => finish s1
      | .fault c => (s.slotReds y).foldl (fun b x => b.redFails x.1 x.2 (if c = 0x07 then 0x0E else c) (if c = 0x07 then rmwCode k.op else 0)) (s.dropSlot k)
      | .page _ => s
      | .hold a => a
  | _, _ => s

/-- A slot's lease ends (R423): its contributions are refused retry, and their senders send them again. -/
def expireLease (s : State) (k : SwitchKey) : State :=
  match s.switchSlot k with
  | none => s
  | some y =>
    (s.slotReds y).foldl (fun b x => b.onCore x.1 fun c => c.onRed x.2.id fun r => { r with sent := false }) (s.dropSlot k)

end State

/-! ### Events -/

/-- MEMBERSHIP_INSTALL (R409). -/
def execMembershipInstall (tenant group : Nat) (ver : BitVec 32) (s : State) : Host.Outcome State Fault Refusal := atDevice (·.installNext tenant group ver) s

/-- ABSENT_PENDING_NOTICE (R410). -/
def execAbsentPendingNotice (tenant group member : Nat) (s : State) : Host.Outcome State Fault Refusal := atDevice (·.noticeAt tenant group member .absentPending) s

/-- PRESENT_NOTICE (R410). -/
def execPresentNotice (tenant group member : Nat) (s : State) : Host.Outcome State Fault Refusal := atDevice (·.noticeAt tenant group member .present) s

/-- WITHDRAWN_NOTICE (R410). -/
def execWithdrawnNotice (tenant group member : Nat) (s : State) : Host.Outcome State Fault Refusal := atDevice (·.noticeAt tenant group member .withdrawn) s

/-- SWITCH_CONTRIBUTION (R423). -/
def execSwitchContribution (slot : SwitchKey) (c : Contribution) (s : State) : Host.Outcome State Fault Refusal := atDevice (·.contribute slot c) s

/-- SWITCH_RED_DELIVERY (R423): a merged reduction, or a line whose last expected member has been withdrawn. -/
def execSwitchRedDelivery (slot : SwitchKey) (s : State) : Host.Outcome State Fault Refusal :=
  atDevice (fun s => if slot.coll.isSome then s.deliverLine slot else s.deliverRed slot) s

/-- SWITCH_LEASE_EXPIRY (R423). -/
def execSwitchLeaseExpiry (slot : SwitchKey) (s : State) : Host.Outcome State Fault Refusal := atDevice (·.expireLease slot) s

end Sys2Proof.Machine
end

