-- ==== Sys2Proof/Machine/Traps.lean ====
section
/-!
DEFINITION. Traps that wait for a group boundary (R427, R430, R431), the end of a launch by a trap (R427), and frozen masters
(R437).
-/

namespace Sys2Proof.Machine

namespace Core

/-- The trap that a boundary comes to next (R430): one that waits for its frame's row, then an after-issue fault, reduction
faults, engine faults in ascending post sequence, and a stall trap. A trap that waits for `ERET` is not next (R427). -/
def nextTrap (c : Core) : Option Trap :=
  match c.waitingTrap with
  | some t => some t
  | none =>
    let ready := c.asyncTraps.filter fun t => !c.awaitsEret t
    let boundary := ready.filter fun t => t.delivery == .boundary && t.cause != 0x13
    let engine := ready.filter (·.delivery == .engine)
    let first := engine.foldl (fun a t => match a with
      | none => some t
      | some b => if (t.seq - b.seq).toNat < 2 ^ 31 then some b else some t) (none : Option Trap)
    match ready.find? (·.delivery == .afterIssue) with
    | some t => some t
    | none => match boundary.head? with
      | some t => some t
      | none => match first with
        | some t => some t
        | none => ready.find? (·.cause == 0x13)

/-- The thread stands at a boundary where a trap may be taken: not frozen, no scheduler call in progress, no pre-emption first. -/
def atBoundary (c : Core) : Bool :=
  (c.run == .running || c.run == .halted) && !c.frozen.contains .thread && !c.forcedHere && (match c.wait with | .sysc _ => false | _ => true)

/-- An unretired task that the front end posted, with its record (R114). -/
def postedBy (c : Core) (seq : BitVec 32) : Option (Entry × Nat × Nat × BitVec 32) :=
  (c.entry seq).bind fun e => e.origin.map fun o => (e, o)

/-- A trap no longer waits. -/
def dropTrap (c : Core) (t : Trap) : Core :=
  if c.waitingTrap = some t then { c with waitingTrap := none } else { c with asyncTraps := c.asyncTraps.erase t }

end Core

namespace State

/-- The next trap of a core, delivered where `p` lets it. -/
def takeNext (s : State) (n : Nat) (p : Core → Trap → Bool) : State :=
  let c := s.coreAt n
  match c.nextTrap with
  | none => s
  | some t => if c.atBoundary ∧ p c t then (s.onCore n fun c => c.dropTrap t).deliverTrap n t else s

/-- Firmware hears of a master that has frozen (R437). -/
def tellFrozen (s : State) (n : Nat) (m : Master) : State :=
  s.onCore n fun c => if c.frozen.contains m && !c.told.contains m then { c with told := m :: c.told } else c

/-- Firmware unfreezes a master and delivers its fault (R437): the thread's to the thread, an engine's as an engine trap, or to the
record of the front end that posted its task. -/
def unfreeze (s : State) (n : Nat) (m : Master) : State :=
  let c := s.coreAt n
  match c.frozenTraps.find? (·.1 == m) with
  | none => s
  | some (_, t) =>
    if !c.told.contains m then s
    else
      let s1 := s.onCore n fun c => { c with frozen := c.frozen.erase m, frozenTraps := c.frozenTraps.erase (m, t), told := c.told.erase m }
      match m with
      | .thread => s1.deliverTrap n t
      | .engine _ => match c.postedBy t.seq with
        | some (e, fn, q, idx) => s1.endPosted n e fn q idx
        | none => s1.onCore n fun c => { c with asyncTraps := c.asyncTraps ++ [t] }

end State

/-- TRAP_ENTRY (R431): a delegated trap is taken; a stall trap that cannot be delegated is dropped (R427). -/
def execTrapEntry (core : Nat) (s : State) : Host.Outcome State Fault Refusal :=
  atCore core (·.takeNext core fun c t => c.delegable t || t.cause == 0x13) s

/-- LAUNCH_ABORT (R427): a trap that is not delegated ends the launch. -/
def execLaunchAbort (core : Nat) (s : State) : Host.Outcome State Fault Refusal :=
  atCore core (·.takeNext core fun c t => !c.delegable t && t.cause != 0x13) s

/-- MASTER_FREEZE (R437): the master's clocks have been gated by its fault; firmware is told. -/
def execMasterFreeze (core : Nat) (master : Master) (s : State) : Host.Outcome State Fault Refusal := atCore core (·.tellFrozen core master) s

/-- FREEZE_SERVICE (R437). -/
def execFreezeService (core : Nat) (master : Master) (s : State) : Host.Outcome State Fault Refusal := atCoreByFirmware core (·.unfreeze core master) s

end Sys2Proof.Machine
end

