-- ==== Sys2Proof/Machine/Image.lean ====
section
/-!
DEFINITION. The bytes of a saved team (R449, R450): the team block, and for every rank a header and fourteen sections.
-/

namespace Sys2Proof.Machine

open Sys2Proof.Bits

namespace Image

/-- A doubleword of an image. -/
def dw (x : Nat) : Bytes := toBytes (BitVec.ofNat 64 x) 8

/-- A number in two bytes. -/
def half (x : Nat) : Bytes := toBytes (BitVec.ofNat 16 x) 2

/-- Doublewords from fields: each number at its lowest bit. -/
def packed (fs : List (Nat × Nat)) : Bytes := dw ((fs.map fun f => f.1 <<< f.2).sum)

/-- Bytes followed by zeros up to a multiple of 512. -/
def padded (bs : Bytes) : Bytes := bs ++ List.replicate (512 * ceilDiv bs.length 512 - bs.length) 0

/-! ### The header (R449) -/

/-- The member had halted. -/
def halted (c : Core) : Bool := c.run == .halted

/-- The live map of the save, if it was made at a safe point. -/
def map? (c : Core) : Option (BitVec 12) := match c.run with | .stopped m => m | _ => none

/-- A forced save. -/
def forced (c : Core) : Bool := c.run == .stopped none

/-- A halted member without unretired tasks is its header alone (R448). -/
def headerOnly (c : Core) : Bool := halted c && c.board.entries.isEmpty

/-- An active level as bytes 48 to 143 of a trap frame hold it (R429), or the zeros of a level that is not active. -/
def loopBytes (l : Option Loop) : Bytes :=
  match l with
  | some x => dw x.start.toNat ++ dw x.last.toNat ++ dw x.count.toNat
  | none => dw 0 ++ dw 0 ++ dw 0

/-- The header but for the places of the sections: doublewords 0 to 47. -/
def headLow (c : Core) (rank : Nat) : Bytes :=
  let b := c.board
  let open' := match c.openUnit with | some u => u.sect | none => 0
  packed [(rank, 0), (if halted c then 1 else 0, 34), (if forced c then 1 else 0, 35), (((map? c).getD 0).toNat, 36), (1, 48)]
    ++ dw c.pc.toNat ++ dw c.sp.bpend.toNat ++ dw c.sp.loops.length
    ++ ((List.range 4).flatMap fun k => loopBytes c.sp.loops[k]?)
    ++ packed [(b.nextSeq.toNat, 0), (b.entries.length, 32), ((b.units.map fun u => u.captured.length).sum, 42), (b.units.length, 49),
        (open', 52), (if b.bundle.isSome then 1 else 0, 54), ((b.bundle.map Bundle.count).getD 0, 55)]
    ++ packed [((SMap.get 0 c.eng.nextId 0).toNat, 0), ((SMap.get 0 c.eng.nextId 1).toNat, 32)]
    ++ packed [((SMap.get 0 c.eng.nextId 2).toNat, 0), ((SMap.get 0 c.eng.nextId 3).toNat, 32)]
    ++ ((List.range 16).flatMap fun i => dw (c.mb i).toNat)
    ++ ([c.sp.vt.toNat, c.sp.fflags.toNat, c.sp.aflags.toNat, c.sp.rngl.toNat, c.sp.rnge.toNat, c.sp.gfail.toNat, c.sp.stgmap.toNat,
        c.sp.evec.toNat, c.sp.epc.toNat, c.sp.ecause.toNat, c.sp.einfo.toNat].flatMap dw)
    ++ packed [(c.eng.modes.toNat, 0), (if c.eng.selector then 1 else 0, 4)]
    ++ dw (natOfBools ((List.range 16).map fun n => (SMap.get none c.eng.rings n).isSome))

/-- Doublewords 62 and 63: the arrival mark (R391). -/
def headHigh (c : Core) : Bytes :=
  match c.mark with
  | some m => packed [(m.pc.toNat, 0), (m.pt, 48), (1, 63)] ++ dw m.phase.toNat
  | none => dw 0 ++ dw 0

/-- Doublewords 48 to 61: each section's offset in units of 512 bytes, from `at'` up, and its length. -/
def places (at' : Nat) : List Bytes → Bytes
  | [] => []
  | q :: r => packed [(at', 0), (q.length, 32)] ++ places (at' + ceilDiv q.length 512) r

/-! ### The sections (R450) -/

/-- Section 0: scalar, capability, predicate, branch-target, region and mask registers, then the bound and guard thresholds
(R478). -/
def scalars (c : Core) : Bytes :=
  ((List.finRange 32).flatMap fun i => dw (c.rs i).toNat)
    ++ ((List.finRange 16).flatMap fun i => toBytes (c.rc i) 16)
    ++ dw (natOfBools ((List.finRange 16).map c.rp))
    ++ ((List.finRange 8).flatMap fun i => dw (c.rb i).toNat)
    ++ ((List.finRange 32).flatMap fun i => dw (c.rg i).toNat)
    ++ ((List.finRange 16).flatMap fun i => toBytes (c.rm i) 64)
    ++ ((List.range 64).flatMap fun i => dw (c.bnd i).toNat)
    ++ (List.range 16).flatMap fun i => dw (SMap.get 0 c.sp.gt i).toNat

/-- Section 1: the vector files, by name. -/
def vectors (c : Core) : Bytes := (List.range 640).flatMap fun n => toBytes (SMap.get 0 c.regs.v n) 512

/-- Section 2: the generators of the lanes and of the stream engine. -/
def generators (c : Core) : Bytes :=
  ((List.range 128).flatMap fun i => toBytes ((c.sp.gens[i]?).getD 0) 4)
    ++ (List.range 128).flatMap fun i => toBytes ((c.eng.streamGens[i]?).getD 0) 4

/-- Section 3: the tiles as R47 stores them, then the checkpoint buffer with its box; how the box is laid out is left open. -/
def tiles (c : Core) (k : Nat) : Bytes :=
  ((List.range 65536).flatMap fun i => dw (held .a56 (SMap.get 0 c.eng.acc i).toNat))
    ++ match c.eng.checkpoint with | some _ => Config.imageSection 3 k | none => []

/-- A plane in section 4: its cells, its scales, and a doubleword whose layout is left open. -/
def plane (p : Plane) (free : Word) : Bytes :=
  ((List.range 16384).flatMap fun i => toBytes (SMap.get 0 p.cells i) 2) ++ ((List.range 2048).map fun i => SMap.get 0 p.scales i)
    ++ toBytes free 8

/-- Section 5: the epilogue stores. -/
def stores (c : Core) : Bytes :=
  let slot (m : SMap (List (BitVec 32))) (i : Nat) : Bytes :=
    let ws := SMap.get [] m i
    toBytes (BitVec.ofNat 32 ws.length) 4 ++ (List.range 32).flatMap fun j => toBytes ((ws[j]?).getD 0) 4
  ((List.range 16).flatMap (slot c.eng.drainStore)) ++ (List.range 16).flatMap (slot c.eng.streamStore)

/-- Section 6: the maps, the pool, and the rows promised to each unit in two bytes. -/
def maps (c : Core) : Bytes :=
  let pool := c.pool
  ((List.range 12288).flatMap fun r => half (c.phys r)) ++ ((List.range 12288).flatMap fun r => half (forwardRow c c.board.entries r))
    ++ toBytes (BitVec.ofNat 13312 (natOfBools ((List.range 13312).map pool.contains))) 1664
    ++ c.board.units.flatMap fun u => half u.promise

/-- Section 7: physical rows, those of a save at a safe point as its map and the translations name them (R448). -/
def rows (c : Core) : Bytes :=
  let saved : List Nat := if (map? c).isSome then c.savedRows else List.range 13312
  saved.flatMap fun p => half p ++ toBytes (c.prow p) 512

/-- The physical rows of an entry's scratchpad boxes, in slot and row order. -/
def transOf (e : Entry) : List Nat :=
  ((List.range 6).filterMap e.post.box).flatMap fun b =>
    if b.space == .sp && !b.empty then (List.range b.rowCnt).map fun i => if b.writes then e.wrow (b.rowLo + i) else e.rrow (b.rowLo + i)
    else []

/-- Section 9: the translations, then the speculative rows. -/
def translations (c : Core) : Bytes :=
  (c.board.entries.flatMap fun e => (transOf e).flatMap half) ++ c.board.units.flatMap fun u => u.spec.flatMap fun m => half (m.2 - 1)

/-- The state of an entry as section 8 numbers it. -/
def stateNo (c : Core) (e : Entry) (coll : Bool) : Nat :=
  match e.state with
  | .waiting => if entryReady c e coll then 1 else 0
  | .queued => 2
  | .executing => 3
  | .completed => 4
  | .unit => 6

/-- An entry of section 8, with the offset of its translation. -/
def entry (c : Core) (e : Entry) (coll : Bool) (off : Nat) : Bytes :=
  let k := queueNo e.queue
  ((List.range 16).flatMap fun i => dw (e.post.word i).toNat)
    ++ packed [(stateNo c e coll, 0), (k % 8, 3), ((SMap.get [] c.eng.queues k).idxOf e.seq % 256, 6), (if e.fault.isSome then 1 else 0, 14),
        (((e.fault.map TaskFault.cause).getD 0).toNat, 15), (off, 32)]
    ++ dw e.prog.at' ++ dw (held .a56 (Fmt.a56.round .rne e.prog.running 0).bits) ++ (List.range 13).flatMap fun _ => dw 0

/-- Section 8: the window in post order. -/
def window (c : Core) (coll : Entry → Bool) : List Entry → Nat → Bytes
  | [], _ => []
  | e :: r, off => entry c e (coll e) off ++ window c coll r (off + (transOf e).length)

/-- The sections of a member. `k` counts free values drawn: what the manual leaves open of sections 3, 4 and 10 to 13 is free
where there is something to hold. -/
def parts (s : State) (n k : Nat) : List Bytes :=
  let c := s.coreAt n
  let free (q : Nat) (some' : Bool) : Bytes := if some' then Config.imageSection q (k + 2) else []
  if headerOnly c then List.replicate 14 []
  else
    [scalars c, vectors c, generators c, tiles c (k + 2), plane c.eng.plane0 (Config.freeValue k) ++ plane c.eng.plane1 (Config.freeValue (k + 1)),
      stores c, maps c, rows c, window c (s.collReady n) c.board.entries 0, translations c,
      free 10 (!c.board.units.isEmpty), free 11 (!c.eng.rings.isEmpty), free 12 (s.fab.steps.any fun x => x.core == n),
      free 13 (!(c.acc.isEmpty && c.pendingSet.isEmpty && c.arrivals.isEmpty))]

/-- A member block: the header, then the sections, each from a multiple of 512 bytes up. -/
def member (s : State) (n rank k : Nat) : Bytes :=
  let c := s.coreAt n
  let qs := parts s n k
  headLow c rank ++ places 1 qs ++ headHigh c ++ qs.flatMap padded

/-- The team block: the points and the team registers, whose rank differs by member and stands as 0. -/
def teamBlock (s : State) (t : Nat) (tm : Team) : Bytes :=
  let one (i : Nat) : Bytes :=
    let p := SMap.get (rvInitial (s.teamSize t)) tm.points i
    packed [(p.members.toNat, 0), (p.phase.toNat, 32)] ++ dw p.arrived.toNat
  let size := match s.launch tm.launch with | some la => (la.teamSize, la.teamCount) | none => (0, 0)
  padded (((List.range 24).flatMap one) ++ dw 0 ++ dw size.1 ++ dw tm.index ++ dw size.2)

/-- The image of a saved team; every member draws three free values. -/
def team (s : State) (t k : Nat) : Bytes × Nat :=
  match s.team t with
  | none => ([], k)
  | some tm =>
    let size := match s.launch tm.launch with | some la => la.teamSize | none => 0
    (teamBlock s t tm ++ (List.range size).flatMap fun r => member s (State.parkNo t r) r (k + 3 * r), k + 3 * size)

/-- The images of teams one after another. -/
def teams (s : State) : List Nat → Nat → Bytes × Nat
  | [], k => ([], k)
  | t :: r, k =>
    let a := team s t k
    let b := teams s r a.2
    (a.1 ++ b.1, b.2)

end Image

end Sys2Proof.Machine
end

