-- ==== Sys2Proof/Machine/Strata.lean ====
section
/-!
DEFINITION. Memory strata as device events (R454 to R474): the two phases of a cut, its completion, the undertow, durability,
and aborts.
-/

namespace Sys2Proof.Machine

open Sys2Proof.Bits

namespace State

/-- The chips of a tenant's peer map, by physical number, far peers above 1,023; this chip where the map names none (R454, R462). -/
def genChips (s : State) (t : Nat) : List Nat :=
  (s.dev.chip :: ((s.tenant t).peers.filter fun e => e.2.valid).map fun e => if e.2.far then 1024 + e.2.phys.toNat else e.2.phys.toNat).eraseDups

/-- A generation's record changed. -/
def onGenRec (s : State) (t : Nat) (g : Word) (f : GenRec → GenRec) : State :=
  s.onGen t fun h => { h with history := h.history.map fun r => if r.gen = g then f r else r }

/-- Phase 2 (R462): the generation is frozen, the next one is current. Of the teams saved before phase 1, those still saved keep
their images in it, as they are now (R472). -/
def openCut (s : State) (t : Nat) (f : Word) : State :=
  let kept := (s.tenant t).gen.images.filter fun k => match s.team k with | some tm => tm.state == .saved | none => false
  let bytes := Image.teams s kept s.freeCtr
  let s1 : State := { s with freeCtr := bytes.2 }
  s1.onGen t fun h => { h with
    opened := true, current := f + 1, history := (⟨f, .cutting, 0⟩ :: h.history).take 64, images := kept, imageBytes := bytes.1 }

/-- A chip has set its chip generation and acknowledges (R462). Another chip may have asked for the cut. -/
def setChipGen (s0 : State) (t chip : Nat) (gen : Word) : State :=
  let h0 := (s0.tenant t).gen
  let s := if h0.frozen = none ∧ gen = h0.current + 1 ∧ 1 < (s0.genChips t).length then s0.startCut t .chip else s0
  let h := (s.tenant t).gen
  match h.frozen with
  | none => s
  | some f =>
    if gen ≠ f + 1 ∨ h.opened ∨ !(s.genChips t).contains chip ∨ h.acks.contains chip then s
    else
      let s1 := s.onGen t fun h => { h with acks := chip :: h.acks, chipGen := if chip = s.dev.chip then gen else h.chipGen }
      if (s.genChips t).all fun k => (s1.tenant t).gen.acks.contains k then s1.openCut t f else s1

/-- A cut notice reaches the window of a core (R456, R462): of a generation that has been opened. -/
def cutNotice (s : State) (n : Nat) (gen : Word) : State :=
  let h := (s.tenant (s.tenantOf n)).gen
  if (s.coreAt n).team.isSome ∧ h.opened ∧ gen.toNat ≤ h.current.toNat then s.onCore n fun c => c.raiseStamp gen else s

/-- A write with an old stamp is still on its way from a core (R463). -/
def oldWrites (s : State) (n : Nat) (f : Word) : Bool :=
  let c := s.coreAt n
  c.acc.any (fun o => o.updates && ((o.phase == .sent && decide (o.stamp.toNat ≤ f.toNat)) || (o.phase == .paged && decide (c.stamp.toNat ≤ f.toNat))))
    || c.reds.any (fun r => r.sent && decide (r.stamp.toNat ≤ f.toNat))

/-- A write with an old stamp is still on its way to another chip (R463). -/
def oldMessages (s : State) (t : Nat) (f : Word) : Bool :=
  s.fab.flowsOut.any fun o => o.unacked.any fun u => u.tenant == t && decide (u.msg.stamp.toNat ≤ f.toNat) && (match u.msg.body with
    | .access _ _ _ op .. => (portOp op).writes
    | _ => false)

/-- A window counts as switched (R462, R463): its stamp has been raised, or a master of it is frozen. -/
def switchedWindow (s : State) (n : Nat) (f : Word) : Bool := decide (f.toNat < (s.coreAt n).stamp.toNat) || !(s.coreAt n).frozen.isEmpty

/-- Cores that act for a tenant. -/
def coresOf (s : State) (t : Nat) : List Nat := (s.cores.filter fun e => isCore e.1 && e.2.team.isSome && s.tenantOf e.1 == t).map Prod.fst

/-- The windows of a tenant with a frozen master take the notice as they are counted (R462). -/
def noticeFrozen (s : State) (t : Nat) (f : Word) : State :=
  (s.coresOf t).foldl (fun a n => a.onCore n fun c => if c.frozen.isEmpty then c else c.raiseStamp (f + 1)) s

/-- This chip's part of a cut is complete (R463). -/
def cutDone (s : State) (t : Nat) (f : Word) : Bool :=
  ((s.coresOf t).all fun n => s.switchedWindow n f && !s.oldWrites n f) && !s.oldMessages t f
    && !(s.hbm.holds.any fun h => decide (h.stamp.toNat ≤ f.toNat) && (match s.obj h.obj with | some o => o.tenant == t | none => false))

/-- A record of the front end that asked for a generation, and whether it waits for the drain (R117, R461). -/
def askedRecord (s : State) (t : Nat) : Option (Nat × Nat × BitVec 32 × Bool) :=
  match (s.tenant t).gen.asker with
  | .record fn q idx =>
    (((SMap.get none (s.hostFn fn).queues q).map HostQueue.recs).getD []).findSome? fun r =>
      if r.idx = idx then some (fn, q, idx, bit ((r.words[1]?).getD 0) 13) else none
  | _ => none

/-- A chip reports its cut complete (R463); with the last one, the generation drains. -/
def chipCut (s : State) (t chip : Nat) : State :=
  let h := (s.tenant t).gen
  match h.frozen with
  | none => s
  | some f =>
    if !h.opened ∨ h.cuts.contains chip ∨ !(s.genChips t).contains chip ∨ (chip = s.dev.chip ∧ !s.cutDone t f) then s
    else
      let s1 := (if chip = s.dev.chip then s.noticeFrozen t f else s).onGen t fun h => { h with cuts := chip :: h.cuts }
      if (s.genChips t).all fun k => (s1.tenant t).gen.cuts.contains k then
        let s2 := s1.onGenRec t f fun r => { r with phase := .draining }
        match s2.askedRecord t with
        | some (fn, q, idx, false) => s2.setOutcome fn q idx 0 (f.setWidth 32) (some f)
        | _ => s2
      else s1

/-! ### The undertow (R465, R466, R468) -/

/-- The generation that drains. -/
def draining (s : State) (t : Nat) : Option Word :=
  match (s.tenant t).gen.frozen with
  | some f => if (s.tenant t).gen.history.any fun r => r.gen == f && r.phase == .draining then some f else none
  | none => none

/-- The order of the undertow in a stack (R466): redirected grains first, then by object and grain. -/
def drainsBefore (a b : Undrained) : Bool :=
  (a.moved && !b.moved) || (a.moved == b.moved && (decide (a.obj < b.obj) || (a.obj == b.obj && decide (a.grain < b.grain))))

/-- Bytes put into the lower tier. -/
def putLower (s : State) (a : Nat) (bs : SMap Byte) : State :=
  { s with hbm := { s.hbm with lower := SMap.merge 0 s.hbm.lower (bs.map fun e => (a + e.1, e.2)) } }

/-- Lower-tier space taken. -/
def takeLower (s : State) (len : Nat) : Nat × State :=
  (s.hbm.lowerNext, { s with hbm := { s.hbm with lowerNext := s.hbm.lowerNext + len } })

/-- A grain of the stratum has been copied: its old reserve grain returns, a kept one is given up (R466, R120). -/
def grainCopied (s : State) (u : Undrained) : State :=
  let lent := u.moved || s.hbm.kept.any (fun k => k.obj == u.obj && k.grain == u.grain && k.phys == u.phys)
  let s1 := if lent then s.giveUp u.phys else s
  { s1 with hbm := { s1.hbm with
      redirects := if u.moved then s1.hbm.redirects.filter (fun r => !(r.obj == u.obj && r.grain == u.grain)) else s1.hbm.redirects
      kept := s1.hbm.kept.filter fun k => !(k.obj == u.obj && k.grain == u.grain && k.phys == u.phys) } }

/-- `SNCFG`'s target and reserve as written take effect once no tenant of the chip has a frozen generation (R467). A larger reserve
waits besides until no grain in use lies where it grows; a smaller one gives up what lies outside it. -/
def settleSncfg (s : State) : State :=
  if s.sched.tenants.any fun e => e.2.gen.frozen.isSome then s
  else
    let s1 : State := { s with dev := { s.dev with snTarget := s.dev.snTargetNext } }
    let old := s.reserveFrames
    let s2 : State := { s1 with dev := { s1.dev with snReserve := s.dev.snReserveNext } }
    let new := s2.reserveFrames
    if old < new ∧ s.usedFrames.any (fun f => decide (stackFrames - new ≤ f % stackFrames) && decide (f % stackFrames < stackFrames - old)) then s1
    else
      let trim (e : Nat × Reserve) : Nat × Reserve := (e.1, ⟨min e.2.next (new * frameGrains), e.2.back.filter fun g =>
        decide (stackFrames - new ≤ g / frameGrains % stackFrames) || (s.frameOwner (g / frameGrains)).isSome⟩)
      { s2 with hbm := { s2.hbm with reserves := s2.hbm.reserves.map trim } }

/-- A frozen generation ends without becoming durable (R470): strata merge, waiting writes go on, a record that asked for it
completes as aborted. -/
def abortGen (s : State) (t : Nat) (reason : BitVec 8) : State :=
  match (s.tenant t).gen.frozen with
  | none => s
  | some f =>
    let mine (obj : Nat) : Bool := match s.obj obj with | some o => o.tenant == t | none => false
    let back := s.hbm.redirects.filter fun r => mine r.obj
    let s1 := (back.map Redirect.old ++ (s.hbm.kept.filter fun k => k.tenant == t).map KeptGrain.phys).foldl giveUp s
    let s2 : State := { s1 with hbm := { s1.hbm with
      redirects := s1.hbm.redirects.filter fun r => !mine r.obj
      kept := s1.hbm.kept.filter fun k => k.tenant != t
      waits := s1.hbm.waits.filter fun w => w.tenant != t } }
    let s3 := s2.onGen t fun h => { h with
      frozen := none, images := [], imageBytes := []
      current := if h.opened then h.current else f + 1
      history := if h.opened then h.history.map fun r => if r.gen = f then { r with phase := .aborted reason } else r
        else (⟨f, .aborted reason, 0⟩ :: h.history).take 64 }
    let s4 := (s3.countFn (s.fnOf t) 14).settleSncfg
    match s.askedRecord t with
    | some (fn, q, idx, _) => s4.setOutcome fn q idx 0x08 (f.setWidth 32) (some f)
    | none => s4

/-- A grain copied to the lower tier, in the undertow's order (R466); a failure there aborts the generation. -/
def copyGrainOut (s : State) (t obj grain : Nat) (ok : Bool) : State :=
  match s.draining t with
  | none => s
  | some _ =>
    let all := undrainedGrains s t
    match all.find? fun u => u.obj == obj && u.grain == grain with
    | none => s
    | some u =>
      if all.any fun v => grainStack v.phys == grainStack u.phys && drainsBefore v u then s
      else if !ok then s.abortGen t 0x02
      else
        let (a, s1) := s.takeLower grainBytes
        let bad := s.hbm.poisoned.any fun e => e.1 / 1024 == u.phys && e.2
        let s2 := (s1.putLower a (s.grainCells u.phys)).onGen t fun h => { h with copied := h.copied ++ [(obj, grain, a, bad)] }
        s2.grainCopied u

/-- The manifest of a durable generation (R468). -/
def manifestBytes (h : GenHome) (f : Word) (imgAddr imgLen : Nat) : Bytes :=
  let w (x : Nat) : Bytes := toBytes (BitVec.ofNat 64 x) 8
  w f.toNat ++ w h.durable.toNat ++ w h.copied.length ++ w imgAddr ++ w imgLen ++ w 0 ++ w 0 ++ w 0
    ++ h.copied.flatMap fun e => w (e.1 * 2 ^ 40 + e.2.1 * 2 ^ 8 + if e.2.2.2 then 1 else 0) ++ w e.2.2.1

/-- Redirections that needed no copy end with their generation: their grains were no newer than the last durable one (R465). -/
def endRedirects (s : State) (t : Nat) : State :=
  let mine (r : Redirect) : Bool := match s.obj r.obj with | some o => o.tenant == t | none => false
  let s1 := ((s.hbm.redirects.filter mine).map Redirect.old).foldl giveUp s
  { s1 with hbm := { s1.hbm with redirects := s1.hbm.redirects.filter fun r => !mine r, waits := s1.hbm.waits.filter fun w => w.tenant != t } }

/-- Every chip has drained (R466): the team images and the manifest are written and the generation is durable. -/
def makeDurable (s : State) (t : Nat) : State :=
  match s.draining t with
  | none => s
  | some f =>
    if !(undrainedGrains s t).isEmpty then s
    else
      let h := (s.tenant t).gen
      let numbered (bs : Bytes) : SMap Byte := bs.zipIdx.map fun x => (x.2, x.1)
      let (img, s1) := s.takeLower h.imageBytes.length
      let s2 := s1.putLower img (numbered h.imageBytes)
      let m := manifestBytes h f img h.imageBytes.length
      let (a, s3) := s2.takeLower m.length
      let s4 := (((s3.putLower a (numbered m)).endRedirects t).onGen t fun h => { h with
        frozen := none, durable := f, images := [], imageBytes := []
        history := h.history.map fun r => if r.gen = f then { r with phase := .durable, manifest := a } else r }).settleSncfg
      match s.askedRecord t with
      | some (fn, q, idx, true) =>
        let s5 := s4.setOutcome fn q idx 0 (f.setWidth 32) (some f)
        let k := s5.hostFn fn
        (match SMap.get none k.queues q with
         | some x =>
           let recs := x.recs.map fun r => if r.idx = idx then { r with word12 := some (BitVec.ofNat 64 a) } else r
           s5.setFn fn { k with queues := SMap.put none k.queues q (some { x with recs := recs }) }
         | none => s5)
      | _ => s4

/-- A write has waited 500 µs for a reserve grain of a stack (R469): the generation of the tenant that has waited longest is
aborted. -/
def reserveStall (s : State) (stack : Nat) : State :=
  match s.hbm.waits.find? fun w => w.stack == stack && ((s.tenant w.tenant).gen.frozen).isSome with
  | some w => s.abortGen w.tenant 0x01
  | none => s

/-- An abort that the home makes known (R470): reason 0x02 for this chip's lower tier, any reason where other chips share the
generation. -/
def homeAborts (s : State) (t : Nat) (reason : BitVec 8) : State :=
  let shared := decide (1 < (s.genChips t).length)
  if (s.tenant t).gen.opened ∧ (reason = 0x02 ∨ (shared ∧ (reason = 0x01 ∨ reason = 0x03))) then s.abortGen t reason else s

end State

/-! ### Events -/

/-- CHIP_GENERATION_SET (R462). -/
def execChipGenerationSet (tenant chip : Nat) (gen : Word) (s : State) : Host.Outcome State Fault Refusal := atDevice (·.setChipGen tenant chip gen) s

/-- CUT_NOTICE (R462). -/
def execCutNotice (core : Nat) (gen : Word) (s : State) : Host.Outcome State Fault Refusal := atCore core (·.cutNotice core gen) s

/-- CHIP_CUT_COMPLETE (R463). -/
def execChipCutComplete (tenant chip : Nat) (s : State) : Host.Outcome State Fault Refusal := atDevice (·.chipCut tenant chip) s

/-- UNDERTOW_COPY (R466). -/
def execUndertowCopy (tenant obj grain : Nat) (ok : Bool) (s : State) : Host.Outcome State Fault Refusal := atDevice (·.copyGrainOut tenant obj grain ok) s

/-- GENERATION_DURABLE (R466). -/
def execGenerationDurable (tenant : Nat) (s : State) : Host.Outcome State Fault Refusal := atDevice (·.makeDurable tenant) s

/-- GENERATION_ABORT (R470). -/
def execGenerationAbort (tenant : Nat) (reason : BitVec 8) (s : State) : Host.Outcome State Fault Refusal := atDevice (·.homeAborts tenant reason) s

/-- RESERVE_STALL_EXPIRY (R469). -/
def execReserveStallExpiry (stack : Nat) (s : State) : Host.Outcome State Fault Refusal := atDevice (·.reserveStall stack) s

end Sys2Proof.Machine
end

