-- ==== Sys2Proof/Machine/Place.lean ====
section
/-!
DEFINITION. Teams (R141 to R151) and partitions (R96, R126, R127): placement, pre-emption, saving and resuming (R446 to R451),
the end of a team, slice turns, and policy plug-ins (R132).
-/

namespace Sys2Proof.Machine

open Sys2Proof.Bits

namespace State

/-- Every team that has a number. -/
def teamList (s : State) : List (Nat × Team) := s.sched.teams.filterMap fun e => e.2.map fun t => (e.1, t)

/-- Every launch that has a number, the oldest first. -/
def launchList (s : State) : List (Nat × Launch) := s.sched.launches.filterMap fun e => e.2.map fun l => (e.1, l)

/-- A team changed. -/
def onTeam (s : State) (k : Nat) (f : Team → Team) : State := match s.team k with | some tm => s.setTeam k (some (f tm)) | none => s

/-- A launch changed. -/
def onLaunch (s : State) (l : Nat) (f : Launch → Launch) : State := match s.launch l with | some la => s.setLaunch l (some (f la)) | none => s

/-- The class of a team's launch (R144). -/
def classOf (s : State) (tm : Team) : Nat := match s.launch tm.launch with | some la => la.prio | none => 0

/-- The tenant of a team's launch. -/
def teamTenant (s : State) (tm : Team) : Nat := match s.launch tm.launch with | some la => la.tenant | none => 0

/-! ### Which cores a team may have (R141, R147, R149) -/

/-- The class and the launch that a core is reserved for, if any. -/
def reservedFor (s : State) (n : Nat) : Option (Nat × Nat) :=
  let byTeam := s.teamList.findSome? fun e => if (e.2.state = .pending ∨ e.2.state = .saved) ∧ e.2.cores.contains n then some (s.classOf e.2, e.2.launch) else none
  match byTeam with
  | some x => some x
  | none => s.launchList.findSome? fun e => if e.2.pool.contains n then some (e.2.prio, e.1) else none

/-- A core is free (R141): no team is on it, and its tenant's turn goes on. -/
def coreFree (s : State) (t n : Nat) : Bool :=
  (s.coreAt n).team.isNone && (s.partition (dieOf n)).holder == some t && !(s.partition (dieOf n)).turning

/-- A team of a launch may take a core: free, and reserved for no one else, or, where `over` says so, only for a lower class. -/
def mayTake (s : State) (l : Nat) (la : Launch) (own : List Nat) (lower : Bool) (n : Nat) : Bool :=
  s.coreFree la.tenant n && (own.contains n || match s.reservedFor n with
    | none => true
    | some (c, k) => (la.coplace && k == l) || (lower && decide (c < la.prio)))

/-- The dies a launch's teams may be on, in the order they are tried: as a plug-in has ranked them, then by number. -/
def diesOf (s : State) (la : Launch) : List Nat :=
  let mask := (List.range 12).filter fun d => la.partMask.getLsbD d
  let rank := (SMap.get [] s.sched.ranking la.tenant).filter mask.contains
  rank ++ mask.filter fun d => !rank.contains d

/-- The cores of a die that satisfy a test, by number. -/
def dieCores (d : Nat) (p : Nat → Bool) : List Nat := ((List.range 32).map (32 * d + ·)).filter p

/-- The first `size` of some cores that lie in one island. -/
def inIsland (size : Nat) (xs : List Nat) : Option (List Nat) :=
  (xs.map (· / 16)).eraseDups.findSome? fun i => let ys := xs.filter (· / 16 == i); if size ≤ ys.length then some (ys.take size) else none

/-- The cores for a team (R141): of one island where it has at most 16 and an island of a die has enough, else of one die. -/
def fitTeam (size : Nat) (dies : List Nat) (p : Nat → Bool) : Option (List Nat) :=
  match if size ≤ 16 then dies.findSome? fun d => inIsland size (dieCores d p) else none with
  | some xs => some xs
  | none => dies.findSome? fun d => let xs := dieCores d p; if size ≤ xs.length then some (xs.take size) else none

/-- The teams of a launch that wait for cores, lowest index first. -/
def waitingTeams (s : State) (l : Nat) (la : Launch) : List (Nat × Team) :=
  if !la.eligible ∨ la.abort.isSome then []
  else
    let ws := s.teamList.filter fun e => e.2.launch == l && (e.2.state == .pending || e.2.state == .saved) && decide (e.2.cores.length < la.teamSize)
    (List.range (la.made + 1)).flatMap fun i => ws.filter (·.2.index == i)

/-- Cores for one waiting team without pre-emption: unreserved ones, or else those of lower reservations too. -/
def directCores (s : State) (l : Nat) (la : Launch) (tm : Team) : Option (List Nat) :=
  match fitTeam la.teamSize (s.diesOf la) (s.mayTake l la tm.cores false) with
  | some xs => some xs
  | none => fitTeam la.teamSize (s.diesOf la) (s.mayTake l la tm.cores true)

/-- Cores for every team of a co-placed launch at once (R149). -/
def packTeams (size : Nat) (dies : List Nat) (p : Nat → Bool) : List (Nat × Team) → List Nat → Option (List (Nat × List Nat))
  | [], _ => some []
  | k :: ks, taken =>
    match fitTeam size dies fun n => p n && !taken.contains n with
    | none => none
    | some xs => (packTeams size dies p ks (xs ++ taken)).map fun r => (k.1, xs) :: r

/-- A team of a co-placed launch is being saved: its other teams wait for it, since they go on together (R149, R154). -/
def siblingSaves (s : State) (l : Nat) (la : Launch) : Bool := la.coplace && s.teamList.any fun e => e.2.launch == l && e.2.state == .saving

/-- What a launch can be given at once: its lowest waiting team that fits, or all its teams where they are co-placed. -/
def directTeams (s : State) (l : Nat) (la : Launch) : Option (List (Nat × List Nat)) :=
  let ws := s.waitingTeams l la
  if ws.isEmpty ∨ s.siblingSaves l la then none
  else if la.coplace then
    match packTeams la.teamSize (s.diesOf la) (s.mayTake l la [] false) ws [] with
    | some r => some r
    | none => packTeams la.teamSize (s.diesOf la) (s.mayTake l la [] true) ws []
  else ws.findSome? fun e => (s.directCores l la e.2).map fun xs => [(e.1, xs)]

/-! ### Reserving (R147) -/

/-- The next team of a launch made known, once the one before it has its cores. -/
def makeTeam (s : State) (l : Nat) : State :=
  match s.launch l with
  | none => s
  | some la =>
    if la.teamCount ≤ la.made then s
    else
      let k := s.sched.nextTeam
      let s1 := (s.setTeam k (some ⟨l, la.made, .pending, [], [], 0, false, []⟩)).setLaunch l (some { la with made := la.made + 1 })
      { s1 with sched := { s1.sched with nextTeam := k + 1 } }

/-- Every team of a launch made known. -/
def makeTeams (s : State) (l : Nat) : Nat → State
  | 0 => s
  | n + 1 => (s.makeTeam l).makeTeams l n

/-- Cores leave every reservation. -/
def unreserve (s : State) (xs : List Nat) : State :=
  let s1 := s.teamList.foldl (fun a e => if (e.2.state = .pending ∨ e.2.state = .saved) ∧ e.2.cores.any xs.contains
    then a.onTeam e.1 fun tm => { tm with cores := tm.cores.filter fun n => !xs.contains n } else a) s
  s1.launchList.foldl (fun a e => if e.2.pool.any xs.contains then a.onLaunch e.1 fun la => { la with pool := la.pool.filter fun n => !xs.contains n } else a) s1

/-- Numbers in ascending order. -/
def inOrder (xs : List Nat) : List Nat := (List.range 384).filter xs.contains

/-- Cores reserved for a team, by rank in the order of their numbers (R141). -/
def reserve (s : State) (k : Nat) (xs : List Nat) : State := (s.unreserve xs).onTeam k fun tm => { tm with cores := inOrder xs }

/-- Teams of a launch given their cores. -/
def giveCores (s : State) (l : Nat) (gs : List (Nat × List Nat)) : State :=
  let s1 := gs.foldl (fun a g => a.reserve g.1 g.2) s
  (s1.onLaunch l fun la => { la with pool := [] }).makeTeam l

/-! ### The choice among queues (R146) -/

/-- A queue of a function. -/
def queueAt (s : State) (fn q : Nat) : Option HostQueue := SMap.get none (s.hostFn fn).queues q

/-- A queue changed. -/
def onQueue (s : State) (fn q : Nat) (f : HostQueue → HostQueue) : State :=
  match s.queueAt fn q with
  | none => s
  | some k => let h := s.hostFn fn; s.setFn fn { h with queues := SMap.put none h.queues q (some (f k)) }

/-- The credit of a queue in a class. -/
def credit (s : State) (c : Nat) (x : Nat × Nat) : Int := match s.queueAt x.1 x.2 with | some k => SMap.get 0 k.credits c | none => 0

/-- The weight of a queue (R145). -/
def weightOf (s : State) (x : Nat × Nat) : Nat := match s.queueAt x.1 x.2 with | some k => k.weight | none => 1

/-- A queue's credit changed. -/
def addCredit (s : State) (c : Nat) (x : Nat × Nat) (d : Int) : State :=
  s.onQueue x.1 x.2 fun k => { k with credits := SMap.put 0 k.credits c (SMap.get 0 k.credits c + d) }

/-- The queue with the largest credit: of equal ones the lowest function, then the lowest queue. -/
def pickQueue (s : State) (c : Nat) : List (Nat × Nat) → Option (Nat × Nat)
  | [] => none
  | x :: xs => match s.pickQueue c xs with
    | none => some x
    | some y =>
      let before : Bool := decide (x.1 < y.1) || (x.1 == y.1 && decide (x.2 < y.2))
      if s.credit c y < s.credit c x ∨ (s.credit c x = s.credit c y ∧ before) then some x else some y

/-- A placement in a class (R144, R146): the queue is picked by credit among those with a launch that `attempt` serves, and the oldest of its
launches that can be served is. -/
def placeBy (attempt : State → Nat → Launch → Option State) (s : State) (t c : Nat) : Option State :=
  let can := s.launchList.filter fun e => e.2.tenant == t && e.2.prio == c && (attempt s e.1 e.2).isSome
  let cands := (can.map fun e => (e.2.fn, e.2.queue)).eraseDups
  let s1 := cands.foldl (fun a x => a.addCredit c x (a.weightOf x)) s
  match s1.pickQueue c cands with
  | none => none
  | some q =>
    let s2 := s1.addCredit c q (-((cands.map s.weightOf).sum : Nat))
    (can.find? fun e => e.2.fn == q.1 && e.2.queue == q.2).bind fun e => attempt s2 e.1 e.2

/-- A launch served without pre-emption. -/
def tryDirect (s : State) (l : Nat) (la : Launch) : Option State := (s.directTeams l la).map (s.giveCores l)

/-- A queue with no pending team of a class has no credit there (R146). -/
def dropCredits (s : State) : State :=
  s.host.fns.foldl (fun a f => f.2.queues.foldl (fun a q =>
    let busy (c : Nat) : Bool := s.launchList.any fun e => e.2.fn == f.1 && e.2.queue == q.1 && e.2.prio == c && !(s.waitingTeams e.1 e.2).isEmpty
    a.onQueue f.1 q.1 fun k => { k with credits := SMap.without k.credits fun c => !busy c }) a) s

/-! ### Pre-emption (R143, R147, R148) -/

/-- A team is asked to stop (R143): with it every team of a co-placed launch. Each member stops at its next safe point. -/
def preemptTeam (s : State) (k : Nat) : State :=
  match s.team k with
  | none => s
  | some tm =>
    let all : Bool := match s.launch tm.launch with | some la => la.coplace | none => false
    let ks := s.teamList.filter fun e => e.2.state == .placed && (e.1 == k || (all && e.2.launch == tm.launch))
    ks.foldl (fun a e => e.2.cores.foldl (fun a n => a.onCore n fun c => { c with preemptAsked := true })
      (a.setTeam e.1 (some { e.2 with state := .saving, forced := false }))) s

/-- A set of victims on a die. -/
structure Victims where
  die : Nat
  teams : List (Nat × Team)

/-- The sets of `k` elements of a list, in its order. -/
def subsets {α : Type} : Nat → List α → List (List α)
  | 0, _ => [[]]
  | _ + 1, [] => []
  | k + 1, x :: xs => (subsets k xs).map (x :: ·) ++ subsets (k + 1) xs

/-- One list of numbers before another: `down` has the greater number first. -/
def lexBefore (down : Bool) : List Nat → List Nat → Bool
  | x :: xs, y :: ys => if x = y then lexBefore down xs ys else if down then decide (y < x) else decide (x < y)
  | _, _ => false

/-- Numbers sorted in descending order. -/
def sortDown : List Nat → List Nat
  | [] => []
  | x :: xs =>
    let rec put (y : Nat) : List Nat → List Nat
      | [] => [y]
      | z :: zs => if z ≤ y then y :: z :: zs else z :: put y zs
    put x (sortDown xs)

/-- The cores of a set of victims. -/
def victimCores (v : Victims) : List Nat := v.teams.flatMap fun e => e.2.cores

/-- A plug-in disabled until its tenant loads one again: the default policy goes on. -/
def disablePlugin (s : State) (t : Nat) : State :=
  match (s.tenant t).plugin with
  | none => s
  | some g =>
    let s1 := s.setTenant t { s.tenant t with plugin := some { g with enabled := false } }
    { s1 with sched := { s1.sched with ranking := SMap.put [] s1.sched.ranking t [] } }

/-- The better of two sets that tie on the first two criteria of R148: a plug-in's order of dies, cores enough in one island, the
most recently placed, the lowest die, the lowest cores. DESIGN CHOICE (log 107): of two sets the more recently placed is the one whose
placement numbers, sorted from the latest, are greater at the first difference. -/
def betterSet (size : Nat) (rank : List Nat) (free : Nat → Bool) (a b : Victims) : Bool :=
  let pos (v : Victims) : Nat := (rank.findIdx? (· == v.die)).getD rank.length
  let one (v : Victims) : Bool := decide (size ≤ 16) && (inIsland size (dieCores v.die fun n => free n || (victimCores v).contains n)).isSome
  let age (v : Victims) : List Nat := sortDown (v.teams.map fun e => e.2.placedAt)
  if pos a ≠ pos b then decide (pos a < pos b)
  else if one a ≠ one b then one a
  else if age a ≠ age b then lexBefore true (age a) (age b)
  else if a.die ≠ b.die then decide (a.die < b.die)
  else lexBefore false (inOrder (victimCores a)) (inOrder (victimCores b))

/-- The best of some sets. -/
def bestSet (better : Victims → Victims → Bool) : List Victims → Option Victims
  | [] => none
  | v :: vs => match bestSet better vs with
    | none => some v
    | some w => if better v w then some v else some w

/-- Whom a pre-emption may stop: running teams that `may` admits, of at most each bound of `classes` in turn, for a team of a launch that may
have the cores that `free` admits. -/
structure Contest where
  la : Launch
  may : Nat × Team → Bool
  classes : List Nat
  free : Nat → Bool

/-- A set of victims leaves cores enough for the team. -/
def Contest.enough (x : Contest) (v : Victims) : Bool :=
  decide (x.la.teamSize ≤ (dieCores v.die fun n => x.free n || (victimCores v).contains n).length)

/-- The teams of the launch's tenant that run on a die and may be stopped, of a class of at most `m`. -/
def rivals (s : State) (x : Contest) (d m : Nat) : List (Nat × Team) :=
  s.teamList.filter fun e => e.2.state == .placed && s.teamTenant e.2 == x.la.tenant && x.may e && decide (s.classOf e.2 ≤ m) &&
    e.2.cores.any (dieOf · == d)

/-- The sets of victims that the first two criteria of R148 leave: the lowest bound of classes first, then the fewest teams. DESIGN CHOICE
(log 108): teams that stop only because they are co-placed with a victim are not counted, nor are their cores. -/
def tiedSets (s : State) (x : Contest) : List Victims :=
  let dies := (List.range 12).filter fun d => x.la.partMask.getLsbD d && (s.partition d).holder == some x.la.tenant && !(s.partition d).turning
  (x.classes.findSome? fun m => (List.range 32).findSome? fun k =>
    let sets := (dies.flatMap fun d => (subsets (k + 1) (s.rivals x d m)).map (Victims.mk d)).filter x.enough
    if sets.isEmpty then none else some sets).getD []

/-- A plug-in's ranking breaks the first two criteria of R148: the first die of it that could serve the team at all has no set that they
leave: DEDUCED (log 109). -/
def rankBreaks (s : State) (x : Contest) : Bool :=
  let could (d : Nat) : Bool := x.la.partMask.getLsbD d && (s.partition d).holder == some x.la.tenant && !(s.partition d).turning &&
    x.enough ⟨d, s.rivals x d 7⟩
  match (SMap.get [] s.sched.ranking x.la.tenant).find? could with
  | none => false
  | some d => let ties := s.tiedSets x; !ties.isEmpty && ties.all fun v => v.die != d

/-- A plug-in whose ranking breaks the criteria is disabled before the choice (R132, R148). -/
def judged (s : State) (x : Contest) : State := if s.rankBreaks x then s.disablePlugin x.la.tenant else s

/-- The victims for a team (R148). -/
def victimsFor (s : State) (x : Contest) : Option Victims :=
  bestSet (betterSet x.la.teamSize (SMap.get [] s.sched.ranking x.la.tenant) x.free) (s.tiedSets x)

/-- A team given cores by pre-emption: free ones of the victims' die are reserved at once, the victims' as they are freed. -/
def takeVictims (s : State) (l k : Nat) (x : Contest) (v : Victims) : State :=
  match fitTeam x.la.teamSize [v.die] fun n => x.free n || (victimCores v).contains n with
  | none => s
  | some xs =>
    let s1 := v.teams.foldl (fun a e => a.preemptTeam e.1) s
    (s1.reserve k xs).makeTeam l

/-- One waiting team served by pre-emption. -/
def preemptFor (s : State) (l k : Nat) (x : Contest) : Option State :=
  let s1 := s.judged x
  (s1.victimsFor x).map (s1.takeVictims l k x)

/-- All teams of a co-placed launch served by pre-emption, one after another (R149): cores that the victims of one leave over serve the
next. -/
def preemptAll (s : State) (l : Nat) (x : Contest) : List (Nat × Team) → List Nat → List Nat → Option State
  | [], _, _ => some s
  | e :: es, taken, freed =>
    let y : Contest := { x with free := fun n => (x.free n || freed.contains n) && !taken.contains n }
    let go (a : State) (freed : List Nat) : Option State :=
      a.preemptAll l x es ((match a.team e.1 with | some tm => tm.cores | none => []) ++ taken) freed
    match fitTeam x.la.teamSize (s.diesOf x.la) y.free with
    | some xs => go (s.reserve e.1 xs) freed
    | none => match s.preemptFor l e.1 y with
      | none => none
      | some a =>
        let stopped := a.teamList.filter fun v => v.2.state == .saving && (match s.team v.1 with | some tm => tm.state == .placed | none => false)
        go a (stopped.flatMap (fun v => v.2.cores) ++ freed)

/-- A launch served by pre-emption: one of its waiting teams, or all of them where they are co-placed. -/
def preemptLaunch (s : State) (l : Nat) (la : Launch) (may : Nat × Team → Bool) (classes : List Nat) (lower : Bool) : Option State :=
  let ws := s.waitingTeams l la
  if la.coplace then
    if ws.isEmpty ∨ s.siblingSaves l la then none
    else (s.preemptAll l ⟨la, may, classes, s.mayTake l la [] lower⟩ ws [] []).map fun a => a.onLaunch l fun la => { la with pool := [] }
  else ws.findSome? fun e => s.preemptFor l e.1 ⟨la, may, classes, s.mayTake l la e.2.cores lower⟩

/-- A launch served by pre-emption of lower classes (R147). -/
def tryPreempt (s : State) (l : Nat) (la : Launch) : Option State :=
  s.preemptLaunch l la (fun e => decide (s.classOf e.2 < la.prio)) (List.range la.prio) true

/-- A co-placed launch that waits keeps every core freed in its mask (R149). -/
def fillPool (s : State) (l : Nat) : State :=
  match s.launch l with
  | none => s
  | some la =>
    if !la.coplace ∨ (s.waitingTeams l la).isEmpty ∨ (s.directTeams l la).isSome then s
    else
      let xs := (s.diesOf la).flatMap fun d => dieCores d (s.mayTake l la [] false)
      s.onLaunch l fun x => { x with pool := inOrder xs }

/-- The tenants that are live, by number. -/
def tenantIds (s : State) : List Nat := (s.sched.tenants.filter fun e => e.2.live).map Prod.fst

/-- A placement decision (R147): one team, or one co-placed launch, of the highest class that can be served. -/
def decidePlacement (s : State) : State :=
  let s1 := (s.launchList.map Prod.fst).foldl fillPool s.dropCredits
  let one (t : Nat) : Option State := [7, 6, 5, 4, 3, 2, 1, 0].findSome? fun c => match placeBy tryDirect s1 t c with
    | some a => some a
    | none => placeBy tryPreempt s1 t c
  ((s1.tenantIds.findSome? one).getD s1).dropCredits

/-- A rotation (R150): a running team of the same class that is not persistent makes room for a team that waits, or for all those of a
co-placed launch. -/
def rotate (s : State) (k : Nat) : State :=
  match s.team k with
  | none => s
  | some tm => match s.launch tm.launch with
    | none => s
    | some la =>
      let rotates (x : Nat × Team) : Bool := s.classOf x.2 == la.prio && (match s.launch x.2.launch with | some y => !y.persist | none => false)
      let direct : Bool := if la.coplace then (s.directTeams tm.launch la).isSome else (s.directCores tm.launch la tm).isSome
      if !((s.waitingTeams tm.launch la).any (·.1 == k)) ∨ direct then s
      else if la.coplace then (s.preemptLaunch tm.launch la rotates [la.prio] false).getD s
      else (s.preemptFor tm.launch k ⟨la, rotates, [la.prio], s.mayTake tm.launch la tm.cores false⟩).getD s

/-! ### The start of a team (R112, R113, R141, R142, R230) -/

/-- A member as its team starts: its core's cycle counter, settings, rows and tile entries stay as they are, and its code is what the
object holds now (R157). -/
def startMember (s : State) (k : Nat) (tm : Team) (la : Launch) (n rank : Nat) : State :=
  s.onCore n fun c => captureCode s { Core.initial with
    run := .running
    team := some k
    rank := rank
    pc := la.codeOff
    entryOff := la.codeOff
    fetchCap := Cap.make (Cap.obj la.codeCap) (Cap.rights la.codeCap &&& 0x7F) (Cap.base la.codeCap) (Cap.len la.codeCap)
    regs := { Regs.initial with s := SMap.putList 0 [] 1 (la.args.take 6) }
    sp := { Specials.initial with
      cyc := c.sp.cyc, tmrank := BitVec.ofNat 5 rank, tmsize := BitVec.ofNat 6 la.teamSize, tmid := BitVec.ofNat 24 tm.index
      tmcount := BitVec.ofNat 24 la.teamCount }
    stamp := (s.tenant la.tenant).gen.chipGen
    board := { Board.initial with rres := c.board.rres, cwcfg := c.board.cwcfg, depths := c.board.cwcfg }
    eng := { Engines.initial with rows := c.eng.rows, rowMap := c.eng.rowMap, acc := c.eng.acc, retention := c.eng.retention, bad := c.eng.bad } }

/-- The cores reserved for a team are all free, and nothing of their last team is still on its way. -/
def coresReady (s : State) (t size : Nat) (tm : Team) : Bool :=
  tm.cores.length == size && tm.cores.all fun n => s.coreFree t n && (s.coreAt n).acc.isEmpty && (s.coreAt n).reds.isEmpty

/-- The teams placed, or resumed, with a team: all of a co-placed launch that wait (R149). -/
def placedWith (s : State) (k : Nat) (tm : Team) (la : Launch) (st : TeamState) : List (Nat × Team) :=
  if la.coplace then s.teamList.filter fun e => e.2.launch == tm.launch && e.2.state == st else [(k, tm)]

/-- A team placed on its cores: they are its home cores from now on (R398). -/
def placeTeam (s : State) (k : Nat) (tm : Team) (la : Launch) : State :=
  let s1 := (tm.cores.zipIdx).foldl (fun a x => a.startMember k tm la x.1 x.2) s
  let s2 := s1.setTeam k (some { tm with state := .placed, home := tm.cores, placedAt := s.sched.placements, points := [] })
  { s2 with sched := { s2.sched with placements := s.sched.placements + 1 } }

/-- A pending team starts once all its cores are free (R147). -/
def startTeam (s : State) (k : Nat) : State :=
  match s.team k with
  | none => s
  | some tm => match s.launch tm.launch with
    | none => s
    | some la =>
      let all := s.placedWith k tm la .pending
      if tm.state ≠ .pending ∨ la.abort.isSome ∨ (la.coplace ∧ la.made < la.teamCount) ∨ !all.all fun e => s.coresReady la.tenant la.teamSize e.2 then s
      else all.foldl (fun a e => a.placeTeam e.1 e.2 la) s

/-! ### The end of a team (R141, R476) -/

/-- A task that a team posted is still in a window (R141). -/
def hasTasks (s : State) (k : Nat) (tm : Team) : Bool :=
  (tm.cores.any fun n => (s.coreAt n).board.entries.any fun e => !e.remote || e.origin.isSome)
    || s.cores.any fun e => e.2.board.entries.any fun x => x.poster == some k

/-- Records that a team posted are still on their way. -/
def hasPosts (s : State) (k : Nat) : Bool :=
  s.fab.flowsOut.any fun o => o.unacked.any fun u => u.member.map Prod.fst == some k && (match u.msg.body with | .post .. => true | _ => false)

/-- A member has ended: halted, with its accesses and reductions performed. -/
def memberDone (c : Core) : Bool := c.run == .halted && c.acc.isEmpty && c.reds.isEmpty && c.outPosts.isEmpty && c.frozen.isEmpty

/-- A core without a team: what belongs to the core itself stays (R202, R288, R413, R29). -/
def vacant (c : Core) : Core := { Core.initial with
  sp := { Specials.initial with cyc := c.sp.cyc }
  board := { Board.initial with rres := c.board.rres, cwcfg := c.board.cwcfg, depths := c.board.cwcfg }
  eng := { Engines.initial with rows := c.eng.rows, rowMap := c.eng.rowMap, acc := c.eng.acc, retention := c.eng.retention, bad := c.eng.bad } }

/-- A core freed: its steps, lines and directory entries go. -/
def freeCore (s : State) (n : Nat) : State := ((s.onCore n vacant).dropDir n).dropSteps n

/-- Other chips hold directory entries of a team's tasks, those of held boxes (R319, R362). -/
def hasFar (s : State) (tm : Team) : Bool := s.fab.remDirs.any fun r => tm.cores.contains r.core

/-- They are removed before the team ends (R476). -/
def leaveTeam (s : State) (tm : Team) : State :=
  let leave (r : RemDir) : RemDir := if tm.cores.contains r.core ∧ (r.stage = .made ∨ r.stage = .kept) then { r with stage := .leaving } else r
  ({ s with fab := { s.fab with remDirs := s.fab.remDirs.map leave } } : State).sendLeaves

/-- A team ends once every member has halted and every task it posted has retired (R141), while it is pre-empted too (R155), and once no other
chip holds an entry of theirs (R476): its cores are free. -/
def endTeam (s : State) (k : Nat) : State :=
  match s.team k with
  | none => s
  | some tm =>
    if (tm.state ≠ .placed ∧ tm.state ≠ .saving) ∨ s.hasTasks k tm ∨ s.hasPosts k ∨ !tm.cores.all fun n => memberDone (s.coreAt n) then s
    else if s.hasFar tm then s.leaveTeam tm
    else
      let s1 := (tm.cores.foldl freeCore s).setTeam k (some { tm with state := .ended, cores := [], forced := false })
      s1.onLaunch tm.launch fun la => { la with ended := la.ended + 1 }

/-! ### The save (R446 to R450) -/

/-- Live map `n` of a member (R447): sixteen doublewords, or none where the map is not one. -/
def liveMap (s : State) (c : Core) (n : Nat) : Option (List Word) :=
  let a : Int := c.entryOff.toNat - 128 * (n + 1)
  let ws := (List.range 16).map fun i => wordOfBytes (s.bytesAt (Cap.obj c.fetchCap) (a.toNat + 8 * i) 8)
  let w (i : Nat) : Word := (ws[i]?).getD 0
  let rangeOk (i k : Nat) : Bool := nfield (w i) (32 * k + 28) 4 == 0 && decide (nfield (w i) (32 * k) 14 + nfield (w i) (32 * k + 14) 14 ≤ 12288)
  let ranges := (List.range 4).all fun i => rangeOk (12 + i) 0 && rangeOk (12 + i) 1
  if a < 0 ∨ !Cap.within c.fetchCap a 128 ∨ bit (w 1) 63 ∨ !ranges then none else some ws

/-- The extents that hold a live map are resident, so that firmware can read it. -/
def mapResident (s : State) (c : Core) (n : Nat) : Bool :=
  let a := c.entryOff.toNat - 128 * (n + 1)
  match s.obj (Cap.obj c.fetchCap) with
  | none => true
  | some o => decide (o.bytes ≤ a) || (o.ext (a / extentBytes)).frame.isSome && (o.ext ((a + 127) / extentBytes)).frame.isSome

/-- Physical rows that saved translations and speculative rows name (R448). -/
def heldRows (c : Core) : List Nat :=
  (c.board.entries.flatMap fun e => e.tr.map (fun m => m.2 - 1) ++ e.wtr.map fun m => m.2 - 1)
    ++ (c.board.held.flatMap fun h => h.entry.tr.map fun m => m.2 - 1) ++ c.board.units.flatMap fun u => u.spec.map fun m => m.2 - 1

/-- The state a live map names, and what every save keeps (R448): the rest is as a restore leaves it. -/
def keepLive (c : Core) (ws : List Word) : Core :=
  let w (i : Nat) : Word := (ws[i]?).getD 0
  let ranges := (List.range 8).map fun i => (nfield (w (12 + i / 2)) (32 * (i % 2)) 14, nfield (w (12 + i / 2)) (32 * (i % 2) + 14) 14)
  let logical := ranges.flatMap fun r => (List.range r.2).map (r.1 + ·)
  let rows := heldRows c ++ logical.map c.phys ++ logical.map (forwardRow c c.board.entries)
  let tile (t : Nat) : Bool := bit (w 1) (56 + t)
  let modeMask : BitVec 4 := field (w 1) 56 4
  { c with
    regs := {
      s := SMap.without c.regs.s fun i => !bit (w 0) i
      c := SMap.without c.regs.c fun i => !bit (w 0) (32 + i)
      p := c.regs.p &&& field (w 0) 48 16
      m := SMap.without c.regs.m fun i => !bit (w 1) i
      g := SMap.without c.regs.g fun i => !bit (w 1) (16 + i)
      b := SMap.without c.regs.b fun i => !bit (w 1) (48 + i)
      v := SMap.without c.regs.v fun i => !bit (w (2 + i / 64)) (i % 64) }
    sp := { c.sp with gens := if bit (w 1) 62 then c.sp.gens else laneSeeds 1 }
    savedRows := (List.range 13312).filter rows.contains
    eng := { c.eng with
      rows := SMap.without c.eng.rows fun r => !rows.contains r
      acc := SMap.without c.eng.acc fun k => !tile (k / 16384)
      modes := c.eng.modes &&& modeMask
      plane0 := if bit (w 1) 60 then c.eng.plane0 else Plane.initial
      plane1 := if bit (w 1) 60 then c.eng.plane1 else Plane.initial
      selector := bit (w 1) 60 && c.eng.selector
      drainStore := if bit (w 1) 61 then c.eng.drainStore else []
      streamStore := if bit (w 1) 61 then c.eng.streamStore else [] } }

/-- A halted member keeps no thread state, and without unretired tasks nothing but its header (R448). -/
def keepHalted (c : Core) : Core :=
  let c1 := { c with regs := Regs.initial, pc := 0, sp := { c.sp with gens := laneSeeds 1, bpend := 0, loops := [] } }
  if c.board.entries.isEmpty then
    { c1 with eng := { c.eng with
        rows := [], rowMap := [], acc := [], plane0 := Plane.initial, plane1 := Plane.initial, checkpoint := none, drainStore := [], streamStore := [] } }
  else c1

/-- A copy channel stands at a stop point (R446): between chunks, between elements in serial mode, or where a page is missing. -/
def copyStops (s : State) (c : Core) (e : Entry) : Bool :=
  let rs := chanReqs c e.post.channel
  let side (q off : Nat) : Bool := match e.post.box q with
    | some b => (match s.sideOf b (e.post.cap q) with
      | .mem obj => (match s.obj obj with
        | some o => o.route == .local && decide (off < o.bytes) && (o.ext (off / extentBytes)).frame.isNone
        | none => false)
      | _ => false)
    | none => false
  match rs.head? with
  | none => decide (e.prog.lim ≤ e.prog.at') || !e.disjoint
  | some r => side (copySlots e.post).1 r.src || side (copySlots e.post).2 r.dst

/-- An executing task stands at its engine's stop point (R446). A matrix record that waits for a rollback completes first (R453). -/
def taskStops (s : State) (c : Core) (e : Entry) : Bool :=
  e.state != .executing || e.prog.fin || e.fault.isSome || match e.queue with
    | .matrix => false
    | .copy _ => !e.prog.begun || e.post.isSubscr || s.copyStops c e
    | _ => true

/-- A member can be saved (R437, R446): its thread and its engines stand still, no master is frozen, its combining buffer is
flushed, and what it sent to a port of this chip has been performed, but for accesses that a missing page halts. -/
def memberStops (s : State) (n : Nat) : Bool :=
  let c := s.coreAt n
  c.stopping && c.frozen.isEmpty && !c.eng.retention && !s.clockStopped n
    && (c.reds.all fun r => r.sent && s.atPeer (Cap.obj r.cap))
    && (c.acc.all fun o => o.phase != .sent || s.atPeer (Cap.obj o.cap))
    && (c.run != .halted || c.acc.isEmpty)
    && c.board.entries.all (s.taskStops c)
    && (match c.run with | .stopped (some m) => s.mapResident c m.toNat | _ => true)

/-- The image of a member (R448, R449): a safe point whose map is not one is saved as forced (R447). Copies that a missing page
halted go on with a new chunk. -/
def imageOf (s : State) (c : Core) : Core :=
  let c1 := match c.run with
    | .halted => keepHalted c
    | .stopped (some m) => (match s.liveMap c m.toNat with | some ws => keepLive c ws | none => { c with run := .stopped none })
    | _ => c
  let rest (e : Entry) : Entry := { e with prog := { e.prog with lim := if e.prog.at' < e.prog.lim ∧ e.disjoint then e.prog.at' else e.prog.lim } }
  { c1 with
    preemptAsked := false, preemptForced := false, code := [], codeExts := [], codeLines := [], routeCache := [], stamp := 0
    acc := c1.acc.map fun o => if o.phase = .sent ∧ !s.atPeer (Cap.obj o.cap) then { o with phase := .entered } else o
    accHalted := false
    board := { c1.board with entries := c1.board.entries.map rest }
    eng := { c1.eng with copyReqs := [] } }

/-- What other agents hold about a member is named by a new number. -/
def renumber (s : State) (old new : Nat) : State :=
  { s with
    hbm := { s.hbm with dir := s.hbm.dir.map fun d => if d.chip = s.dev.chip ∧ d.core = old then { d with core := new } else d }
    fab := { s.fab with
      steps := s.fab.steps.map fun (x : CollStep) => if x.core = old then { x with core := new } else x
      closed := s.fab.closed.map fun x => if x.1 = old then (new, x.2) else x
      remDirs := s.fab.remDirs.map fun (r : RemDir) => if r.core = old then { r with core := new } else r
      asks := s.fab.asks.map fun (a : Ask) => if a.core = old then { a with core := new } else a
      chunks := s.fab.chunks.map fun (x : ChunkLine) => if x.core = old then { x with core := new } else x } }

/-- Lines held in chunk slots of a member are discarded unacknowledged (R421): those of this chip are sent again. -/
def dropSlots (s : State) (n : Nat) : State :=
  let gone := s.fab.chunks.filter fun k => k.core == n && k.slot
  let s1 : State := { s with fab := { s.fab with chunks := s.fab.chunks.filter fun k => !(k.core == n && k.slot) } }
  gone.foldl (fun a k => match k.msg with | some (f, q) => if f.srcChip = s.dev.chip then a.resend f q else a | none => a) s1

/-- The groups that a core's unretired collectives name, with its member index in each (R410). -/
def memberships (s : State) (n : Nat) : List (Nat × Nat) :=
  let t := s.tenantOf n
  let gs := ((s.coreAt n).board.entries.filter fun e => e.post.kind == 0x28).map fun e => nfield (e.post.word 8) 0 16
  gs.eraseDups.filterMap fun g => (s.collVersion t g).bind fun v => (s.memberOf t n v).map fun m => (g, m)

/-- A change of a core's member state made known to its groups (R410). -/
def notifyAll (s : State) (n : Nat) (x : MemberState) : State :=
  (s.memberships n).foldl (fun a gm => a.notify (s.tenantOf n) gm.1 gm.2 x) s

/-- A member saved: its image stands under its own number, and its core is free. -/
def saveMember (s : State) (k rank n : Nat) : State :=
  let s1 := (s.notifyAll n .absentPending).dropSlots n
  let s2 := (s1.renumber n (parkNo k rank)).setCore (parkNo k rank) (s1.imageOf (s1.coreAt n))
  s2.onCore n vacant

/-- A team is saved once every member stands still (R143, R446). One whose members have all halted saves nothing (R155): its tasks go on, and it
ends as they have retired. -/
def saveTeam (s : State) (k : Nat) : State :=
  match s.team k with
  | none => s
  | some tm =>
    if tm.state = .saving ∧ tm.cores.all (fun n => (s.coreAt n).run == .halted) then
      tm.cores.foldl (fun a n => a.onCore n fun c => { c with preemptAsked := false, preemptForced := false }) s
    else if tm.state ≠ .saving ∨ !tm.cores.all s.memberStops then s
    else
      let s1 := (tm.cores.zipIdx).foldl (fun a x => a.saveMember k x.2 x.1) s
      s1.setTeam k (some { tm with state := .saved, cores := [], forced := false })

/-- The forced pre-emption timeout (R143, R446): members that run stop at their next group boundary. -/
def forceTeam (s : State) (k : Nat) : State :=
  match s.team k with
  | none => s
  | some tm =>
    if tm.state ≠ .saving then s
    else tm.cores.foldl (fun a n => a.onCore n fun c => if c.run = .running ∨ c.run = .broken then { c with preemptForced := true } else c)
      (s.setTeam k (some { tm with forced := true }))

/-! ### Resuming (R451) -/

/-- The lowest unretired id of each copy channel (R451). -/
def restartIds (c : Core) : SMap (BitVec 32) :=
  (List.range 4).foldl (fun m ch =>
    let low := match c.board.entries.find? fun e => e.post.takesId && e.post.channel == ch with
      | some e => e.post.xferId
      | none => SMap.get 0 c.eng.nextId ch
    SMap.put 0 m ch low) []

/-- A member restored on a core (R451): what belongs to the core stays the core's, and its code is what the object holds now (R157). -/
def resumeMember (s : State) (k rank n : Nat) (gen : Word) : State :=
  let old := s.coreAt n
  let c := s.coreAt (parkNo k rank)
  let c1 := { c with
    run := match c.run with | .stopped _ => .running | r => r
    savedRows := []
    stamp := gen
    sp := { c.sp with cyc := old.sp.cyc }
    board := { c.board with rres := old.board.rres, cwcfg := old.board.cwcfg, depths := old.board.cwcfg }
    eng := { c.eng with retention := old.eng.retention, cpl := restartIds c } }
  ((s.setCore n (captureCode s c1)).setCore (parkNo k rank) Core.initial).renumber (parkNo k rank) n

/-- A saved team resumes once all the cores reserved for it are free, and those of a co-placed launch together (R143, R149, R451). Messages that
waited for its windows are sent again (R401). -/
def resumeTeam (s : State) (k : Nat) : State :=
  match s.team k with
  | none => s
  | some tm => match s.launch tm.launch with
    | none => s
    | some la =>
      let all := s.placedWith k tm la .saved
      if tm.state ≠ .saved ∨ s.siblingSaves tm.launch la ∨ !all.all fun e => s.coresReady la.tenant la.teamSize e.2 then s
      else all.foldl (fun a e =>
        let a1 := (e.2.cores.zipIdx).foldl (fun b x => b.resumeMember e.1 x.2 x.1 (s.tenant la.tenant).gen.chipGen) a
        let a2 := a1.setTeam e.1 (some { e.2 with state := .placed, placedAt := a1.sched.placements })
        let a3 : State := { a2 with sched := { a2.sched with placements := a2.sched.placements + 1 } }
        e.2.cores.foldl (fun b n => (b.notifyAll n .present).windowBack n) a3) s

/-! ### Slice turns (R96, R126, R127) -/

/-- The tenant whose turn comes next in a partition: the one assigned, or in a sliced partition the other one while it lives. -/
def nextHolder (s : State) (p : Partition) : Option Nat :=
  let a := nfield p.assign 0 9
  let b := nfield p.assign 32 9
  let order := if !bit p.assign 15 then [a] else if p.holder = some a then [b, a] else [a, b]
  order.find? fun t => (s.tenant t).live

/-- A core scrubbed (R29): rows, the row map and tile entries are as after partition reset. -/
def scrubCore (s : State) (n : Nat) : State :=
  s.onCore n fun c => let v := vacant c; { v with eng := { v.eng with rows := [], rowMap := [], acc := [], bad := [] } }

/-- Cached records of tenants that hold no partition are invalidated, and so is a held wait, which is read again (R126). -/
def dropCached (s : State) : State :=
  let holds (t : Nat) : Bool := (List.range 12).any fun d => (s.partition d).holder == some t
  s.host.fns.foldl (fun a f => if holds f.2.tenant.toNat then a
    else f.2.queues.foldl (fun a q => a.onQueue f.1 q.1 fun k => { k with cached := [], waitRec := [], blocked := false }) a) s

/-- A partition passes to another holder: debug is switched off unless the PF's tenant takes it (R516), and the cores are scrubbed. -/
def passPartition (s : State) (d : Nat) (t : Option Nat) : State :=
  let p := s.partition d
  let s1 := if t = some (s.hostFn 0).tenant.toNat ∨ t = none then s else { s with dev := { s.dev with dbgctl := setBit s.dev.dbgctl d false } }
  let s2 := (List.range 32).foldl (fun a i => a.scrubCore (32 * d + i)) s1
  (s2.setPartition d { p with holder := t, turning := false }).dropCached

/-- A slice turn begins: the teams on a partition are pre-empted. -/
def beginTurn (s : State) (d : Nat) : State :=
  let cores := (List.range 32).map (32 * d + ·)
  let there := s.teamList.filter fun e => e.2.state == .placed && e.2.cores.any (dieOf · == d)
  there.foldl (fun a e => a.preemptTeam e.1) ((s.unreserve cores).setPartition d { s.partition d with turning := true })

/-- A slice turn of a partition (R127): the outgoing tenant's teams are pre-empted; once they are saved, the partition passes to the
next tenant. -/
def sliceTurn (s : State) (d : Nat) : State :=
  let p := s.partition d
  let next := s.nextHolder p
  let cores := (List.range 32).map (32 * d + ·)
  if 12 ≤ d then s
  else if next = p.holder then s.setPartition d { p with turning := false }
  else if !p.turning then s.beginTurn d
  else if cores.all fun n => (s.coreAt n).team.isNone && (s.coreAt n).acc.isEmpty && (s.coreAt n).reds.isEmpty then s.passPartition d next
  else s

/-! ### Policy plug-ins (R130 to R132) -/

/-- The function of a tenant, whose mask bounds its teams (R94, R98). -/
def maskOf (s : State) (t : Nat) : BitVec 12 := (s.hostFn (s.fnOf t)).partMask

/-- The PMP entries that a call of a tenant's plug-in runs under (R131), over those that a scheduler core holds. -/
def pluginPmp (t : Nat) (m : SMap PmpEntry) : SMap PmpEntry :=
  [(12, (⟨.pluginCode t, true, false, true, true, false⟩ : PmpEntry)), (13, ⟨.pluginData t, true, true, false, true, false⟩),
    (14, ⟨.callBuffer, true, true, false, true, false⟩)].foldl (fun (m : SMap PmpEntry) e => SMap.put (pmpReset e.1) m e.1 e.2) m

/-- The monitor rewrites entries 12 to 14 of the scheduler cores for a call (R131). -/
def setPluginPmp (s : State) (t : Nat) : State :=
  { s with dev := { s.dev with harts := (List.range 4).foldl (fun m i =>
      let h := SMap.get Hart.initial m i
      SMap.put Hart.initial m i { h with pmp := pluginPmp t h.pmp }) s.dev.harts } }

/-- A call of a tenant's plug-in (R132): the monitor writes entries 12 to 14, and the ranking returned is kept unless it names a
partition outside the tenant's mask. -/
def callPlugin (s : State) (t : Nat) (dies : List Nat) : State :=
  match (s.tenant t).plugin with
  | none => s
  | some g =>
    if !g.enabled then s
    else
      let s1 := s.setPluginPmp t
      if dies.all fun d => decide (d < 12) && (s.maskOf t).getLsbD d then
        { s1 with sched := { s1.sched with ranking := SMap.put [] s1.sched.ranking t dies.eraseDups } }
      else s1.disablePlugin t

end State

/-! ### Events -/

/-- PLACEMENT_DECISION (R147). -/
def execPlacementDecision (s : State) : Host.Outcome State Fault Refusal := atScheduler (·.decidePlacement) s

/-- ROTATION_INTERVAL_EXPIRY (R150). -/
def execRotationIntervalExpiry (team : Nat) (s : State) : Host.Outcome State Fault Refusal := atScheduler (·.rotate team) s

/-- TEAM_PLACE (R147). -/
def execTeamPlace (team : Nat) (s : State) : Host.Outcome State Fault Refusal := atScheduler (·.startTeam team) s

/-- TEAM_END (R141). -/
def execTeamEnd (team : Nat) (s : State) : Host.Outcome State Fault Refusal := atScheduler (·.endTeam team) s

/-- FORCED_PREEMPTION_TIMEOUT (R143). -/
def execForcedPreemptionTimeout (team : Nat) (s : State) : Host.Outcome State Fault Refusal := atScheduler (·.forceTeam team) s

/-- SAVE_COMPLETE (R446). -/
def execSaveComplete (team : Nat) (s : State) : Host.Outcome State Fault Refusal := atScheduler (·.saveTeam team) s

/-- TEAM_RESUME (R451). -/
def execTeamResume (team : Nat) (s : State) : Host.Outcome State Fault Refusal := atScheduler (·.resumeTeam team) s

/-- SLICE_TURN (R127). -/
def execSliceTurn (part : Nat) (s : State) : Host.Outcome State Fault Refusal := atScheduler (·.sliceTurn part) s

/-- PLUGIN_CALL (R132). -/
def execPluginCall (tenant : Nat) (dies : Dies) (s : State) : Host.Outcome State Fault Refusal := atScheduler (·.callPlugin tenant dies) s

/-- PLUGIN_BUDGET_EXPIRY (R132). -/
def execPluginBudgetExpiry (tenant : Nat) (s : State) : Host.Outcome State Fault Refusal := atScheduler (·.disablePlugin tenant) s

/-- PLUGIN_FAULT (R132). -/
def execPluginFault (tenant : Nat) (s : State) : Host.Outcome State Fault Refusal := atScheduler (·.disablePlugin tenant) s

/-- SCHEDULER_PMP_FAULT (R437): the scheduler core stops until cold reset. -/
def execSchedulerPmpFault (core : Nat) (s : State) : Host.Outcome State Fault Refusal :=
  atDevice (fun s => if 4 ≤ core then s else { s with dev := { s.dev with schedFrozen := s.dev.schedFrozen ||| BitVec.ofNat 4 (2 ^ core) } }) s

end Sys2Proof.Machine
end

