-- ==== Sys2Proof/Machine/Reset.lean ====
section
/-!
DEFINITION. Resets (R10, R129) and links (R514, R515), and what becomes of objects (R120), records and queues as tenants end.
-/

namespace Sys2Proof.Machine

open Sys2Proof.Bits

namespace State

/-! ### Objects (R120) -/

/-- Grains of an object that the frozen stratum still holds (R120, R465). -/
def frozenGrains (s : State) (t obj : Nat) : List KeptGrain :=
  ((undrainedGrains s t).filter (·.obj == obj)).map fun u => ⟨t, u.obj, u.grain, u.phys⟩

/-- An object removed (R120): its table entry goes and its frames are free; frozen grains are kept where they stand, and the
reserve grains that held its current data return. -/
def removeObject (s : State) (obj : Nat) : State :=
  match s.obj obj with
  | none => s
  | some o =>
    let kept := if (s.frozenOf o.tenant).isSome then s.frozenGrains o.tenant obj else []
    let held := kept.map KeptGrain.phys
    let mine := s.hbm.redirects.filter (·.obj == obj)
    let back := (s.hbm.moved.filter fun m => m.1 / 2 ^ 32 == obj).map (fun m => m.2 - 1) ++ mine.map Redirect.old
    let s1 := ((back.filter fun g => !held.contains g).eraseDups).foldl giveUp s
    let s2 : State := { s1 with hbm := { s1.hbm with
      redirects := s1.hbm.redirects.filter (·.obj != obj)
      moved := SMap.without s1.hbm.moved fun k => k / 2 ^ 32 == obj
      holds := s1.hbm.holds.filter (·.obj != obj)
      waits := s1.hbm.waits.filter (·.obj != obj)
      extCache := s1.hbm.extCache.filter (·.obj != obj) } }
    let frames := o.exts.flatMap fun x => x.2.frame.toList ++ x.2.migrating.toList
    let s3 := (frames.foldl clearFrame s2).setObj obj none
    let s4 := (frames.filter fun f => !held.any (· / frameGrains == f)).foldl wipeFrame s3
    { s4 with hbm := { s4.hbm with kept := s4.hbm.kept ++ kept } }

/-- Every object of a tenant removed. -/
def removeObjects (s : State) (t : Nat) : State :=
  (s.hbm.objs.filter fun e => match e.2 with | some o => o.tenant == t | none => false).foldl (fun a e => a.removeObject e.1) s

/-! ### Records of the front end -/

/-- The offset of a record's slot in its ring (R99). -/
def slotOff (k : HostQueue) (idx : BitVec 32) : Nat := 128 * (idx.toNat % 2 ^ k.lgEnt)

/-- A write of the front end into a ring (R110, R455). -/
def ringWrite (s : State) (t : Nat) (k : HostQueue) (idx : BitVec 32) (word : Nat) (v : Word) : PortRes :=
  s.portAccess t k.ring.toNat (slotOff k idx + 8 * word) (.write (toBytes v 8)) (s.tenant t).gen.chipGen

/-- A record's completion word (R105). -/
def completionWord (status : BitVec 8) (result : BitVec 32) : Word := (result ++ (0 : BitVec 24)) ++ status

/-- Records consumed and not completed are discarded with status 0x04 where their slot survives (R129). -/
def cancelRecords (s : State) (fn q : Nat) : State :=
  match s.queueAt fn q with
  | none => s
  | some k => k.recs.foldl (fun a r => if r.finished then a
      else match a.ringWrite (s.hostFn fn).tenant.toNat k r.idx 14 (completionWord 0x04 0) with | .done _ _ b => b | _ => a) s

/-! ### Function-level reset (R129) -/

/-- Members of a tenant's groups on this chip are withdrawn (R410). -/
def withdrawAll (s : State) (t : Nat) : State :=
  let own := (List.range 1024).filter fun l => s.ownLid t l
  (s.tenant t).groups.foldl (fun a g => match s.collVersion t g.1 with
    | none => a
    | some v => (v.members.zipIdx).foldl (fun b x =>
        if own.contains x.1.1 ∧ v.stateOf x.2 ≠ .withdrawn ∧ (s.homeWindow t x.1.2).isSome then b.notify t g.1 x.2 .withdrawn else b) a) s

/-- Messages of a tenant between windows of this chip end with it, and what its windows left at other chips is to be removed. -/
def dropFlows (s : State) (t : Nat) : State :=
  let here := s.fab.flowsOut.flatMap fun o => if o.id.dstChip = s.dev.chip ∧ o.id.cls ≠ 3 then
    (o.unacked.filter (·.tenant == t)).map fun u => (o.id, u.msg.seq) else []
  let s1 := here.foldl (fun a x => a.dropMsg x.1 x.2) s.sendLeaves
  { s1 with fab := { s1.fab with
      replies := s1.fab.replies.filter fun r => !here.contains (r.flow, r.seq)
      control := s1.fab.control.filter fun c => c.1 != t
      switches := s1.fab.switches.filter fun y => y.key.tenant != t } }

/-- A tenant's launches and teams end without a save (R129). -/
def stopTenant (s : State) (t : Nat) : State :=
  let ks := s.teamList.filter fun e => s.teamTenant e.2 == t
  let s1 := ks.foldl (fun a e => (a.stopTeam e.1).setTeam e.1 none) s
  s1.launchList.foldl (fun a e => if e.2.tenant = t then a.setLaunch e.1 none else a) s1

/-- An assignment word without a tenant (R127). -/
def withoutTenant (w : Word) (t : Nat) : Word :=
  let w1 := if nfield w 0 9 = t then setField w 0 9 0 else w
  if nfield w 32 9 = t then setField w1 32 9 0 else w1

/-- The partitions a tenant holds lose their holder, and their cores are scrubbed. DESIGN CHOICE (log 110): no assignment names the tenant
any more, so that its number can be given again. -/
def dropPartitions (s : State) (t : Nat) : State :=
  (List.range 12).foldl (fun a d =>
    let b := if (a.partition d).holder = some t then a.passPartition d none else a
    b.setPartition d { b.partition d with assign := withoutTenant (b.partition d).assign t }) s

/-- A function-level reset, in its order (R129): what remains of the function is unbound. -/
def resetFunction (s : State) (fn : Nat) : State :=
  let h := s.hostFn fn
  let t := h.tenant.toNat
  let clear (a : State) : State := a.setFn fn { HostFn.initial with vfEnabled := h.vfEnabled }
  if t = 0 then clear s
  else
    let s1 := (s.withdrawAll t).stopTenant t
    let s2 := h.queues.foldl (fun a q => a.cancelRecords fn q.1) s1
    let s3 := (clear (s2.dropPartitions t)).abortGen t 0x03
    let s4 := ((s3.removeObjects t).dropFlows t).setTenant t Tenant.initial
    { s4 with sched := { s4.sched with ranking := SMap.put [] s4.sched.ranking t [] } }

/-- The PF's reset takes every VF's tenant with it (R129). -/
def resetPf (s : State) : State :=
  let vfs := (s.host.fns.filter fun e => e.1 != 0).map Prod.fst
  vfs.foldl (fun a f => (a.resetFunction f).setFn f HostFn.initial) (s.resetFunction 0)

/-! ### Wider resets (R10) -/

/-- Cold reset: every field. What lies outside the package stays as it is: host memory, the messages it has received, and the
lower tier. -/
def coldReset (s : State) : State :=
  { State.reset with
    inputs := s.inputs, freeCtr := s.freeCtr
    dev := { Device.initial with chip := s.dev.chip }
    host := { State.reset.host with msix := s.host.msix, hostMem := s.host.hostMem }
    hbm := { Hbm.initial with lower := s.hbm.lower } }

/-- The stack of a channel (R4): stack `d` has channels 32`d` to 32`d` + 31. -/
def stackOfChannel (chan : Nat) : Nat := chan / 32

/-- The stack that an object's byte stands in: the one whose tide engine holds writes to it while it migrates (R440). -/
def stackAt (s : State) (obj off : Nat) : Option Nat :=
  (s.obj obj).bind fun o => ((o.ext (off / extentBytes)).frame).map fun f => f / stackFrames

/-- The flows of a die's cores end with its reset and begin anew from number 0 (R399). Control messages still to be answered, which leave as a
core's, go out again. -/
def resetFlows (s : State) (d : Nat) : State :=
  let mine (f : FlowId) : Bool := f.srcChip == s.dev.chip && decide (f.srcCore / 32 = d)
  let again := (s.fab.flowsOut.filter fun o => mine o.id && o.id.cls == 3).flatMap fun o => o.unacked.map fun u => (u.tenant, u.lid, u.msg.body)
  sendControls { s with fab := { s.fab with
    flowsOut := s.fab.flowsOut.filter fun o => !mine o.id
    flowsIn := s.fab.flowsIn.filter fun i => !mine i.id
    net := s.fab.net.filter fun m => !mine m.flow
    replies := s.fab.replies.filter fun r => !mine r.flow
    asks := s.fab.asks.filter fun a => !(mine a.msg.1 && a.answer.isNone)
    remDirs := s.fab.remDirs.map fun (r : RemDir) => match r.msg with
      | some m => if mine m.1 then { r with msg := none, stage := .leaving } else r
      | none => r
    control := again ++ s.fab.control } }

/-- Partition reset (R10): the fields of the die's cores, engines, stack and channels; HBM contents stay. Teams on the die end
without a save. -/
def resetPartition (s : State) (d : Nat) : State :=
  if 12 ≤ d then s
  else
    let there := s.teamList.filter fun e => (e.2.state == .placed || e.2.state == .saving) && e.2.cores.any (dieOf · == d)
    let s1 := there.foldl (fun a e => (a.stopTeam e.1).onLaunch e.2.launch fun la => { la with ended := la.ended + 1 }) s
    let s2 := (s1.unreserve ((List.range 32).map (32 * d + ·)))
    let s3 := (List.range 32).foldl (fun a i => ((a.setCore (32 * d + i) Core.initial).dropDir (32 * d + i)).dropSteps (32 * d + i)) s2
    let s4 := s3.resetFlows d
    { s4 with hbm := { s4.hbm with
        extCache := s4.hbm.extCache.filter fun x => stackOfChannel x.chan != d
        dir := s4.hbm.dir.filter (·.stack != d)
        holds := s4.hbm.holds.filter fun h => s4.stackAt h.obj h.off != some d } }

/-! ### Links (R514, R515) -/

/-- The lowest object id that names no object (R13, R120). -/
def freeObj (s : State) : Option Nat :=
  let ids := s.hbm.objs.map Prod.fst
  (List.range (ids.length + 1)).findSome? fun i => if i + 1 < 2 ^ 24 ∧ !ids.contains (i + 1) then some (i + 1) else none

/-- Extents made resident from one on (R120); none where the permitted stacks hold too few free frames. -/
def residentFrom (s : State) (obj ext : Nat) : Nat → Option State
  | 0 => some s
  | n + 1 => match s.makeResident obj ext with | some a => a.residentFrom obj (ext + 1) n | none => none

/-- An object made (R120). -/
def makeObject (s : State) (t size : Nat) (mask : BitVec 12) (resident : Bool) : Option (Nat × State) :=
  s.freeObj.bind fun i =>
    let s1 := s.setObj i (some ⟨t, size, mask, .local, []⟩)
    (if resident then s1.residentFrom i 0 size else some s1).map fun a => (i, a)

/-- A ring for a queue, resident and filled with zeros (R124). -/
def makeRing (s : State) (t lg : Nat) : Option (Nat × State) := s.makeObject t (ceilDiv (128 * 2 ^ lg) extentBytes) 0 true

/-- A queue of a function made, with its ring (R99, R124). -/
def makeQueue (s : State) (fn q lg prio : Nat) : Option State :=
  match s.makeRing (s.hostFn fn).tenant.toNat lg with
  | none => none
  | some (o, a) =>
    let h := a.hostFn fn
    some (a.setFn fn { h with queues := SMap.put none h.queues q (some { HostQueue.initial with ring := BitVec.ofNat 24 o, lgEnt := lg, prioCap := prio }) })

/-- A tenant created (R95, R124): its keys are drawn, its table is null, and its peer map names this chip (R396). -/
def newTenant (s : State) (t : Nat) : State :=
  let s1 := s.setTenant t { Tenant.initial with
    live := true
    keys := Config.tenantKeys s.freeCtr
    peers := SMap.put PeerEntry.initial [] s.dev.chip ⟨true, false, false, BitVec.ofNat 10 s.dev.chip, 0⟩ }
  { s1 with freeCtr := s1.freeCtr + 1 }

/-- Firmware provisions the PF with tenant 1 (R124). -/
def provisionPf (s : State) : State :=
  let s1 := s.newTenant 1
  let s2 := s1.setFn 0 { HostFn.initial with tenant := 1, nq := 1, partMask := 0xFFF }
  let s3 := (s2.makeQueue 0 0 8 7).getD s2
  (List.range 12).foldl (fun a d => a.setPartition d ⟨1, some 1, false⟩) s3

/-- Every link of step 6 has been trained, or has failed (R514): step 7 follows. -/
def bringUpDone (s : State) : State :=
  let ports := (List.range 18).all fun p => decide (5 ≤ (SMap.get JPort.initial s.dev.jports p).state)
  if s.dev.bringUp = 6 ∧ ports ∧ s.dev.cxlTried ∧ s.dev.ethTried then { s.provisionPf with dev := { s.dev with bringUp := 7 } } else s

/-- PCIe trains to L0 (R514). -/
def trainPcie (s : State) : State :=
  if s.dev.bringUp = 0 ∨ s.dev.pcieUp then s else { s with dev := { s.dev with pcieUp := true, bringUp := Nat.max s.dev.bringUp 4 } }

/-- A Jedom port replaced. -/
def setPort (s : State) (p : Nat) (v : JPort) : State := { s with dev := { s.dev with jports := SMap.put JPort.initial s.dev.jports p v } }

/-- A Jedom port trains (R515): up on the lanes that trained, or failed. One that has failed three times in a row stays failed. -/
def trainJedom (s : State) (p : Nat) (chip : BitVec 10) (peerPort : BitVec 5) (lanes : BitVec 4) : State :=
  let j := SMap.get JPort.initial s.dev.jports p
  let n := popCount lanes
  if 18 ≤ p ∨ s.dev.bringUp < 6 ∨ 3 ≤ j.failures ∨ j.state = 5 ∨ j.state = 6 then s
  else if n < 2 then (s.setPort p { j with lanes := lanes, state := 7, failures := j.failures + 1 }).bringUpDone
  else (s.setPort p { j with crcErr := 0, peerChip := chip, peerPort := peerPort, lanes := lanes, state := if n = 4 then 5 else 6, failures := 0 }).bringUpDone

/-- A Jedom port that sees more than 16 CRC errors within 1 ms retrains (R515): until it is up again it carries no flits. -/
def retrainJedom (s : State) (p errs : Nat) : State :=
  let j := SMap.get JPort.initial s.dev.jports p
  if 18 ≤ p ∨ (j.state ≠ 5 ∧ j.state ≠ 6) ∨ errs ≤ 16 then s
  else s.setPort p { j with crcErr := min (2 ^ 24 - 1) (j.crcErr + errs), retrains := min 15 (j.retrains + 1), lanes := 0, state := 1 }

/-- The CXL link has trained, or failed (R514). -/
def trainCxl (s : State) (up : Bool) : State :=
  if s.dev.bringUp < 6 then s else ({ s with dev := { s.dev with cxlUp := up, cxlTried := true } } : State).bringUpDone

/-- The Ethernet ports have trained, or failed (R514). -/
def trainEthernet (s : State) (up : BitVec 8) : State :=
  if s.dev.bringUp < 6 then s else ({ s with dev := { s.dev with ethUp := up, ethTried := true } } : State).bringUpDone

end State

/-! ### Events -/

/-- COLD_RESET (R10). -/
def execColdReset (s : State) : Host.Outcome State Fault Refusal := .next s.coldReset

/-- PARTITION_RESET (R10). -/
def execPartitionReset (die : Nat) (s : State) : Host.Outcome State Fault Refusal := atDevice (·.resetPartition die) s

/-- FLR_VF (R129). -/
def execFlrVf (fn : Nat) (s : State) : Host.Outcome State Fault Refusal := atDevice (fun s => if fn = 0 ∨ 256 < fn then s else s.resetFunction fn) s

/-- FLR_PF (R129). -/
def execFlrPf (s : State) : Host.Outcome State Fault Refusal := atDevice (·.resetPf) s

/-- PCIE_LINK_TRAINING (R514). -/
def execPcieLinkTraining (s : State) : Host.Outcome State Fault Refusal := atDevice (·.trainPcie) s

/-- JEDOM_PORT_TRAINING (R515). -/
def execJedomPortTraining (port : Nat) (chip : BitVec 10) (peerPort : BitVec 5) (lanes : BitVec 4) (s : State) : Host.Outcome State Fault Refusal :=
  atDevice (·.trainJedom port chip peerPort lanes) s

/-- JEDOM_CRC_RETRAIN (R515). -/
def execJedomCrcRetrain (port errs : Nat) (s : State) : Host.Outcome State Fault Refusal := atDevice (·.retrainJedom port errs) s

/-- CXL_LINK_TRAINING (R514). -/
def execCxlLinkTraining (up : Bool) (s : State) : Host.Outcome State Fault Refusal := atDevice (·.trainCxl up) s

/-- ETHERNET_LINK_TRAINING (R514). -/
def execEthernetLinkTraining (up : BitVec 8) (s : State) : Host.Outcome State Fault Refusal := atDevice (·.trainEthernet up) s

/-- LINK_RETRANSMISSION (R487, R491): counted, always in the PF's counter. -/
def execLinkRetransmission (s : State) : Host.Outcome State Fault Refusal := atDevice (·.countFn 0 12) s

end Sys2Proof.Machine
end

