-- ==== Sys2Proof/Machine/FrontEnd.lean ====
section
/-!
DEFINITION. The front end (R99 to R117): reading and consuming launch records, what each kind but the services does, and
completion (R105, R110, R111, R476, R477).
-/

namespace Sys2Proof.Machine

open Sys2Proof.Bits

/-! ### Records as words (R102, R103, R106) -/

/-- A word of a record. -/
def hostWord (ws : List Word) (i : Nat) : Word := (ws[i]?).getD 0

/-- A record's kind. -/
def recKind (ws : List Word) : Nat := nfield (hostWord ws 0) 0 8

/-- A record as it stands in memory. -/
def recWords (bs : Bytes) : List Word := (List.range 16).map fun i => wordOfBytes ((bs.drop (8 * i)).take 8)

/-- The record is sealed for its index (R106). -/
def recSealed (ws : List Word) (idx : BitVec 32) : Bool :=
  let w := hostWord ws 15
  let bs := (ws.take 15).flatMap (fun v => toBytes v 8) ++ toBytes w 4
  field w 0 32 == idx && field w 32 32 == crc32c bs

/-- Every bit. -/
def allBits : Word := BitVec.allOnes 64

/-- The defined bits of words 1, 2, … of a service (R118, R119); word 13 is the device's. -/
def serviceMasks (op : Nat) : List Word :=
  0xFFFF :: match op with
  | 1 => [0x1FFF7FFFFFF]
  | 2 => [0xFFFFFF]
  | 3 => [0xFFF, allBits, allBits]
  | 4 | 5 => [allBits, allBits, 0x7FFFFFFF]
  | 6 => [0xFFFFFFFF]
  | 7 => [0xFFFFFFFF, allBits]
  | 8 => [0x7FFFFF, 0xFFF]
  | 9 => [0x1FF]
  | 10 => [0x3FF01FF, allBits]
  | 11 => [0x3F01FF, allBits, allBits]
  | 12 => [allBits, allBits]
  | _ => []

/-- The defined bits of words 1, 2, … by kind; of a word not listed none (R102). -/
def recMasks (ws : List Word) : List Word :=
  match recKind ws with
  | 1 => [allBits, 0x3FFFFFFFFF3F, 0xFFFFFF, allBits, allBits, allBits, allBits, allBits, allBits, allBits, allBits, allBits, allBits]
  | 2 => [0x3FF, allBits, allBits, 0xFFFFFFFF0000FFFF, allBits, allBits]
  | 3 => [7, allBits, allBits, 0xFFFFFFFF]
  | 4 => [0xFFFFFFFF0003FFFF, allBits, 0xFFFF]
  | 5 => [0x3FFF]
  | 6 => serviceMasks (nfield (hostWord ws 1) 0 16)
  | _ => []

/-- A table reference is well formed (R103): absent and zero, or present with its offset aligned. -/
def refOk (v : Word) (required : Bool) (align : Nat) : Bool :=
  if bit v 63 then nfield v 60 3 == 0 && nfield v 0 48 % align == 0 else v == 0 && !required

/-- The fields of a service in range (R119). -/
def serviceOk (ws : List Word) : Bool :=
  let a := hostWord ws 2
  match nfield (hostWord ws 1) 0 16 with
  | 1 => nfield a 0 27 != 0
  | 4 | 5 => refOk (hostWord ws 3) true 1 && decide ((hostWord ws 4).toNat ≤ 2 ^ 30)
  | 8 => decide (nfield a 0 9 ≤ 256) && decide (4 ≤ nfield a 15 5) && decide (nfield a 15 5 ≤ 16)
  | 9 => decide (1 ≤ a.toNat) && decide (a.toNat ≤ 256)
  | 12 => refOk a true 1 && decide (1 ≤ (hostWord ws 3).toNat) && decide ((hostWord ws 3).toNat ≤ 2 ^ 20)
  | n => decide (1 ≤ n) && decide (n ≤ 12)

/-- The `COLL` record of a collective-step record (R114): boxes of the capabilities 0 and 1, the nest of capability 2. -/
def collRecord (ws : List Word) : List Word :=
  let head : Word := BitVec.ofNat 64 (0x28 + 4 * 2 ^ 8 + nfield (hostWord ws 1) 9 1 * 2 ^ 18)
  let box (v : Word) (access slot : Nat) : Word := BitVec.ofNat 64 (2 ^ 63 + 2 * 2 ^ 61 + access * 2 ^ 59 + slot * 2 ^ 52 + nfield v 0 52)
  let nest : Word := BitVec.ofNat 64 (2 ^ 63 + 2 * 2 ^ 56 + nfield (hostWord ws 5) 0 48)
  [head, box (hostWord ws 2) 1 0, box (hostWord ws 3) 2 1, 0, 0, 0, 0, hostWord ws 6, hostWord ws 4, nest, 0, 0, 0, 0, 0, 0]

/-- The context in which a collective-step record is checked: three capabilities and the tenant's own logical IDs. -/
def collCtx (own : Nat → Bool) (caps : List Cap) : PostCtx :=
  ⟨{ Core.initial with regs := { Regs.initial with c := SMap.putList nullCap [] 0 caps } }, own, false, 0, []⟩

/-- A capability that every range lies in. -/
def wideCap : Cap := Cap.make 1 0xFF 0 (2 ^ 48 - 1)

/-- The fields of a record in range, by its kind (R112, R114 to R118). -/
def kindOk (own : Nat → Bool) (ws : List Word) : Bool :=
  let w (i : Nat) : Word := hostWord ws i
  match recKind ws with
  | 0 | 5 => true
  | 1 =>
    let us := nfield (w 3) 0 24
    refOk (w 1) true 8 && decide (1 ≤ nfield (w 2) 0 6) && decide (nfield (w 2) 0 6 ≤ 32) && nfield (w 2) 8 24 != 0
      && (us == 0 || (decide (10 ≤ us) && decide (us ≤ 10000))) && refOk (w 10) false 8 && refOk (w 12) false 8
  | 2 => decide (nfield (w 1) 0 9 < 384) && refOk (w 5) true 128
    && (match checkRecord (collCtx own [wideCap, wideCap, wideCap]) (collRecord ws) with | .ok _ => true | .error _ => false)
  | 3 => nfield (w 1) 0 2 != 3 && refOk (w 2) true 8
  | 4 =>
    let op := nfield (w 1) 16 2
    op != 3 && (if op = 1 then w 2 == 0 else refOk (w 2) true 8 && w 3 == 0)
  | 6 => serviceOk ws
  | _ => false

/-- A sealed record is well formed (R102 and its kind's field rules). -/
def recordOk (own : Nat → Bool) (ws : List Word) : Bool :=
  let masks := recMasks ws
  nfield (hostWord ws 0) 14 50 == 0 && hostWord ws 14 == 0
    && ((List.range 13).all fun i => hostWord ws (i + 1) &&& ~~~ ((masks[i]?).getD 0) == 0) && kindOk own ws

namespace State

/-! ### Accesses of the front end (R103, R110, R368, R455) -/

/-- An access of the front end to this package's memory or the host's: with the chip generation as its stamp, not entered in any directory.
Firmware makes a missing extent resident where a permitted stack has a frame. -/
def feAccess (s : State) (t obj off : Nat) (op : PortOp) : PortRes :=
  let stamp := (s.tenant t).gen.chipGen
  match s.portAccess t obj off op stamp with
  | .page e => match s.makeResident obj e with
    | none => .fault 0x07
    | some a => match a.portAccess t obj off op stamp with
      | .page e2 => match a.makeResident obj e2 with | some b => b.portAccess t obj off op stamp | none => .fault 0x07
      | r => r
  | r => r

/-- What an access of the front end comes to. -/
inductive FeRes where
  | done (data : Bytes) (s : State)
  | fault (cause : BitVec 8) (s : State)
  | wait (s : State)

/-- A request of the front end to another chip whose answer has been used. -/
def takeAsk (s : State) (obj off : Nat) (op : RemOp) : State :=
  { s with fab := { s.fab with asks := s.fab.asks.filter fun a => !(a.core == feWindow && a.obj == obj && a.off == off && a.op == op) } }

/-- An access of the front end by the route of its object (R374, R402): to another chip it is a request, unchecked by any directory (R368). -/
def feReach (s : State) (t obj off : Nat) (op : PortOp) : FeRes :=
  match s.routeOf obj with
  | some (.peer lid far) =>
    if !((s.obj obj).any fun o => o.tenant == t && decide (off + op.len ≤ o.bytes)) then .fault 0x07 s
    else match s.peerAsk feWindow 0 .frontEnd t lid (Cap.make far 0xFF 0 (2 ^ 48 - 1)) off (remOp op) true true (s.tenant t).gen.chipGen with
      | .ok bs a => .done bs (a.takeAsk far off (remOp op))
      | .fault f => .fault f.cause (s.takeAsk far off (remOp op))
      | .wait a => .wait a
  | _ => match s.feAccess t obj off op with
    | .done bs _ a => .done bs a
    | .fault c => .fault c s
    | .page _ => .fault 0x07 s
    | .hold a => .wait a

/-- A capability of a tenant's table (R26). -/
def tableCap (s : State) (t i : Nat) : Cap := SMap.get nullCap (s.tenant t).table i

/-- A table reference checked against the entry it names (R103): not null, with the rights given, over the bytes given. -/
def resolveCap (c : Cap) (v : Word) (need : List Nat) (len : Nat) : Option (Cap × Nat) :=
  let off := nfield v 0 48
  if Cap.obj c != 0 && need.all (Cap.has c) && Cap.within c off len then some (c, off) else none

/-- A table reference checked against the tenant's table as it stands (R103). -/
def resolveRef (s : State) (t : Nat) (v : Word) (need : List Nat) (len : Nat) : Option (Cap × Nat) :=
  resolveCap (s.tableCap t (nfield v 48 12)) v need len

/-- The table entries that a record names whose work may come later than its consumption: a snapshot record's and a service's. -/
def recEntries (ws : List Word) : List Nat :=
  match recKind ws with
  | 5 => [nfield (hostWord ws 1) 0 12]
  | 6 => match nfield (hostWord ws 1) 0 16 with
    | 4 | 5 => [nfield (hostWord ws 3) 48 12]
    | 12 => [nfield (hostWord ws 2) 48 12]
    | _ => []
  | _ => []

/-- A table entry that a record names, as its consumption read it (R103). -/
def recCap (s : State) (fn q : Nat) (idx : BitVec 32) (i : Nat) : Cap :=
  match (s.queueAt fn q).bind fun k => k.recs.find? (·.idx == idx) with
  | some r => match r.caps.find? (·.1 == i) with | some c => c.2 | none => nullCap
  | none => nullCap

/-- A table reference of a consumed record checked against the entry as its consumption read it (R103). -/
def resolveRec (s : State) (fn q : Nat) (idx : BitVec 32) (v : Word) (need : List Nat) (len : Nat) : Option (Cap × Nat) :=
  resolveCap (s.recCap fn q idx (nfield v 48 12)) v need len

/-- The rights of a signal word: read, write and atomic. -/
def signalRights : List Nat := [0, 1, 2]

/-! ### Reading and consuming (R107 to R109, R126) -/

/-- A tenant holds a partition. -/
def holdsPartition (s : State) (t : Nat) : Bool := (List.range 12).any fun d => (s.partition d).holder == some t

/-- The front end considers the record at a queue's head (R107, R109): earlier records that act at consumption have acted. -/
def considers (k : HostQueue) : Bool :=
  k.enable && !k.halted && !k.blocked && k.waitRec.isEmpty && k.head != k.tail
    && k.recs.all fun r => r.begun || r.outcome.isSome || recKind r.words == 5 || recKind r.words == 6

/-- A record slot as it stands in the ring. -/
def readSlot (s : State) (t : Nat) (k : HostQueue) (idx : BitVec 32) : PortRes := s.feAccess t k.ring.toNat (slotOff k idx) (.read 128)

/-- Up to four records ahead of the head read into the queue controller (R126). -/
def cacheAhead (s : State) (fn q : Nat) : State :=
  let t := (s.hostFn fn).tenant.toNat
  match s.queueAt fn q with
  | none => s
  | some k =>
    if !s.holdsPartition t then s
    else
      let n := min 4 (k.tail - k.head).toNat
      let ahead := (List.range n).filterMap fun i =>
        let idx := k.head + BitVec.ofNat 32 i
        match k.cached.find? fun e => e.1 == idx with
        | some e => some e
        | none => match s.readSlot t k idx with | .done bs _ _ => some (idx, recWords bs) | _ => none
      s.onQueue fn q fun k => { k with cached := ahead }

/-- A record consumed (R108), with its outcome where it completes at once; the table entries it names are read now (R103). -/
def consume (s : State) (fn q : Nat) (ws : List Word) (outcome : Option (BitVec 8 × BitVec 32 × Option Word)) : State :=
  let caps := (recEntries ws).map fun i => (i, s.tableCap (s.hostFn fn).tenant.toNat i)
  (s.onQueue fn q fun k => { k with
    head := k.head + 1, tried := false, refetch := 0, waitRec := [], blocked := false
    recs := k.recs ++ [⟨k.head, ws, none, false, outcome, false, caps, 0⟩] }).cacheAhead fn q

/-- A sealed record is held at its queue's head (R109, R126): its tenant holds no partition, or it waits for the records before it. -/
def heldRecord (s : State) (fn : Nat) (k : HostQueue) (ws : List Word) : Bool :=
  (recKind ws != 6 && !s.holdsPartition (s.hostFn fn).tenant.toNat) || (bit (hostWord ws 0) 8 && k.done != k.head)

/-- The number of a queue block among those of every function. -/
def blockNo (fn q : Nat) : Nat := 64 * fn + q

/-- Visits before the front end's next one to a queue block, in round robin from the one whose record it took last (R109). -/
def visitsTo (s : State) (b : Nat) : Nat := (b + 64 * 257 - 1 - s.sched.hostTurn) % (64 * 257)

/-- A queue has a record ready: sealed, and not held (R109). -/
def queueReady (s : State) (fn : Nat) (k : HostQueue) : Bool :=
  considers k && (match (match k.cached.find? fun e => e.1 == k.head with
    | some e => some e.2
    | none => match s.readSlot (s.hostFn fn).tenant.toNat k k.head with | .done bs _ _ => some (recWords bs) | _ => none) with
  | some ws => recSealed ws k.head && !s.heldRecord fn k ws
  | none => false)

/-- No other queue block with a record ready comes before this one in round robin (R109). -/
def turnOfQueue (s : State) (fn q : Nat) : Bool :=
  s.host.fns.all fun f => f.2.queues.all fun x => match x.2 with
    | some k => !(decide (s.visitsTo (blockNo f.1 x.1) < s.visitsTo (blockNo fn q)) && s.queueReady f.1 k)
    | none => true

/-- The sealed record at a queue's head taken in its queue's turn (R102, R108, R109, R115): malformed, it completes at once; a wait holds
consumption. -/
def takeRecord (s0 : State) (fn q : Nat) (k : HostQueue) (ws : List Word) : State :=
  let t := (s0.hostFn fn).tenant.toNat
  if s0.heldRecord fn k ws then s0.onQueue fn q fun k => { k with tried := false }
  else if !s0.turnOfQueue fn q then s0
  else
    let s : State := { s0 with sched := { s0.sched with hostTurn := blockNo fn q } }
    if !recordOk (s.ownLid t) ws then s.consume fn q ws (some (0x02, 0, none))
    else if recKind ws = 3 ∧ nfield (hostWord ws 1) 0 2 = 2 then s.onQueue fn q fun k => { k with waitRec := ws, tried := false }
    else s.consume fn q ws none

/-- The slot at the head read and judged: a sealed record is taken, else `missed` says what becomes of the queue. -/
def readHead (s : State) (fn q : Nat) (k : HostQueue) (missed : HostQueue → HostQueue) : State :=
  let t := (s.hostFn fn).tenant.toNat
  let miss (a : State) : State := a.onQueue fn q fun k => missed { k with tried := true, cached := k.cached.filter fun e => e.1 != k.head }
  match k.cached.find? fun e => e.1 == k.head with
  | some (_, ws) => if recSealed ws k.head then s.takeRecord fn q k ws else miss s
  | none => match s.readSlot t k k.head with
    | .done bs _ a => if recSealed (recWords bs) k.head then a.takeRecord fn q k (recWords bs) else miss a
    | .hold a => a
    | _ => miss s

/-- The first read of a record (R107). -/
def sealRead (s : State) (fn q : Nat) : State :=
  match s.queueAt fn q with
  | none => s
  | some k => if considers k ∧ !k.tried then s.readHead fn q k id else s

/-- A re-read that finds the record at the head unsealed is counted (R107): the 8th halts the queue. -/
def reread (k : HostQueue) : HostQueue :=
  if 8 ≤ k.refetch + 1 then { k with refetch := 8, halted := true, tried := false, errCode := 0x20, errIdx := k.head }
  else { k with refetch := k.refetch + 1 }

/-- A re-read (R107). -/
def sealAgain (s : State) (fn q : Nat) : State :=
  match s.queueAt fn q with
  | none => s
  | some k =>
    if considers k ∧ k.tried then
      let s1 := s.readHead fn q k reread
      let stopped : Bool := match s1.queueAt fn q with | some x => x.halted | none => false
      if stopped then s1.countFn fn 11 else s1
    else s

/-! ### Records at work -/

/-- A record changed. -/
def onRecord (s : State) (fn q : Nat) (idx : BitVec 32) (f : HostRec → HostRec) : State :=
  s.onQueue fn q fun k => { k with recs := k.recs.map fun r => if r.idx = idx then f r else r }

/-- A consumed record of a kind that has not acted yet: the front end takes it up with `f`, which may have to wait. -/
def takeUp (s : State) (fn q : Nat) (idx : BitVec 32) (p : List Word → Bool) (f : Nat → List Word → State → Option State) : State :=
  match s.queueAt fn q with
  | none => s
  | some k => match k.recs.find? fun r => r.idx == idx && !r.begun && r.outcome.isNone && p r.words with
    | none => s
    | some r => (f (s.hostFn fn).tenant.toNat r.words (s.onRecord fn q idx fun x => { x with begun := true })).getD s

/-- A record taken up whose work waits for an answer, and is taken up again. -/
def notYet (s : State) (fn q : Nat) (idx : BitVec 32) : State := s.onRecord fn q idx fun r => { r with begun := false }

/-- A no-op record completes (R117). -/
def noopRecord (s : State) (fn q : Nat) (idx : BitVec 32) : State :=
  s.takeUp fn q idx (recKind · == 0) fun _ _ a => some (a.setOutcome fn q idx 0 0 none)

/-- A kernel record becomes a launch (R112). -/
def kernelRecord (s : State) (fn q : Nat) (idx : BitVec 32) : State :=
  s.takeUp fn q idx (recKind · == 1) fun t ws a =>
    let w (i : Nat) : Word := hostWord ws i
    let signal (v : Word) : Option (Cap × Nat) := a.resolveRef t v signalRights 8
    let size := nfield (w 2) 0 6
    let count := nfield (w 2) 8 24
    let coplace := bit (w 2) 32
    let allowed := (a.hostFn fn).partMask
    let asked : BitVec 12 := field (w 2) 34 12
    let mask := if asked = 0 then allowed else asked
    match a.resolveRef t (w 1) [5] 8 with
    | none => some (a.setOutcome fn q idx 0x03 0 none)
    | some (code, off) =>
      if (bit (w 10) 63 ∧ (signal (w 10)).isNone) ∨ (bit (w 12) 63 ∧ (signal (w 12)).isNone) then some (a.setOutcome fn q idx 0x03 0 none)
      else if asked &&& ~~~ allowed ≠ 0 ∨ (coplace ∧ 32 * popCount mask < size * count) then some (a.setOutcome fn q idx 0x0B 0 none)
      else
        let l := a.sched.nextLaunch
        let cap := match a.queueAt fn q with | some k => k.prioCap | none => 0
        let us := nfield (w 3) 0 24
        let waits := if bit (w 10) 63 then signal (w 10) else none
        let la : Launch := {
          fn := fn, queue := q, idx := idx, tenant := t, prio := min (nfield (w 0) 11 3) cap, codeCap := code, codeOff := BitVec.ofNat 48 off
          teamSize := size, teamCount := count, coplace := coplace, persist := bit (w 2) 33, partMask := mask
          preemptUs := if us = 0 then 100 else us, args := [w 4, w 5, w 6, w 7, w 8, w 9], waitRef := waits, waitVal := w 11
          doneRef := if bit (w 12) 63 then signal (w 12) else none, doneVal := w 13, eligible := waits.isNone, made := 0, ended := 0
          abort := none, unitFails := 0, pool := [] }
        let b := a.setLaunch l (some la)
        let c : State := { b with sched := { b.sched with nextLaunch := l + 1 } }
        some (if coplace then c.makeTeams l count else c.makeTeam l)

/-- Whether the signal word of a wait has reached its value; none where it cannot be read. -/
def signalReached (s : State) (t obj off : Nat) (timeline : Bool) (v : Word) : Option Bool × State :=
  match s.feReach t obj off (.read 8) with
  | .done bs a =>
    let x := wordOfBytes bs
    (some (if timeline then decide (v.toNat ≤ x.toNat) else decide (v.toInt ≤ x.toInt)), a)
  | .fault _ a => (none, a)
  | .wait a => (some false, a)

/-- A launch's wait_ref has reached its value (R112); unreadable, the record completes with 0x03 and the launch is not placed. -/
def waitRefDone (s : State) (l : Nat) : State :=
  match s.launch l with
  | none => s
  | some la => match la.eligible, la.waitRef with
    | false, some (c, off) => match s.signalReached la.tenant (Cap.obj c) off false la.waitVal with
      | (none, a) =>
        let s1 := (a.teamsOf l).foldl (fun a k => a.setTeam k none) a
        (s1.setLaunch l none).setOutcome la.fn la.queue la.idx 0x03 0 none
      | (some true, a) => a.setLaunch l (some { la with eligible := true })
      | (some false, a) => a
    | _, _ => s

/-- A team of the tenant occupies a core, whose partition it holds, and is not being saved (R114). -/
def occupied (s : State) (t n : Nat) : Bool :=
  (s.coreAt n).team.isSome && s.tenantOf n == t && (s.partition (dieOf n)).holder == some t && !(s.coreAt n).stopping

/-- A collective-step record posts its task into the named core's window (R114), once that is possible. -/
def collectiveRecord (s : State) (fn q : Nat) (idx : BitVec 32) : State :=
  s.takeUp fn q idx (recKind · == 2) fun t ws a =>
    let n := nfield (hostWord ws 1) 0 9
    let caps := [a.tableCap t (nfield (hostWord ws 2) 52 12), a.tableCap t (nfield (hostWord ws 3) 52 12), a.tableCap t (nfield (hostWord ws 5) 48 12)]
    match checkRecord (collCtx (a.ownLid t) caps) (collRecord ws) with
    | .error _ => some (a.setOutcome fn q idx 0x03 0 none)
    | .ok p =>
      if !((a.hostFn fn).partMask.getLsbD (dieOf n)) then some (a.setOutcome fn q idx 0x0B 0 none)
      else if !a.occupied t n ∨ (a.coreAt n).remoteRoom < 1 ∨ a.clockStopped n then none
      else some (a.onCore n fun c => postRemote c p false false 0 none (some (fn, q, idx)))

/-- A signal record that adds or sets (R115). -/
def signalRecord (s : State) (fn q : Nat) (idx : BitVec 32) (set : Bool) : State :=
  s.takeUp fn q idx (fun ws => recKind ws == 3 && nfield (hostWord ws 1) 0 2 == (if set then 1 else 0)) fun t ws a =>
    let timeline := bit (hostWord ws 1) 2
    let v := hostWord ws 3
    match a.resolveRef t (hostWord ws 2) signalRights 8 with
    | none => some (a.setOutcome fn q idx 0x03 0 none)
    | some (c, off) =>
      match a.feReach t (Cap.obj c) off (.rmw (if set then .sigset else .sigadd) (if timeline then .n64 else .i64) (v.setWidth 128) 0) with
      | .done old b =>
        some (b.setOutcome fn q idx (if set ∧ timeline ∧ v.toNat < natOfBytes old then 0x06 else 0) 0 none)
      | .fault cause b => some (b.setOutcome fn q idx (if cause = 0x0D then 0x09 else 0x03) 0 none)
      | .wait b => some (b.notYet fn q idx)

/-- What a held wait record of a tenant that holds a partition waits for (R115, R126). -/
def heldWait (s : State) (fn q : Nat) : Option (HostQueue × Option Bool × State) :=
  match s.queueAt fn q with
  | none => none
  | some k =>
    let t := (s.hostFn fn).tenant.toNat
    if k.waitRec.isEmpty ∨ !s.holdsPartition t then none
    else
      some (k, match s.resolveRef t (hostWord k.waitRec 2) signalRights 8 with
        | none => (none, s)
        | some (c, off) => s.signalReached t (Cap.obj c) off (bit (hostWord k.waitRec 1) 2) (hostWord k.waitRec 3))

/-- A signal wait holds consumption (R115), or fails its checks. -/
def waitRecord (s : State) (fn q : Nat) : State :=
  match s.heldWait fn q with
  | none => s
  | some (k, none, a) => a.consume fn q k.waitRec (some (0x03, 0, none))
  | some (_, some true, _) => s
  | some (_, some false, a) => a.onQueue fn q fun k => { k with blocked := true }

/-- A signal wait ends because the word has reached its value. -/
def waitSatisfied' (s : State) (fn q : Nat) : State :=
  match s.heldWait fn q with
  | none => s
  | some (k, none, a) => a.consume fn q k.waitRec (some (0x03, 0, none))
  | some (k, some true, a) => a.consume fn q k.waitRec (some (0, 0, none))
  | some (_, some false, a) => a

/-- A signal wait's limit expires first (R115). -/
def waitTimedOut (s : State) (fn q : Nat) : State :=
  match s.queueAt fn q with
  | none => s
  | some k =>
    if k.blocked ∧ !k.waitRec.isEmpty ∧ hostWord k.waitRec 4 ≠ 0 ∧ s.holdsPartition (s.hostFn fn).tenant.toNat then
      s.consume fn q k.waitRec (some (0x0A, 0, none))
    else s

/-! ### Membership records (R116, R408) -/

/-- What reading a member list comes to: the step limit and the members, the status it fails with, or a wait. -/
inductive ListRes where
  | ok (timeout : BitVec 32) (members : List (Nat × Nat)) (s : State)
  | fails (status : BitVec 8) (s : State)
  | wait (s : State)

/-- A member list read (R103, R408). -/
def memberList (s : State) (t : Nat) (v : Word) : ListRes :=
  match s.resolveRef t v [0] 8 with
  | none => .fails 0x03 s
  | some (c, off) => match s.feReach t (Cap.obj c) off (.read 8) with
    | .wait a => .wait a
    | .fault _ a => .fails 0x03 a
    | .done bs a =>
      let h := wordOfBytes bs
      let n := nfield h 0 16
      if nfield h 16 16 ≠ 0 ∨ n = 0 ∨ 1024 < n then .fails 0x02 a
      else if !Cap.within c off (8 + 4 * n) then .fails 0x03 a
      else match a.feReach t (Cap.obj c) (off + 8) (.read (4 * n)) with
        | .wait b => .wait b
        | .fault _ b => .fails 0x03 b
        | .done es b =>
          let xs := (List.range n).map fun i => natOfBytes ((es.drop (4 * i)).take 4)
          if xs.any fun x => decide (2 ^ 19 ≤ x) then .fails 0x02 b
          else .ok (field h 32 32) (xs.map fun x => (x % 2 ^ 10, x / 2 ^ 10)) b

/-- The version that a membership record makes of a group's newest one, or the status it fails with. A window that is absent-pending stays so
until its present notice (R410). -/
def nextVersion (old : Version) (op member : Nat) (timeout : BitVec 32) (table : List (Nat × Nat)) : Except (BitVec 8) Version :=
  let v : Version := match op with
    | 0 => ⟨old.num + 1, timeout, table, startStates (some old) table []⟩
    | 1 => ⟨old.num + 1, old.timeout, old.members, old.states.set member .withdrawn⟩
    | _ => ⟨old.num + 1, timeout, old.members ++ table, old.states ++ table.map fun _ => .present⟩
  if (op = 1 ∧ old.members.length ≤ member) ∨ 1024 < v.members.length ∨ (op ≠ 1 ∧ v.members.eraseDups.length ≠ v.members.length) then .error 0x02
  else .ok v

/-- A membership record (R116). A group that holds no version yet holds version 0. What makes the record malformed comes before a version
mismatch (R108). -/
def membershipRecord (s : State) (fn q : Nat) (idx : BitVec 32) (op : Nat) : State :=
  s.takeUp fn q idx (fun ws => recKind ws == 4 && nfield (hostWord ws 1) 16 2 == op) fun t ws a0 =>
    let g := nfield (hostWord ws 1) 0 16
    match if op = 1 then .ok 0 [] a0 else a0.memberList t (hostWord ws 2) with
    | .wait a => some (a.notYet fn q idx)
    | .fails e a => some (a.setOutcome fn q idx e 0 none)
    | .ok timeout table a =>
      let old := (a.newestVersion t g).getD ⟨0, 0, [], []⟩
      match nextVersion old op (nfield (hostWord ws 3) 0 16) timeout table with
      | .error e => some (a.setOutcome fn q idx e 0 none)
      | .ok v =>
        if old.num ≠ field (hostWord ws 1) 32 32 then some (a.setOutcome fn q idx 0x07 0 none)
        else some (a.askVersion t g v (fn, q, idx))

/-! ### Snapshot records (R117, R461) -/

/-- A snapshot record's capability holds snap. -/
def snapRight (s : State) (fn q : Nat) (idx : BitVec 32) (ws : List Word) : Bool :=
  let c := s.recCap fn q idx (nfield (hostWord ws 1) 0 12)
  Cap.obj c != 0 && Cap.has c 4

/-- A snapshot record that asks for a cut: it waits while a generation is frozen. -/
def snapshotRecord (s : State) (fn q : Nat) (idx : BitVec 32) : State :=
  s.takeUp fn q idx (fun ws => recKind ws == 5 && !bit (hostWord ws 1) 12) fun t ws a =>
    if !a.snapRight fn q idx ws then some (a.setOutcome fn q idx 0x03 0 none)
    else if (a.frozenOf t).isSome then none
    else some (a.startCut t (.record fn q idx))

/-- A snapshot record that queries the generation before the current one. -/
def queryRecord (s : State) (fn q : Nat) (idx : BitVec 32) : State :=
  s.takeUp fn q idx (fun ws => recKind ws == 5 && bit (hostWord ws 1) 12) fun t ws a =>
    if !a.snapRight fn q idx ws then some (a.setOutcome fn q idx 0x03 0 none)
    else
      let r := queryGen a t ((a.tenant t).gen.current - 1)
      some (a.setOutcome fn q idx 0 (BitVec.ofNat 32 (nfield r 56 8)) (some r))

/-! ### Completion (R105, R110, R111, R476, R477) -/

/-- Words written into a record's slot; none while a port holds them. A slot that is gone is passed over (R129). -/
def writeWords (s : State) (t : Nat) (k : HostQueue) (idx : BitVec 32) : List (Nat × Word) → Option State
  | [] => some s
  | (i, v) :: r => match s.ringWrite t k idx i v with
    | .done _ _ a => a.writeWords t k idx r
    | .hold _ => none
    | _ => s.writeWords t k idx r

/-- A queue's records passed by `HQDONE`: every finished one from the lowest index on. -/
def advanceDone (k : HostQueue) : HostQueue × List HostRec :=
  let passed := k.recs.takeWhile (·.finished)
  ({ k with done := k.done + BitVec.ofNat 32 passed.length, recs := k.recs.drop passed.length }, passed)

/-- A halted queue reads no more (R107, R111). -/
def haltQueue (k : HostQueue) (code : BitVec 8) (idx : BitVec 32) : HostQueue :=
  { k with halted := true, errCode := code, errIdx := idx, tried := false, refetch := 0, waitRec := [], blocked := false }

/-- The task of a collective-step record is still in a window (R114). -/
def stepPosted (s : State) (fn q : Nat) (idx : BitVec 32) : Bool := s.cores.any fun e => e.2.board.entries.any fun x => x.origin == some (fn, q, idx)

/-- A record completes (R110, R111): its words are written, it is released at system scope, and `HQDONE` advances, with at most
one message. -/
def completeRecord (s : State) (fn q : Nat) (idx : BitVec 32) : State :=
  let t := (s.hostFn fn).tenant.toNat
  match s.queueAt fn q with
  | none => s
  | some k => match k.recs.find? fun r => r.idx == idx && !r.finished with
    | none => s
    | some r => match r.outcome with
      | none => s
      | some (status, result, out) =>
        if recKind r.words = 2 ∧ s.stepPosted fn q idx then s
        else
          let more := (match r.word12 with | some v => [(12, v)] | none => []) ++ (match out with | some v => [(13, v)] | none => [])
          match s.writeWords t k idx (more ++ [(14, completionWord status result)]) with
          | none => s
          | some a =>
            let k1 := { k with recs := k.recs.map fun x => if x.idx = idx then { x with finished := true } else x }
            let (k2, passed) := advanceDone k1
            let k3 := if status ≠ 0 ∧ bit (hostWord r.words 0) 10 then haltQueue k2 status idx else k2
            let b := a.onQueue fn q fun _ => k3
            if k.irqEn ∧ passed.any fun x => bit (hostWord x.words 0) 9 then
              { b with host := { b.host with msix := b.host.msix ++ [(fn, k.vector)] } }
            else b

/-- Accesses of a tenant's cores without a team are still under way. -/
def residue (s : State) (t : Nat) : Bool :=
  s.cores.any fun e => isCore e.1 && e.2.team.isNone && s.tenantOf e.1 == t && (!e.2.acc.isEmpty || !e.2.reds.isEmpty)

/-- A launch completes (R112, R476, R477): every team has ended; its done_ref is applied. -/
def completeLaunch (s : State) (l : Nat) : State :=
  match s.launch l with
  | none => s
  | some la =>
    if la.ended < la.teamCount ∨ (la.abort.isSome ∧ s.residue la.tenant) then s
    else
      let (status, result) : BitVec 8 × BitVec 32 := match la.abort with
        | none => (0, BitVec.ofNat 32 (min la.unitFails (2 ^ 32 - 1)))
        | some (cause, core) => (0x05, BitVec.ofNat 32 (cause.toNat + core * 2 ^ 8))
      let finish (a : State) (st : BitVec 8) (res : BitVec 32) : State :=
        let b := (a.teamsOf l).foldl (fun b k => b.setTeam k none) a
        (b.setLaunch l none).setOutcome la.fn la.queue la.idx st res none
      match la.doneRef with
      | none => finish s status result
      | some (c, off) =>
        match s.feReach la.tenant (Cap.obj c) off (.rmw .sigadd .i64 (la.doneVal.setWidth 128) 0) with
        | .done _ a => finish a status result
        | .fault _ a => if status = 0 then finish a 0x03 0 else finish a status result
        | .wait a => a

end State

/-! ### Events -/

/-- RECORD_SEAL_READ (R107). -/
def execRecordSealRead (fn q : Nat) (s : State) : Host.Outcome State Fault Refusal := atScheduler (·.sealRead fn q) s

/-- SEAL_REFETCH (R107). -/
def execSealRefetch (fn q : Nat) (s : State) : Host.Outcome State Fault Refusal := atScheduler (·.sealAgain fn q) s

/-- NOOP_RECORD (R117). -/
def execNoopRecord (fn q : Nat) (idx : BitVec 32) (s : State) : Host.Outcome State Fault Refusal := atScheduler (·.noopRecord fn q idx) s

/-- KERNEL_RECORD (R112). -/
def execKernelRecord (fn q : Nat) (idx : BitVec 32) (s : State) : Host.Outcome State Fault Refusal := atScheduler (·.kernelRecord fn q idx) s

/-- WAIT_REF_SATISFIED (R112). -/
def execWaitRefSatisfied (launch : Nat) (s : State) : Host.Outcome State Fault Refusal := atScheduler (·.waitRefDone launch) s

/-- COLLECTIVE_STEP_RECORD (R114). -/
def execCollectiveStepRecord (fn q : Nat) (idx : BitVec 32) (s : State) : Host.Outcome State Fault Refusal := atScheduler (·.collectiveRecord fn q idx) s

/-- SIGNAL_ADD_RECORD (R115). -/
def execSignalAddRecord (fn q : Nat) (idx : BitVec 32) (s : State) : Host.Outcome State Fault Refusal := atScheduler (·.signalRecord fn q idx false) s

/-- SIGNAL_SET_RECORD (R115). -/
def execSignalSetRecord (fn q : Nat) (idx : BitVec 32) (s : State) : Host.Outcome State Fault Refusal := atScheduler (·.signalRecord fn q idx true) s

/-- SIGNAL_WAIT_RECORD (R115). -/
def execSignalWaitRecord (fn q : Nat) (s : State) : Host.Outcome State Fault Refusal := atScheduler (·.waitRecord fn q) s

/-- SIGNAL_WAIT_SATISFIED (R115). -/
def execSignalWaitSatisfied (fn q : Nat) (s : State) : Host.Outcome State Fault Refusal := atScheduler (·.waitSatisfied' fn q) s

/-- SIGNAL_WAIT_TIMEOUT (R115). -/
def execSignalWaitTimeout (fn q : Nat) (s : State) : Host.Outcome State Fault Refusal := atScheduler (·.waitTimedOut fn q) s

/-- MEMBERSHIP_REPLACE_RECORD (R116). -/
def execMembershipReplaceRecord (fn q : Nat) (idx : BitVec 32) (s : State) : Host.Outcome State Fault Refusal := atScheduler (·.membershipRecord fn q idx 0) s

/-- MEMBERSHIP_WITHDRAW_RECORD (R116). -/
def execMembershipWithdrawRecord (fn q : Nat) (idx : BitVec 32) (s : State) : Host.Outcome State Fault Refusal := atScheduler (·.membershipRecord fn q idx 1) s

/-- MEMBERSHIP_ADD_RECORD (R116). -/
def execMembershipAddRecord (fn q : Nat) (idx : BitVec 32) (s : State) : Host.Outcome State Fault Refusal := atScheduler (·.membershipRecord fn q idx 2) s

/-- SNAPSHOT_RECORD (R461). -/
def execSnapshotRecord (fn q : Nat) (idx : BitVec 32) (s : State) : Host.Outcome State Fault Refusal := atScheduler (·.snapshotRecord fn q idx) s

/-- SNAPSHOT_QUERY_RECORD (R461). -/
def execSnapshotQueryRecord (fn q : Nat) (idx : BitVec 32) (s : State) : Host.Outcome State Fault Refusal := atScheduler (·.queryRecord fn q idx) s

/-- RECORD_COMPLETION (R110). -/
def execRecordCompletion (fn q : Nat) (idx : BitVec 32) (s : State) : Host.Outcome State Fault Refusal := atScheduler (·.completeRecord fn q idx) s

/-- LAUNCH_COMPLETE (R476). -/
def execLaunchComplete (launch : Nat) (s : State) : Host.Outcome State Fault Refusal := atScheduler (·.completeLaunch launch) s

end Sys2Proof.Machine
end

