-- ==== Sys2Proof/Machine/Power.lean ====
section
/-!
DEFINITION. Clocks and power (R510 to R513): island frequencies, the cap, throttling, and retention of the matrix block.
-/

namespace Sys2Proof.Machine

open Sys2Proof.Bits

/-- The island of a core (R4). -/
def islandOf (core : Nat) : Nat := core / 16

namespace State

/-- An island by number (R511). -/
def island (s : State) (i : Nat) : Island := SMap.get Island.initial s.dev.islands i

/-- An island changed. -/
def onIsland (s : State) (i : Nat) (f : Island → Island) : State :=
  { s with dev := { s.dev with islands := SMap.put Island.initial s.dev.islands i (f (s.island i)) } }

/-- A new target frequency (R511): at once, or once the change in progress ends. -/
def setFcode (s : State) (i code : Nat) : State :=
  s.onIsland i fun x =>
    if x.busy then { x with pending := some code }
    else if code = x.fcode then x
    else { x with fcode := code, busy := true }

/-- A frequency change ends (R511): the island runs at its target, or at 200 MHz while its die is too hot (R510). -/
def switchIsland (s : State) (i : Nat) : State :=
  let x := s.island i
  if 24 ≤ i ∨ !x.busy then s
  else s.onIsland i fun x =>
    let now := if bit s.dev.thermal (i / 2) then 4 else x.fcode
    match x.pending with
    | some code => if code = x.fcode then { x with present := now, busy := false, pending := none } else { x with present := now, fcode := code, pending := none }
    | none => { x with present := now, busy := false }

/-- The highest class of the launches whose teams are on an island's cores; 0 where there is none (R144, R510). -/
def islandClass (s : State) (i : Nat) : Nat :=
  (List.range 16).foldl (fun a k => match s.launchOf (16 * i + k) with | some (_, l) => max a l.prio | none => a) 0

/-- The target an island is on its way to. -/
def Island.target (x : Island) : Nat := x.pending.getD x.fcode

/-- Firmware holds the package at its cap (R510): over it, an island of the lowest class that can go slower gets the next lower
frequency. -/
def enforceCap (s : State) (watts i : Nat) : State :=
  let slower (k : Nat) : Bool := decide (4 < Island.target (s.island k))
  if watts ≤ s.dev.pwrcap ∨ 24 ≤ i ∨ !slower i ∨ (List.range 24).any (fun k => slower k && decide (s.islandClass k < s.islandClass i)) then s
  else s.setFcode i (Island.target (s.island i) - 1)

/-- The two islands of a die. -/
def islandsOf (d : Nat) : List Nat := [2 * d, 2 * d + 1]

/-- A die above 105 °C (R510): its islands run at 200 MHz. -/
def throttle (s : State) (d : Nat) (temp : Int) : State :=
  if 12 ≤ d ∨ temp ≤ 105 then s
  else
    let s1 : State := { s with dev := { s.dev with thermal := setBit s.dev.thermal d true } }
    (islandsOf d).foldl (fun a i => a.onIsland i fun x => { x with present := 4 }) s1

/-- A throttled die below 95 °C (R510): its islands go back to their targets. -/
def recover (s : State) (d : Nat) (temp : Int) : State :=
  if 12 ≤ d ∨ 95 ≤ temp ∨ !bit s.dev.thermal d then s
  else
    let s1 : State := { s with dev := { s.dev with thermal := setBit s.dev.thermal d false } }
    (islandsOf d).foldl (fun a i => a.onIsland i fun x => if x.present = x.fcode then x else { x with busy := true }) s1

/-! ### Retention (R512, R513) -/

/-- A core's matrix block may enter retention: nothing stands in its matrix queue or is about to. -/
def mayRetain (s : State) (n : Nat) : Bool :=
  let c := s.coreAt n
  let matrix (e : Entry) : Bool := e.post.engine == 0
  !c.eng.retention && (s.island (islandOf n)).retLg != 0 && (SMap.get [] c.eng.queues 0).isEmpty
    && !c.board.entries.any fun e => matrix e && (e.state == .executing || e.state == .queued || (e.state == .waiting && entryReady c e (s.collReady n e)))

/-- The block enters retention (R512). -/
def enterRetention (s : State) (n : Nat) : State :=
  if s.mayRetain n then s.onCore n fun c => { c with eng := { c.eng with retention := true } } else s

/-- More in an error counter of the function a core acts for (R490, R491). -/
def countMany (s : State) (n i k : Nat) : State :=
  let f := s.chargedFn n i
  let h := s.hostFn f
  s.setFn f { h with counters := SMap.put 0 h.counters i (BitVec.ofNat 64 (min (2 ^ 64 - 1) ((SMap.get 0 h.counters i).toNat + k))) }

/-- The block leaves retention (R512, R513) when a matrix task has been released, a save must read it or retention has been
disabled: corrected words are counted, words with three errors stay marked. -/
def leaveRetention (s : State) (n corrected : Nat) (bad : List EngWord) : State :=
  let c := s.coreAt n
  let words := bad.filter fun w => match w with | .row _ => false | _ => !c.eng.bad.contains w
  if !c.eng.retention ∨ ((SMap.get [] c.eng.queues 0).isEmpty ∧ !c.stopping ∧ (s.island (islandOf n)).retLg ≠ 0) then s
  else (s.onCore n fun c => { c with eng := { c.eng with retention := false, bad := words ++ c.eng.bad } }).countMany n 0 corrected

end State

/-! ### Events -/

/-- ISLAND_FREQUENCY_SWITCH (R511). -/
def execIslandFrequencySwitch (island : Nat) (s : State) : Host.Outcome State Fault Refusal := atDevice (·.switchIsland island) s

/-- POWER_CAP_ENFORCE (R510). -/
def execPowerCapEnforce (watts island : Nat) (s : State) : Host.Outcome State Fault Refusal := atScheduler (·.enforceCap watts island) s

/-- THERMAL_THROTTLE (R510). -/
def execThermalThrottle (die : Nat) (tempC : Int) (s : State) : Host.Outcome State Fault Refusal := atDevice (·.throttle die tempC) s

/-- THERMAL_RECOVERY (R510). -/
def execThermalRecovery (die : Nat) (tempC : Int) (s : State) : Host.Outcome State Fault Refusal := atDevice (·.recover die tempC) s

/-- RETENTION_ENTRY (R512). -/
def execRetentionEntry (core : Nat) (s : State) : Host.Outcome State Fault Refusal := atCore core (·.enterRetention core) s

/-- RETENTION_EXIT (R512, R513). -/
def execRetentionExit (core corrected : Nat) (bad : EngWords) (s : State) : Host.Outcome State Fault Refusal :=
  atCore core (·.leaveRetention core corrected bad) s

end Sys2Proof.Machine
end

