-- ==== Sys2Proof/Machine/Service.lean ====
section
/-!
DEFINITION. Service records (R118 to R124): objects, capability entries, copies, the device registers reached through the PF,
provisioning, peer maps, windows and plug-ins; the debug port (R516, R517).
-/

namespace Sys2Proof.Machine

open Sys2Proof.Bits

namespace State

/-- A service record taken up (R118): one reserved to the PF is refused to a VF. -/
def service (s : State) (fn q : Nat) (idx : BitVec 32) (p : List Word → Bool) (f : Nat → List Word → State → Option State) : State :=
  s.takeUp fn q idx (fun ws => recKind ws == 6 && p ws) fun t ws a =>
    let op := nfield (hostWord ws 1) 0 16
    if 6 ≤ op ∧ op ≤ 0xB ∧ fn ≠ 0 then some (a.setOutcome fn q idx 0x0E 0 none) else f t ws a

/-- Its op is the one given. -/
def isOp (op : Nat) (ws : List Word) : Bool := nfield (hostWord ws 1) 0 16 == op

/-! ### Objects and capabilities (R120, R121) -/

/-- Create object (R120). -/
def serveCreate (s : State) (fn q : Nat) (idx : BitVec 32) : State :=
  s.service fn q idx (isOp 1) fun t ws a =>
    let v := hostWord ws 2
    match a.makeObject t (nfield v 0 27) (field v 28 12) (bit v 40) with
    | some (i, b) => some (b.setOutcome fn q idx 0 (BitVec.ofNat 32 i) none)
    | none => some (a.setOutcome fn q idx 0x0D 0 none)

/-- An object of a tenant. -/
def owns (s : State) (t obj : Nat) : Bool := match s.obj obj with | some o => o.tenant == t | none => false

/-- Destroy object (R120): it waits for chunks that have translated an extent of it (R17). -/
def serveDestroy (s : State) (fn q : Nat) (idx : BitVec 32) : State :=
  s.service fn q idx (isOp 2) fun t ws a =>
    let i := nfield (hostWord ws 2) 0 24
    if !a.owns t i then some (a.setOutcome fn q idx 0x0D 0 none)
    else if (match a.obj i with | some o => o.exts.any fun x => a.chunkHolds i x.1 | none => false) then none
    else some ((a.removeObject i).setOutcome fn q idx 0 0 none)

/-- Write capability entry (R121). -/
def serveCapability (s : State) (fn q : Nat) (idx : BitVec 32) : State :=
  s.service fn q idx (isOp 3) fun t ws a =>
    let c : Cap := hostWord ws 4 ++ hostWord ws 3
    if Cap.wf c ∧ (Cap.obj c = 0 ∨ a.owns t (Cap.obj c)) then
      let x := a.tenant t
      some ((a.setTenant t { x with table := SMap.put nullCap x.table (nfield (hostWord ws 2) 0 12) c }).setOutcome fn q idx 0 0 none)
    else some (a.setOutcome fn q idx 0x0D 0 none)

/-! ### Copies (R122) -/

/-- What a copy comes to: all of it, a part and then a failure, or a part and then a wait. -/
inductive Moved where
  | all (s : State)
  | part (n : Nat) (s : State)
  | wait (n : Nat) (s : State)

/-- Bytes moved in pieces that no 64-byte block of the object is crossed by. -/
def movePieces (piece : State → Nat → Nat → FeRes) (s : State) (off n at' : Nat) : Nat → Moved
  | 0 => .all s
  | fuel + 1 =>
    if n ≤ at' then .all s
    else
      let k := min (n - at') (64 - (off + at') % 64)
      match piece s at' k with
      | .done _ a => movePieces piece a off n (at' + k) fuel
      | .fault _ a => .part at' a
      | .wait a => .wait at' a

/-- Bytes of the host written to an object, from byte `at'` on. -/
def copyIn (s : State) (t obj off host n at' : Nat) : Moved :=
  movePieces (fun a i k =>
    let bs := (List.range k).map fun j => a.hostByteAt (host + i + j)
    ({ a with freeCtr := a.freeCtr + 1 } : State).feReach t obj (off + i) (.write bs)) s off n at' (n / 64 + 2)

/-- Bytes of an object written to the host, from byte `at'` on. -/
def copyOut (s : State) (t obj off host n at' : Nat) : Moved :=
  movePieces (fun a i k => match a.feReach t obj (off + i) (.read k) with
    | .done bs b => .done bs (b.setHostBytes (host + i) bs)
    | r => r) s off n at' (n / 64 + 2)

/-- Bytes that a copy has moved. -/
def movedOf (s : State) (fn q : Nat) (idx : BitVec 32) : Nat :=
  match (s.queueAt fn q).bind fun k => k.recs.find? (·.idx == idx) with | some r => r.moved | none => 0

/-- A copy that waits has moved so much, and is taken up again. -/
def movedTo (s : State) (fn q : Nat) (idx : BitVec 32) (n : Nat) : State := s.onRecord fn q idx fun r => { r with begun := false, moved := n }

/-- A copy service: the object side checked, the bytes moved; a failure leaves those already moved. -/
def serveCopy (s : State) (fn q : Nat) (idx : BitVec 32) (op need : Nat)
    (move : State → Nat → Nat → Nat → Nat → Nat → Nat → Moved) : State :=
  s.service fn q idx (isOp op) fun t ws a =>
    let n := (hostWord ws 4).toNat
    match a.resolveRec fn q idx (hostWord ws 3) [need] n with
    | none => some (a.setOutcome fn q idx 0x03 0 none)
    | some (c, off) => match move a t (Cap.obj c) off (hostWord ws 2).toNat n (a.movedOf fn q idx) with
      | .all b => some (b.setOutcome fn q idx 0 (BitVec.ofNat 32 n) none)
      | .part k b => some (b.setOutcome fn q idx 0x0D (BitVec.ofNat 32 k) none)
      | .wait k b => some (b.movedTo fn q idx k)

/-- A host read of a copy gets no completion (R122): how many bytes had moved before is a free value below the count. -/
def timeOutCopy (s : State) (fn q : Nat) (idx : BitVec 32) : State :=
  s.service fn q idx (fun ws => isOp 4 ws && hostWord ws 4 != 0) fun t ws a =>
    let n := (hostWord ws 4).toNat
    match a.resolveRec fn q idx (hostWord ws 3) [1] n with
    | none => some (a.setOutcome fn q idx 0x03 0 none)
    | some (c, off) =>
      let (v, b) := a.draw
      let m := a.movedOf fn q idx
      let k := m + v.toNat % (n - m)
      match b.copyIn t (Cap.obj c) off (hostWord ws 2).toNat k m with
      | .all d => some (d.setOutcome fn q idx 0x0D (BitVec.ofNat 32 k) none)
      | .part k d => some (d.setOutcome fn q idx 0x0D (BitVec.ofNat 32 k) none)
      | .wait k d => some (d.movedTo fn q idx k)

/-! ### Device registers (R123, R125) -/

/-- `ISLCFG` as it reads (R511). -/
def islcfg (x : Island) : Word := BitVec.ofNat 64 (x.fcode + (if x.busy then 2 ^ 7 else 0) + x.retLg * 2 ^ 8)

/-- `JLSTAT` as it reads (R515). -/
def jlstat (j : JPort) : Word :=
  BitVec.ofNat 64 (j.state + j.lanes.toNat * 2 ^ 13 + j.retrains * 2 ^ 21 + j.peerPort.toNat * 2 ^ 25 + j.peerChip.toNat * 2 ^ 30 + j.crcErr * 2 ^ 40)

/-- `SNCFG` as it reads (R467). -/
def sncfg (d : Device) : Word := BitVec.ofNat 64 (d.snReserveNext + d.snShare * 2 ^ 8 + d.snTargetNext.toNat * 2 ^ 32)

/-- A device register read by id and index (R123); none where there is no such register. -/
def readReg (s : State) (id i : Nat) : Option Word :=
  match id with
  | 1 => if i < 12 then some (s.partition i).assign else none
  | 2 => (s.queueAt (i / 64) (i % 64)).map fun k => BitVec.ofNat 64 k.weight
  | 3 => if i < 384 then some ((s.coreAt i).board.rres.setWidth 64) else none
  | 4 => if i < 384 then some (s.coreAt i).board.cwcfg else none
  | 5 => if i = 0 then some (sncfg s.dev) else none
  | 6 => if i < 24 then some (islcfg (s.island i)) else none
  | 7 => if i < 18 then some (jlstat (SMap.get JPort.initial s.dev.jports i)) else none
  | 8 => if i = 0 then some (BitVec.ofNat 64 s.dev.pwrcap) else none
  | 9 => if i = 0 then some s.dev.dbgctl else none
  | _ => none

/-- A tenant id bound to a function (R94). -/
def boundTenant (s : State) (t : Nat) : Bool := t != 0 && (s.tenant t).live

/-- The tenants, and the slicing, that an assignment gives a partition. -/
def slicing (w : Word) : Nat × Option (Nat × Nat × Nat) :=
  (nfield w 0 9, if bit w 15 then some (nfield w 32 9, nfield w 16 8, nfield w 24 8) else none)

/-- A partition assignment written (R123, R127): one that changes its tenants or its slicing, or that its holder has no part in, begins a
slice turn, unless one is under way. -/
def setAssign (s : State) (d : Nat) (v : Word) : State :=
  let p := s.partition d
  let w := v &&& 0x1FFFFFF81FF
  let s1 := s.setPartition d { p with assign := w }
  let stays : Bool := match p.holder with | some h => h == nfield w 0 9 || (bit w 15 && h == nfield w 32 9) | none => false
  if p.turning ∨ (stays ∧ slicing p.assign = slicing w) then s1 else s1.beginTurn d

/-- A partition assignment that may be written (R123, R127). -/
def assignOk (s : State) (v : Word) : Bool :=
  let b := nfield v 32 9
  s.boundTenant (nfield v 0 9) && (if bit v 15 then s.boundTenant b && nfield v 16 8 != 0 && nfield v 24 8 != 0 else b == 0 || s.boundTenant b)

/-- `SBCFG` written (R288). -/
def setSbcfg (s : State) (n : Nat) (v : Word) : State :=
  let r := nfield v 0 9
  if 256 < r then s else s.onCore n fun c => c.withBoard fun b => { b with rres := BitVec.ofNat 9 r }

/-- One depth of `CWCFG` as a write leaves it. -/
def depthOf (old v : Word) (i : Nat) : Word :=
  let x := nfield v (8 * i) 7
  if 2 ≤ x ∧ x ≤ 64 then setField old (8 * i) 7 (BitVec.ofNat 7 x) else old

/-- `CWCFG` written (R413): a depth takes effect once its channel holds no chunk. -/
def setCwcfg (s : State) (n : Nat) (v : Word) : State :=
  s.onCore n fun c => c.withBoard fun b => { b with cwcfg := (List.range 4).foldl (fun w i => depthOf w v i) b.cwcfg }

/-- `SNCFG` written (R467). -/
def setSncfg (s : State) (v : Word) : State :=
  let d := s.dev
  let target : BitVec 2 := field v 32 2
  let share := nfield v 8 8
  let pct := nfield v 0 5
  (({ s with dev := { d with
    snTargetNext := if target.toNat < 2 then target else d.snTargetNext
    snShare := if 1 ≤ share ∧ share ≤ 50 then share else d.snShare
    snReserveNext := if 2 ≤ pct ∧ pct ≤ 25 then pct else d.snReserveNext } } : State)).settleSncfg

/-- `ISLCFG` written (R511): retention disabled ends it as the release of a matrix task would. -/
def setIslcfg (s : State) (i : Nat) (v : Word) : State :=
  let code := nfield v 0 5
  let lg := nfield v 8 5
  let s1 := if lg = 0 ∨ (8 ≤ lg ∧ lg ≤ 20) then s.onIsland i fun x => { x with retLg := lg } else s
  if 4 ≤ code ∧ code ≤ 16 then s1.setFcode i code else s1

/-- `PWRCAP` written (R510). -/
def setPwrcap (s : State) (v : Word) : State :=
  let w := nfield v 0 16
  if 3600 < w then s else { s with dev := { s.dev with pwrcap := w } }

/-- `DBGCTL` written by the monitor (R516): debug is enabled only on partitions of the PF's tenant or of none. -/
def setDbgctl (s : State) (v : Word) : State :=
  let may (d : Nat) : Bool := match (s.partition d).holder with | none => true | some h => h == (s.hostFn 0).tenant.toNat
  let en := (List.range 12).foldl (fun (w : Word) d => setBit w d (bit v d && may d)) 0
  let s1 : State := { s with dev := { s.dev with dbgctl := en ||| (v &&& 0x1FFF00000000) } }
  { s1 with cores := s1.cores.map fun e => (e.1, if s1.freezing e.1 then e.2.flushReds else e.2) }

/-- A register written through the PF (R123), where `ok` lets it be: the value read back is the output. A record that names no
register that can be written is refused by whichever of these services meets it. -/
def serveWrite (s : State) (fn q : Nat) (idx : BitVec 32) (id : Nat) (p : Word → Bool) (ok : State → Nat → Word → Bool)
    (set : State → Nat → Word → State) : State :=
  let named (ws : List Word) : Nat := nfield (hostWord ws 2) 0 16
  s.service fn q idx (fun ws => isOp 7 ws && ((named ws == id && p (hostWord ws 3)) || ! [1, 2, 3, 4, 5, 6, 8, 9].contains (named ws)))
    fun _ ws a =>
      let i := nfield (hostWord ws 2) 16 16
      let v := hostWord ws 3
      if named ws ≠ id ∨ (a.readReg id i).isNone ∨ !ok a i v then some (a.setOutcome fn q idx 0x0D 0 none)
      else
        let b := set a i v
        some (b.setOutcome fn q idx 0 0 (b.readReg id i))

/-- Any value may be written. -/
def anyValue (_ : State) (_ : Nat) (_ : Word) : Bool := true

/-- Read register (R123). -/
def serveRead (s : State) (fn q : Nat) (idx : BitVec 32) : State :=
  s.service fn q idx (isOp 6) fun _ ws a =>
    match a.readReg (nfield (hostWord ws 2) 0 16) (nfield (hostWord ws 2) 16 16) with
    | some v => some (a.setOutcome fn q idx 0 (v.setWidth 32) (some v))
    | none => some (a.setOutcome fn q idx 0x0D 0 none)

/-! ### The debug controls (R516, R517) -/

/-- What a write of `DBGCTL` does: 3 ends a freeze, 2 freezes the device, 1 freezes a partition, 0 neither. -/
def dbgChange (old v : Word) : Nat :=
  let f (w : Word) : BitVec 13 := field w 32 13
  if f old &&& ~~~ f v ≠ 0 then 3 else if bit v 44 && !bit old 44 then 2 else if f v &&& ~~~ f old ≠ 0 then 1 else 0

/-- A write of `DBGCTL` of one of these sorts. -/
def serveDebug (s : State) (fn q : Nat) (idx : BitVec 32) (sort : Nat) : State :=
  s.serveWrite fn q idx 9 (fun v => dbgChange s.dev.dbgctl v == sort) anyValue fun a _ v => a.setDbgctl v

/-! ### Provisioning (R124) -/

/-- Queues of a function made, from one number on. -/
def makeQueues (s : State) (fn q lg prio : Nat) : Nat → Option State
  | 0 => some s
  | n + 1 => match s.makeQueue fn q lg prio with | some a => a.makeQueues fn (q + 1) lg prio n | none => none

/-- Queues added to the PF; none where the request is refused. -/
def provisionMore (s : State) (nq lg prio : Nat) : Option State :=
  let h := s.hostFn 0
  let have' := h.nq.toNat
  if nq = 0 ∨ 64 < nq ∨ nq < have' then none
  else (s.makeQueues 0 have' lg prio (nq - have')).map fun a => a.setFn 0 { a.hostFn 0 with nq := BitVec.ofNat 8 nq }

/-- A VF provisioned with a new tenant; none where the request is refused. -/
def provisionVf (s : State) (fn nq lg prio : Nat) (mask : BitVec 12) : Option State :=
  let h := s.hostFn fn
  if !h.vfEnabled ∨ h.tenant ≠ 0 ∨ nq = 0 ∨ 16 < nq then none
  else match (List.range 510).find? fun i => !(s.tenant (i + 2)).live with
    | none => none
    | some i =>
      let a := (s.newTenant (i + 2)).setFn fn { HostFn.initial with tenant := BitVec.ofNat 9 (i + 2), nq := BitVec.ofNat 8 nq, partMask := mask, vfEnabled := true }
      a.makeQueues fn 0 lg prio nq

/-- Provision function (R124). -/
def serveProvision (s : State) (fn q : Nat) (idx : BitVec 32) : State :=
  s.service fn q idx (isOp 8) fun _ ws a =>
    let v := hostWord ws 2
    let f := nfield v 0 9
    let made := if f = 0 then a.provisionMore (nfield v 9 6) (nfield v 15 5) (nfield v 20 3)
      else a.provisionVf f (nfield v 9 6) (nfield v 15 5) (nfield v 20 3) (field (hostWord ws 3) 0 12)
    match made with
    | some b => some (b.setOutcome fn q idx 0 ((b.hostFn f).tenant.setWidth 32) none)
    | none => some (a.setOutcome fn q idx 0x0D 0 none)

/-- Unprovision function (R124). -/
def serveUnprovision (s : State) (fn q : Nat) (idx : BitVec 32) : State :=
  s.service fn q idx (isOp 9) fun _ ws a =>
    let f := nfield (hostWord ws 2) 0 9
    if (a.hostFn f).tenant = 0 then some (a.setOutcome fn q idx 0x0D 0 none)
    else some ((a.resetFunction f).setOutcome fn q idx 0 0 none)

/-! ### Peer maps, windows and plug-ins (R124) -/

/-- A peer-map entry as it reads (R396). -/
def peerWord (e : PeerEntry) : Word :=
  BitVec.ofNat 64 (e.epoch.toNat + e.phys.toNat * 2 ^ 32 + (if e.far then 2 ^ 61 else 0) + (if e.drain then 2 ^ 62 else 0) + if e.valid then 2 ^ 63 else 0)

/-- Write peer-map entry (R124): a valid entry whose chip changes is remapped, whatever else is written, and the record waits for that. -/
def servePeer (s : State) (fn q : Nat) (idx : BitVec 32) : State :=
  s.service fn q idx (isOp 10) fun _ ws a =>
    let t := nfield (hostWord ws 2) 0 9
    let lid := nfield (hostWord ws 2) 16 10
    let v := hostWord ws 3
    let e := a.peer t lid
    let phys : BitVec 10 := field v 32 10
    let install (b : State) : State :=
      let c := b.setPeer t lid { b.peer t lid with valid := bit v 63, far := bit v 61, phys := phys }
      c.setOutcome fn q idx 0 0 (some (peerWord (c.peer t lid)))
    if !a.boundTenant t then some (a.setOutcome fn q idx 0x0D 0 none)
    else if e.valid ∧ e.phys ≠ phys then
      let b := a.remap t lid phys (bit v 61)
      if (b.peer t lid).phys = phys ∧ !(b.peer t lid).drain then some (install b) else some (b.notYet fn q idx)
    else some (install a)

/-- A reduction window's doublewords written (R422). -/
def setWindow (s : State) (t w : Nat) (v : RedWindow) : State :=
  let x := s.tenant t
  s.setTenant t { x with windows := SMap.put none x.windows w (some ⟨v.w0 &&& 0xFFFFFFFFC000FFFF, v.w1 &&& 0xFFFFFFFFFFFFFF00⟩) }

/-- Write reduction window (R124). -/
def serveWindow (s : State) (fn q : Nat) (idx : BitVec 32) : State :=
  s.service fn q idx (isOp 11) fun _ ws a =>
    let t := nfield (hostWord ws 2) 0 9
    if !a.boundTenant t then some (a.setOutcome fn q idx 0x0D 0 none)
    else some ((a.setWindow t (nfield (hostWord ws 2) 16 6) ⟨hostWord ws 3, hostWord ws 4⟩).setOutcome fn q idx 0 0 none)

/-- A measurement register extended (R136). -/
def extend (m d : BitVec 384) : BitVec 384 := Sha.sha384 (toBytes m 48 ++ toBytes d 48)

/-- Load policy plug-in (R124, R136): it replaces an earlier one, and is measured before it first runs. -/
def servePlugin (s : State) (fn q : Nat) (idx : BitVec 32) : State :=
  s.service fn q idx (isOp 12) fun t ws a =>
    let n := (hostWord ws 3).toNat
    match a.resolveRec fn q idx (hostWord ws 2) [0] n with
    | none => some (a.setOutcome fn q idx 0x03 0 none)
    | some (c, off) => match a.feReach t (Cap.obj c) off (.read n) with
      | .done bs b =>
        let x := b.tenant t
        let b1 := b.setTenant t { x with plugin := some ⟨bs, true⟩ }
        let b2 : State := { b1 with
          sched := { b1.sched with ranking := SMap.put [] b1.sched.ranking t [] }
          dev := { b1.dev with meas1 := extend b1.dev.meas1 (Sha.sha384 bs) } }
        some (b2.setOutcome fn q idx 0 0 none)
      | .fault _ b => some (b.setOutcome fn q idx 0x03 0 none)
      | .wait b => some (b.notYet fn q idx)

end State

/-! ### Events -/

/-- CREATE_OBJECT (R120). -/
def execCreateObject (fn q : Nat) (idx : BitVec 32) (s : State) : Host.Outcome State Fault Refusal := atScheduler (·.serveCreate fn q idx) s

/-- DESTROY_OBJECT (R120). -/
def execDestroyObject (fn q : Nat) (idx : BitVec 32) (s : State) : Host.Outcome State Fault Refusal := atScheduler (·.serveDestroy fn q idx) s

/-- WRITE_CAPABILITY_ENTRY (R121). -/
def execWriteCapabilityEntry (fn q : Nat) (idx : BitVec 32) (s : State) : Host.Outcome State Fault Refusal := atScheduler (·.serveCapability fn q idx) s

/-- COPY_HOST_TO_OBJECT (R122). -/
def execCopyHostToObject (fn q : Nat) (idx : BitVec 32) (s : State) : Host.Outcome State Fault Refusal :=
  atScheduler (·.serveCopy fn q idx 4 1 State.copyIn) s

/-- COPY_OBJECT_TO_HOST (R122). -/
def execCopyObjectToHost (fn q : Nat) (idx : BitVec 32) (s : State) : Host.Outcome State Fault Refusal :=
  atScheduler (·.serveCopy fn q idx 5 0 State.copyOut) s

/-- READ_REGISTER (R123). -/
def execReadRegister (fn q : Nat) (idx : BitVec 32) (s : State) : Host.Outcome State Fault Refusal := atScheduler (·.serveRead fn q idx) s

/-- WRITE_PARTITION_ASSIGNMENT (R127). -/
def execWritePartitionAssignment (fn q : Nat) (idx : BitVec 32) (s : State) : Host.Outcome State Fault Refusal :=
  atScheduler (·.serveWrite fn q idx 1 (fun _ => true) (fun a _ v => a.assignOk v) State.setAssign) s

/-- WRITE_PLACEMENT_WEIGHT (R145). -/
def execWritePlacementWeight (fn q : Nat) (idx : BitVec 32) (s : State) : Host.Outcome State Fault Refusal :=
  atScheduler (·.serveWrite fn q idx 2 (fun _ => true) (fun _ _ v => decide (1 ≤ nfield v 0 5) && decide (nfield v 0 5 ≤ 16))
    fun a i v => a.onQueue (i / 64) (i % 64) fun k => { k with weight := nfield v 0 5 }) s

/-- WRITE_SBCFG (R288). -/
def execWriteSbcfg (fn q : Nat) (idx : BitVec 32) (s : State) : Host.Outcome State Fault Refusal :=
  atScheduler (·.serveWrite fn q idx 3 (fun _ => true) State.anyValue State.setSbcfg) s

/-- WRITE_CWCFG (R413). -/
def execWriteCwcfg (fn q : Nat) (idx : BitVec 32) (s : State) : Host.Outcome State Fault Refusal :=
  atScheduler (·.serveWrite fn q idx 4 (fun _ => true) State.anyValue State.setCwcfg) s

/-- WRITE_SNCFG (R467). -/
def execWriteSncfg (fn q : Nat) (idx : BitVec 32) (s : State) : Host.Outcome State Fault Refusal :=
  atScheduler (·.serveWrite fn q idx 5 (fun _ => true) State.anyValue fun a _ v => a.setSncfg v) s

/-- WRITE_ISLCFG (R511). -/
def execWriteIslcfg (fn q : Nat) (idx : BitVec 32) (s : State) : Host.Outcome State Fault Refusal :=
  atScheduler (·.serveWrite fn q idx 6 (fun _ => true) State.anyValue State.setIslcfg) s

/-- WRITE_PWRCAP (R510). -/
def execWritePwrcap (fn q : Nat) (idx : BitVec 32) (s : State) : Host.Outcome State Fault Refusal :=
  atScheduler (·.serveWrite fn q idx 8 (fun _ => true) State.anyValue fun a _ v => a.setPwrcap v) s

/-- DEBUG_ENABLE (R516). -/
def execDebugEnable (fn q : Nat) (idx : BitVec 32) (s : State) : Host.Outcome State Fault Refusal := atScheduler (·.serveDebug fn q idx 0) s

/-- DEBUG_FREEZE_PARTITION (R517). -/
def execDebugFreezePartition (fn q : Nat) (idx : BitVec 32) (s : State) : Host.Outcome State Fault Refusal := atScheduler (·.serveDebug fn q idx 1) s

/-- DEBUG_FREEZE_DEVICE (R517). -/
def execDebugFreezeDevice (fn q : Nat) (idx : BitVec 32) (s : State) : Host.Outcome State Fault Refusal := atScheduler (·.serveDebug fn q idx 2) s

/-- DEBUG_THAW (R517): the scheduler complex's debug path runs while the device is frozen. -/
def execDebugThaw (fn q : Nat) (idx : BitVec 32) (s : State) : Host.Outcome State Fault Refusal := .next (s.serveDebug fn q idx 3)

/-- SCAN_SHIFT (R517): each bit shifted out of a frozen partition's chains is recirculated, so that no state changes. -/
def execScanShift (_part _bits : Nat) (s : State) : Host.Outcome State Fault Refusal := .next s

/-- DEBUG_RELEASE (R517): a core that `BRK` stopped goes on. -/
def execDebugRelease (core : Nat) (s : State) : Host.Outcome State Fault Refusal :=
  .next (if isCore core ∧ (s.coreAt core).run = .broken then s.onCore core fun c => { c with run := .running } else s)

/-- PROVISION_FUNCTION (R124). -/
def execProvisionFunction (fn q : Nat) (idx : BitVec 32) (s : State) : Host.Outcome State Fault Refusal := atScheduler (·.serveProvision fn q idx) s

/-- UNPROVISION_FUNCTION (R124). -/
def execUnprovisionFunction (fn q : Nat) (idx : BitVec 32) (s : State) : Host.Outcome State Fault Refusal := atScheduler (·.serveUnprovision fn q idx) s

/-- WRITE_PEER_MAP_ENTRY (R124). -/
def execWritePeerMapEntry (fn q : Nat) (idx : BitVec 32) (s : State) : Host.Outcome State Fault Refusal := atScheduler (·.servePeer fn q idx) s

/-- WRITE_REDUCTION_WINDOW (R124). -/
def execWriteReductionWindow (fn q : Nat) (idx : BitVec 32) (s : State) : Host.Outcome State Fault Refusal := atScheduler (·.serveWindow fn q idx) s

/-- LOAD_POLICY_PLUGIN (R124). -/
def execLoadPolicyPlugin (fn q : Nat) (idx : BitVec 32) (s : State) : Host.Outcome State Fault Refusal := atScheduler (·.servePlugin fn q idx) s

/-- PCIE_COMPLETION_TIMEOUT (R376, R122): an object fault on the access, or a service that completes with 0x0D. -/
def execPcieCompletionTimeout (p : HostParty) (s : State) : Host.Outcome State Fault Refusal :=
  match p with
  | .op core k => atCore core (fun s =>
      match (s.coreAt core).accOp k with
      | some o =>
        if o.phase = .sent ∧ s.servedByHost o.objId then
          s.accFails core o (accTrap 0x07 0 o.word (BitVec.ofNat 64 o.addr) [])
        else s
      | none => match (s.coreAt core).redEntry k with
        | some r => if r.sent ∧ s.servedByHost (Cap.obj r.cap) then
            s.redFails core r 0x0E (rmwCode r.op) else s
        | none => s) s
  | .task core seq => atCore core (fun s =>
      match (s.coreAt core).entry seq with
      | some e => if e.state = .executing ∧ e.fault.isNone ∧ e.post.caps.any (fun c => s.servedByHost (Cap.obj c)) then (let (v, a) := s.draw; a.faultTask core seq ⟨0x07, 0, v⟩ []) else s
      | none => s) s
  | .service fn q idx => atScheduler (·.timeOutCopy fn q idx) s

end Sys2Proof.Machine
end

