-- ==== Sys2Proof/Machine/Host.lean ====
section
/-!
DEFINITION. What host software reaches (R9, R97 to R101, R125): the firmware aperture and its lock (R133 to R136), queue
registers and rings, attestation and counters (R137, R489), and registers without a row of their own.
-/

namespace Sys2Proof.Machine

open Sys2Proof.Bits

namespace State

/-! ### Firmware (R133 to R136) -/

/-- Bytes of the firmware carve-out (R133). -/
def carveOut : Nat := 0x8000000

/-- A write through BAR4 (R133): into the carve-out until it is locked. -/
def bar4Write (s : State) (off : Nat) (data : Bytes) : State :=
  if !s.dev.pcieUp ∨ s.dev.fwLock then s else s.setHbmBytes off (data.take (carveOut - off))

/-- Bytes of the carve-out. -/
def carveBytes (s : State) (off len : Nat) : Bytes := (List.range len).map fun i => s.hbmByte (off + i)

/-- A little-endian field of the image's header (R134). -/
def headerField (s : State) (off len : Nat) : Nat := natOfBytes (s.carveBytes off len)

/-- The digest of an image (R135): header bytes 0x000 to 0x07F and the body. -/
def imageDigest (s : State) : BitVec 384 := Sha.sha384 (s.carveBytes 0 0x80 ++ s.carveBytes 0x1000 (s.headerField 8 8))

/-- The boot ROM's checks of an image, in order (R135): the code of the first that fails. -/
def verifyImage (s : State) (mib : Nat) : BitVec 8 :=
  let key := s.carveBytes 0x20 96
  if mib = 0 ∨ 128 < mib then 0x05
  else if s.headerField 0 4 ≠ 0x5746584B ∨ s.headerField 4 4 ≠ 1 ∨ s.headerField 0x14 4 ≠ 0 ∨ (s.carveBytes 0xE0 3872).any (· != 0)
      ∨ mib * 2 ^ 20 - 4096 < s.headerField 8 8 then 0x01
  else if Sha.sha384 key ≠ Config.keyHash then 0x02
  else if s.headerField 0x10 4 < Config.fuseCounter.toNat then 0x04
  else if !P384.verify key s.imageDigest (s.carveBytes 0x80 96) then 0x03
  else 0

/-- Every island at its `ISLCFG` frequency (R514, step 5). -/
def startIslands (s : State) : State := (List.range 24).foldl (fun a i => a.onIsland i fun x => { x with present := x.fcode }) s

/-- The monitor starts on every scheduler core (R134, R135): at the entry offset within the body, in M-mode. -/
def startMonitor (s : State) : State :=
  let entry : Word := BitVec.ofNat 64 (0x1000 + s.headerField 0x18 8)
  { s with dev := { s.dev with harts := (List.range 4).foldl (fun m i =>
      SMap.put Hart.initial m i { SMap.get Hart.initial m i with pc := entry, inRom := false, mode := 3 }) s.dev.harts } }

/-- A write of `FWLOCK` (R133, R135): the first with lock = 1 locks, and the image is verified and started. -/
def fwlockWrite (s : State) (v : Word) : State :=
  if !s.dev.pcieUp ∨ s.dev.fwLock ∨ !bit v 63 then s
  else
    let d := { s.dev with fwLock := true, fwSize := field v 0 8 }
    let code := s.verifyImage (nfield v 0 8)
    if code ≠ 0 then { s with dev := { d with fwState := 0x03, fwCode := code } }
    else ({ s with dev := { d with
      fwState := 0x02
      meas0 := extend d.meas0 s.imageDigest
      secVersion := BitVec.ofNat 32 (s.headerField 0x10 4)
      bringUp := 6 } } : State).startMonitor.startIslands

/-! ### Queue registers (R99, R100) -/

/-- `HQCTL` written (R99, R100, R138): clearing enable abandons a held wait. -/
def writeHqctl (s : State) (fn q : Nat) (v : Word) : State :=
  s.onQueue fn q fun k =>
    let k1 := { k with vector := field v 2 11, irqEn := bit v 1, enable := bit v 0 }
    if bit v 0 then k1 else { k1 with tried := false, refetch := 0, waitRec := [], blocked := false }

/-- `HQTAIL` written (R100): accepted within the ring's size, else ignored and reported. -/
def doorbell (s : State) (fn q : Nat) (v : BitVec 32) : State :=
  match s.queueAt fn q with
  | none => s
  | some k =>
    if (v - k.head).toNat ≤ 2 ^ k.lgEnt then s.onQueue fn q fun k => { k with tail := v }
    else (s.onQueue fn q fun k => { k with errCode := 0x21, errIdx := v }).countFn fn 11

/-- `HQSTAT.resume` written with 1 (R99, R107). -/
def resumeQueue (s : State) (fn q : Nat) : State :=
  s.onQueue fn q fun k =>
    let k1 := { k with errCode := 0 }
    if k.enable && k.halted then { k1 with halted := false, tried := false, refetch := 0 } else k1

/-- A host access through BAR2 (R97): of the function's tenant to the ring object, or dropped. -/
def bar2Access (s : State) (fn q off : Nat) (acc : HostAcc) : State :=
  let len := match acc with | .read n => n | .write d => d.length
  let ones : State := match acc with | .read n => { s with host := { s.host with lastRead := List.replicate n 0xFF } } | .write _ => s
  match s.queueAt fn q with
  | none => ones
  | some k =>
    if 128 * 2 ^ k.lgEnt < off + len then ones
    else match acc with
      | .read n => match s.feAccess (s.hostFn fn).tenant.toNat k.ring.toNat off (.read n) with
        | .done bs _ a => { a with host := { a.host with lastRead := bs } }
        | _ => ones
      | .write d => match s.feAccess (s.hostFn fn).tenant.toNat k.ring.toNat off (.write d) with
        | .done _ _ a => a
        | .hold a => a
        | _ => s

/-! ### Attestation and counters (R137, R489, R490) -/

/-- A byte of a function's mailbox. -/
def mailByte (s : State) (fn i : Nat) : Byte := SMap.get 0 (s.hostFn fn).mailbox i

/-- Bytes put into a function's mailbox. -/
def putMail (s : State) (fn at' : Nat) (bs : Bytes) : State :=
  let h := s.hostFn fn
  s.setFn fn { h with mailbox := SMap.putList 0 h.mailbox at' bs }

/-- A function that can be reached: the PF, or an enabled VF. -/
def fnPresent (s : State) (fn : Nat) : Bool := s.dev.pcieUp && (fn == 0 || (decide (fn ≤ 256) && (s.hostFn fn).vfEnabled))

/-- A command written to byte 0x20, unless one is under way (R489). DESIGN CHOICE (log 113): a value that names no command is not
written. -/
def mailCommand (s : State) (fn : Nat) (v : Byte) : State :=
  if !s.fnPresent fn ∨ s.mailByte fn 0x20 = 1 ∨ s.mailByte fn 0x20 = 3 then s else s.putMail fn 0x20 [v]

/-- The measured bytes of a report (R137). -/
def reportBytes (s : State) (fn : Nat) : Bytes :=
  toBytes s.dev.meas0 48 ++ toBytes s.dev.meas1 48 ++ toBytes s.dev.secVersion 4 ++ toBytes ((s.hostFn fn).tenant.setWidth 32) 4

/-- The signature over a nonce and a report (R137). -/
def reportSignature (s : State) (nonce report : Bytes) : Bytes := toBytes (Config.attestSign s.dev.meas0 (Sha.sha384 (nonce ++ report))) 96

/-- A report is ready (R137). DESIGN CHOICE (log 114): it signs the nonce that the mailbox holds as the report is made. -/
def reportReady (s : State) (fn : Nat) : State :=
  if !s.fnPresent fn ∨ s.mailByte fn 0x20 ≠ 1 then s
  else
    let nonce := (List.range 32).map (s.mailByte fn)
    let r := s.reportBytes fn
    (s.putMail fn 0x40 (r ++ s.reportSignature nonce r)).putMail fn 0x20 [2]

/-- A snapshot of the counters is ready (R489, R490). -/
def countersReady (s : State) (fn : Nat) : State :=
  if !s.fnPresent fn ∨ s.mailByte fn 0x20 ≠ 3 then s
  else
    let bs := (List.range 16).flatMap fun i => toBytes (SMap.get 0 (s.hostFn fn).counters i) 8
    (s.putMail fn 0x40 bs).putMail fn 0x20 [4]

/-- The PF's SPDM responder (R137). -/
def spdm (s : State) (nonce : Bytes) : State :=
  if !s.dev.pcieUp then s
  else
    let r := s.reportBytes 0
    { s with host := { s.host with spdm := s.host.spdm ++ [r ++ s.reportSignature nonce r] } }

/-! ### Other registers (R9, R97, R125) -/

/-- `FNINFO` as it reads (R98). -/
def fninfo (h : HostFn) : Word := BitVec.ofNat 64 (h.partMask.toNat * 2 ^ 32 + h.nq.toNat * 2 ^ 24 + h.tenant.toNat)

/-- A queue's state code (R99): 0 disabled, 1 running, 2 halted, 3 blocked on a wait. A queue that is not enabled is disabled, whatever else
holds it. -/
def queueState (k : HostQueue) : Nat := if !k.enable then 0 else if k.halted then 2 else if k.blocked then 3 else 1

/-- The register of a queue block at an offset of it (R99). -/
def queueReg (k : HostQueue) (off : Nat) : Word :=
  match off with
  | 0x00 => BitVec.ofNat 64 (k.ring.toNat * 2 ^ 40 + k.lgEnt * 2 ^ 35 + k.prioCap * 2 ^ 32 + 2 ^ 31)
  | 0x08 => BitVec.ofNat 64 (k.vector.toNat * 4 + (if k.irqEn then 2 else 0) + if k.enable then 1 else 0)
  | 0x10 => k.tail.setWidth 64
  | 0x18 => k.head.setWidth 64
  | 0x20 => k.done.setWidth 64
  | 0x28 => BitVec.ofNat 64 (k.errIdx.toNat * 2 ^ 32 + k.errCode.toNat * 2 ^ 24 + k.refetch * 2 ^ 4 + queueState k)
  | _ => 0

/-- What a doubleword of a function's BAR0 reads as (R97): zero where it is reserved (R8). -/
def readBar0 (s : State) (fn off : Nat) : Word :=
  if off = 0 then fninfo (s.hostFn fn)
  else if off = 0x100 ∧ fn = 0 then BitVec.ofNat 64 (s.dev.fwSize.toNat + if s.dev.fwLock then 2 ^ 63 else 0)
  else if off = 0x108 ∧ fn = 0 then BitVec.ofNat 64 (s.dev.fwCode.toNat * 2 ^ 8 + s.dev.fwState.toNat)
  else if 0x1000 ≤ off ∧ off < 0x1000 + 0x40 * (if fn = 0 then 64 else 16) then
    match s.queueAt fn ((off - 0x1000) / 0x40) with | some k => queueReg k ((off - 0x1000) % 0x40) | none => 0
  else if 0x3000 ≤ off ∧ off < 0x3200 then wordOfBytes ((List.range 8).map fun i => s.mailByte fn (off - 0x3000 + i))
  else 0

/-- A doubleword written to a function's BAR0 (R97): read-only and reserved places ignore it. -/
def writeBar0 (s : State) (fn off : Nat) (v : Word) : State :=
  let q := (off - 0x1000) / 0x40
  if !s.fnPresent fn ∨ off % 8 ≠ 0 then s
  else if off = 0x100 then (if fn = 0 then s.fwlockWrite v else s)
  else if 0x1000 ≤ off ∧ off < 0x2000 then
    match (off - 0x1000) % 0x40 with
    | 0x08 => s.writeHqctl fn q v
    | 0x10 => s.doorbell fn q (field v 0 32)
    | 0x28 => if bit v 8 then s.resumeQueue fn q else s
    | _ => s
  else if 0x3000 ≤ off ∧ off < 0x3020 then s.putMail fn (off - 0x3000) (toBytes v 8)
  else if off = 0x3020 then (if field v 0 8 = 1 ∨ field v 0 8 = 3 then s.mailCommand fn (field v 0 8) else s)
  else s

/-- VF Enable of a VF (R124, R129): clearing it resets the function. -/
def writeVfEnable (s : State) (fn : Nat) (on : Bool) : State :=
  if fn = 0 ∨ 256 < fn ∨ !s.dev.pcieUp then s
  else if on then s.setFn fn { s.hostFn fn with vfEnabled := true }
  else
    let a := s.resetFunction fn
    a.setFn fn { a.hostFn fn with vfEnabled := false }

/-- What a doubleword of the device register space reads as (R125): zero where it is reserved. The key port reads as zero, for keys cannot be
read back (R95). -/
def readDev (s : State) (off : Nat) : Word :=
  if off % 8 ≠ 0 then 0
  else if off < 0x40 * 384 then
    (if off % 0x40 = 0 then (s.coreAt (off / 0x40)).board.rres.setWidth 64 else if off % 0x40 = 8 then (s.coreAt (off / 0x40)).board.cwcfg else 0)
  else if 0x10000 ≤ off ∧ off < 0x10000 + 8 * 24 then islcfg (s.island ((off - 0x10000) / 8))
  else if 0x11000 ≤ off ∧ off < 0x11000 + 8 * 18 then jlstat (SMap.get JPort.initial s.dev.jports ((off - 0x11000) / 8))
  else if off = 0x12000 then sncfg s.dev
  else if off = 0x12008 then BitVec.ofNat 64 s.dev.pwrcap
  else if off = 0x12010 then s.dev.dbgctl
  else if 0x100000 ≤ off ∧ off < 0x100000 + 0x2000 * 512 then peerWord (s.peer ((off - 0x100000) / 0x2000) ((off - 0x100000) % 0x2000 / 8))
  else if 0x500000 ≤ off ∧ off < 0x500000 + 0x400 * 512 then
    match SMap.get none (s.tenant ((off - 0x500000) / 0x400)).windows ((off - 0x500000) % 0x400 / 16) with
    | some w => if off % 16 = 0 then w.w0 else w.w1
    | none => 0
  else 0

/-- A doubleword written to the key port (R95, R125): 128 bytes for each key slot, of which the first 64 are its two keys. -/
def writeKey (s : State) (off : Nat) (v : Word) : State :=
  let t := off / 128
  let x := s.tenant t
  if 64 ≤ off % 128 then s else s.setTenant t { x with keys := setField x.keys (8 * (off % 128)) 64 v }

/-- A scheduler core may make an access of a kind to a region in a mode (R131): the first entry that covers the region decides. M-mode passes
every entry that is not locked, and U-mode has only the entries that are its own. -/
def pmpAllows (h : Hart) (mode : BitVec 2) (region : PmpRegion) (ok : PmpEntry → Bool) : Bool :=
  match ((List.range 16).map fun i => SMap.get (pmpReset i) h.pmp i).find? (·.region == region) with
  | some e => if mode = 3 then !e.locked || ok e else ok e && (mode != 0 || e.user)
  | none => mode == 3

/-- Firmware reaches the device register space for writes (R125, R131), in M-mode or in S-mode. -/
def devWritable (s : State) (mmode : Bool) : Bool := s.fwRuns && pmpAllows (SMap.get Hart.initial s.dev.harts 0) (if mmode then 3 else 1) .deviceRegs (·.w)

/-- A doubleword written by firmware to the device register space (R125). `DBGCTL` and the key port take writes only from M-mode. -/
def writeDev (s : State) (off : Nat) (mmode : Bool) (v : Word) : State :=
  if off % 8 ≠ 0 ∨ !s.devWritable mmode then s
  else if off < 0x40 * 384 then
    (if off % 0x40 = 0 then s.setSbcfg (off / 0x40) v else if off % 0x40 = 8 then s.setCwcfg (off / 0x40) v else s)
  else if 0x10000 ≤ off ∧ off < 0x10000 + 8 * 24 then s.setIslcfg ((off - 0x10000) / 8) v
  else if off = 0x12000 then s.setSncfg v
  else if off = 0x12008 then s.setPwrcap v
  else if off = 0x12010 then (if mmode then s.setDbgctl v else s)
  else if 0x100000 ≤ off ∧ off < 0x100000 + 0x2000 * 512 then
    s.setPeer ((off - 0x100000) / 0x2000) ((off - 0x100000) % 0x2000 / 8) ⟨bit v 63, bit v 62, bit v 61, field v 32 10, field v 0 32⟩
  else if 0x500000 ≤ off ∧ off < 0x500000 + 0x400 * 512 then
    let t := (off - 0x500000) / 0x400
    let w := (off - 0x500000) % 0x400 / 16
    let old := (SMap.get none (s.tenant t).windows w).getD ⟨0, 0⟩
    s.setWindow t w (if off % 16 = 0 then { old with w0 := v } else { old with w1 := v })
  else if 0xF00000 ≤ off ∧ off < 0xF10000 then (if mmode then s.writeKey (off - 0xF00000) v else s)
  else s

/-- A register write without a row of its own (R9). -/
def writeReg (s : State) (r : HostReg) (v : Word) : State :=
  match r with
  | .bar0 fn off => s.writeBar0 fn off v
  | .vfEnable fn => s.writeVfEnable fn (bit v 0)
  | .dev off m => s.writeDev off m v

end State

/-! ### Events -/

/-- FWLOCK_LOCK (R133). -/
def execFwlockLock (v : Word) (s : State) : Host.Outcome State Fault Refusal := atDevice (·.fwlockWrite v) s

/-- BAR4_WRITE (R133). -/
def execBar4Write (off : Nat) (data : Bytes) (s : State) : Host.Outcome State Fault Refusal := atDevice (·.bar4Write off data) s

/-- BAR2_ACCESS (R97). -/
def execBar2Access (fn q off : Nat) (acc : HostAcc) (s : State) : Host.Outcome State Fault Refusal := atDevice (·.bar2Access fn q off acc) s

/-- HQ_DOORBELL (R100). -/
def execHqDoorbell (fn q : Nat) (v : BitVec 32) (s : State) : Host.Outcome State Fault Refusal := atDevice (·.doorbell fn q v) s

/-- QUEUE_ENABLE (R99). -/
def execQueueEnable (fn q : Nat) (v : Word) (s : State) : Host.Outcome State Fault Refusal :=
  atDevice (fun s => if bit v 0 then s.writeHqctl fn q v else s) s

/-- QUEUE_DISABLE (R100). -/
def execQueueDisable (fn q : Nat) (v : Word) (s : State) : Host.Outcome State Fault Refusal :=
  atDevice (fun s => if bit v 0 then s else s.writeHqctl fn q v) s

/-- QUEUE_RESUME (R99). -/
def execQueueResume (fn q : Nat) (s : State) : Host.Outcome State Fault Refusal := atDevice (·.resumeQueue fn q) s

/-- ATTESTATION_REQUEST (R137). -/
def execAttestationRequest (fn : Nat) (s : State) : Host.Outcome State Fault Refusal := atDevice (·.mailCommand fn 1) s

/-- ATTESTATION_REPORT_READY (R137). -/
def execAttestationReportReady (fn : Nat) (s : State) : Host.Outcome State Fault Refusal := atScheduler (·.reportReady fn) s

/-- SPDM_REQUEST (R137). -/
def execSpdmRequest (nonce : Bytes) (s : State) : Host.Outcome State Fault Refusal := atScheduler (·.spdm nonce) s

/-- ERROR_COUNTER_READ (R489). -/
def execErrorCounterRead (fn : Nat) (s : State) : Host.Outcome State Fault Refusal := atDevice (·.mailCommand fn 3) s

/-- COUNTER_SNAPSHOT_READY (R489). -/
def execCounterSnapshotReady (fn : Nat) (s : State) : Host.Outcome State Fault Refusal := atScheduler (·.countersReady fn) s

/-- REGISTER_WRITE (R9): the debug path to `DBGCTL` runs while the device is frozen (R517). -/
def execRegisterWrite (reg : HostReg) (v : Word) (s : State) : Host.Outcome State Fault Refusal :=
  if reg = .dev 0x12010 true then .next (s.writeReg reg v) else atDevice (·.writeReg reg v) s

end Sys2Proof.Machine
end

