-- ==== Sys2Proof/Machine/Paging.lean ====
section
/-!
DEFINITION. Page faults as firmware services them (R438, R439, R519): an extent made resident, or the faults of those that wait at one that
cannot be.
-/

namespace Sys2Proof.Machine

open Sys2Proof.Bits

namespace State

/-- An object cut off at an extent. -/
def cutObj (s : State) (obj size : Nat) : State :=
  match s.obj obj with
  | some o => { s with hbm := { s.hbm with objs := SMap.put none s.hbm.objs obj (some { o with size := size }) } }
  | none => s

/-- A task waits at an extent that firmware cannot supply if what it does next faults where the object is cut off before the extent, and does
not where it is cut off after it: that object fault is then its own (R438, R439). -/
def failsAt (s : State) (obj ext size n : Nat) (seq : BitVec 32) (go : State → State) : State :=
  let bad (a : State) : Bool := ((a.coreAt n).entry seq).any (·.fault.isSome)
  let a := go (s.cutObj obj ext)
  if bad a && !bad (go (s.cutObj obj (ext + 1))) && !bad s then a.cutObj obj size else s

/-- The reads of a task that starts: its guard word and its records. -/
def startReads (s : State) (n : Nat) (e : Entry) : State :=
  if (s.mayStart n e.seq e.post.kind).isNone then s
  else
    let fault (f : TaskFault) : State := (s.onTask n e.seq fun x => { x with state := .executing }).faultTask n e.seq f []
    match s.guardWord n e with
    | .fault f => fault f
    | .wait _ => s
    | _ =>
      let bad := (if e.post.usesRefs then [(9, 7), (10, 8)] else []).filterMap fun r => match s.readRef n e r.1 r.2 with
        | .fault f => some (f.task (BitVec.ofNat 64 (e.post.refOff r.1)))
        | _ => none
      match bad with | f :: _ => fault f | [] => s

/-- What a task of a window may do next at the memory ports. -/
def nextAccesses (n : Nat) (e : Entry) : List (State → State) :=
  [fun s => s.startReads n e] ++ (if e.post.kind = 0x28 then [fun s => s.collTask n e.seq, fun s => s.applyHeld n e.seq] else [])
    ++ (if e.post.engine = 3 then [fun s => s.respond n e.post.channel, fun s => s.beginChunk n e.post.channel] else [])
    ++ (if e.post.isSubscr then [true, false].map fun f => fun s => s.tideItem n (nfield (e.post.word 8) 0 4) f else [])

/-- Firmware cannot supply an extent (R438): the operations halted at it take object faults, reductions are lost, the tasks that wait there
fault as their accesses do, and so do the accesses of other chips that are held there (R402). -/
def failExtent (obj ext size : Nat) (s : State) : State :=
  let s1 := s.cores.foldl (fun a c =>
    let n := c.1
    let a1 := (c.2.acc.filter (·.inExtent obj ext)).foldl (fun a o =>
      (a.accFails n o (accTrap 0x07 0 o.word (BitVec.ofNat 64 o.addr) [])).onCore n fun c => { c with accHalted := false }) a
    let a2 := (c.2.reds.filter fun r => r.sent && Cap.obj r.cap == obj && r.addr / extentBytes == ext).foldl
      (fun a r => a.redFails n r 0x0E (rmwCode r.op)) a1
    c.2.board.entries.foldl (fun a e => (nextAccesses n e).foldl (fun a go => a.failsAt obj ext size n e.seq go) a) a2) s
  let held := s1.fab.net.filter fun m => m.flow.dstChip == s.dev.chip && (match m.body with
    | .access cap _ off op .. => Cap.obj cap == obj && decide (off / extentBytes = ext ∨ (off + (portOp op).len - 1) / extentBytes = ext)
    | _ => false)
  held.foldl (fun a m => ((a.cutObj obj ext).receive m).cutObj obj size) s1

/-- The effect of PAGE_FAULT_SERVICE (R438). -/
def servicePage (obj ext : Nat) (s : State) : State :=
  match s.obj obj with
  | none => s
  | some o =>
    if o.size ≤ ext ∨ (o.ext ext).frame.isSome ∨ o.route ≠ .local then s
    else match s.makeResident obj ext with
      | some s1 => (resumeUnits obj ext s1)
      | none => (failExtent obj ext o.size s)

end State

/-- PAGE_FAULT_SERVICE (R438). -/
def execPageFaultService (obj ext : Nat) (s : State) : Host.Outcome State Fault Refusal := atScheduler (·.servicePage obj ext) s

end Sys2Proof.Machine
end

