-- ==== Sys2Proof/Machine/Auto.lean ====
section
/-!
DEFINITION. What the package does by itself when nothing is scheduled: the current core's thread goes on, and where it waits,
the first enabled event of an order of the model's own happens (DESIGN CHOICE, log entry 3). The manual orders these events only
where its rules do; the schedule of `State.inputs` can place them in any other order.
-/

namespace Sys2Proof.Machine

open Sys2Proof.Bits

/-- An event as a transition. -/
abbrev Event := State → Host.Outcome State Fault Refusal

/-- The thread of a core has come further: a group has issued, a wait has begun or ended, a trap has been raised or taken, or its
run state has changed. -/
def progressed (n : Nat) (s t : State) : Bool :=
  let a := s.coreAt n
  let b := t.coreAt n
  a.groups != b.groups || a.pc != b.pc || decide (a.run ≠ b.run) || decide (a.wait ≠ b.wait) || a.frozen.length != b.frozen.length
    || a.waitingTrap.isSome != b.waitingTrap.isSome || a.asyncTraps.length != b.asyncTraps.length

/-- A plane without its contents. -/
def Plane.outline (p : Plane) : Plane := { p with cells := [], scales := [] }

/-- A core without the contents of its large arrays. -/
def Core.outline (c : Core) : Core :=
  { c with code := [], eng := { c.eng with rows := [], acc := [], plane0 := c.eng.plane0.outline, plane1 := c.eng.plane1.outline } }

/-- A state without the contents of its large arrays and without the count of values drawn. No event changes those contents
alone. -/
def State.outline (s : State) : State :=
  { s with
    freeCtr := 0
    cores := s.cores.map fun e => (e.1, e.2.outline)
    hbm := { s.hbm with mem := [], lower := [] }
    host := { s.host with hostMem := [] } }

/-- The next state of an event that does something. -/
def tryEvent (s : State) (e : Event) : Option State :=
  match e s with
  | .next t => if decide (t.outline = s.outline) then none else some t
  | _ => none

/-- The ways a task of each kind can be worked on. -/
def taskEvents (n : Nat) (seq : BitVec 32) : List Event :=
  [execMldstTask n seq, execMswapTask n seq, execMzeroTask n seq, execMstreamTask n seq, execMdrainTask n seq, execMepiTask n seq,
    execSmapTask n seq, execSredTask n seq, execXposeTask n seq, execTstartTask n seq, execCopyTask n seq, execGatherTask n seq,
    execScatterTask n seq, execSubscrTask n seq, execCollTask n seq, execRingpopTask n seq, execRingpushTask n seq,
    execCollLineApply n seq, execTaskComplete n seq, execTaskRetire n seq, execDirectoryInsert n (.task seq), execUnitEvaluation n seq,
    execEntrySettled n seq]

/-- The queues of a core. -/
def allQueues : List Queue := [.matrix, .stream, .transpose, .copy 0, .copy 1, .copy 2, .copy 3, .walker, .board]

/-- Objects that a core's operations, tasks and capability registers name and whose route it does not know. -/
def unknownRoutes (c : Core) : List Nat :=
  let os := (c.acc.map AccOp.objId) ++ (c.reds.map fun r => Cap.obj r.cap) ++ (c.regs.c.map fun e => Cap.obj e.2)
  os.filter fun o => !c.routeCache.any fun x => x.1 == o

/-- Extents that a core's operations, code and tasks lie in and that have no frame. -/
def missingExtents (s : State) (n : Nat) : List (Nat × Nat) :=
  let c := s.coreAt n
  let code := [(Cap.obj c.fetchCap, c.pc.toNat / extentBytes), (Cap.obj c.fetchCap, (c.pc.toNat + 160) / extentBytes)]
  let ops := (c.acc.map fun o => (o.objId, o.addr / extentBytes)) ++ c.reds.map fun r => (Cap.obj r.cap, r.addr / extentBytes)
  let tasks := (c.board.entries.filter fun e => e.state == .executing).flatMap fun e => e.post.dirFeet.flatMap fun f =>
    match f.1 with
    | .hbm obj lo cnt => (List.range (min 4096 ((lo + cnt - 1) / 512 + 1 - lo / 512))).map fun i => (obj, lo / 512 + i)
    | _ => []
  ((if c.team.isSome then code else []) ++ ops ++ tasks).filter fun x =>
    match s.obj x.1 with
    | some o => (o.ext x.2).frame.isNone && decide (x.2 * extentBytes < o.bytes)
    | none => false

/-- The ways an operation of the access unit can go on. A `SIGWAIT` of this package is read whole: a read that does not satisfy it
then changes nothing. -/
def accEvents (s : State) (n : Nat) (o : AccOp) : List Event :=
  let whole : Bool := match o.kind with | .wait .. => o.phase != .sent && !s.servedByPeer o.objId | _ => false
  if whole then [execLoadReturn n o.id] else [execLoadReturn n o.id, execDirectoryInsert n (.op o.id), execMemoryRequestSend n o.id, execMemoryPortRequest n o.id]

/-- The events of one core. -/
def coreEvents (s : State) (n : Nat) : List Event :=
  let c := s.coreAt n
  let line := c.pc.toNat / 128
  [execTrapEntry n, execLaunchAbort n] ++ (c.frozen.map fun m => execMasterFreeze n m) ++ (c.frozen.map fun m => execFreezeService n m)
    ++ (c.acc.flatMap (accEvents s n))
    ++ (c.reds.flatMap fun r => [execDirectoryInsert n (.red r.id), execMemoryRequestSend n r.id, execMemoryPortRequest n r.id])
    ++ [execSigwaitPoll n, execIcacheLineFill n line, execIcacheLineFill n (line + 1), execIcacheLineFill n (line + 2), execWfeWake n, execSyscReturn n]
    ++ ((unknownRoutes c).map fun o => execRouteLookup n o)
    ++ ((missingExtents s n).map fun x => execPageFaultService x.1 x.2)
    ++ (c.arrivals.map fun a => execRvRegister n a.pt)
    ++ (allQueues.map fun q => execTaskRelease n q)
    ++ (c.board.entries.flatMap fun e => taskEvents n e.seq)
    ++ (c.board.units.map fun u => execUnitEvaluation n u.guardSeq)
    ++ ((List.range 4).flatMap fun k => [execCopyChunk n k, execCopyRequestIssue n k, execRequestResponse n k])
    ++ ((List.finRange 16).flatMap fun k => [execTideFillItem n k, execTideDrainItem n k])
    ++ [execPostrSend n]

/-- The events of this package's own messages. -/
def fabricEvents (s : State) : List Event :=
  (s.fab.net.map fun m => execFlowMessageDelivery m)
    ++ (s.fab.replies.map fun r => if r.reason = 0 then execFlowAck r.flow.srcCore r.flow r.seq else execFlowRefusal r.flow.srcCore r.flow r.seq r.reason)
    ++ (s.fab.switches.map fun k => execSwitchRedDelivery k.key)
    ++ (if s.fab.remDirs.any fun r => r.stage == .leaving then [execDirectoryInsert s.cur (.task 0)] else [])
    ++ (s.sched.tenants.flatMap fun t =>
      (t.2.groups.flatMap fun g => match g.2 with | some x => x.waiting.map fun v => execMembershipInstall t.1 g.1 v.version.num | none => [])
        ++ match t.2.gen.frozen with
          | some f => [execChipGenerationSet t.1 s.dev.chip (f + 1)] ++ (s.cores.map fun e => execCutNotice e.1 t.2.gen.current)
              ++ [execChipCutComplete t.1 s.dev.chip]
          | none => [])

/-- The ways a consumed record can be worked on. -/
def recordEvents (fn q : Nat) (idx : BitVec 32) : List Event :=
  [execNoopRecord fn q idx, execKernelRecord fn q idx, execCollectiveStepRecord fn q idx, execSignalAddRecord fn q idx,
    execSignalSetRecord fn q idx, execMembershipReplaceRecord fn q idx, execMembershipWithdrawRecord fn q idx,
    execMembershipAddRecord fn q idx, execSnapshotRecord fn q idx, execSnapshotQueryRecord fn q idx, execCreateObject fn q idx,
    execDestroyObject fn q idx, execWriteCapabilityEntry fn q idx, execCopyHostToObject fn q idx, execCopyObjectToHost fn q idx,
    execReadRegister fn q idx, execWritePartitionAssignment fn q idx, execWritePlacementWeight fn q idx, execWriteSbcfg fn q idx,
    execWriteCwcfg fn q idx, execWriteSncfg fn q idx, execWriteIslcfg fn q idx, execWritePwrcap fn q idx, execDebugEnable fn q idx,
    execDebugFreezePartition fn q idx, execDebugFreezeDevice fn q idx, execDebugThaw fn q idx, execProvisionFunction fn q idx,
    execUnprovisionFunction fn q idx, execWritePeerMapEntry fn q idx, execWriteReductionWindow fn q idx, execLoadPolicyPlugin fn q idx,
    execRecordCompletion fn q idx]

/-- The events of the queues and of the scheduler. -/
def hostEvents (s : State) : List Event :=
  let launched := s.sched.launches.map Prod.fst
  let teams := s.sched.teams.map Prod.fst
  (teams.map fun t => execTeamEnd t) ++ (launched.map fun l => execLaunchComplete l)
    ++ (s.host.fns.flatMap fun f => f.2.queues.flatMap fun q => match q.2 with
      | some k => (k.recs.flatMap fun r => recordEvents f.1 q.1 r.idx)
          ++ [execSignalWaitRecord f.1 q.1, execSignalWaitSatisfied f.1 q.1, execRecordSealRead f.1 q.1]
      | none => [])
    ++ (launched.map fun l => execWaitRefSatisfied l) ++ [execPlacementDecision]
    ++ (teams.flatMap fun t => [execTeamPlace t, execTeamResume t, execSaveComplete t])

/-- Another core whose thread can go on. -/
def otherThread (s : State) (n : Nat) : Option State :=
  match runThread n s with
  | .next t => if progressed n s t then some t else none
  | _ => none

/-- Messages that were refused. -/
def retryEvents (s : State) : List Event :=
  s.fab.flowsOut.flatMap fun f => (f.unacked.filter (·.hold != 0)).map fun u => execFlowRetry f.id.srcCore f.id u.msg.seq

/-- Generations on their way to the lower tier, and old entries of the combining buffers. -/
def drainEvents (s : State) : List Event :=
  (s.sched.tenants.flatMap fun t => ((undrainedGrains s t.1).map fun u => execUndertowCopy t.1 u.obj u.grain true) ++ [execGenerationDurable t.1])
    ++ s.cores.flatMap fun e => e.2.reds.map fun r => execRedFlushAge e.1 r.id

/-- Times that run out. -/
def timerEvents (s : State) : List Event :=
  (s.host.fns.flatMap fun f => f.2.queues.flatMap fun q => [execSignalWaitTimeout f.1 q.1, execSealRefetch f.1 q.1])
    ++ (s.cores.flatMap fun e => execStallReport e.1 :: e.2.board.entries.map fun x => execStepTimerExpiry e.1 x.seq)
    ++ (s.hbm.waits.map fun w => execReserveStallExpiry w.stack)
    ++ s.sched.teams.flatMap fun t => [execForcedPreemptionTimeout t.1, execRotationIntervalExpiry t.1]

/-- The cores but the current one. -/
def otherCores (s : State) : List Nat := (s.cores.map Prod.fst).filter (· != s.cur)

/-- The first event that does something, the current core's own events first and the timers last. -/
def autopilot (s : State) : Option State :=
  let first (es : List Event) : Option State := es.findSome? (tryEvent s)
  (((((((first (coreEvents s s.cur)).orElse fun _ => first ((otherCores s).flatMap (coreEvents s))).orElse
    fun _ => first (fabricEvents s)).orElse
    fun _ => first (hostEvents s)).orElse
    fun _ => (otherCores s).findSome? (otherThread s)).orElse
    fun _ => first (drainEvents s)).orElse
    fun _ => first (retryEvents s)).orElse
    fun _ => first (timerEvents s)

/-- The rest of the package has its turn at every 16th cycle of the current core, so that no thread keeps it from going on. -/
def State.turnOfOthers (s : State) : Bool := s.core.run == .running && !s.clockStopped s.cur && s.core.sp.cyc.toNat % 16 == 15

/-- An event of the rest of the package, another one first at each turn. -/
def otherTurn (s : State) : Option State :=
  let es := (otherCores s).map runThread ++ coreEvents s s.cur ++ (otherCores s).flatMap (coreEvents s) ++ fabricEvents s ++ hostEvents s
    ++ drainEvents s
  let k := s.core.sp.cyc.toNat / 16 % (es.length + 1)
  (es.drop k ++ es.take k).findSome? (tryEvent s)

/-- The current core's thread, or where it waits another part of the package. -/
def threadStep (s : State) : Host.Outcome State Fault Refusal :=
  match runThread s.cur s with
  | .next t => if progressed s.cur s t then .next t else .next ((autopilot t).getD t)
  | r => r

/-- A step with nothing scheduled. -/
def idleStep (s : State) : Host.Outcome State Fault Refusal :=
  if s.turnOfOthers then match otherTurn s with
    | some t => .next (tick s.cur { t with cur := s.cur })
    | none => threadStep s
  else threadStep s

end Sys2Proof.Machine
end

