-- ==== Sys2Proof/Machine/Dispatch.lean ====
section
/-!
DEFINITION. One arm per constructor of Instr: the meaning each calls (see spec/opcode_table.json and notes/FILES.md).
-/

namespace Sys2Proof.Machine

open Sys2Proof

/-- What an instruction or a device event does. -/
def exec (i : Instr) (s : State) : Host.Outcome State Fault Refusal :=
  match i with
  | .coldReset => Sys2Proof.Machine.execColdReset s
  | .partitionReset die => Sys2Proof.Machine.execPartitionReset die s
  | .flrVf fn => Sys2Proof.Machine.execFlrVf fn s
  | .flrPf => Sys2Proof.Machine.execFlrPf s
  | .pcieLinkTraining => Sys2Proof.Machine.execPcieLinkTraining s
  | .jedomPortTraining port chip peerPort lanes => Sys2Proof.Machine.execJedomPortTraining port chip peerPort lanes s
  | .jedomCrcRetrain port errs => Sys2Proof.Machine.execJedomCrcRetrain port errs s
  | .cxlLinkTraining up => Sys2Proof.Machine.execCxlLinkTraining up s
  | .ethernetLinkTraining up => Sys2Proof.Machine.execEthernetLinkTraining up s
  | .linkRetransmission => Sys2Proof.Machine.execLinkRetransmission s
  | .fwlockLock v => Sys2Proof.Machine.execFwlockLock v s
  | .bar2Access fn q off acc => Sys2Proof.Machine.execBar2Access fn q off acc s
  | .hqDoorbell fn q v => Sys2Proof.Machine.execHqDoorbell fn q v s
  | .queueEnable fn q v => Sys2Proof.Machine.execQueueEnable fn q v s
  | .queueDisable fn q v => Sys2Proof.Machine.execQueueDisable fn q v s
  | .queueResume fn q => Sys2Proof.Machine.execQueueResume fn q s
  | .attestationRequest fn => Sys2Proof.Machine.execAttestationRequest fn s
  | .attestationReportReady fn => Sys2Proof.Machine.execAttestationReportReady fn s
  | .spdmRequest nonce => Sys2Proof.Machine.execSpdmRequest nonce s
  | .errorCounterRead fn => Sys2Proof.Machine.execErrorCounterRead fn s
  | .counterSnapshotReady fn => Sys2Proof.Machine.execCounterSnapshotReady fn s
  | .registerWrite reg v => Sys2Proof.Machine.execRegisterWrite reg v s
  | .recordSealRead fn q => Sys2Proof.Machine.execRecordSealRead fn q s
  | .sealRefetch fn q => Sys2Proof.Machine.execSealRefetch fn q s
  | .noopRecord fn q idx => Sys2Proof.Machine.execNoopRecord fn q idx s
  | .kernelRecord fn q idx => Sys2Proof.Machine.execKernelRecord fn q idx s
  | .waitRefSatisfied launch => Sys2Proof.Machine.execWaitRefSatisfied launch s
  | .collectiveStepRecord fn q idx => Sys2Proof.Machine.execCollectiveStepRecord fn q idx s
  | .signalAddRecord fn q idx => Sys2Proof.Machine.execSignalAddRecord fn q idx s
  | .signalSetRecord fn q idx => Sys2Proof.Machine.execSignalSetRecord fn q idx s
  | .signalWaitRecord fn q => Sys2Proof.Machine.execSignalWaitRecord fn q s
  | .signalWaitSatisfied fn q => Sys2Proof.Machine.execSignalWaitSatisfied fn q s
  | .signalWaitTimeout fn q => Sys2Proof.Machine.execSignalWaitTimeout fn q s
  | .membershipReplaceRecord fn q idx => Sys2Proof.Machine.execMembershipReplaceRecord fn q idx s
  | .membershipWithdrawRecord fn q idx => Sys2Proof.Machine.execMembershipWithdrawRecord fn q idx s
  | .membershipAddRecord fn q idx => Sys2Proof.Machine.execMembershipAddRecord fn q idx s
  | .snapshotRecord fn q idx => Sys2Proof.Machine.execSnapshotRecord fn q idx s
  | .snapshotQueryRecord fn q idx => Sys2Proof.Machine.execSnapshotQueryRecord fn q idx s
  | .createObject fn q idx => Sys2Proof.Machine.execCreateObject fn q idx s
  | .destroyObject fn q idx => Sys2Proof.Machine.execDestroyObject fn q idx s
  | .writeCapabilityEntry fn q idx => Sys2Proof.Machine.execWriteCapabilityEntry fn q idx s
  | .copyHostToObject fn q idx => Sys2Proof.Machine.execCopyHostToObject fn q idx s
  | .copyObjectToHost fn q idx => Sys2Proof.Machine.execCopyObjectToHost fn q idx s
  | .readRegister fn q idx => Sys2Proof.Machine.execReadRegister fn q idx s
  | .writePartitionAssignment fn q idx => Sys2Proof.Machine.execWritePartitionAssignment fn q idx s
  | .writePlacementWeight fn q idx => Sys2Proof.Machine.execWritePlacementWeight fn q idx s
  | .writeSbcfg fn q idx => Sys2Proof.Machine.execWriteSbcfg fn q idx s
  | .writeCwcfg fn q idx => Sys2Proof.Machine.execWriteCwcfg fn q idx s
  | .writeSncfg fn q idx => Sys2Proof.Machine.execWriteSncfg fn q idx s
  | .writeIslcfg fn q idx => Sys2Proof.Machine.execWriteIslcfg fn q idx s
  | .writePwrcap fn q idx => Sys2Proof.Machine.execWritePwrcap fn q idx s
  | .debugEnable fn q idx => Sys2Proof.Machine.execDebugEnable fn q idx s
  | .debugFreezePartition fn q idx => Sys2Proof.Machine.execDebugFreezePartition fn q idx s
  | .debugFreezeDevice fn q idx => Sys2Proof.Machine.execDebugFreezeDevice fn q idx s
  | .debugThaw fn q idx => Sys2Proof.Machine.execDebugThaw fn q idx s
  | .scanShift part bits => Sys2Proof.Machine.execScanShift part bits s
  | .debugRelease core => Sys2Proof.Machine.execDebugRelease core s
  | .provisionFunction fn q idx => Sys2Proof.Machine.execProvisionFunction fn q idx s
  | .unprovisionFunction fn q idx => Sys2Proof.Machine.execUnprovisionFunction fn q idx s
  | .writePeerMapEntry fn q idx => Sys2Proof.Machine.execWritePeerMapEntry fn q idx s
  | .writeReductionWindow fn q idx => Sys2Proof.Machine.execWriteReductionWindow fn q idx s
  | .loadPolicyPlugin fn q idx => Sys2Proof.Machine.execLoadPolicyPlugin fn q idx s
  | .recordCompletion fn q idx => Sys2Proof.Machine.execRecordCompletion fn q idx s
  | .launchComplete launch => Sys2Proof.Machine.execLaunchComplete launch s
  | .sliceTurn part => Sys2Proof.Machine.execSliceTurn part s
  | .pluginCall tenant dies => Sys2Proof.Machine.execPluginCall tenant dies s
  | .pluginBudgetExpiry tenant => Sys2Proof.Machine.execPluginBudgetExpiry tenant s
  | .pluginFault tenant => Sys2Proof.Machine.execPluginFault tenant s
  | .schedulerPmpFault core => Sys2Proof.Machine.execSchedulerPmpFault core s
  | .placementDecision => Sys2Proof.Machine.execPlacementDecision s
  | .rotationIntervalExpiry team => Sys2Proof.Machine.execRotationIntervalExpiry team s
  | .teamPlace team => Sys2Proof.Machine.execTeamPlace team s
  | .teamEnd team => Sys2Proof.Machine.execTeamEnd team s
  | .forcedPreemptionTimeout team => Sys2Proof.Machine.execForcedPreemptionTimeout team s
  | .saveComplete team => Sys2Proof.Machine.execSaveComplete team s
  | .teamResume team => Sys2Proof.Machine.execTeamResume team s
  | .groupIssue core => Sys2Proof.Machine.execGroupIssue core s
  | .icacheLineFill core line => Sys2Proof.Machine.execIcacheLineFill core line s
  | .loadReturn core k => Sys2Proof.Machine.execLoadReturn core k s
  | .memoryRequestSend core k => Sys2Proof.Machine.execMemoryRequestSend core k s
  | .routeLookup core obj => Sys2Proof.Machine.execRouteLookup core obj s
  | .extentTableWalk chan obj ext => Sys2Proof.Machine.execExtentTableWalk chan obj ext s
  | .extentInvalidate obj ext => Sys2Proof.Machine.execExtentInvalidate obj ext s
  | .memoryPortRequest core k => Sys2Proof.Machine.execMemoryPortRequest core k s
  | .pageFaultService obj ext => Sys2Proof.Machine.execPageFaultService obj ext s
  | .reserveStallExpiry stack => Sys2Proof.Machine.execReserveStallExpiry stack s
  | .extentMigration obj ext stack => Sys2Proof.Machine.execExtentMigration obj ext stack s
  | .migrationCopyComplete obj ext => Sys2Proof.Machine.execMigrationCopyComplete obj ext s
  | .frameRetirement frame bad => Sys2Proof.Machine.execFrameRetirement frame bad s
  | .memoryScrub block err => Sys2Proof.Machine.execMemoryScrub block err s
  | .rowSweep core row err => Sys2Proof.Machine.execRowSweep core row err s
  | .directoryInsert core p => Sys2Proof.Machine.execDirectoryInsert core p s
  | .entrySettled core seq => Sys2Proof.Machine.execEntrySettled core seq s
  | .releaseAgeExpiry core seq => Sys2Proof.Machine.execReleaseAgeExpiry core seq s
  | .taskRelease core q => Sys2Proof.Machine.execTaskRelease core q s
  | .taskComplete core seq => Sys2Proof.Machine.execTaskComplete core seq s
  | .taskRetire core seq => Sys2Proof.Machine.execTaskRetire core seq s
  | .unitEvaluation core seq => Sys2Proof.Machine.execUnitEvaluation core seq s
  | .remotePostArrival core msg => Sys2Proof.Machine.execRemotePostArrival core msg s
  | .stallReport core => Sys2Proof.Machine.execStallReport core s
  | .mldstTask core seq => Sys2Proof.Machine.execMldstTask core seq s
  | .mswapTask core seq => Sys2Proof.Machine.execMswapTask core seq s
  | .mzeroTask core seq => Sys2Proof.Machine.execMzeroTask core seq s
  | .mstreamTask core seq => Sys2Proof.Machine.execMstreamTask core seq s
  | .mdrainTask core seq => Sys2Proof.Machine.execMdrainTask core seq s
  | .mepiTask core seq => Sys2Proof.Machine.execMepiTask core seq s
  | .smapTask core seq => Sys2Proof.Machine.execSmapTask core seq s
  | .sredTask core seq => Sys2Proof.Machine.execSredTask core seq s
  | .xposeTask core seq => Sys2Proof.Machine.execXposeTask core seq s
  | .tstartTask core seq => Sys2Proof.Machine.execTstartTask core seq s
  | .copyTask core seq => Sys2Proof.Machine.execCopyTask core seq s
  | .gatherTask core seq => Sys2Proof.Machine.execGatherTask core seq s
  | .scatterTask core seq => Sys2Proof.Machine.execScatterTask core seq s
  | .subscrTask core seq => Sys2Proof.Machine.execSubscrTask core seq s
  | .collTask core seq => Sys2Proof.Machine.execCollTask core seq s
  | .ringpopTask core seq => Sys2Proof.Machine.execRingpopTask core seq s
  | .ringpushTask core seq => Sys2Proof.Machine.execRingpushTask core seq s
  | .engineFault core seq cause => Sys2Proof.Machine.execEngineFault core seq cause s
  | .rollbackEvent core => Sys2Proof.Machine.execRollbackEvent core s
  | .softErrorReplay core seq => Sys2Proof.Machine.execSoftErrorReplay core seq s
  | .copyChunk core chan => Sys2Proof.Machine.execCopyChunk core chan s
  | .copyRequestIssue core chan => Sys2Proof.Machine.execCopyRequestIssue core chan s
  | .requestResponse core chan => Sys2Proof.Machine.execRequestResponse core chan s
  | .tideFillItem core ring => Sys2Proof.Machine.execTideFillItem core ring s
  | .tideDrainItem core ring => Sys2Proof.Machine.execTideDrainItem core ring s
  | .redFlushAge core k => Sys2Proof.Machine.execRedFlushAge core k s
  | .sigwaitPoll core => Sys2Proof.Machine.execSigwaitPoll core s
  | .rvRegister core pt => Sys2Proof.Machine.execRvRegister core pt s
  | .syscReturn core => Sys2Proof.Machine.execSyscReturn core s
  | .wfeWake core => Sys2Proof.Machine.execWfeWake core s
  | .peerRemap tenant lid phys far => Sys2Proof.Machine.execPeerRemap tenant lid phys far s
  | .flowMessageDelivery msg => Sys2Proof.Machine.execFlowMessageDelivery msg s
  | .remoteAccess msg => Sys2Proof.Machine.execRemoteAccess msg s
  | .flowAck core flow seq => Sys2Proof.Machine.execFlowAck core flow seq s
  | .flowRefusal core flow seq reason => Sys2Proof.Machine.execFlowRefusal core flow seq reason s
  | .flowRetry core flow seq => Sys2Proof.Machine.execFlowRetry core flow seq s
  | .flowEnd core flow => Sys2Proof.Machine.execFlowEnd core flow s
  | .postrSend core => Sys2Proof.Machine.execPostrSend core s
  | .collLineArrival core ln => Sys2Proof.Machine.execCollLineArrival core ln s
  | .collLineApply core seq => Sys2Proof.Machine.execCollLineApply core seq s
  | .collEndLine core ln => Sys2Proof.Machine.execCollEndLine core ln s
  | .stepTimerExpiry core seq => Sys2Proof.Machine.execStepTimerExpiry core seq s
  | .membershipInstall tenant group ver => Sys2Proof.Machine.execMembershipInstall tenant group ver s
  | .absentPendingNotice tenant group member => Sys2Proof.Machine.execAbsentPendingNotice tenant group member s
  | .presentNotice tenant group member => Sys2Proof.Machine.execPresentNotice tenant group member s
  | .withdrawnNotice tenant group member => Sys2Proof.Machine.execWithdrawnNotice tenant group member s
  | .switchContribution slot c => Sys2Proof.Machine.execSwitchContribution slot c s
  | .switchRedDelivery slot => Sys2Proof.Machine.execSwitchRedDelivery slot s
  | .switchLeaseExpiry slot => Sys2Proof.Machine.execSwitchLeaseExpiry slot s
  | .trapEntry core => Sys2Proof.Machine.execTrapEntry core s
  | .launchAbort core => Sys2Proof.Machine.execLaunchAbort core s
  | .masterFreeze core master => Sys2Proof.Machine.execMasterFreeze core master s
  | .freezeService core master => Sys2Proof.Machine.execFreezeService core master s
  | .chipGenerationSet tenant chip gen => Sys2Proof.Machine.execChipGenerationSet tenant chip gen s
  | .cutNotice core gen => Sys2Proof.Machine.execCutNotice core gen s
  | .chipCutComplete tenant chip => Sys2Proof.Machine.execChipCutComplete tenant chip s
  | .undertowCopy tenant obj grain ok => Sys2Proof.Machine.execUndertowCopy tenant obj grain ok s
  | .generationDurable tenant => Sys2Proof.Machine.execGenerationDurable tenant s
  | .generationAbort tenant reason => Sys2Proof.Machine.execGenerationAbort tenant reason s
  | .islandFrequencySwitch island => Sys2Proof.Machine.execIslandFrequencySwitch island s
  | .powerCapEnforce watts island => Sys2Proof.Machine.execPowerCapEnforce watts island s
  | .thermalThrottle die tempC => Sys2Proof.Machine.execThermalThrottle die tempC s
  | .thermalRecovery die tempC => Sys2Proof.Machine.execThermalRecovery die tempC s
  | .retentionEntry core => Sys2Proof.Machine.execRetentionEntry core s
  | .retentionExit core corrected bad => Sys2Proof.Machine.execRetentionExit core corrected bad s
  | .add d a b => Sys2Proof.Machine.execAdd d a b s
  | .sub d a b => Sys2Proof.Machine.execSub d a b s
  | .mul d a b => Sys2Proof.Machine.execMul d a b s
  | .mulh d a b => Sys2Proof.Machine.execMulh d a b s
  | .mulhu d a b => Sys2Proof.Machine.execMulhu d a b s
  | .div d a b => Sys2Proof.Machine.execDiv d a b s
  | .divu d a b => Sys2Proof.Machine.execDivu d a b s
  | .rem d a b => Sys2Proof.Machine.execRem d a b s
  | .remu d a b => Sys2Proof.Machine.execRemu d a b s
  | .and d a b => Sys2Proof.Machine.execAnd d a b s
  | .or d a b => Sys2Proof.Machine.execOr d a b s
  | .xor d a b => Sys2Proof.Machine.execXor d a b s
  | .andn d a b => Sys2Proof.Machine.execAndn d a b s
  | .shl d a b => Sys2Proof.Machine.execShl d a b s
  | .shr d a b => Sys2Proof.Machine.execShr d a b s
  | .sra d a b => Sys2Proof.Machine.execSra d a b s
  | .rol d a b => Sys2Proof.Machine.execRol d a b s
  | .ror d a b => Sys2Proof.Machine.execRor d a b s
  | .min d a b => Sys2Proof.Machine.execMin d a b s
  | .max d a b => Sys2Proof.Machine.execMax d a b s
  | .minu d a b => Sys2Proof.Machine.execMinu d a b s
  | .maxu d a b => Sys2Proof.Machine.execMaxu d a b s
  | .adds d a b => Sys2Proof.Machine.execAdds d a b s
  | .subs d a b => Sys2Proof.Machine.execSubs d a b s
  | .addi d a imm => Sys2Proof.Machine.execAddi d a imm s
  | .andi d a imm => Sys2Proof.Machine.execAndi d a imm s
  | .ori d a imm => Sys2Proof.Machine.execOri d a imm s
  | .xori d a imm => Sys2Proof.Machine.execXori d a imm s
  | .shli d a imm => Sys2Proof.Machine.execShli d a imm s
  | .shri d a imm => Sys2Proof.Machine.execShri d a imm s
  | .srai d a imm => Sys2Proof.Machine.execSrai d a imm s
  | .rori d a imm => Sys2Proof.Machine.execRori d a imm s
  | .clz d a => Sys2Proof.Machine.execClz d a s
  | .ctz d a => Sys2Proof.Machine.execCtz d a s
  | .popc d a => Sys2Proof.Machine.execPopc d a s
  | .brev d a => Sys2Proof.Machine.execBrev d a s
  | .bswap d a => Sys2Proof.Machine.execBswap d a s
  | .bilv2 d a b => Sys2Proof.Machine.execBilv2 d a b s
  | .bilv3 d a b c => Sys2Proof.Machine.execBilv3 d a b c s
  | .bdil2 d a k => Sys2Proof.Machine.execBdil2 d a k s
  | .bdil3 d a k => Sys2Proof.Machine.execBdil3 d a k s
  | .ext d a pos len => Sys2Proof.Machine.execExt d a pos len s
  | .extz d a pos len => Sys2Proof.Machine.execExtz d a pos len s
  | .ins d a pos len => Sys2Proof.Machine.execIns d a pos len s
  | .sel d a b p => Sys2Proof.Machine.execSel d a b p s
  | .fadd t r d a b => Sys2Proof.Machine.execFadd t r d a b s
  | .fsub t r d a b => Sys2Proof.Machine.execFsub t r d a b s
  | .fmul t r d a b => Sys2Proof.Machine.execFmul t r d a b s
  | .fdiv t r d a b => Sys2Proof.Machine.execFdiv t r d a b s
  | .fsqrt t r d a => Sys2Proof.Machine.execFsqrt t r d a s
  | .fma t r d a b c => Sys2Proof.Machine.execFma t r d a b c s
  | .fmin t d a b => Sys2Proof.Machine.execFmin t d a b s
  | .fmax t d a b => Sys2Proof.Machine.execFmax t d a b s
  | .fcvt td ta r d a => Sys2Proof.Machine.execFcvt td ta r d a s
  | .fcvti td ta r d a => Sys2Proof.Machine.execFcvti td ta r d a s
  | .icvtf td ta r d a => Sys2Proof.Machine.execIcvtf td ta r d a s
  | .fclass t d a => Sys2Proof.Machine.execFclass t d a s
  | .fcmp c t p a b => Sys2Proof.Machine.execFcmp c t p a b s
  | .cmp c p a b => Sys2Proof.Machine.execCmp c p a b s
  | .cmpi c p a imm => Sys2Proof.Machine.execCmpi c p a imm s
  | .pand d a b => Sys2Proof.Machine.execPand d a b s
  | .por d a b => Sys2Proof.Machine.execPor d a b s
  | .pxor d a b => Sys2Proof.Machine.execPxor d a b s
  | .pandn d a b => Sys2Proof.Machine.execPandn d a b s
  | .mfp d => Sys2Proof.Machine.execMfp d s
  | .mtp a b => Sys2Proof.Machine.execMtp a b s
  | .mfs d sr => Sys2Proof.Machine.execMfs d sr s
  | .mts sr a => Sys2Proof.Machine.execMts sr a s
  | .cld d a idx => Sys2Proof.Machine.execCld d a idx s
  | .cder d a b c mask => Sys2Proof.Machine.execCder d a b c mask s
  | .crst d a mask => Sys2Proof.Machine.execCrst d a mask s
  | .cnull d => Sys2Proof.Machine.execCnull d s
  | .ld t o sc d c a off => Sys2Proof.Machine.execLd t o sc d c a off s
  | .st t o sc c a off d => Sys2Proof.Machine.execSt t o sc c a off d s
  | .ldx t d a b off => Sys2Proof.Machine.execLdx t d a b off s
  | .stx t a b off d => Sys2Proof.Machine.execStx t a b off d s
  | .prept b off => Sys2Proof.Machine.execPrept b off s
  | .br b hint => Sys2Proof.Machine.execBr b hint s
  | .call b l hint => Sys2Proof.Machine.execCall b l hint s
  | .ret b => Sys2Proof.Machine.execRet b s
  | .loop a off => Sys2Proof.Machine.execLoop a off s
  | .loopm mb off => Sys2Proof.Machine.execLoopm mb off s
  | .loopmK mb off => Sys2Proof.Machine.execLoopmK mb off s
  | .trap x => Sys2Proof.Machine.execTrap x s
  | .eret => Sys2Proof.Machine.execEret s
  | .sysc x => Sys2Proof.Machine.execSysc x s
  | .safept map => Sys2Proof.Machine.execSafept map s
  | .wfe x => Sys2Proof.Machine.execWfe x s
  | .brk x => Sys2Proof.Machine.execBrk x s
  | .halt => Sys2Proof.Machine.execHalt s
  | .rvinit pt a => Sys2Proof.Machine.execRvinit pt a s
  | .rvarrive pt em d => Sys2Proof.Machine.execRvarrive pt em d s
  | .rvwait pt a d => Sys2Proof.Machine.execRvwait pt a d s
  | .rvarw pt em d => Sys2Proof.Machine.execRvarw pt em d s
  | .rvleave pt => Sys2Proof.Machine.execRvleave pt s
  | .rvleaveAll => Sys2Proof.Machine.execRvleaveAll s
  | .sigadd t o sc d c a b off => Sys2Proof.Machine.execSigadd t o sc d c a b off s
  | .sigset t o sc d c a b off => Sys2Proof.Machine.execSigset t o sc d c a b off s
  | .sigwait t o sc d c a b off => Sys2Proof.Machine.execSigwait t o sc d c a b off s
  | .amoAdd t o sc d c a b off => Sys2Proof.Machine.execAmoAdd t o sc d c a b off s
  | .amoMin t o sc d c a b off => Sys2Proof.Machine.execAmoMin t o sc d c a b off s
  | .amoMax t o sc d c a b off => Sys2Proof.Machine.execAmoMax t o sc d c a b off s
  | .amoAnd t o sc d c a b off => Sys2Proof.Machine.execAmoAnd t o sc d c a b off s
  | .amoOr t o sc d c a b off => Sys2Proof.Machine.execAmoOr t o sc d c a b off s
  | .amoXor t o sc d c a b off => Sys2Proof.Machine.execAmoXor t o sc d c a b off s
  | .amoXchg t o sc d c a b off => Sys2Proof.Machine.execAmoXchg t o sc d c a b off s
  | .amoCas t o sc d c a b off => Sys2Proof.Machine.execAmoCas t o sc d c a b off s
  | .amoCas2 t o sc d c a b off => Sys2Proof.Machine.execAmoCas2 t o sc d c a b off s
  | .redAdd t o sc c a b off => Sys2Proof.Machine.execRedAdd t o sc c a b off s
  | .redMin t o sc c a b off => Sys2Proof.Machine.execRedMin t o sc c a b off s
  | .redMax t o sc c a b off => Sys2Proof.Machine.execRedMax t o sc c a b off s
  | .redAnd t o sc c a b off => Sys2Proof.Machine.execRedAnd t o sc c a b off s
  | .redOr t o sc c a b off => Sys2Proof.Machine.execRedOr t o sc c a b off s
  | .redXor t o sc c a b off => Sys2Proof.Machine.execRedXor t o sc c a b off s
  | .fence o sc => Sys2Proof.Machine.execFence o sc s
  | .snap d c p => Sys2Proof.Machine.execSnap d c p s
  | .snapNw d c p => Sys2Proof.Machine.execSnapNw d c p s
  | .snapq d c a => Sys2Proof.Machine.execSnapq d c a s
  | .vadd t r d a b m => Sys2Proof.Machine.execVadd t r d a b m s
  | .vadds t d a b m => Sys2Proof.Machine.execVadds t d a b m s
  | .vsub t r d a b m => Sys2Proof.Machine.execVsub t r d a b m s
  | .vsubs t d a b m => Sys2Proof.Machine.execVsubs t d a b m s
  | .vmul t r d a b m => Sys2Proof.Machine.execVmul t r d a b m s
  | .vfma t r d a b m => Sys2Proof.Machine.execVfma t r d a b m s
  | .vfms t r d a b m => Sys2Proof.Machine.execVfms t r d a b m s
  | .vmin t d a b m => Sys2Proof.Machine.execVmin t d a b m s
  | .vmax t d a b m => Sys2Proof.Machine.execVmax t d a b m s
  | .vabs t d a m => Sys2Proof.Machine.execVabs t d a m s
  | .vneg t d a m => Sys2Proof.Machine.execVneg t d a m s
  | .vand t d a b m => Sys2Proof.Machine.execVand t d a b m s
  | .vor t d a b m => Sys2Proof.Machine.execVor t d a b m s
  | .vxor t d a b m => Sys2Proof.Machine.execVxor t d a b m s
  | .vandn t d a b m => Sys2Proof.Machine.execVandn t d a b m s
  | .vshl t d a b m => Sys2Proof.Machine.execVshl t d a b m s
  | .vshr t d a b m => Sys2Proof.Machine.execVshr t d a b m s
  | .vsra t d a b m => Sys2Proof.Machine.execVsra t d a b m s
  | .vcmp c t d a b m => Sys2Proof.Machine.execVcmp c t d a b m s
  | .vsel t d a b m => Sys2Proof.Machine.execVsel t d a b m s
  | .vcvt td ts r d a b k m => Sys2Proof.Machine.execVcvt td ts r d a b k m s
  | .vpk4 ts r d a b k m => Sys2Proof.Machine.execVpk4 ts r d a b k m s
  | .vupk4 td r d a k m => Sys2Proof.Machine.execVupk4 td r d a k m s
  | .vrcp t r d a m => Sys2Proof.Machine.execVrcp t r d a m s
  | .vrsq t r d a m => Sys2Proof.Machine.execVrsq t r d a m s
  | .vexp2 t r d a m => Sys2Proof.Machine.execVexp2 t r d a m s
  | .vlog2 t r d a m => Sys2Proof.Machine.execVlog2 t r d a m s
  | .vsin t r d a m => Sys2Proof.Machine.execVsin t r d a m s
  | .vtlu t r d a o m => Sys2Proof.Machine.execVtlu t r d a o m s
  | .vrint t r d a m => Sys2Proof.Machine.execVrint t r d a m s
  | .vsett t r ct e => Sys2Proof.Machine.execVsett t r ct e s
  | .vbcst t d a m => Sys2Proof.Machine.execVbcst t d a m s
  | .vext t d a b => Sys2Proof.Machine.execVext t d a b s
  | .vins t d a b => Sys2Proof.Machine.execVins t d a b s
  | .vperm t d a b m => Sys2Proof.Machine.execVperm t d a b m s
  | .vsldu t d a b k m => Sys2Proof.Machine.execVsldu t d a b k m s
  | .vsldd t d a b k m => Sys2Proof.Machine.execVsldd t d a b k m s
  | .vcmpr t d a m => Sys2Proof.Machine.execVcmpr t d a m s
  | .vxpnd t d a m => Sys2Proof.Machine.execVxpnd t d a m s
  | .viota t d m => Sys2Proof.Machine.execViota t d m s
  | .vredSum t d a m => Sys2Proof.Machine.execVredSum t d a m s
  | .vredMin t d a m => Sys2Proof.Machine.execVredMin t d a m s
  | .vredMax t d a m => Sys2Proof.Machine.execVredMax t d a m s
  | .vredAnd t d a m => Sys2Proof.Machine.execVredAnd t d a m s
  | .vredOr t d a m => Sys2Proof.Machine.execVredOr t d a m s
  | .vredXor t d a m => Sys2Proof.Machine.execVredXor t d a m s
  | .vredSums t d a m => Sys2Proof.Machine.execVredSums t d a m s
  | .vany t d a m => Sys2Proof.Machine.execVany t d a m s
  | .vall t d a m => Sys2Proof.Machine.execVall t d a m s
  | .vmpop t d a m => Sys2Proof.Machine.execVmpop t d a m s
  | .mlogAnd d a b => Sys2Proof.Machine.execMlogAnd d a b s
  | .mlogOr d a b => Sys2Proof.Machine.execMlogOr d a b s
  | .mlogXor d a b => Sys2Proof.Machine.execMlogXor d a b s
  | .mlogAndn d a b => Sys2Proof.Machine.execMlogAndn d a b s
  | .mlogNot d a => Sys2Proof.Machine.execMlogNot d a s
  | .vld t d a off m => Sys2Proof.Machine.execVld t d a off m s
  | .vst t a off v m => Sys2Proof.Machine.execVst t a off v m s
  | .vstB t a off v m k => Sys2Proof.Machine.execVstB t a off v m k s
  | .mldst nb ga gb sx sy st0 st1 ts stage => Sys2Proof.Machine.execMldst nb ga gb sx sy st0 st1 ts stage s
  | .mswap nb ts stage => Sys2Proof.Machine.execMswap nb ts stage s
  | .mzero nb ga sy ts stage => Sys2Proof.Machine.execMzero nb ga sy ts stage s
  | .mstream nb ga gb gc sx sy st0 st2 ts stage => Sys2Proof.Machine.execMstream nb ga gb gc sx sy st0 st2 ts stage s
  | .mdrain nb ga gb gc sx sy st1 ts stage => Sys2Proof.Machine.execMdrain nb ga gb gc sx sy st1 ts stage s
  | .mepi nb ga sx sy ts stage => Sys2Proof.Machine.execMepi nb ga sx sy ts stage s
  | .smap nb ga gb gc gx sx sy st0 st1 st2 stage => Sys2Proof.Machine.execSmap nb ga gb gc gx sx sy st0 st1 st2 stage s
  | .sred nb ga gb sx sy st0 stage => Sys2Proof.Machine.execSred nb ga gb sx sy st0 stage s
  | .xpose nb ga gb sx sy st0 st1 stage => Sys2Proof.Machine.execXpose nb ga gb sx sy st0 st1 stage s
  | .copy nb ga gb sx sy sz sw ord stage => Sys2Proof.Machine.execCopy nb ga gb sx sy sz sw ord stage s
  | .gather nb ga gb gc sx sy sz sw ord stage => Sys2Proof.Machine.execGather nb ga gb gc sx sy sz sw ord stage s
  | .scatter nb ga gb gc sx sy sz sw ord stage => Sys2Proof.Machine.execScatter nb ga gb gc sx sy sz sw ord stage s
  | .subscr nb ga gb sx sy sz stage => Sys2Proof.Machine.execSubscr nb ga gb sx sy sz stage s
  | .ringpop nb ga sx stage => Sys2Proof.Machine.execRingpop nb ga sx stage s
  | .ringpush nb ga sx stage => Sys2Proof.Machine.execRingpush nb ga sx stage s
  | .coll nb ga gb sx sy sz ord stage => Sys2Proof.Machine.execColl nb ga gb sx sy sz ord stage s
  | .postm nb ga sx sy => Sys2Proof.Machine.execPostm nb ga sx sy s
  | .postr nb ga sx sy sr ord => Sys2Proof.Machine.execPostr nb ga sx sy sr ord s
  | .bundle => Sys2Proof.Machine.execBundle s
  | .bend => Sys2Proof.Machine.execBend s
  | .guard nb k ga gb gc gd ge gf => Sys2Proof.Machine.execGuard nb k ga gb gc gd ge gf s
  | .gcheck => Sys2Proof.Machine.execGcheck s
  | .gexact => Sys2Proof.Machine.execGexact s
  | .gend => Sys2Proof.Machine.execGend s
  | .tstart nb ga => Sys2Proof.Machine.execTstart nb ga s
  | .rgld o sc d c a b off => Sys2Proof.Machine.execRgld o sc d c a b off s
  | .twait em => Sys2Proof.Machine.execTwait em s
  | .li d x => Sys2Proof.Machine.execLi d x s
  | .addl d a x => Sys2Proof.Machine.execAddl d a x s
  | .andl d a x => Sys2Proof.Machine.execAndl d a x s
  | .orl d a x => Sys2Proof.Machine.execOrl d a x s
  | .xorl d a x => Sys2Proof.Machine.execXorl d a x s
  | .cmpl c p a x => Sys2Proof.Machine.execCmpl c p a x s
  | .ldl t o sc d c a x => Sys2Proof.Machine.execLdl t o sc d c a x s
  | .stl t o sc c a x d => Sys2Proof.Machine.execStl t o sc c a x d s
  | .rgset d x => Sys2Proof.Machine.execRgset d x s
  | .vli d x => Sys2Proof.Machine.execVli d x s
  | .snop => Sys2Proof.Machine.execSnop s
  | .addSlot d a b => Sys2Proof.Machine.execAddSlot d a b s
  | .subSlot d a b => Sys2Proof.Machine.execSubSlot d a b s
  | .andSlot d a b => Sys2Proof.Machine.execAndSlot d a b s
  | .orSlot d a b => Sys2Proof.Machine.execOrSlot d a b s
  | .xorSlot d a b => Sys2Proof.Machine.execXorSlot d a b s
  | .andnSlot d a b => Sys2Proof.Machine.execAndnSlot d a b s
  | .shlSlot d a b => Sys2Proof.Machine.execShlSlot d a b s
  | .shrSlot d a b => Sys2Proof.Machine.execShrSlot d a b s
  | .sraSlot d a b => Sys2Proof.Machine.execSraSlot d a b s
  | .minSlot d a b => Sys2Proof.Machine.execMinSlot d a b s
  | .maxSlot d a b => Sys2Proof.Machine.execMaxSlot d a b s
  | .minuSlot d a b => Sys2Proof.Machine.execMinuSlot d a b s
  | .maxuSlot d a b => Sys2Proof.Machine.execMaxuSlot d a b s
  | .mulSlot d a b => Sys2Proof.Machine.execMulSlot d a b s
  | .addiSlot d a imm => Sys2Proof.Machine.execAddiSlot d a imm s
  | .shliSlot d a imm => Sys2Proof.Machine.execShliSlot d a imm s
  | .shriSlot d a imm => Sys2Proof.Machine.execShriSlot d a imm s
  | .sraiSlot d a imm => Sys2Proof.Machine.execSraiSlot d a imm s
  | .cmpEqSlot p a b => Sys2Proof.Machine.execCmpEqSlot p a b s
  | .cmpNeSlot p a b => Sys2Proof.Machine.execCmpNeSlot p a b s
  | .cmpLtSlot p a b => Sys2Proof.Machine.execCmpLtSlot p a b s
  | .cmpLtuSlot p a b => Sys2Proof.Machine.execCmpLtuSlot p a b s
  | .cmpGeSlot p a b => Sys2Proof.Machine.execCmpGeSlot p a b s
  | .cmpGeuSlot p a b => Sys2Proof.Machine.execCmpGeuSlot p a b s
  | .cmpiEqSlot p a imm => Sys2Proof.Machine.execCmpiEqSlot p a imm s
  | .pandSlot d a b => Sys2Proof.Machine.execPandSlot d a b s
  | .porSlot d a b => Sys2Proof.Machine.execPorSlot d a b s
  | .pxorSlot d a b => Sys2Proof.Machine.execPxorSlot d a b s
  | .pandnSlot d a b => Sys2Proof.Machine.execPandnSlot d a b s
  | .vnop => Sys2Proof.Machine.execVnop s
  | .vmov d a => Sys2Proof.Machine.execVmov d a s
  | .vaddSlot d a b => Sys2Proof.Machine.execVaddSlot d a b s
  | .vsubSlot d a b => Sys2Proof.Machine.execVsubSlot d a b s
  | .vmulSlot d a b => Sys2Proof.Machine.execVmulSlot d a b s
  | .vfmaSlot d a b => Sys2Proof.Machine.execVfmaSlot d a b s
  | .vfmsSlot d a b => Sys2Proof.Machine.execVfmsSlot d a b s
  | .vminSlot d a b => Sys2Proof.Machine.execVminSlot d a b s
  | .vmaxSlot d a b => Sys2Proof.Machine.execVmaxSlot d a b s
  | .vabsSlot d a => Sys2Proof.Machine.execVabsSlot d a s
  | .vnegSlot d a => Sys2Proof.Machine.execVnegSlot d a s
  | .vandSlot d a b => Sys2Proof.Machine.execVandSlot d a b s
  | .vorSlot d a b => Sys2Proof.Machine.execVorSlot d a b s
  | .vxorSlot d a b => Sys2Proof.Machine.execVxorSlot d a b s
  | .vandnSlot d a b => Sys2Proof.Machine.execVandnSlot d a b s
  | .vshlSlot d a b => Sys2Proof.Machine.execVshlSlot d a b s
  | .vshrSlot d a b => Sys2Proof.Machine.execVshrSlot d a b s
  | .vsraSlot d a b => Sys2Proof.Machine.execVsraSlot d a b s
  | .vrcpSlot d a => Sys2Proof.Machine.execVrcpSlot d a s
  | .vrsqSlot d a => Sys2Proof.Machine.execVrsqSlot d a s
  | .vexp2Slot d a => Sys2Proof.Machine.execVexp2Slot d a s
  | .vlog2Slot d a => Sys2Proof.Machine.execVlog2Slot d a s
  | .vsinSlot d a => Sys2Proof.Machine.execVsinSlot d a s
  | .vrintSlot d a => Sys2Proof.Machine.execVrintSlot d a s
  | .vcmpEqSlot d a b => Sys2Proof.Machine.execVcmpEqSlot d a b s
  | .vcmpNeSlot d a b => Sys2Proof.Machine.execVcmpNeSlot d a b s
  | .vcmpLtSlot d a b => Sys2Proof.Machine.execVcmpLtSlot d a b s
  | .vcmpLeSlot d a b => Sys2Proof.Machine.execVcmpLeSlot d a b s
  | .vslduSlot d a b => Sys2Proof.Machine.execVslduSlot d a b s
  | .vslddSlot d a b => Sys2Proof.Machine.execVslddSlot d a b s
  | .vpermSlot d a b => Sys2Proof.Machine.execVpermSlot d a b s
  | .vtluSlot d a b => Sys2Proof.Machine.execVtluSlot d a b s
  | .vcvtSlot d a b => Sys2Proof.Machine.execVcvtSlot d a b s
  | .vaddsSlot d a b => Sys2Proof.Machine.execVaddsSlot d a b s
  | .vsubsSlot d a b => Sys2Proof.Machine.execVsubsSlot d a b s
  | .bar4Write off data => Sys2Proof.Machine.execBar4Write off data s
  | .pcieCompletionTimeout p => Sys2Proof.Machine.execPcieCompletionTimeout p s

end Sys2Proof.Machine
end

