-- ==== Sys2Proof/Machine/Step.lean ====
section
/-!
DEFINITION. One step of the package: the next scheduled device event, or else the next group of the current core's
thread (`idleStep`); and how an instruction is placed where the thread fetches next.
-/

namespace Sys2Proof.Machine

open Sys2Proof

/-- One step. `inputs` says which agent moves next; with nothing scheduled, the current core's thread does, or where it waits
another part of the package. -/
def step (s : State) : Host.Outcome State Fault Refusal :=
  match s.inputs with
  | i :: r => exec i { s with inputs := r }
  | [] => idleStep s

/-- The code object, the launch and the team under which a placed instruction runs, for a core that no team is on: a
program is loaded from outside the package. -/
def State.withThread (s : State) : State :=
  if (s.core).run = .running then s
  else
    let n := s.cur
    let o : Obj := ⟨1, 1, 0xFFF, .local, SMap.put ⟨none, none⟩ [] 0 ⟨some 64, none⟩⟩
    let cap := Cap.make 1 0x20 0 extentBytes
    let la : Launch := ⟨0, 0, 0, 1, 0, cap, 0, 1, 1, false, false, 0xFFF, 0, [], none, 0, none, 0, true, 1, 0, none, 0, []⟩
    let tm : Team := ⟨0, 0, .placed, [n], [n], 0, false, []⟩
    let s1 := ((s.setTenant 1 { s.tenant 1 with live := true }).setObj 1 (some o)).setLaunch 0 (some la)
    (s1.setTeam 0 (some tm)).onCore n fun c =>
      { c with
        run := .running, team := some 0, rank := 0, fetchCap := cap, codeExts := [0], codeLines := []
        sp := { c.sp with tmsize := 1, tmcount := 1 } }

/-- A state whose next step fetches and runs the instruction of the bits `w`: the bytes stand at the program counter, in
the code object's memory and in the instruction cache, and nothing else is scheduled. -/
def State.withFetchWord (s : State) (nbits w : Nat) : State :=
  let v := w % 2 ^ nbits
  let bs : Bytes := (List.range 16).map fun i => BitVec.ofNat 8 (v / 2 ^ (8 * i))
  let s1 := { s with inputs := [] }.withThread
  let c := s1.core
  let a := c.pc.toNat
  let s2 := s1.on fun c =>
    { c with
      code := SMap.putList 0 c.code a bs
      codeExts := (a / extentBytes) :: c.codeExts
      codeLines := (a / codeLineBytes) :: ((a + 15) / codeLineBytes) :: c.codeLines }
  match s2.physAddr (Cap.obj c.fetchCap) a with
  | some p => s2.setHbmBytes p bs
  | none => s2

end Sys2Proof.Machine
end

