-- ==== Sys2Proof/Safety.lean ====
section
/-!
DEFINITION. The terms that claims use: what a safe run is, when an instruction issues alone, what it then leaves unchanged, and
when device events can happen.
-/

namespace Sys2Proof

open Sys2Proof.Machine Sys2Proof.Bits

/-! ### Runs -/

/-- No number of steps from a state ends in a fault or a refusal. -/
def RunsOn (s : State) : Prop := ∀ k, ∃ t, Host.Core.run core k s = .next t

/-- A property that every step keeps. -/
def Kept (p : State → Prop) : Prop := ∀ s t, p s → step s = .next t → p t

/-- Device memory is in canonical form. -/
abbrev MemoryCanonical (s : State) : Prop := Memory.wf s.hbm.mem = true

/-! ### Instructions that issue alone -/

/-- What the issue of an operation asks of its group (R166 to R168). -/
def needs (o : Op) (s : State) : Effects := opEffects s.core.sp.vt o

/-- An operation issues as a group of its own and is not held: a C or Y operation stands in no delay group (R170), the end of the
innermost loop is not inside the group (R217), its registers are ready (R169, R183), and no acquire holds it (R353). -/
structure MayIssue (o : Op) (s : State) : Prop where
  delay : s.core.badDelay [needs o s] = false
  loop : misplacedEnd s.core (needs o s).words = none
  ready : s.core.mayIssue [needs o s] = true

/-- The state as the operation's group begins. -/
def begun (o : Op) (s : State) : State := s.on fun c => c.begin' ((needs o s).cls == .Y)

/-- The end of its group (R170, R173, R213, R217) in a state that the operation leaves. -/
def finished (o : Op) (s t : State) : State := t.on (Core.endGroup (needs o s).words)

/-- The program counter after a group of `w` words that transfers nowhere itself: the loop hardware and a pending transfer decide
(R170, R217). -/
def nextPc (s : State) (w : Nat) : BitVec 48 := (Core.endGroup w { s.core with grp := GroupAcc.empty }).pc

/-- The branch register that a pending `CALL` writes as its second delay group ends (R213). -/
def linkDue (s : State) (r : BReg) : Bool := s.core.pend == 1 && bit s.core.sp.bpend 60 && nfield s.core.sp.bpend 57 3 % 8 == r.val

/-! ### Frames -/

/-- What an instruction may write, registers by number, beside what the end of any group writes: the program counter, the loop
levels, `%bpend`, and the link register of a pending `CALL`. -/
structure Writes where
  s : List Nat := []
  p : List Nat := []
  m : List Nat := []
  c : List Nat := []
  g : List Nat := []
  b : List Nat := []
  /-- a vector destination; its result is also pushed onto the last-result file, R235 -/
  v : Option Nat := none
  /-- special registers, R163 -/
  special : List Nat := []
  /-- the flags it raises, R57 -/
  flags : FFlags := 0
  /-- an explicit write of `%fflags`, R57 -/
  setFlags : Option FFlags := none
  /-- it draws from the lanes' generators, R55 -/
  draws : Bool := false
  /-- scratchpad bytes from an address, and how many -/
  sp : Nat × Nat := (0, 0)
  /-- it posts to the window -/
  window : Bool := false
  /-- it passes an operation to the access unit or the combining buffer -/
  queue : Bool := false
  /-- it reaches other cores of its team -/
  team : Bool := false

/-- Special registers that no frame fixes: `%fflags`, which it states by itself, `%bpend` and the loop counters. -/
def unframed : List Nat := [3, 9, 0x14, 0x15, 0x16, 0x17]

/-- A byte of a physical row of the scratchpad (R29). -/
def rowByte (c : Core) (p k : Nat) : Byte := (c.prow p).extractLsb' (8 * k) 8

/-- Everything but what `w` lists is as before, the flags are those before (or those written) and those raised, and no byte of device memory has
changed. -/
structure Keeps (w : Writes) (s t : State) : Prop where
  scalars : ∀ r : SReg, r.val ∉ w.s → t.core.rs r = s.core.rs r
  predicates : ∀ r : PReg, r.val ∉ w.p → t.core.rp r = s.core.rp r
  masks : ∀ r : MReg, r.val ∉ w.m → t.core.rm r = s.core.rm r
  caps : ∀ r : CReg, r.val ∉ w.c → t.core.rc r = s.core.rc r
  regions : ∀ r : GReg, r.val ∉ w.g → t.core.rg r = s.core.rg r
  branches : ∀ r : BReg, r.val ∉ w.b → linkDue s r = false → t.core.rb r = s.core.rb r
  vectors : ∀ r : VReg, w.v ≠ some r.val → (w.v.isSome = true → r.val < 608) → t.core.rv r = s.core.rv r
  specials : ∀ k, k ∉ unframed → k ∉ w.special → readSpecial s.cur t.core k = readSpecial s.cur s.core k
  flags : t.core.sp.fflags = w.setFlags.getD s.core.sp.fflags ||| w.flags
  generators : w.draws = false → t.core.sp.gens = s.core.sp.gens
  rowMap : t.core.eng.rowMap = s.core.eng.rowMap
  scratchpad : ∀ p k, (∀ a, w.sp.1 ≤ a → a < w.sp.1 + w.sp.2 → ¬ (p = s.core.phys (a / 512) ∧ k = a % 512)) → k < 512 →
    rowByte t.core p k = rowByte s.core p k
  accumulators : t.core.eng.acc = s.core.eng.acc
  window : w.window = false → t.core.board = s.core.board
  queue : w.queue = false → t.core.acc = s.core.acc
  memory : ∀ o a, t.byteAt o a = s.byteAt o a
  others : w.team = false → ∀ n, n ≠ s.cur → t.coreAt n = s.coreAt n

/-- An instruction completes: wherever it may issue and `when` holds, it answers a next state in which `post` holds and all but what
it writes is as before; it goes on at the next group. -/
def Completes (i : Instr) (o : Op) (w : State → Writes) (post : State → State → Prop) (when : State → Prop := fun _ => True) : Prop :=
  ∀ s, MayIssue o s → when s →
    ∃ t, exec i s = .next t ∧ post s t ∧ Keeps (w s) s t ∧ t.core.pc = nextPc s (needs o s).words

/-- The same of an instruction that names the next group itself. -/
def Finishes (i : Instr) (o : Op) (w : State → Writes) (post : State → State → Prop) (when : State → Prop := fun _ => True) : Prop :=
  ∀ s, MayIssue o s → when s → ∃ t, exec i s = .next t ∧ post s t ∧ Keeps (w s) s t

/-- An instruction traps: wherever it may issue and `when` holds, the trap `t` is raised and nothing of the instruction happens. -/
def Traps (i : Instr) (o : Op) (t : State → Trap) (when : State → Prop) : Prop :=
  ∀ s, MayIssue o s → when s → exec i s = .next ((begun o s).raiseTrap s.cur (t s))

/-- A scalar result with the flags it raises; `s0` stays zero (R162). -/
def SetsScalar (i : Instr) (o : Op) (d : SReg) (v : Core → Word) (fl : Core → FFlags := fun _ => 0) : Prop :=
  Completes i o (fun s => { s := [d.val], flags := fl s.core }) fun s t => t.core.rs d = if d.val = 0 then 0 else v s.core

/-- A scalar result bit by bit. -/
def SetsBits (i : Instr) (o : Op) (d : SReg) (v : Core → Nat → Bool) : Prop :=
  Completes i o (fun _ => { s := [d.val] }) fun s t => ∀ k < 64, (t.core.rs d).getLsbD k = if d.val = 0 then false else v s.core k

/-- A scalar float result: an exact value with its flags, rounded once into the type (R194). -/
def SetsFloat (i : Instr) (o : Op) (t : Ty) (r : Rnd) (d : SReg) (x : Core → FVal × FFlags) : Prop :=
  SetsScalar i o d (fun c => BitVec.ofNat 64 (roundElem t r (x c).1 0).bits) fun c => (x c).2 ||| (roundElem t r (x c).1 0).flags

/-- The value that the low bits of a register have in a type (`fval`, R182). -/
def floatOf (t : Ty) (w : Word) : FVal := t.value (w.toNat % 2 ^ t.width)

/-- A special register written: it completes unless it waits for tasks that use the register (R201, R482, R483). -/
def WritesSpecial (k : BitVec 12) (a : SReg) (w : Core → Writes) (post : Core → Core → Prop) : Prop :=
  Completes (.mts k a) (.solo (.mts k a)) (fun s => w s.core) (fun s t => post s.core t.core)
    fun s => mtsWaits (begun (.solo (.mts k a)) s).core k.toNat = false

/-- No task of the window and no ring keeps the thread from bytes of device memory, and the access unit has room (R210, R438). -/
def Unhindered (o : Op) (s : State) (obj a n : Nat) : Prop :=
  (begun o s).core.overlaps (objCells obj a n) = false ∧ (begun o s).core.accFull = false

/-- An access passes the checks of R209: aligned to its size, and in a capability that gives the rights. -/
def Permitted (a : Access) : Prop :=
  a.addr % a.len = 0 ∧ Cap.obj a.cap ≠ 0 ∧ (∀ r ∈ a.need, Cap.has a.cap r = true) ∧ Cap.within a.cap a.addr a.len = true

/-- The operation that an access puts into the access unit: numbered in the order of issue, its operands as they are now (R438). -/
def queued (c : Core) (a : Access) : AccOp :=
  { id := c.nextOp, rank := c.nextOp, grp := c.groups, word := 0, kind := a.kind, cap := a.cap, addr := a.addr.toNat, len := a.len
    ord := a.ord, scope := a.scope, data := a.data, cmp := a.cmp, stamp := 0, phase := .queued, result := 0 }

/-- An instruction passes one operation to the access unit, behind those already there, and writes no register: its destination
follows when the access is performed. -/
def PassesAccess (i : Instr) (o : Op) (a : Core → Access) (when : State → Prop := fun _ => True) : Prop :=
  Completes i o (fun _ => { queue := true }) (fun s t => t.core.acc = s.core.acc ++ [queued s.core (a s.core)])
    fun s => Permitted (a s.core) ∧ Unhindered o s (Cap.obj (a s.core).cap) (a s.core).addr.toNat (a s.core).len ∧ when s

/-- The checks of R209 in their order: a misaligned access takes a misaligned trap, one that its capability does not allow a
capability trap, both before anything happens. -/
def Checks (i : Instr) (o : Op) (a : Core → Access) : Prop :=
  ∀ s, MayIssue o s →
    ((a s.core).addr % (a s.core).len ≠ 0 →
      exec i s = .next ((begun o s).raiseTrap s.cur (Trap.precise 0x06 0 (BitVec.ofInt 64 (a s.core).addr)))) ∧
    ((a s.core).addr % (a s.core).len = 0 → ¬ Permitted (a s.core) →
      exec i s = .next ((begun o s).raiseTrap s.cur (Trap.precise 0x02 0 (BitVec.ofInt 64 (a s.core).addr))))

/-- A predicate result; `p0` stays true (R162). -/
def SetsPredicate (i : Instr) (o : Op) (d : PReg) (v : Core → Bool) : Prop :=
  Completes i o (fun _ => { p := [d.val] }) fun s t => t.core.rp d = if d.val = 0 then true else v s.core

/-- A mask result; `m0` stays all true (R162). -/
def SetsMask (i : Instr) (o : Op) (d : MReg) (v : Core → Mask) (when : State → Prop := fun _ => True) : Prop :=
  Completes i o (fun _ => { m := [d.val] }) (fun s t => t.core.rm d = if d.val = 0 then BitVec.allOnes 512 else v s.core) when

/-- A capability result. -/
def SetsCap (i : Instr) (o : Op) (d : CReg) (v : State → Cap) (when : State → Prop := fun _ => True) : Prop :=
  Completes i o (fun _ => { c := [d.val] }) (fun s t => t.core.rc d = v s) when

/-- A vector result: the destination holds it, it is pushed onto the last-result file, and older results move on (R235). -/
def SetsVector (i : Instr) (o : Op) (d : VReg) (v : Core → Row) (fl : Core → FFlags := fun _ => 0)
    (gens : Core → List (BitVec 32) := fun c => c.sp.gens) (when : State → Prop := fun _ => True) : Prop :=
  Completes i o (fun s => { v := some d.val, flags := fl s.core, draws := true })
    (fun s t => (∀ r : VReg, r.val = d.val → t.core.rv r = v s.core) ∧ (∀ r : VReg, r.val = 608 → t.core.rv r = v s.core) ∧
      (∀ r q : VReg, 608 ≤ q.val → r.val = q.val + 1 → t.core.rv r = s.core.rv q) ∧ t.core.sp.gens = gens s.core)
    fun s => d.val < 608 ∧ when s

/-! ### Values -/

/-- A condition of R197 on two operands. -/
def Compared (k : ICond) (x y : Word) : Bool :=
  match k with
  | .eq => decide (x = y) | .ne => decide (x ≠ y)
  | .lt => decide (x.toInt < y.toInt) | .ltu => decide (x.toNat < y.toNat)
  | .ge => decide (x.toInt ≥ y.toInt) | .geu => decide (x.toNat ≥ y.toNat)
  | .le => decide (x.toInt ≤ y.toInt) | .leu => decide (x.toNat ≤ y.toNat)
  | .gt => decide (x.toInt > y.toInt) | .gtu => decide (x.toNat > y.toNat)
  | .tst => decide (x &&& y ≠ 0) | .ntst => decide (x &&& y = 0)

/-- The access of a load. -/
def loadOf (t : Ty) (o : Ord) (sc : Scope) (d : SReg) (cap : Cap) (addr : Int) : Access :=
  ⟨.load t d, cap, addr, t.width / 8, o, sc, 0, 0, [0]⟩

/-- The access of a store: the low bytes of the register, or the sign-extended ACC56 value (R207). -/
def storeOf (t : Ty) (o : Ord) (sc : Scope) (v : Word) (cap : Cap) (addr : Int) : Access :=
  ⟨.store, cap, addr, t.width / 8, o, sc, BitVec.ofNat 128 ((if t = .a56 then sext v 56 else v).toNat % 2 ^ t.width), 0, [1]⟩

/-- A byte address that the scratchpad instructions accept (R209, R210, R344): aligned, within the scratchpad, in no footprint of a task
and no slot of a ring that is not ready, and for a load not in a row marked bad. -/
def LocalAddress (o : Op) (s : State) (addr : Int) (n : Nat) (store : Bool) : Prop :=
  addr % n = 0 ∧ 0 ≤ addr ∧ addr + n ≤ 0x600000 ∧ (begun o s).core.spBusy (spCells addr.toNat n) store = false ∧
    (store = true ∨ EngWord.row (s.core.phys (addr.toNat / 512)) ∉ s.core.eng.bad)

/-- What a load of a type makes of the bytes it reads (R207). -/
def extended (t : Ty) (v : Nat) : Word :=
  if t = .a56 then (BitVec.ofNat 56 v).signExtend 64 else if t.signed then BitVec.ofInt 64 (intOf true t.width v) else BitVec.ofNat 64 v

/-- A read-modify-write as it is passed to the access unit (R379, R383). -/
def rmwOf (op : RmwOp) (t : Ty) (o : Ord) (sc : Scope) (d : SReg) (cap : Cap) (addr : Int) (data cmp : BitVec 128) : Access :=
  ⟨.rmw op t d, cap, addr, (if op = .cas2 then 16 else if t = .i64 ∨ t = .n64 then 8 else 4), o, sc, data, cmp, [0, 1, 2]⟩

/-- The core knows the route of an access's object, and the route carries the operation at its scope (R374). -/
def Carried (s : State) (a : Access) (op : RmwOp) (t : Ty) (red : Bool) : Prop :=
  ∃ r, s.core.knownRoute (Cap.obj a.cap) = some r ∧
    routeFault s (s.tenantOf s.cur) r a.addr.toNat a.len a.scope (some op) t red = none

/-- The core knows the route of an access's object, and the route does not carry the operation: an atomic-route fault with a reason
(R374). -/
def Misrouted (s : State) (a : Access) (op : RmwOp) (t : Ty) (red : Bool) (reason : BitVec 8) : Prop :=
  Permitted a ∧ ∃ r, s.core.knownRoute (Cap.obj a.cap) = some r ∧
    routeFault s (s.tenantOf s.cur) r a.addr.toNat a.len a.scope (some op) t red = some reason

/-- Bytes of an object of this chip's memory can be read (R16, R350, R441). -/
def Readable (s : State) (t obj off n : Nat) : Prop :=
  (∃ o, s.obj obj = some o ∧ o.route = .local) ∧ s.portCheck t obj off n = .proceed ∧ s.portStopped obj off = false ∧
    s.poisonFault obj off n false = false

/-- A read of this chip's memory that the access unit can perform as it is passed on (R209, R352, R353, R362, R374): its checks pass, its object is
known to be here and can be read, its number is no other operation's, no access of the thread before it is outstanding, and the directory
has room for it and holds no conflict. -/
def ReadsAtOnce (o : Op) (s : State) (a : Access) : Prop :=
  let es := s.scalarEntries s.cur s.core.nextOp a.cap a.addr.toNat a.len false true
  Permitted a ∧ Unhindered o s (Cap.obj a.cap) a.addr.toNat a.len ∧ s.core.knownRoute (Cap.obj a.cap) = some (some .local) ∧
    Readable s (s.tenantOf s.cur) (Cap.obj a.cap) a.addr.toNat a.len ∧ (∀ x ∈ s.core.acc, x.id ≠ s.core.nextOp) ∧
    s.core.settledBefore s.core.nextOp = true ∧ (∀ x ∈ s.hbm.dir, ∀ e ∈ es, x.conflicts e = false) ∧ s.hbm.dir.length + es.length ≤ 16384

/-- A reduction as it is passed on: its operand at its width (R379, R380). -/
def redOf (op : RmwOp) (t : Ty) (o : Ord) (sc : Scope) (cap : Cap) (addr : Int) (b : Word) : Access :=
  let n := if t = .i64 ∨ t = .n64 then 8 else 4
  ⟨.red op t, cap, addr, n, o, sc, if n = 4 then (b.setWidth 32).setWidth 128 else b.setWidth 128, 0, [1, 2]⟩

/-- A reduction is combined with the entry of its key, or takes an entry of its own (R380, R381); its checks are those of R209, and its
route must carry it (R374). -/
def Buffers (i : Instr) (o : Op) (op : RmwOp) (t : Ty) (a : Core → Access) : Prop :=
  let may (s : State) : Prop := Permitted (a s.core) ∧ Carried s (a s.core) op t true ∧
    (begun o s).core.overlaps (objCells (Cap.obj (a s.core).cap) (a s.core).addr.toNat (a s.core).len) = false
  let found (s : State) : Option RedEntry :=
    combinesWith s.core op t (a s.core).ord (a s.core).scope (Cap.obj (a s.core).cap) (a s.core).addr.toNat (a s.core).len
  Checks i o a ∧
  (∀ reason, Traps i o (fun s => Trap.precise 0x0B reason (BitVec.ofInt 64 (a s.core).addr)) fun s => Misrouted s (a s.core) op t true reason) ∧
  (∀ r, Completes i o (fun _ => {})
    (fun s u => u.core.reds = s.core.reds.map fun (q : RedEntry) => if q.id = r.id then
      { q with joined := s.core.groups :: q.joined
               data := BitVec.ofNat 64 ((rmwNew op t q.data.toNat (a s.core).data.toNat 0).getD q.data.toNat) } else q)
    fun s => may s ∧ found s = some r) ∧
  Completes i o (fun _ => {})
    (fun s u => ∃ e : RedEntry, u.core.reds =
        (if (a s.core).ord.releases then s.core.reds.map fun (q : RedEntry) => { q with flushing := true } else s.core.reds) ++ [e] ∧
      e.id = s.core.nextOp ∧ e.op = op ∧ e.t = t ∧ e.cap = (a s.core).cap ∧ e.addr = (a s.core).addr.toNat ∧ e.len = (a s.core).len ∧
      e.scope = (a s.core).scope ∧ e.ord = (a s.core).ord ∧ e.data = (a s.core).data.setWidth 64 ∧ e.sent = false)
    fun s => may s ∧ found s = none ∧ (s.core.reds.filter fun r => !r.sent).length < 64 ∧ s.core.accHalted = false ∧
      (begun o s).dirInsert ((begun o s).scalarEntries s.cur s.core.nextOp (a s.core).cap (a s.core).addr.toNat (a s.core).len true true) ≠ .full

/-- The capability of a snapshot operation holds snap (R459, R460). -/
def MaySnap (s : State) (c : CReg) : Prop := Cap.obj (s.core.rc c) ≠ 0 ∧ Cap.has (s.core.rc c) 4 = true

/-- The generation home of the thread's tenant (R454). -/
def homeOf (s : State) : GenHome := (s.tenant (s.tenantOf s.cur)).gen

/-- A snapshot operation whose capability lacks snap takes a capability trap; what it reports is open. -/
def SnapRefused (i : Instr) (o : Op) (c : CReg) : Prop :=
  ∀ s, MayIssue o s → ¬ MaySnap s c → ∃ v u, exec i s = .next (u.raiseTrap s.cur (Trap.precise 0x02 0 v)) ∧
    u = { begun o s with freeCtr := s.freeCtr + 1 }

/-- The thread is a member of a point of its team, and has not left it (R390, R392). -/
def Member (s : State) (t k : Nat) : Prop :=
  s.core.team = some t ∧ (s.point t k).members.getLsbD s.core.rank = true ∧ s.core.leaving k = false

/-- A control transfer recorded in `%bpend` (R173): two delay groups to issue, taken or not, with the target and a pending link. -/
def Pending (w : Word) (target : BitVec 48) (taken : Bool) (link : Option BReg) : Prop :=
  nfield w 62 2 = 2 ∧ bit w 61 = taken ∧ field w 0 48 = target ∧ bit w 60 = link.isSome ∧ (∀ l ∈ link, nfield w 57 3 = l.val)

/-- A loop instruction opens a level and goes on behind it, skips the body where the count is zero, and takes a control fault where
four levels are open or the body does not nest (R216, R218). -/
def OpensLoop (i : Instr) (o : Op) (off : BitVec 20) (count : Core → Word) (w : Writes) (also : Core → Core → Prop) : Prop :=
  let last (s : State) : BitVec 48 := s.core.pc + BitVec.ofNat 48 (8 * off.toNat)
  let nests (s : State) : Prop := ∀ l, s.core.inner = some l → last s ≤ l.last
  Finishes i o (fun _ => w)
    (fun s t => t.core.pc = last s + 8 ∧ t.core.sp.loops = s.core.sp.loops ∧ also s.core t.core)
    (fun s => s.core.nearEnd 1 = false ∧ count s.core = 0) ∧
  Finishes i o (fun _ => w)
    (fun s t => t.core.pc = s.core.pc + 8 ∧ t.core.sp.loops = s.core.sp.loops ++ [⟨s.core.pc + 8, last s, count s.core⟩] ∧ also s.core t.core)
    (fun s => s.core.nearEnd 1 = false ∧ count s.core ≠ 0 ∧ s.core.sp.loops.length < 4 ∧ nests s) ∧
  Traps i o (fun _ => Trap.precise 0x09 0x04 0) (fun s => s.core.nearEnd 1 = true) ∧
  Traps i o (fun _ => Trap.precise 0x09 0x01 0) (fun s => s.core.nearEnd 1 = false ∧ count s.core ≠ 0 ∧ 4 ≤ s.core.sp.loops.length) ∧
  Traps i o (fun _ => Trap.precise 0x09 0x02 0)
    (fun s => s.core.nearEnd 1 = false ∧ count s.core ≠ 0 ∧ s.core.sp.loops.length < 4 ∧ ¬ nests s)

/-! ### Vectors -/

/-- The generator of lane `l` before element `n` (R55): every enabled element below it whose lane this is has drawn in its turn. -/
def laneGen (w : Nat) (on : Nat → Bool) (f : Nat → BitVec 32 → Rounded) (gens : List (BitVec 32)) (l : Nat) : Nat → BitVec 32
  | 0 => (gens[l]?).getD 1
  | n + 1 =>
    if w * n / 32 = l ∧ on n = true ∧ l < gens.length then (f n (laneGen w on f gens l n)).gen else laneGen w on f gens l n

/-- The flags that the enabled elements raise (R57, R229). -/
def laneFlags (w : Nat) (on : Nat → Bool) (f : Nat → BitVec 32 → Rounded) (gens : List (BitVec 32)) : FFlags :=
  (List.range (4096 / w)).foldl (fun fl i => if on i then fl ||| (f i (laneGen w on f gens (w * i / 32) i)).flags else fl) 0

/-- A vector destination element by element (R227 to R229, R235, R55): an enabled element is what `f` gives with the generator of its
lane, a disabled one keeps its value; the destination is pushed onto the last-result file. -/
def SetsElems (i : Instr) (o : Op) (w : Nat) (d : VReg) (on : Core → Nat → Bool) (f : Core → Nat → BitVec 32 → Rounded)
    (when : State → Prop := fun _ => True) : Prop :=
  Completes i o (fun s => { v := some d.val, flags := laneFlags w (on s.core) (f s.core) s.core.sp.gens, draws := true })
    (fun s t =>
      (∀ k < 4096 / w, elem (t.core.rv d) w k =
        if on s.core k then (f s.core k (laneGen w (on s.core) (f s.core) s.core.sp.gens (w * k / 32) k)).bits % 2 ^ w
        else elem (s.core.rv d) w k) ∧
      (∀ r : VReg, r.val = 608 → t.core.rv r = t.core.rv d) ∧
      (∀ r q : VReg, 608 ≤ q.val → r.val = q.val + 1 → t.core.rv r = s.core.rv q) ∧
      t.core.sp.gens.length = s.core.sp.gens.length ∧
      ∀ l < s.core.sp.gens.length, t.core.sp.gens[l]? = some (laneGen w (on s.core) (f s.core) s.core.sp.gens l (4096 / w)))
    fun s => d.val < 608 ∧ when s

/-- Bits that draw nothing and raise nothing. -/
def bitsOf (x : Nat) (g : BitVec 32) : Rounded := ⟨x, 0, g⟩

/-- A lane's result (R239): an integer wrapped, or an exact float value with its flags rounded once. -/
def laneResult (t : Ty) (r : Rnd) (n : Int) (x : FVal × FFlags) (g : BitVec 32) : Rounded :=
  match t.fmt? with
  | none => bitsOf (n % (2 ^ t.width : Nat)).toNat g
  | some f => roundPair f r x g

/-- An exact value with its flags rounded once into any type (R246). -/
def laneValue (t : Ty) (r : Rnd) (x : FVal × FFlags) (g : BitVec 32) : Rounded :=
  ⟨(roundElem t r x.1 g).bits, x.2 ||| (roundElem t r x.1 g).flags, (roundElem t r x.1 g).gen⟩

/-- Element `k` of a register in a type: its bits. -/
def lane (t : Ty) (c : Core) (v : VReg) (k : Nat) : Nat := elem (c.rv v) t.width k

/-- The elements that a mask enables (R228). -/
def enabledBy (t : Ty) (m : MReg) (c : Core) (k : Nat) : Bool := (c.rm m).getLsbD (t.width * k / 8)

/-- A solo vector instruction under a merge mask, and its slot form under `%vt` without one (R229, R233). -/
def LaneForms (i : Instr) (o : SoloOp) (i' : Instr) (p : SlotOp) (t : Ty) (r : Rnd) (d : VReg) (m : MReg)
    (f : Core → Nat → BitVec 32 → Rounded) : Prop :=
  SetsElems i (.solo o) t.width d (enabledBy t m) f ∧
  SetsElems i' (.slot p) t.width d (fun _ _ => true) f (fun s => vtTy s.core = t ∧ vtRnd s.core = r ∧ slotTypeOk s.core p = true) ∧
  Traps i' (.slot p) (fun s => Trap.precise 0x01 0x07 (s.core.pc.setWidth 64)) (fun s => slotTypeOk s.core p = false)

/-- A lane condition (R241) on the values of two elements. -/
def LaneCompared (k : VCond) (t : Ty) (x y : Nat) : Bool :=
  match k with
  | .eq => FVal.cmp (t.value x) (t.value y) == some 0 | .ne => FVal.cmp (t.value x) (t.value y) != some 0
  | .lt => FVal.cmp (t.value x) (t.value y) == some (-1)
  | .le => FVal.cmp (t.value x) (t.value y) == some (-1) || FVal.cmp (t.value x) (t.value y) == some 0
  | .gt => FVal.cmp (t.value x) (t.value y) == some 1
  | .ge => FVal.cmp (t.value x) (t.value y) == some 1 || FVal.cmp (t.value x) (t.value y) == some 0
  | .un => FVal.cmp (t.value x) (t.value y) == none | .ord => FVal.cmp (t.value x) (t.value y) != none
  | .tst => x &&& y != 0 | .ntst => x &&& y == 0

/-- A compare into a mask (R241): every bit of an enabled element's slot takes its condition, the others keep their values, and `m0`
stays all true. -/
def SetsCompared (i : Instr) (o : Op) (k : VCond) (t : Ty) (d : MReg) (a b : VReg) (on : Core → Nat → Bool)
    (when : State → Prop := fun _ => True) : Prop :=
  Completes i o (fun _ => { m := [d.val] })
    (fun s u => ∀ n < 512, (u.core.rm d).getLsbD n =
      if d.val = 0 then true
      else if on s.core (8 * n / t.width) then LaneCompared k t (lane t s.core a (8 * n / t.width)) (lane t s.core b (8 * n / t.width))
      else (s.core.rm d).getLsbD n)
    when

/-- A reduction (R62, R252) by the halving tree over the enabled elements, the others the identity, into a scalar register. -/
def Reduces (i : Instr) (o : Op) (t : Ty) (d : SReg) (a : VReg) (m : MReg) (e : Nat) (f : Core → Nat → Nat → BitVec 32 → Rounded) : Prop :=
  let res (c : Core) : Sweep := tree t.width (f c) (Nat.log2 (elemCount t))
    ((List.range (elemCount t)).map fun k => if enabledBy t m c k then lane t c a k else e) 0 c.sp.gens
  let bits (c : Core) : Nat := ((res c).done.head?).getD 0
  Completes i o (fun s => { s := [d.val], flags := (res s.core).flags, draws := true })
    fun s u => u.core.rs d = (if d.val = 0 then 0 else if t.isInt then BitVec.ofInt 64 (t.int (bits s.core)) else BitVec.ofNat 64 (bits s.core)) ∧
      u.core.sp.gens = (res s.core).gens

/-- A row address that a row access accepts (R254, R255, R445). -/
def RowAddress (o : Op) (s : State) (addr : Int) (store : Bool) : Prop :=
  addr % 512 = 0 ∧ 0 ≤ addr ∧ addr + 512 ≤ 0x600000 ∧ (begun o s).core.spBusy (.sp (addr.toNat / 512) 1 0 32) store = false ∧
    (store = true ∨ EngWord.row (s.core.phys (addr.toNat / 512)) ∉ s.core.eng.bad)

/-- The alignment and range traps of a row access (R254). -/
def RowChecks (i : Instr) (o : Op) (addr : Core → Int) : Prop :=
  Traps i o (fun s => Trap.precise 0x06 0 (BitVec.ofInt 64 (addr s.core))) (fun s => addr s.core % 512 ≠ 0) ∧
  Traps i o (fun s => Trap.precise 0x03 0 (BitVec.ofInt 64 (addr s.core)))
    fun s => addr s.core % 512 = 0 ∧ (addr s.core < 0 ∨ 0x600000 < addr s.core + 512)

/-! ### Posts -/

/-- What the `.NB` form writes its predicate with; the plain form writes none (R259, R291). -/
def nbWrites (nb : NB) : List Nat := match nb with | none => [] | some p => [p.val]

/-- The predicate of the `.NB` form holds a value; `p0` stays true. -/
def nbHolds (nb : NB) (u : State) (v : Bool) : Prop := ∀ p : PReg, nb = some p → u.core.rp p = if p.val = 0 then true else v

/-- A predicate register as it reads after a value was written to it (R162). -/
def predicateIs (u : State) (p : PReg) (v : Bool) : Prop := u.core.rp p = if p.val = 0 then true else v

/-- The logical IDs that name this chip, to the thread (R396). -/
def ownIds (s : State) (lid : Nat) : Bool := s.ownLid (s.tenantOf s.cur) lid

/-- A posting instruction builds its record (R259) and, outside a bundle and a guarded unit, appends it to the window as a waiting entry
with the next sequence number (R289, R291); with no entry free the plain form waits and the `.NB` form answers false; a record that fails
its checks is a trap (R79). -/
def Posts (i : Instr) (o : Op) (nb : NB) (h : Core → Head) (boxes : Core → List Word) (w7 w8 w9 w10 : Core → Word) : Prop :=
  let ws (c : Core) : List Word := buildRecord (h c) (boxes c) (w7 c) (w8 c) (w9 c) (w10 c)
  let checked (s : State) : Except Trap Posted := checkRecord (localCtx (begun o s).core (ownIds (begun o s))) (ws s.core)
  (∀ p, Completes i o (fun _ => { p := nbWrites nb, window := true })
    (fun s u => ∃ e : Entry, u.core.board.entries = s.core.board.entries ++ [e] ∧ u.core.board.nextSeq = s.core.board.nextSeq + 1 ∧
      e.seq = s.core.board.nextSeq ∧ e.state = .waiting ∧ e.remote = false ∧ e.fault = none ∧ e.post.caps = p.caps ∧
      nfield (e.post.word 0) 0 8 = (h s.core).kind ∧ nfield (e.post.word 0) 8 3 = (h s.core).engine ∧
      nfield (e.post.word 0) 11 3 = (h s.core).stage.toNat ∧ bit (e.post.word 0) 14 = (h s.core).ts ∧ bit (e.post.word 0) 18 = (h s.core).flow ∧
      (∀ k < 6, e.post.word (k + 1) = ((boxes s.core)[k]?).getD 0) ∧
      e.post.word 7 = w7 s.core ∧ e.post.word 8 = w8 s.core ∧ e.post.word 9 = w9 s.core ∧ e.post.word 10 = w10 s.core ∧
      e.post.word 15 = s.core.board.nextSeq.setWidth 64 ∧ nbHolds nb u true)
    fun s => checked s = .ok p ∧ s.core.joinBundle = none ∧ s.core.joinUnit = none ∧ (h s.core).kind < 0x38 + 5 ∧ (h s.core).kind ≠ 0x38 ∧
      (h s.core).engine < 8 ∧ ringCheck (begun o s).core p = none ∧ s.core.room false = true) ∧
  (∀ p q, nb = some q → Completes i o (fun _ => { p := [q.val] }) (fun _ u => predicateIs u q false)
    fun s => checked s = .ok p ∧ s.core.joinBundle = none ∧ s.core.joinUnit = none ∧ (h s.core).kind ≠ 0x38 ∧
      ringCheck (begun o s).core p = none ∧ s.core.room false = false) ∧
  (∀ p s, MayIssue o s → nb = none → checked s = .ok p → s.core.joinBundle = none → s.core.joinUnit = none → (h s.core).kind ≠ 0x38 →
    ringCheck (begun o s).core p = none → s.core.room false = false →
    ∃ u, exec i s = .next u ∧ u.core.pc = s.core.pc ∧ u.core.board = s.core.board ∧ u.core.regs = s.core.regs) ∧
  (∀ t, Traps i o (fun _ => t) fun s => checked s = .error t ∧ t.delivery = .precise)

/-- A marker of a guarded unit (R83, R312, R432): it moves the open unit on, and is a record fault elsewhere, and a control fault in a
handler. -/
def Marks (i : Instr) (o : Op) (old new : Nat) : Prop :=
  (∀ g, Completes i o (fun _ => { window := true })
    (fun s u => u.core.board.nextSeq = s.core.board.nextSeq + 1 ∧ u.core.board.entries = s.core.board.entries ∧
      u.core.board.units = s.core.board.units.map fun (v : GUnit) => if v.guardSeq = g then { v with sect := new } else v)
    fun s => s.core.inHandler = false ∧ s.core.board.bundle = none ∧ ∃ v, s.core.openUnit = some v ∧ v.guardSeq = g ∧ v.sect = old) ∧
  Traps i o (fun _ => Trap.precise 0x04 0 0) (fun s => s.core.inHandler = false ∧
    (s.core.openUnit = none ∨ s.core.board.bundle.isSome = true ∨ ∃ v, s.core.openUnit = some v ∧ v.sect ≠ old)) ∧
  Traps i o (fun _ => Trap.precise 0x09 0x0B 0) (fun s => s.core.inHandler = true)

/-! ### Device events -/

/-- A core of the package whose clocks run (R4, R517). -/
abbrev CoreRuns (s : State) (n : Nat) : Prop := n < 384 ∧ s.clockStopped n = false

/-- The device is not frozen as a whole (R517). -/
abbrev DeviceRuns (s : State) : Prop := bit s.dev.dbgctl 44 = false

/-- Firmware runs: its image has been started (R135), some scheduler core is not frozen (R437), and neither is the device (R517). -/
abbrev FirmwareRuns (s : State) : Prop := DeviceRuns s ∧ s.dev.fwState = 2 ∧ s.dev.schedFrozen ≠ 0xF

/-- A device event happens: wherever `when` holds it answers a next state in which `post` holds. -/
def Happens (i : Instr) (when : State → Prop) (post : State → State → Prop) : Prop := ∀ s, when s → ∃ t, exec i s = .next t ∧ post s t

/-- Of the cores only one changes, and nothing else of the package does. -/
def OnlyCore (n : Nat) (s t : State) : Prop := t = { s with cores := t.cores } ∧ ∀ m, m ≠ n → t.coreAt m = s.coreAt m

/-- One core is as given, and nothing else of the package has changed. -/
def CoreBecomes (n : Nat) (c : Core) (s t : State) : Prop := OnlyCore n s t ∧ t.coreAt n = c

/-- Only the device registers change. -/
def DevBecomes (d : Device) (s t : State) : Prop := t = { s with dev := d }

/-- Only what the host side holds changes. -/
def OnlyHost (s t : State) : Prop := t = { s with host := t.host }

/-- On the host side nothing changes but the outcomes of records, and nothing at all where no window holds the task of a collective-step
record (R114). -/
def OnlySteps (s t : State) : Prop :=
  ((∀ n, ∀ e ∈ (s.coreAt n).board.entries, e.origin = none) → t.host = s.host) ∧ t.host.hostMem = s.host.hostMem ∧ t.host.msix = s.host.msix

/-- Every core is as before, but that a freeze flushes its combining buffer (R381, R517). -/
def FreezeFlushes (s t : State) : Prop := ∀ n, t.coreAt n = if t.freezing n then (s.coreAt n).flushReds else s.coreAt n

/-- A queue of a function becomes `k`, the function's other queues and the other functions stay as they are, and nothing outside the
host side changes. -/
def QueueBecomes (fn q : Nat) (k : HostQueue) (s t : State) : Prop :=
  OnlyHost s t ∧ t.queueAt fn q = some k ∧ (∀ f, f ≠ fn → t.hostFn f = s.hostFn f) ∧ ∀ r, r ≠ q → t.queueAt fn r = s.queueAt fn r

/-- Bytes of an object. -/
def readBytes (s : State) (obj off n : Nat) : List Byte := (List.range n).map fun i => s.byteAt obj (off + i)

/-- Bytes of an object can be written in place (R16, R350, R440, R464): they can be read and lie in one grain, nothing migrates, and no
generation of the tenant is frozen. -/
def Writable (s : State) (t obj off n : Nat) : Prop :=
  Readable s t obj off n ∧ s.migrating obj off = false ∧ s.hbm.holds = [] ∧ s.frozenOf t = none ∧ MemoryCanonical s ∧ 0 < n ∧
    off / 65536 = (off + n - 1) / 65536

/-- Bytes of HBM outside a range of an object are as before. -/
def SparesBytes (s t : State) (obj off n : Nat) : Prop := ∀ p, (∀ i < n, s.physAddr obj (off + i) ≠ some p) → t.hbmByte p = s.hbmByte p

/-- A doubleword of an object. -/
def wordAt (s : State) (obj off : Nat) : Word := wordOfBytes (readBytes s obj off 8)

/-- A doubleword of an object becomes `v`, and every other byte of HBM is as before. -/
def StoresWord (obj off : Nat) (v : Word) (s t : State) : Prop := wordAt t obj off = v ∧ SparesBytes s t obj off 8

/-! ### Records of the front end -/

/-- A record that a queue has consumed and that has not been taken up, of a kind that `p` admits. -/
def Consumed (s : State) (fn q : Nat) (idx : BitVec 32) (p : List Word → Bool) (ws : List Word) : Prop :=
  ∃ k r, s.queueAt fn q = some k ∧ (k.recs.find? fun x => x.idx == idx && !x.begun && x.outcome.isNone && p x.words) = some r ∧ r.words = ws

/-- The tenant of a function. -/
def tenantFn (s : State) (fn : Nat) : Nat := (s.hostFn fn).tenant.toNat

/-- A record taken up: it has begun, and, where it ends, has its status, its result and its output, which the first outcome fixes. -/
def Begins (fn q : Nat) (idx : BitVec 32) (o : Option (BitVec 8 × BitVec 32 × Option Word)) (s t : State) : Prop :=
  ∃ k, s.queueAt fn q = some k ∧ t.queueAt fn q = some { k with recs := k.recs.map fun (r : HostRec) =>
    if r.idx = idx then { r with begun := true, outcome := match r.outcome with | some x => some x | none => o } else r }

/-- A record ends with a status, and nothing but its queue changes. -/
def Ends (fn q : Nat) (idx : BitVec 32) (st : BitVec 8) (res : BitVec 32) (out : Option Word) (s t : State) : Prop :=
  OnlyHost s t ∧ Begins fn q idx (some (st, res, out)) s t

/-- The record at a queue's head is consumed (R108), with its outcome where it ends at once and the table entries that it names as they are
now (R103); the front end stands at queue block `turn` (R109). -/
def Consumes (fn q : Nat) (ws : List Word) (o : Option (BitVec 8 × BitVec 32 × Option Word)) (turn : Nat) (s t : State) : Prop :=
  t = { s with host := t.host, sched := { s.sched with hostTurn := turn } } ∧ ∃ k k', s.queueAt fn q = some k ∧ t.queueAt fn q = some k' ∧ k'.head = k.head + 1 ∧ k'.tail = k.tail ∧ k'.done = k.done ∧
    k'.refetch = 0 ∧ k'.blocked = false ∧ k'.waitRec = [] ∧ k'.recs = k.recs ++ [⟨k.head, ws, none, false, o, false, (State.recEntries ws).map fun i => (i, s.tableCap (tenantFn s fn) i), 0⟩]

/-- The record at the head of a queue is to be read, and its slot's bytes, which are not cached, are `ws` (R107). -/
def AtHead (s : State) (fn q : Nat) (k : HostQueue) (ws : List Word) : Prop :=
  s.queueAt fn q = some k ∧ State.considers k = true ∧ k.cached = [] ∧ Readable s (tenantFn s fn) k.ring.toNat (128 * (k.head.toNat % 2 ^ k.lgEnt)) 128 ∧
    ws = recWords (readBytes s k.ring.toNat (128 * (k.head.toNat % 2 ^ k.lgEnt)) 128)

/-- A table reference names a signal word that can be written (R103, R112, R115). -/
def SignalWord (s : State) (t : Nat) (v : Word) (c : Cap) (off : Nat) : Prop :=
  s.resolveRef t v [0, 1, 2] 8 = some (c, off) ∧ off % 8 = 0 ∧ Writable s t (Cap.obj c) off 8

/-- A member list in memory (R408): the step limit and the members, by logical chip and core. -/
def MemberTable (s : State) (t : Nat) (v : Word) (limit : BitVec 32) (members : List (Nat × Nat)) : Prop :=
  ∃ c off, s.resolveRef t v [0] 8 = some (c, off) ∧ Readable s t (Cap.obj c) off 8 ∧ 1 ≤ members.length ∧ members.length ≤ 1024 ∧
    nfield (wordAt s (Cap.obj c) off) 0 16 = members.length ∧ nfield (wordAt s (Cap.obj c) off) 16 16 = 0 ∧
    field (wordAt s (Cap.obj c) off) 32 32 = limit ∧ Cap.within c off (8 + 4 * members.length) = true ∧
    Readable s t (Cap.obj c) (off + 8) (4 * members.length) ∧
    ∀ i < members.length, ∀ x, x = natOfBytes (readBytes s (Cap.obj c) (off + 8 + 4 * i) 4) → x < 2 ^ 19 ∧ members[i]? = some (x % 2 ^ 10, x / 2 ^ 10)

/-- A membership record of an operation changes its group: the next version waits for its installation (R116, R409); one that is malformed, or
made for another version, completes with 0x02 or 0x07 (R108). -/
def ChangesGroup (i : Instr) (fn q : Nat) (idx : BitVec 32) (op : Nat) (table : State → Nat → List Word → BitVec 32 × List (Nat × Nat) → Prop)
    (next : Version → List Word → BitVec 32 × List (Nat × Nat) → Version) : Prop :=
  (∀ ws tb old v, Happens i
    (fun s => FirmwareRuns s ∧ Consumed s fn q idx (fun w => recKind w == 4 && nfield (hostWord w 1) 16 2 == op) ws ∧
      table s (tenantFn s fn) ws tb ∧ (s.newestVersion (tenantFn s fn) (nfield (hostWord ws 1) 0 16)).getD ⟨0, 0, [], []⟩ = old ∧
      old.num = field (hostWord ws 1) 32 32 ∧ v = next old ws tb ∧ v.members.length ≤ 1024 ∧
      (op = 1 → nfield (hostWord ws 3) 0 16 < old.members.length) ∧ (op ≠ 1 → v.members.eraseDups.length = v.members.length))
    fun s t => Begins fn q idx none s t ∧ t.cores = s.cores ∧ t.hbm = s.hbm ∧
      ∃ x, t.collGroup (tenantFn s fn) (nfield (hostWord ws 1) 0 16) = some x ∧
        x.installed = ((s.collGroup (tenantFn s fn) (nfield (hostWord ws 1) 0 16)).map Group.installed).getD [] ∧
        x.waiting = ((s.collGroup (tenantFn s fn) (nfield (hostWord ws 1) 0 16)).map Group.waiting).getD [] ++ [⟨v, none⟩]) ∧
  (∀ ws tb old v, Happens i
    (fun s => FirmwareRuns s ∧ Consumed s fn q idx (fun w => recKind w == 4 && nfield (hostWord w 1) 16 2 == op) ws ∧
      table s (tenantFn s fn) ws tb ∧ (s.newestVersion (tenantFn s fn) (nfield (hostWord ws 1) 0 16)).getD ⟨0, 0, [], []⟩ = old ∧
      old.num ≠ field (hostWord ws 1) 32 32 ∧ v = next old ws tb ∧ v.members.length ≤ 1024 ∧
      (op = 1 → nfield (hostWord ws 3) 0 16 < old.members.length) ∧ (op ≠ 1 → v.members.eraseDups.length = v.members.length))
    (Ends fn q idx 0x07 0 none)) ∧
  ∀ ws tb old v, Happens i
    (fun s => FirmwareRuns s ∧ Consumed s fn q idx (fun w => recKind w == 4 && nfield (hostWord w 1) 16 2 == op) ws ∧
      table s (tenantFn s fn) ws tb ∧ (s.newestVersion (tenantFn s fn) (nfield (hostWord ws 1) 0 16)).getD ⟨0, 0, [], []⟩ = old ∧
      v = next old ws tb ∧ (1024 < v.members.length ∨ (op = 1 ∧ old.members.length ≤ nfield (hostWord ws 3) 0 16) ∨
        (op ≠ 1 ∧ v.members.eraseDups.length ≠ v.members.length)))
    (Ends fn q idx 0x02 0 none)

/-- The host memory that the device has written is in canonical form. -/
abbrev HostCanonical (s : State) : Prop := SMap.wf none s.host.hostMem = true

/-- A service record of an operation that the front end has consumed (R118). -/
def Asks (s : State) (fn q : Nat) (idx : BitVec 32) (op : Nat) (ws : List Word) : Prop :=
  FirmwareRuns s ∧ Consumed s fn q idx (fun w => recKind w == 6 && nfield (hostWord w 1) 0 16 == op) ws

/-- What a register-write service looks for (R123): its register and a value that `p` admits, or a record that names no register. -/
def regRecord (id : Nat) (p : Word → Bool) (w : List Word) : Bool :=
  recKind w == 6 && (nfield (hostWord w 1) 0 16 == 7 && ((nfield (hostWord w 2) 0 16 == id && p (hostWord w 3)) ||
    !(List.contains [1, 2, 3, 4, 5, 6, 8, 9] (nfield (hostWord w 2) 0 16))))

/-- A service record of the PF that writes a register with an index and a value (R123). -/
def WritesReg (s : State) (q : Nat) (idx : BitVec 32) (id : Nat) (p : Word → Bool) (i : Nat) (v : Word) : Prop :=
  ∃ ws, Consumed s 0 q idx (regRecord id p) ws ∧ nfield (hostWord ws 2) 0 16 = id ∧ nfield (hostWord ws 2) 16 16 = i ∧ hostWord ws 3 = v

/-- Frames and object ids are free in plenty: `n` more can be taken from any stack. -/
def HasRoom (s : State) (n : Nat) : Prop := s.usedFrames.length + n < 24000 ∧ s.hbm.objs.length + n < 2 ^ 23 ∧ s.dev.snReserve ≤ 25

/-- A write of the debug controls (R516, R517): the freeze bits are as written, debug is enabled only where the PF's tenant or no one holds the
partition, and nothing else of the package changes but the record's queue. -/
def SetsDebug (v : Word) (q : Nat) (idx : BitVec 32) (s t : State) : Prop :=
  t = { s with dev := { s.dev with dbgctl := t.dev.dbgctl }, cores := t.cores, host := t.host } ∧ FreezeFlushes s t ∧ Begins 0 q idx (some (0, 0, some t.dev.dbgctl)) s t ∧
    (∀ i, 32 ≤ i → i < 45 → bit t.dev.dbgctl i = bit v i) ∧
    ∀ i < 12, bit t.dev.dbgctl i = (bit v i && match (s.partition i).holder with | none => true | some h => h == tenantFn s 0)

/-- A core that a team of a tenant may be placed on at once (R141, R147). -/
def CoreFreeFor (s : State) (t n : Nat) : Prop :=
  (s.coreAt n).team = none ∧ (s.partition (n / 32)).holder = some t ∧ (s.partition (n / 32)).turning = false

/-- Core `n` runs rank `i` of a team from its launch's first instruction (R112, R113, R142): arguments in `s1` to `s6`, every other register
and capability zero. -/
def StartsMember (k i n : Nat) (tm : Team) (la : Launch) (s t : State) : Prop :=
  let c := t.coreAt n
  c.run = .running ∧ c.team = some k ∧ c.rank = i ∧ c.pc = la.codeOff ∧ Cap.obj c.fetchCap = Cap.obj la.codeCap ∧
    c.sp.tmrank = BitVec.ofNat 5 i ∧ c.sp.tmsize = BitVec.ofNat 6 la.teamSize ∧ c.sp.tmid = BitVec.ofNat 24 tm.index ∧
    c.sp.tmcount = BitVec.ofNat 24 la.teamCount ∧ c.sp.cyc = (s.coreAt n).sp.cyc ∧ c.sp.vt = 0xB030D ∧ c.sp.evec = 0 ∧
    (∀ r : SReg, c.rs r = if 1 ≤ r.val ∧ r.val ≤ 6 then (la.args[r.val - 1]?).getD 0 else 0) ∧ (∀ r : CReg, c.rc r = 0) ∧
    c.board.entries = [] ∧ c.board.rres = (s.coreAt n).board.rres ∧ c.eng.rows = (s.coreAt n).eng.rows

/-- One team waits for cores, alone in the package, and a die of its mask is wholly free for it. -/
def OneTeamWaits (s : State) (l k d : Nat) (la : Launch) (tm : Team) : Prop :=
  s.launchList = [(l, la)] ∧ s.launch l = some la ∧ s.teamList = [(k, tm)] ∧ s.team k = some tm ∧ k ≠ s.sched.nextTeam ∧ tm.launch = l ∧
    tm.state = .pending ∧ tm.cores = [] ∧ tm.index ≤ la.made ∧ la.eligible = true ∧ la.abort = none ∧ la.coplace = false ∧ la.pool = [] ∧
    1 ≤ la.teamSize ∧ la.teamSize ≤ 32 ∧ la.prio ≤ 7 ∧ la.tenant ∈ s.tenantIds ∧ d < 12 ∧ la.partMask.getLsbD d = true ∧
    ∀ i < 32, CoreFreeFor s la.tenant (32 * d + i)

/-- A team of 32 waits for the one die of its mask, where a team of its class and tenant runs that may rotate (R150). -/
def OneTeamRotates (s : State) (l k d lv v : Nat) (la lav : Launch) (tm tv : Team) : Prop :=
  s.launch l = some la ∧ s.launch lv = some lav ∧ s.teamList = [(v, tv), (k, tm)] ∧ s.team k = some tm ∧ s.team v = some tv ∧ k ≠ v ∧
    s.launchList = [(lv, lav), (l, la)] ∧ k ≠ s.sched.nextTeam ∧ v ≠ s.sched.nextTeam ∧ tm.launch = l ∧ tv.launch = lv ∧ tm.state = .pending ∧
    tm.cores = [] ∧ tm.index ≤ la.made ∧ la.eligible = true ∧ la.abort = none ∧ la.coplace = false ∧ lav.coplace = false ∧ lav.persist = false ∧
    lav.prio = la.prio ∧ lav.tenant = la.tenant ∧ la.teamSize = 32 ∧ d < 12 ∧ (∀ e < 12, la.partMask.getLsbD e = decide (e = d)) ∧
    (s.partition d).holder = some la.tenant ∧ (s.partition d).turning = false ∧ tv.state = .placed ∧
    tv.cores = (List.range 32).map (32 * d + ·) ∧ ∀ n ∈ tv.cores, (s.coreAt n).team = some v

/-- The tenant of a partition that is not sliced (R127). -/
def FixedTo (s : State) (d a : Nat) : Prop :=
  bit (s.partition d).assign 15 = false ∧ nfield (s.partition d).assign 0 9 = a ∧ (s.tenant a).live = true

/-- One error counter of a function counts up, to its greatest value (R490, R491), and nothing else of the package changes. -/
def Counts (f i : Nat) (s t : State) : Prop :=
  OnlyHost s t ∧ (∀ g, g ≠ f → t.hostFn g = s.hostFn g) ∧ ∀ k, SMap.get 0 (t.hostFn f).counters k =
    if k = i ∧ SMap.get 0 (s.hostFn f).counters k ≠ BitVec.allOnes 64 then SMap.get 0 (s.hostFn f).counters k + 1 else SMap.get 0 (s.hostFn f).counters k

/-- An operation of the access unit that is sent (R353). -/
def SentOp (s : State) (n k : Nat) (o : AccOp) : Prop := CoreRuns s n ∧ (s.coreAt n).accOp k = some o ∧ o.phase = .sent

/-- An operation of the access unit is as given, and the registers are as before, as is every other core. -/
def OpBecomes (n k : Nat) (o : Option AccOp) (s t : State) : Prop :=
  (t.coreAt n).accOp k = o ∧ (t.coreAt n).regs = (s.coreAt n).regs ∧ (t.coreAt n).pc = (s.coreAt n).pc ∧ ∀ m, m ≠ n → t.coreAt m = s.coreAt m

/-- Memory that no generation, hold buffer or migration has touched. -/
def PlainMemory (s : State) : Prop := MemoryCanonical s ∧ s.hbm.moved = [] ∧ s.hbm.redirects = [] ∧ s.hbm.kept = [] ∧ s.hbm.holds = []

/-- An entry of a window changes as given, and nothing else of the package does. -/
def EntryBecomes (n : Nat) (seq : BitVec 32) (f : Entry → Entry) (s t : State) : Prop :=
  CoreBecomes n { s.coreAt n with board := { (s.coreAt n).board with entries := (s.coreAt n).board.entries.map fun e => if e.seq = seq then f e else e } } s t

/-- A generation's home changes (R459, R462): the tenant's other fields, every other tenant, the cores and the bytes of HBM are as before. -/
def GenBecomes (x : Nat) (s t : State) (p : GenHome → Prop) : Prop :=
  p (t.tenant x).gen ∧ t.tenant x = { s.tenant x with gen := (t.tenant x).gen } ∧ (∀ y, y ≠ x → t.tenant y = s.tenant y) ∧ t.cores = s.cores ∧
    t.hbm.mem = s.hbm.mem

/-- A task may start at the head of its queue, without a guard word and with no rows renamed for it. -/
def TaskStarts (s : State) (n : Nat) (seq : BitVec 32) (kind : Nat) (e : Entry) : Prop :=
  CoreRuns s n ∧ s.mayStart n seq kind = some e ∧ e.post.gwEn = false ∧ e.prog.redo = 0 ∧ e.wtr = []

/-- The same of a record of the matrix queue that begins no segment and meets no bad word. -/
def MatrixStarts (s : State) (n : Nat) (seq : BitVec 32) (kind : Nat) (e : Entry) : Prop :=
  TaskStarts s n seq kind e ∧ e.post.tileStart = false ∧ consumesBad e none (s.coreAt n) = false

/-- Outside the window and the engines of a core nothing changes, but for the counters of the host side. -/
def OnlyWindow (n : Nat) (s t : State) : Prop :=
  t.hbm = s.hbm ∧ (∀ m, m ≠ n → t.coreAt m = s.coreAt m) ∧ (t.coreAt n).regs = (s.coreAt n).regs ∧ (t.coreAt n).pc = (s.coreAt n).pc

/-- A task stands in its window as `p` says. -/
def TaskIs (n : Nat) (seq : BitVec 32) (t : State) (p : Entry → Prop) : Prop := ∃ x, (t.coreAt n).entry seq = some x ∧ p x

/-- A task's engine has done all its work, without a fault. -/
def TaskDone (n : Nat) (seq : BitVec 32) (s t : State) : Prop :=
  OnlyWindow n s t ∧ TaskIs n seq t fun x => x.state = .executing ∧ x.prog.fin = true ∧ x.fault = none

/-- A function gives different rows different values. -/
def Injective (f : Nat → Nat) : Prop := ∀ a b, f a = f b → a = b

/-- Rows of a walk are different rows. -/
def RowsApart (f : Nat → Nat) (n : Nat) : Prop := ∀ a b, a < n → b < n → f a = f b → a = b

/-- A copy task that runs on a channel, with its oldest request. -/
def OldestRequest (s : State) (n chan : Nat) (e : Entry) (w : CopyWalk) (r : CopyReq) : Prop :=
  CoreRuns s n ∧ s.channelTask n chan = some (e, w) ∧ (State.chanReqs (s.coreAt n) chan).head? = some r ∧ r.answered = false ∧ r.flow = none ∧
    r.data = none ∧ 0 < r.len

/-- The request of a channel is done, and the walk stands behind it. -/
def RequestDone (n : Nat) (e : Entry) (w : CopyWalk) (r : CopyReq) (s t : State) : Prop :=
  (∀ m, m ≠ n → t.coreAt m = s.coreAt m) ∧ (t.coreAt n).regs = (s.coreAt n).regs ∧
    (t.coreAt n).eng.copyReqs = (s.coreAt n).eng.copyReqs.filter (·.tag != r.tag) ∧
    TaskIs n e.seq t fun x => x.prog.at' = r.walk + r.len ∧ x.prog.fin = decide (w.total ≤ r.walk + r.len)

/-- A ring's next item, from byte `lo` of the walk to byte `hi`, is one run of an object at offset `off` (R341, R343), in the box and the window of
the subscription; `pad` is the scratchpad address of its slot. -/
def RingItem (s : State) (n k : Nat) (fill : Bool) (r : Ring) (e : Entry) (off lo hi pad : Nat) : Prop :=
  CoreRuns s n ∧ (s.coreAt n).ring k = some r ∧ (s.coreAt n).entry r.seq = some e ∧ r.started = true ∧ r.mode = (if fill then 0 else 1) ∧
    r.tide < r.items ∧ e.fault = none ∧ .engine e.queue ∉ (s.coreAt n).frozen ∧ (s.coreAt n).stopping = false ∧
    (if fill then r.tide < r.slots else (s.coreAt n).fillDone k r.tide r = true) ∧ lo = r.tide * (512 * r.height) ∧
    pad = (r.row0 + r.tide % r.slots * r.height) * 512 ∧
    ∃ x b st, State.ringNest e r = some x ∧ e.post.box 0 = some b ∧ b.space = .hbm ∧ hi = min (lo + 512 * r.height) x.total ∧ lo < hi ∧
      lo / x.len = (hi - 1) / x.len ∧ off = st + lo % x.len ∧
      ((st : Nat) : Int) = (if fill then (x.transfer (lo / x.len)).1 else (x.transfer (lo / x.len)).2.1) ∧
      b.granOff * 4096 ≤ st ∧ st + x.len ≤ (b.granOff + b.granCnt) * 4096 ∧ Cap.within (e.post.cap 0) st x.len = true

/-- A message of another chip, on an unordered flow, that has not been seen. -/
def NewMessage (s : State) (m : FlowMsg) : Prop :=
  DeviceRuns s ∧ m.flow.dstChip = s.dev.chip ∧ m.flow.srcChip ≠ s.dev.chip ∧ m.flow.ordered = false ∧ (s.flowIn m.flow).seen m.seq = false ∧
    s.inSlot m.flow m.seq = false ∧ s.inWaiting m.flow m.seq = false

/-- A message of a core to another chip that is kept for its answer. -/
def Awaits (s : State) (core : Nat) (f : FlowId) (seq : BitVec 32) (u : Unacked) : Prop :=
  CoreRuns s core ∧ f.srcChip = s.dev.chip ∧ f.srcCore = core ∧ f.dstChip ≠ s.dev.chip ∧ s.unacked f seq = some u ∧ u.msg.flow = f ∧ u.msg.seq = seq

/-- An open step that does not close yet: its end lines have not gone, and its own member was not withdrawn as it opened (R414, R418). -/
def StepStays (s : State) (n : Nat) (seq : BitVec 32) (x : CollStep) : Prop :=
  s.openStep n seq = some x ∧ x.endsSent = false ∧ x.atOnce = false

/-- A line of a member of another chip comes to a window (R416). -/
def LineComes (s : State) (n : Nat) (l : Line) (v : Option Version) : Prop :=
  CoreRuns s n ∧ s.fab.net = [] ∧ (s.coreAt n).team.isSome = true ∧
    ∀ w, (v.bind fun v => v.members[l.sender]?) = some w → s.ownLid (s.tenantOf n) w.1 = false

/-- A notice changes a member of a group in the version in force (R410). -/
def MarksMember (i : Instr) (x g m : Nat) (st : MemberState) (when : State → Prop) : Prop :=
  ∀ w v, Happens i (fun s => DeviceRuns s ∧ s.memberAt x g m = some w ∧ s.ownLid x w.1 = false ∧ s.collVersion x g = some v ∧ when s)
    fun s t => t.hbm = s.hbm ∧ t.cores = s.cores ∧
      t.collVersion x g = some { v with states := (v.members.zip v.states).map fun p => if p.1 = w ∧ p.2 ≠ .withdrawn then st else p.2 }

/-- Every map whose entries a merge takes in rising order is in canonical form. -/
def MapsCanonical (s : State) : Prop :=
  MemoryCanonical s ∧ HostCanonical s ∧ SMap.wf 0 s.hbm.lower = true ∧ ∀ n, let c := s.coreAt n
    SMap.wf 0 c.eng.acc = true ∧ (∀ k, c.eng.checkpoint = some k → SMap.wf 0 k.entries = true) ∧
      (∀ e ∈ c.board.entries, SMap.wf 0 e.wtr = true) ∧ ∀ u ∈ c.board.units, SMap.wf 0 u.spec = true

end Sys2Proof
end

