-- ==== Sys2Proof/Certificates/Slice0/Obligations.lean ====
section
/-!
DEFINITION. What is claimed of the model: one proposition for each obligation, in the order of OBLIGATIONS.json. Values are written as
the manual writes them, over the state before the instruction.
-/

open Sys2Proof Sys2Proof.Machine Sys2Proof.Bits

/-! ### Scalar integer arithmetic -/

/-- Sums, products and bitwise results of the three-register family (R184): each completes, writes its destination alone, and raises
nothing. -/
def Obligations.ScalarSumsAndProducts : Prop :=
  ∀ d a b : SReg,
    SetsScalar (.add d a b) (.solo (.add d a b)) d (fun c => c.rs a + c.rs b) ∧
    SetsScalar (.sub d a b) (.solo (.sub d a b)) d (fun c => c.rs a - c.rs b) ∧
    SetsScalar (.mul d a b) (.solo (.mul d a b)) d (fun c => BitVec.ofInt 64 ((c.rs a).toInt * (c.rs b).toInt)) ∧
    SetsScalar (.mulh d a b) (.solo (.mulh d a b)) d (fun c => (BitVec.ofInt 128 ((c.rs a).toInt * (c.rs b).toInt)).extractLsb' 64 64) ∧
    SetsScalar (.mulhu d a b) (.solo (.mulhu d a b)) d (fun c => (BitVec.ofNat 128 ((c.rs a).toNat * (c.rs b).toNat)).extractLsb' 64 64) ∧
    SetsScalar (.and d a b) (.solo (.and d a b)) d (fun c => c.rs a &&& c.rs b) ∧
    SetsScalar (.or d a b) (.solo (.or d a b)) d (fun c => c.rs a ||| c.rs b) ∧
    SetsScalar (.xor d a b) (.solo (.xor d a b)) d (fun c => c.rs a ^^^ c.rs b) ∧
    SetsScalar (.andn d a b) (.solo (.andn d a b)) d (fun c => c.rs a &&& ~~~(c.rs b))

/-- Division by zero and the one quotient that does not fit give the values of R185, and no division traps or raises a flag. -/
def Obligations.Division : Prop :=
  ∀ d a b : SReg,
    SetsScalar (.div d a b) (.solo (.div d a b)) d (fun c =>
      if c.rs b = 0 then -1 else if c.rs a = 0x8000000000000000 ∧ c.rs b = -1 then 0x8000000000000000
      else BitVec.ofInt 64 ((c.rs a).toInt.tdiv (c.rs b).toInt)) ∧
    SetsScalar (.divu d a b) (.solo (.divu d a b)) d (fun c =>
      if c.rs b = 0 then -1 else BitVec.ofNat 64 ((c.rs a).toNat / (c.rs b).toNat)) ∧
    SetsScalar (.rem d a b) (.solo (.rem d a b)) d (fun c =>
      if c.rs b = 0 then c.rs a else if c.rs a = 0x8000000000000000 ∧ c.rs b = -1 then 0
      else BitVec.ofInt 64 ((c.rs a).toInt.tmod (c.rs b).toInt)) ∧
    SetsScalar (.remu d a b) (.solo (.remu d a b)) d (fun c =>
      if c.rs b = 0 then c.rs a else BitVec.ofNat 64 ((c.rs a).toNat % (c.rs b).toNat))

/-- Shifts and rotations by the low six bits of the second operand, minima and maxima, and the clamped sum and difference with SAT
(R184, R57). -/
def Obligations.ScalarShiftsAndExtrema : Prop :=
  ∀ d a b : SReg,
    SetsScalar (.shl d a b) (.solo (.shl d a b)) d (fun c => c.rs a <<< ((c.rs b).toNat % 64)) ∧
    SetsScalar (.shr d a b) (.solo (.shr d a b)) d (fun c => c.rs a >>> ((c.rs b).toNat % 64)) ∧
    SetsScalar (.sra d a b) (.solo (.sra d a b)) d (fun c => BitVec.ofInt 64 ((c.rs a).toInt >>> ((c.rs b).toNat % 64))) ∧
    SetsScalar (.rol d a b) (.solo (.rol d a b)) d
      (fun c => c.rs a <<< ((c.rs b).toNat % 64) ||| c.rs a >>> (64 - (c.rs b).toNat % 64)) ∧
    SetsScalar (.ror d a b) (.solo (.ror d a b)) d
      (fun c => c.rs a >>> ((c.rs b).toNat % 64) ||| c.rs a <<< (64 - (c.rs b).toNat % 64)) ∧
    SetsScalar (.min d a b) (.solo (.min d a b)) d (fun c => BitVec.ofInt 64 (min (c.rs a).toInt (c.rs b).toInt)) ∧
    SetsScalar (.max d a b) (.solo (.max d a b)) d (fun c => BitVec.ofInt 64 (max (c.rs a).toInt (c.rs b).toInt)) ∧
    SetsScalar (.minu d a b) (.solo (.minu d a b)) d (fun c => BitVec.ofNat 64 (min (c.rs a).toNat (c.rs b).toNat)) ∧
    SetsScalar (.maxu d a b) (.solo (.maxu d a b)) d (fun c => BitVec.ofNat 64 (max (c.rs a).toNat (c.rs b).toNat)) ∧
    SetsScalar (.adds d a b) (.solo (.adds d a b)) d
      (fun c => BitVec.ofInt 64 (max (-(2 ^ 63)) (min (2 ^ 63 - 1) ((c.rs a).toInt + (c.rs b).toInt))))
      (fun c => if (c.rs a).toInt + (c.rs b).toInt < -(2 ^ 63) ∨ 2 ^ 63 - 1 < (c.rs a).toInt + (c.rs b).toInt then 0x20 else 0) ∧
    SetsScalar (.subs d a b) (.solo (.subs d a b)) d
      (fun c => BitVec.ofInt 64 (max (-(2 ^ 63)) (min (2 ^ 63 - 1) ((c.rs a).toInt - (c.rs b).toInt))))
      (fun c => if (c.rs a).toInt - (c.rs b).toInt < -(2 ^ 63) ∨ 2 ^ 63 - 1 < (c.rs a).toInt - (c.rs b).toInt then 0x20 else 0)

/-- Immediates, sign-extended from 32 bits or whole doublewords, and shift amounts up to 63 (R186, R187). -/
def Obligations.ScalarImmediates : Prop :=
  ∀ (d a : SReg) (imm : BitVec 32) (x : Word),
    SetsScalar (.addi d a imm) (.solo (.addi d a imm)) d (fun c => c.rs a + imm.signExtend 64) ∧
    SetsScalar (.andi d a imm) (.solo (.andi d a imm)) d (fun c => c.rs a &&& imm.signExtend 64) ∧
    SetsScalar (.ori d a imm) (.solo (.ori d a imm)) d (fun c => c.rs a ||| imm.signExtend 64) ∧
    SetsScalar (.xori d a imm) (.solo (.xori d a imm)) d (fun c => c.rs a ^^^ imm.signExtend 64) ∧
    (imm.toNat ≤ 63 →
      SetsScalar (.shli d a imm) (.solo (.shli d a imm)) d (fun c => c.rs a <<< imm.toNat) ∧
      SetsScalar (.shri d a imm) (.solo (.shri d a imm)) d (fun c => c.rs a >>> imm.toNat) ∧
      SetsScalar (.srai d a imm) (.solo (.srai d a imm)) d (fun c => BitVec.ofInt 64 ((c.rs a).toInt >>> imm.toNat)) ∧
      SetsScalar (.rori d a imm) (.solo (.rori d a imm)) d (fun c => c.rs a >>> imm.toNat ||| c.rs a <<< (64 - imm.toNat))) ∧
    SetsScalar (.li d x) (.solo (.li d x)) d (fun _ => x) ∧
    SetsScalar (.addl d a x) (.solo (.addl d a x)) d (fun c => c.rs a + x) ∧
    SetsScalar (.andl d a x) (.solo (.andl d a x)) d (fun c => c.rs a &&& x) ∧
    SetsScalar (.orl d a x) (.solo (.orl d a x)) d (fun c => c.rs a ||| x) ∧
    SetsScalar (.xorl d a x) (.solo (.xorl d a x)) d (fun c => c.rs a ^^^ x)

/-- Counts, reversals, interleavings and fields (R188 to R192): each bit of the result is the bit of the operand that the manual
names. -/
def Obligations.BitOperations : Prop :=
  ∀ (d a b c : SReg) (p : PReg) (k : BitVec 2) (pos : BitVec 6) (len : BitVec 7),
    (∃ n : Word → Nat, SetsScalar (.clz d a) (.solo (.clz d a)) d (fun x => BitVec.ofNat 64 (n (x.rs a))) ∧
      ∀ w : Word, n w ≤ 64 ∧ (∀ i, 64 - n w ≤ i → w.getLsbD i = false) ∧ (n w < 64 → w.getLsbD (63 - n w) = true)) ∧
    (∃ n : Word → Nat, SetsScalar (.ctz d a) (.solo (.ctz d a)) d (fun x => BitVec.ofNat 64 (n (x.rs a))) ∧
      ∀ w : Word, n w ≤ 64 ∧ (∀ i, i < n w → w.getLsbD i = false) ∧ (n w < 64 → w.getLsbD (n w) = true)) ∧
    SetsScalar (.popc d a) (.solo (.popc d a)) d (fun x => BitVec.ofNat 64 ((List.range 64).countP fun i => (x.rs a).getLsbD i)) ∧
    SetsBits (.brev d a) (.solo (.brev d a)) d (fun x i => (x.rs a).getLsbD (63 - i)) ∧
    SetsBits (.bswap d a) (.solo (.bswap d a)) d (fun x i => (x.rs a).getLsbD (8 * (7 - i / 8) + i % 8)) ∧
    SetsBits (.bilv2 d a b) (.solo (.bilv2 d a b)) d
      (fun x i => if i % 2 = 0 then (x.rs a).getLsbD (i / 2) else (x.rs b).getLsbD (i / 2)) ∧
    SetsBits (.bilv3 d a b c) (.solo (.bilv3 d a b c)) d
      (fun x i => i < 63 && (if i % 3 = 0 then (x.rs a).getLsbD (i / 3) else if i % 3 = 1 then (x.rs b).getLsbD (i / 3) else (x.rs c).getLsbD (i / 3))) ∧
    (k.toNat < 2 → SetsBits (.bdil2 d a k) (.solo (.bdil2 d a k)) d (fun x i => i < 32 && (x.rs a).getLsbD (2 * i + k.toNat))) ∧
    (k.toNat < 3 → SetsBits (.bdil3 d a k) (.solo (.bdil3 d a k)) d (fun x i => i < 21 && (x.rs a).getLsbD (3 * i + k.toNat))) ∧
    (1 ≤ len.toNat → pos.toNat + len.toNat ≤ 64 →
      SetsBits (.ext d a pos len) (.solo (.ext d a pos len)) d
        (fun x i => (x.rs a).getLsbD (pos.toNat + min i (len.toNat - 1))) ∧
      SetsBits (.extz d a pos len) (.solo (.extz d a pos len)) d
        (fun x i => i < len.toNat && (x.rs a).getLsbD (pos.toNat + i)) ∧
      SetsBits (.ins d a pos len) (.solo (.ins d a pos len)) d
        (fun x i => if pos.toNat ≤ i ∧ i < pos.toNat + len.toNat then (x.rs a).getLsbD (i - pos.toNat) else (x.rs d).getLsbD i)) ∧
    SetsScalar (.sel d a b p) (.solo (.sel d a b p)) d (fun x => if x.rp p then x.rs a else x.rs b)

/-- The scalar slots of pair words compute as the instructions of the same name (R177, R186). -/
def Obligations.ScalarSlots : Prop :=
  ∀ (d a b : SReg) (imm : BitVec 5),
    (∀ s, MayIssue (.slot .snop) s → ∃ t, exec .snop s = .next t ∧ Keeps {} s t ∧ t.core.pc = nextPc s 1) ∧
    SetsScalar (.addSlot d a b) (.slot (.addSlot d a b)) d (fun c => c.rs a + c.rs b) ∧
    SetsScalar (.subSlot d a b) (.slot (.subSlot d a b)) d (fun c => c.rs a - c.rs b) ∧
    SetsScalar (.mulSlot d a b) (.slot (.mulSlot d a b)) d (fun c => BitVec.ofInt 64 ((c.rs a).toInt * (c.rs b).toInt)) ∧
    SetsScalar (.andSlot d a b) (.slot (.andSlot d a b)) d (fun c => c.rs a &&& c.rs b) ∧
    SetsScalar (.orSlot d a b) (.slot (.orSlot d a b)) d (fun c => c.rs a ||| c.rs b) ∧
    SetsScalar (.xorSlot d a b) (.slot (.xorSlot d a b)) d (fun c => c.rs a ^^^ c.rs b) ∧
    SetsScalar (.andnSlot d a b) (.slot (.andnSlot d a b)) d (fun c => c.rs a &&& ~~~(c.rs b)) ∧
    SetsScalar (.shlSlot d a b) (.slot (.shlSlot d a b)) d (fun c => c.rs a <<< ((c.rs b).toNat % 64)) ∧
    SetsScalar (.shrSlot d a b) (.slot (.shrSlot d a b)) d (fun c => c.rs a >>> ((c.rs b).toNat % 64)) ∧
    SetsScalar (.sraSlot d a b) (.slot (.sraSlot d a b)) d (fun c => BitVec.ofInt 64 ((c.rs a).toInt >>> ((c.rs b).toNat % 64))) ∧
    SetsScalar (.minSlot d a b) (.slot (.minSlot d a b)) d (fun c => BitVec.ofInt 64 (min (c.rs a).toInt (c.rs b).toInt)) ∧
    SetsScalar (.maxSlot d a b) (.slot (.maxSlot d a b)) d (fun c => BitVec.ofInt 64 (max (c.rs a).toInt (c.rs b).toInt)) ∧
    SetsScalar (.minuSlot d a b) (.slot (.minuSlot d a b)) d (fun c => BitVec.ofNat 64 (min (c.rs a).toNat (c.rs b).toNat)) ∧
    SetsScalar (.maxuSlot d a b) (.slot (.maxuSlot d a b)) d (fun c => BitVec.ofNat 64 (max (c.rs a).toNat (c.rs b).toNat)) ∧
    SetsScalar (.addiSlot d a imm) (.slot (.addiSlot d a imm)) d (fun c => c.rs a + imm.signExtend 64) ∧
    (imm.toNat ≤ 15 →
      SetsScalar (.shliSlot d a imm) (.slot (.shliSlot d a imm)) d (fun c => c.rs a <<< imm.toNat) ∧
      SetsScalar (.shriSlot d a imm) (.slot (.shriSlot d a imm)) d (fun c => c.rs a >>> imm.toNat) ∧
      SetsScalar (.sraiSlot d a imm) (.slot (.sraiSlot d a imm)) d (fun c => BitVec.ofInt 64 ((c.rs a).toInt >>> imm.toNat)))

/-- Compares write one predicate (R197), in the long and the slot forms (R177, R187). -/
def Obligations.Compares : Prop :=
  ∀ (k : ICond) (p : PReg) (a b : SReg) (imm : BitVec 32) (i5 : BitVec 5) (x : Word),
    SetsPredicate (.cmp k p a b) (.solo (.cmp k p a b)) p (fun c => Compared k (c.rs a) (c.rs b)) ∧
    SetsPredicate (.cmpi k p a imm) (.solo (.cmpi k p a imm)) p (fun c => Compared k (c.rs a) (imm.signExtend 64)) ∧
    SetsPredicate (.cmpl k p a x) (.solo (.cmpl k p a x)) p (fun c => Compared k (c.rs a) x) ∧
    SetsPredicate (.cmpEqSlot p a b) (.slot (.cmpEqSlot p a b)) p (fun c => Compared .eq (c.rs a) (c.rs b)) ∧
    SetsPredicate (.cmpNeSlot p a b) (.slot (.cmpNeSlot p a b)) p (fun c => Compared .ne (c.rs a) (c.rs b)) ∧
    SetsPredicate (.cmpLtSlot p a b) (.slot (.cmpLtSlot p a b)) p (fun c => Compared .lt (c.rs a) (c.rs b)) ∧
    SetsPredicate (.cmpLtuSlot p a b) (.slot (.cmpLtuSlot p a b)) p (fun c => Compared .ltu (c.rs a) (c.rs b)) ∧
    SetsPredicate (.cmpGeSlot p a b) (.slot (.cmpGeSlot p a b)) p (fun c => Compared .ge (c.rs a) (c.rs b)) ∧
    SetsPredicate (.cmpGeuSlot p a b) (.slot (.cmpGeuSlot p a b)) p (fun c => Compared .geu (c.rs a) (c.rs b)) ∧
    SetsPredicate (.cmpiEqSlot p a i5) (.slot (.cmpiEqSlot p a i5)) p (fun c => Compared .eq (c.rs a) (i5.signExtend 64))

/-- Predicate logic, and all predicates moved at once (R199, R200). -/
def Obligations.PredicateLogic : Prop :=
  ∀ (d a b : PReg) (e f g : SReg),
    SetsPredicate (.pand d a b) (.solo (.pand d a b)) d (fun c => c.rp a && c.rp b) ∧
    SetsPredicate (.por d a b) (.solo (.por d a b)) d (fun c => c.rp a || c.rp b) ∧
    SetsPredicate (.pxor d a b) (.solo (.pxor d a b)) d (fun c => xor (c.rp a) (c.rp b)) ∧
    SetsPredicate (.pandn d a b) (.solo (.pandn d a b)) d (fun c => c.rp a && !(c.rp b)) ∧
    SetsPredicate (.pandSlot d a b) (.slot (.pandSlot d a b)) d (fun c => c.rp a && c.rp b) ∧
    SetsPredicate (.porSlot d a b) (.slot (.porSlot d a b)) d (fun c => c.rp a || c.rp b) ∧
    SetsPredicate (.pxorSlot d a b) (.slot (.pxorSlot d a b)) d (fun c => xor (c.rp a) (c.rp b)) ∧
    SetsPredicate (.pandnSlot d a b) (.slot (.pandnSlot d a b)) d (fun c => c.rp a && !(c.rp b)) ∧
    SetsBits (.mfp e) (.solo (.mfp e)) e (fun c i => if h : i < 16 then c.rp ⟨i, h⟩ else false) ∧
    Completes (.mtp f g) (.solo (.mtp f g)) (fun _ => { p := List.range 16 }) fun s t =>
      ∀ r : PReg, t.core.rp r = if r.val ≠ 0 ∧ (s.core.rs g).getLsbD r.val = true then (s.core.rs f).getLsbD r.val else s.core.rp r

/-! ### Scalar floating point -/

/-- Arithmetic computes exactly and rounds once (R194, R195); division of zero and by zero, infinities and NaNs are in the exact
operations, with the values and the flags that the manual lists: no bare NaN is made without NV, a NaN operand raises nothing, and a zero
divisor raises DZ. -/
def Obligations.FloatArithmetic : Prop :=
  (∀ (t : Ty) (r : Rnd) (d a b c : SReg),
    SetsFloat (.fadd t r d a b) (.solo (.fadd t r d a b)) t r d (fun k => FVal.add r (floatOf t (k.rs a)) (floatOf t (k.rs b))) ∧
    SetsFloat (.fsub t r d a b) (.solo (.fsub t r d a b)) t r d (fun k => FVal.add r (floatOf t (k.rs a)) (floatOf t (k.rs b)).negate) ∧
    SetsFloat (.fmul t r d a b) (.solo (.fmul t r d a b)) t r d (fun k => FVal.mul (floatOf t (k.rs a)) (floatOf t (k.rs b))) ∧
    SetsFloat (.fdiv t r d a b) (.solo (.fdiv t r d a b)) t r d (fun k => FVal.div (floatOf t (k.rs a)) (floatOf t (k.rs b))) ∧
    SetsFloat (.fsqrt t r d a) (.solo (.fsqrt t r d a)) t r d (fun k => FVal.sqrt (floatOf t (k.rs a))) ∧
    SetsFloat (.fma t r d a b c) (.solo (.fma t r d a b c)) t r d
      (fun k => FVal.fma r (floatOf t (k.rs a)) (floatOf t (k.rs b)) (floatOf t (k.rs c))) ∧
    SetsFloat (.fmin t d a b) (.solo (.fmin t d a b)) t .rne d (fun k => (FVal.min (floatOf t (k.rs a)) (floatOf t (k.rs b)), 0)) ∧
    SetsFloat (.fmax t d a b) (.solo (.fmax t d a b)) t .rne d (fun k => (FVal.max (floatOf t (k.rs a)) (floatOf t (k.rs b)), 0))) ∧
  ∀ (r : Rnd) (x : FVal) (n p : Bool) (m : Nat) (e k : Int), m ≠ 0 →
    FVal.mul (.fin n 0 e) (.inf p) = (.nan, FFlags.nv) ∧ FVal.mul (.inf p) (.fin n 0 e) = (.nan, FFlags.nv) ∧
    FVal.add r (.inf n) (.inf !n) = (.nan, FFlags.nv) ∧
    FVal.div (.fin n 0 e) (.fin p 0 k) = (.nan, FFlags.nv) ∧ FVal.div (.inf n) (.inf p) = (.nan, FFlags.nv) ∧
    FVal.sqrt (.fin true m e) = (.nan, FFlags.nv) ∧ FVal.sqrt (.inf true) = (.nan, FFlags.nv) ∧
    FVal.sqrt (.fin true 0 e) = (.fin true 0 0, 0) ∧
    FVal.div (.fin n m e) (.fin p 0 k) = (.inf (xor n p), FFlags.dz) ∧
    FVal.add r .nan x = (.nan, 0) ∧ FVal.add r x .nan = (.nan, 0) ∧ FVal.mul .nan x = (.nan, 0) ∧ FVal.mul x .nan = (.nan, 0) ∧
    FVal.div .nan x = (.nan, 0) ∧ FVal.div x .nan = (.nan, 0) ∧ FVal.sqrt .nan = (.nan, 0) ∧
    FVal.min .nan x = .nan ∧ FVal.min x .nan = .nan ∧ FVal.max .nan x = .nan ∧ FVal.max x .nan = .nan ∧
    FVal.min (.fin true 0 e) (.fin false 0 k) = .fin true 0 e ∧ FVal.max (.fin true 0 e) (.fin false 0 k) = .fin false 0 k

/-- A value that a float format holds rounds to its own encoding, in every mode, with no flag and no draw (R51). -/
def Obligations.RoundingKeepsRepresentable : Prop :=
  ∀ (t : Ty) (f : Fmt) (r : Rnd) (g : BitVec 32) (x : Nat), t.fmt? = some f → x < 2 ^ f.bits → f.value x ≠ .nan →
    f.round r (f.value x) g = ⟨x, 0, g⟩

/-- Conversions, classes and compares (R196, R195, R198): an integer result is extended by its own sign, a class has one bit set, and
an unordered compare is true of `NE` and `UN` alone. That an integer result out of range raises NX beside NV is the model's reading (log 20). -/
def Obligations.FloatConversions : Prop :=
  ∀ (td ta : Ty) (r : Rnd) (k : FCond) (d a b : SReg) (p : PReg),
    SetsScalar (.fcvt td ta r d a) (.solo (.fcvt td ta r d a)) d
      (fun c => BitVec.ofNat 64 (convert ta td r ((c.rs a).toNat % 2 ^ ta.width) 0).bits)
      (fun c => (convert ta td r ((c.rs a).toNat % 2 ^ ta.width) 0).flags) ∧
    (td.isInt = true → ta.isInt = false →
      SetsScalar (.fcvti td ta r d a) (.solo (.fcvti td ta r d a)) d
        (fun c => BitVec.ofInt 64 (roundToInt td.lo td.hi r (floatOf ta (c.rs a)) 0).val)
        (fun c => (roundToInt td.lo td.hi r (floatOf ta (c.rs a)) 0).flags)) ∧
    (ta.isInt = true → td.isInt = false →
      SetsScalar (.icvtf td ta r d a) (.solo (.icvtf td ta r d a)) d
        (fun c => BitVec.ofNat 64 (roundElem td r (.ofInt (ta.int (c.rs a).toNat)) 0).bits)
        (fun c => (roundElem td r (.ofInt (ta.int (c.rs a).toNat)) 0).flags)) ∧
    (∀ f, ta.fmt? = some f →
      SetsScalar (.fclass ta d a) (.solo (.fclass ta d a)) d fun c =>
        match floatOf ta (c.rs a) with
        | .inf true => 0x001
        | .fin true 0 _ => 0x008
        | .fin true m _ => if 2 ^ f.fracBits ≤ m then 0x002 else 0x004
        | .fin false 0 _ => 0x010
        | .fin false m _ => if 2 ^ f.fracBits ≤ m then 0x040 else 0x020
        | .inf false => 0x080
        | .nan => 0x100) ∧
    SetsPredicate (.fcmp k ta p a b) (.solo (.fcmp k ta p a b)) p fun c =>
      match k, FVal.cmp (floatOf ta (c.rs a)) (floatOf ta (c.rs b)) with
      | .eq, x => decide (x = some 0)
      | .ne, x => decide (x ≠ some 0)
      | .lt, x => decide (x = some (-1))
      | .le, x => decide (x = some (-1) ∨ x = some 0)
      | .un, x => decide (x = none)
      | .ord, x => decide (x ≠ none)

/-! ### Special registers -/

/-- `MFS` reads a special register into a scalar, and `MTS` writes those that can be written under their own rules (R201): `%fflags`
whole (R57), `%aflags` by writing ones, `%rngl` with the lanes' generators (R54, R56), and a register that cannot be written keeps
its value. `%vt`, `%stgmap`, `%evec` and the bound registers keep reserved fields zero (R8), and a reserved rounding code, bound format or
bound mode leaves that field as it was (R231, R478). -/
def Obligations.SpecialRegisters : Prop :=
  ∀ (d a : SReg) (k : BitVec 12),
    Completes (.mfs d k) (.solo (.mfs d k)) (fun _ => { s := [d.val] })
      (fun s t => t.core.rs d = if d.val = 0 then 0 else readSpecial s.cur s.core k.toNat) ∧
    WritesSpecial 3 a (fun c => { setFlags := some ((c.rs a).setWidth 6) }) (fun _ _ => True) ∧
    WritesSpecial 4 a (fun _ => { special := [4] }) (fun c e => e.sp.aflags = c.sp.aflags &&& ~~~((c.rs a).setWidth 4)) ∧
    WritesSpecial 5 a (fun _ => { special := [5], draws := true })
      (fun c e => e.sp.rngl = (c.rs a).setWidth 32 ∧ e.sp.gens = laneSeeds ((c.rs a).setWidth 32)) ∧
    WritesSpecial 6 a (fun _ => { special := [6] }) (fun c e => e.sp.rnge = (c.rs a).setWidth 32) ∧
    WritesSpecial 7 a (fun _ => { special := [7] }) (fun c e => e.sp.gfail = c.rs a) ∧
    (0x20 ≤ k.toNat → k.toNat < 0x30 → WritesSpecial k a (fun _ => { special := [k.toNat] }) (fun c e => e.mb (k.toNat - 0x20) = c.rs a)) ∧
    (0x140 ≤ k.toNat → k.toNat < 0x150 →
      WritesSpecial k a (fun _ => { special := [k.toNat] }) (fun c e => SMap.get 0 e.sp.gt (k.toNat - 0x140) = c.rs a)) ∧
    ((k.toNat < 2 ∨ (9 ≤ k.toNat ∧ k.toNat < 0x20) ∨ (0x30 ≤ k.toNat ∧ k.toNat < 0x33)) → WritesSpecial k a (fun _ => {}) (fun _ _ => True)) ∧
    WritesSpecial 2 a (fun _ => { special := [2] }) (fun c e =>
      field e.sp.vt 0 4 = field (c.rs a) 0 4 ∧ field e.sp.vt 8 5 = field (c.rs a) 8 5 ∧ field e.sp.vt 16 4 = field (c.rs a) 16 4 ∧
      field e.sp.vt 4 3 = (if nfield (c.rs a) 4 3 ≤ 4 then field (c.rs a) 4 3 else field c.sp.vt 4 3) ∧
      field e.sp.vt 13 3 = 0 ∧ field e.sp.vt 20 44 = 0) ∧
    WritesSpecial 8 a (fun _ => { special := [8] }) (fun c e =>
      field e.sp.stgmap 0 8 = 0 ∧ ∀ i < 64, 8 ≤ i → bit e.sp.stgmap i = (bit (c.rs a) i && (i % 8 == 7 || decide (i % 8 < 4)))) ∧
    WritesSpecial 0x33 a (fun _ => { special := [0x33] }) (fun c e =>
      ∀ i < 64, bit e.sp.evec i = (bit (c.rs a) i && decide (3 ≤ i ∧ i ≠ 62))) ∧
    (0x100 ≤ k.toNat → k.toNat < 0x140 → WritesSpecial k a (fun _ => { special := [k.toNat] }) (fun c e =>
      let old := c.bnd (k.toNat - 0x100)
      let new := e.bnd (k.toNat - 0x100)
      field new 0 2 = (if nfield (c.rs a) 0 2 = 3 then field old 0 2 else field (c.rs a) 0 2) ∧ bit new 2 = false ∧
      bit new 3 = (bit old 3 && !bit (c.rs a) 3) ∧
      field new 4 4 = (if nfield (c.rs a) 4 4 ∈ [3, 7, 14, 15] then field old 4 4 else field (c.rs a) 4 4) ∧
      field new 8 56 = field (c.rs a) 8 56))

/-! ### Capabilities -/

/-- `CLD` reads the tenant's table at the sum of a register and an index, null where the entry is not well formed (R25, R204);
derivation keeps the object, narrows the window and drops rights, and otherwise takes a capability trap (R23, R205). The
detail in `%einfo` is the model's reading (log 25). -/
def Obligations.Capabilities : Prop :=
  ∀ (d a : CReg) (r b c : SReg) (idx : BitVec 12) (mask : BitVec 8),
    SetsCap (.cld d r idx) (.solo (.cld d r idx)) d
      (fun s => let e := SMap.get nullCap (s.tenant (s.tenantOf s.cur)).table ((s.core.rs r).toNat + idx.toNat)
        if Cap.wf e then e else nullCap)
      (fun s => (s.core.rs r).toNat + idx.toNat ≤ 4095) ∧
    (∀ s, MayIssue (.solo (.cld d r idx)) s → 4095 < (s.core.rs r).toNat + idx.toNat →
      exec (.cld d r idx) s = .next ((begun (.solo (.cld d r idx)) s).raiseTrap s.cur
        (Trap.precise 0x02 0 (BitVec.ofNat 64 ((s.core.rs r).toNat + idx.toNat))))) ∧
    SetsCap (.cder d a b c mask) (.solo (.cder d a b c mask)) d
      (fun s => Cap.make (Cap.obj (s.core.rc a)) (Cap.rights (s.core.rc a) &&& mask) (s.core.rs b).toNat (s.core.rs c).toNat)
      (fun s => Cap.has (s.core.rc a) 7 = true ∧ Cap.base (s.core.rc a) ≤ (s.core.rs b).toNat ∧
        (s.core.rs b).toNat + (s.core.rs c).toNat ≤ Cap.base (s.core.rc a) + Cap.len (s.core.rc a) ∧ Cap.wf (s.core.rc a) = true) ∧
    (∀ s, MayIssue (.solo (.cder d a b c mask)) s →
      (Cap.has (s.core.rc a) 7 = false ∨ (s.core.rs b).toNat < Cap.base (s.core.rc a) ∨
        Cap.base (s.core.rc a) + Cap.len (s.core.rc a) < (s.core.rs b).toNat + (s.core.rs c).toNat) →
      exec (.cder d a b c mask) s = .next ((begun (.solo (.cder d a b c mask)) s).raiseTrap s.cur
        (Trap.precise 0x02 0 (s.core.rs b)))) ∧
    SetsCap (.crst d a mask) (.solo (.crst d a mask)) d
      (fun s => Cap.make (Cap.obj (s.core.rc a)) (Cap.rights (s.core.rc a) &&& mask) (Cap.base (s.core.rc a)) (Cap.len (s.core.rc a)))
      (fun s => Cap.has (s.core.rc a) 7 = true ∧ Cap.wf (s.core.rc a) = true) ∧
    (∀ s, MayIssue (.solo (.crst d a mask)) s → Cap.has (s.core.rc a) 7 = false →
      exec (.crst d a mask) s = .next ((begun (.solo (.crst d a mask)) s).raiseTrap s.cur
        (Trap.precise 0x02 0 (BitVec.ofNat 64 (Cap.base (s.core.rc a)))))) ∧
    SetsCap (.cnull d) (.solo (.cnull d)) d (fun _ => nullCap)

/-! ### Loads and stores -/

/-- Loads and stores of device memory go to the access unit with the address, the size and the data of R206 and R207, or take the
traps of R209 with the address in `%einfo`. -/
def Obligations.DeviceMemoryAccess : Prop :=
  ∀ (t : Ty) (o : Ord) (sc : Scope) (d : SReg) (g : GReg) (c : CReg) (a b : SReg) (off : BitVec 20) (x : BitVec 48), Ty.notF4 t = true →
    PassesAccess (.ld t o sc d c a off) (.solo (.ld t o sc d c a off)) (fun k => loadOf t o sc d (k.rc c) ((k.rs a).toNat + off.toInt)) ∧
    Checks (.ld t o sc d c a off) (.solo (.ld t o sc d c a off)) (fun k => loadOf t o sc d (k.rc c) ((k.rs a).toNat + off.toInt)) ∧
    PassesAccess (.ldl t o sc d c a x) (.solo (.ldl t o sc d c a x)) (fun k => loadOf t o sc d (k.rc c) ((k.rs a).toNat + x.toNat)) ∧
    Checks (.ldl t o sc d c a x) (.solo (.ldl t o sc d c a x)) (fun k => loadOf t o sc d (k.rc c) ((k.rs a).toNat + x.toNat)) ∧
    PassesAccess (.st t o sc c a off d) (.solo (.st t o sc c a off d)) (fun k => storeOf t o sc (k.rs d) (k.rc c) ((k.rs a).toNat + off.toInt)) ∧
    Checks (.st t o sc c a off d) (.solo (.st t o sc c a off d)) (fun k => storeOf t o sc (k.rs d) (k.rc c) ((k.rs a).toNat + off.toInt)) ∧
    PassesAccess (.stl t o sc c a x d) (.solo (.stl t o sc c a x d)) (fun k => storeOf t o sc (k.rs d) (k.rc c) ((k.rs a).toNat + x.toNat)) ∧
    Checks (.stl t o sc c a x d) (.solo (.stl t o sc c a x d)) (fun k => storeOf t o sc (k.rs d) (k.rc c) ((k.rs a).toNat + x.toNat)) ∧
    PassesAccess (.rgld o sc g c a b off) (.solo (.rgld o sc g c a b off))
      (fun k => ⟨.loadRegion g, k.rc c, (k.rs a).toInt + (k.rs b).toInt * 8 + off.toInt, 8, o, sc, 0, 0, [0]⟩) ∧
    Checks (.rgld o sc g c a b off) (.solo (.rgld o sc g c a b off))
      (fun k => ⟨.loadRegion g, k.rc c, (k.rs a).toInt + (k.rs b).toInt * 8 + off.toInt, 8, o, sc, 0, 0, [0]⟩)

/-! ### The scratchpad and region registers -/

/-- `LDX` and `STX` address bytes of the scratchpad by a signed sum (R206, R209): a load extends what it reads by its type, a store
writes the low bytes of the register and no others; a misaligned address and one outside trap. `RGSET` writes a region register with
reserved fields zero (R293). -/
def Obligations.ScratchpadAccess : Prop :=
  ∀ (t : Ty) (d a b : SReg) (g : GReg) (x : Word) (off : BitVec 20), Ty.notF4 t = true →
    let n := t.width / 8
    let addr (s : State) : Int := (s.core.rs a).toInt + (s.core.rs b).toInt * n + off.toInt
    Completes (.ldx t d a b off) (.solo (.ldx t d a b off)) (fun _ => { s := [d.val] })
      (fun s u => u.core.rs d = if d.val = 0 then 0 else extended t (natOfBytes (s.core.spBytes (addr s).toNat n)))
      (fun s => LocalAddress (.solo (.ldx t d a b off)) s (addr s) n false) ∧
    Completes (.stx t a b off d) (.solo (.stx t a b off d)) (fun s => { sp := ((addr s).toNat, n) })
      (fun s u => ∀ k < n, u.core.spByte ((addr s).toNat + k) =
        ((if t = .a56 then sext (s.core.rs d) 56 else s.core.rs d) >>> (8 * k)).setWidth 8)
      (fun s => LocalAddress (.solo (.stx t a b off d)) s (addr s) n true) ∧
    Traps (.ldx t d a b off) (.solo (.ldx t d a b off)) (fun s => Trap.precise 0x06 0 (BitVec.ofInt 64 (addr s))) (fun s => addr s % n ≠ 0) ∧
    Traps (.stx t a b off d) (.solo (.stx t a b off d)) (fun s => Trap.precise 0x06 0 (BitVec.ofInt 64 (addr s))) (fun s => addr s % n ≠ 0) ∧
    Traps (.ldx t d a b off) (.solo (.ldx t d a b off)) (fun s => Trap.precise 0x03 0 (BitVec.ofInt 64 (addr s)))
      (fun s => addr s % n = 0 ∧ (addr s < 0 ∨ 0x600000 < addr s + n)) ∧
    Traps (.stx t a b off d) (.solo (.stx t a b off d)) (fun s => Trap.precise 0x03 0 (BitVec.ofInt 64 (addr s)))
      (fun s => addr s % n = 0 ∧ (addr s < 0 ∨ 0x600000 < addr s + n)) ∧
    Completes (.rgset g x) (.solo (.rgset g x)) (fun _ => { g := [g.val] }) (fun _ u => u.core.rg g = cleanRegion x)

/-! ### Control transfer -/

/-- Branch targets, and transfers recorded with two delay groups to follow (R211 to R214, R170, R173); near the end of a loop body
they are control faults (R218); that a transfer whose guard is false is one too is the model's reading (log 18). -/
def Obligations.Transfers : Prop :=
  ∀ (b l : BReg) (hint : Bool) (off : BitVec 40),
    Completes (.prept b off) (.solo (.prept b off)) (fun _ => { b := [b.val] })
      (fun s t => t.core.rb b = BitVec.ofInt 48 ((s.core.pc.toNat : Int) + 8 * off.toInt)) (fun s => linkDue s b = false) ∧
    Completes (.br b hint) (.solo (.br b hint)) (fun _ => {}) (fun s t => Pending t.core.sp.bpend (s.core.rb b) true none)
      (fun s => s.core.nearEnd 1 = false) ∧
    Completes (.call b l hint) (.solo (.call b l hint)) (fun _ => {}) (fun s t => Pending t.core.sp.bpend (s.core.rb b) true (some l))
      (fun s => s.core.nearEnd 1 = false) ∧
    Completes (.ret b) (.solo (.ret b)) (fun _ => {}) (fun s t => Pending t.core.sp.bpend (s.core.rb b) true none)
      (fun s => s.core.nearEnd 1 = false) ∧
    Traps (.br b hint) (.solo (.br b hint)) (fun _ => Trap.precise 0x09 0x04 0) (fun s => s.core.nearEnd 1 = true) ∧
    Traps (.call b l hint) (.solo (.call b l hint)) (fun _ => Trap.precise 0x09 0x04 0) (fun s => s.core.nearEnd 1 = true) ∧
    Traps (.ret b) (.solo (.ret b)) (fun _ => Trap.precise 0x09 0x04 0) (fun s => s.core.nearEnd 1 = true)

/-- The delay groups of a taken transfer (R170, R173): after the first one is left; after the second the program counter is the target,
and a pending link register holds the offset that follows (R213). -/
def Obligations.DelayGroups : Prop :=
  ∀ (c : Core) (w : Nat), c.grp = GroupAcc.empty → (∀ l ∈ c.sp.loops, l.last ≠ c.pc + BitVec.ofNat 48 (8 * (w - 1))) →
    (c.pend = 2 → (c.endGroup w).pend = 1 ∧ (c.endGroup w).pc = c.pc + BitVec.ofNat 48 (8 * w) ∧
      field (c.endGroup w).sp.bpend 0 62 = field c.sp.bpend 0 62 ∧ (c.endGroup w).regs = c.regs) ∧
    (c.pend = 1 → (c.endGroup w).pend = 0 ∧
      (c.endGroup w).pc = (if bit c.sp.bpend 61 then field c.sp.bpend 0 48 else c.pc + BitVec.ofNat 48 (8 * w)) ∧
      bit (c.endGroup w).sp.bpend 60 = false ∧
      (∀ r : BReg, (c.endGroup w).rb r =
        if bit c.sp.bpend 60 = true ∧ r.val = nfield c.sp.bpend 57 3 then c.pc + BitVec.ofNat 48 (8 * w) else c.rb r)) ∧
    (c.pend = 0 → (c.endGroup w).pc = c.pc + BitVec.ofNat 48 (8 * w) ∧ (c.endGroup w).regs = c.regs)

/-- `LOOP` counts from a register, `LOOPM` from a mailbox that it clears, `LOOPM.K` from one that it keeps (R215, R216). The loop
hardware (R217): at the end word of the innermost level a count above one falls by one and the body repeats; a last pass pops the level,
and an outer level that shares the end word is counted in its turn. -/
def Obligations.Loops : Prop :=
  (∀ (a : SReg) (m : Fin 16) (off : BitVec 20),
    OpensLoop (.loop a off) (.solo (.loop a off)) off (fun c => c.rs a) {} (fun _ _ => True) ∧
    OpensLoop (.loopm m off) (.solo (.loopm m off)) off (fun c => c.mb m.val) { special := [0x20 + m.val] } (fun _ d => d.mb m.val = 0) ∧
    OpensLoop (.loopmK m off) (.solo (.loopmK m off)) off (fun c => c.mb m.val) {} (fun _ _ => True)) ∧
  ∀ (last after : BitVec 48) (ls : List Loop) (l : Loop) (n : Nat), ls.length ≤ n → l.last = last →
    (1 < l.count.toNat → Core.loopEnd last after (n + 1) (ls ++ [l]) = (ls ++ [{ l with count := l.count - 1 }], l.start)) ∧
    (l.count.toNat ≤ 1 → Core.loopEnd last after (n + 1) (ls ++ [l]) = Core.loopEnd last after n ls) ∧
    (∀ m : Loop, m.last ≠ last → Core.loopEnd last after (n + 1) (ls ++ [m]) = (ls ++ [m], after)) ∧
    Core.loopEnd last after n [] = ([], after)

/-! ### The system operations -/

/-- Software traps complete their group and are then raised with their code (R220, R430); a breakpoint stops the core for the debugger
where debug is enabled, and is such a trap elsewhere (R224). -/
def Obligations.SoftwareTraps : Prop :=
  ∀ (x : BitVec 16) (s : State),
    (MayIssue (.solo (.trap x)) s → exec (.trap x) s =
      .next ((finished (.solo (.trap x)) s (begun (.solo (.trap x)) s)).raiseTrap s.cur (Trap.of .after 0x10 0 (x.setWidth 64)))) ∧
    (MayIssue (.solo (.brk x)) s → bit s.dev.dbgctl (s.cur / 32) = false → exec (.brk x) s =
      .next ((finished (.solo (.brk x)) s (begun (.solo (.brk x)) s)).raiseTrap s.cur (Trap.of .after 0x11 0 (x.setWidth 64)))) ∧
    (MayIssue (.solo (.brk x)) s → bit s.dev.dbgctl (s.cur / 32) = true →
      ∃ t, exec (.brk x) s = .next t ∧ t.core.run = .broken ∧ Keeps {} s t ∧ t.core.pc = nextPc s 1)

/-- Calls, safe points, waits and the end of the program (R221 to R223, R225): a call waits for the scheduler, a safe point stops the
core where a pre-emption is pending and does nothing elsewhere, `WFE` goes on at a mailbox of its mask or a pre-emption, and `HALT`
stops the core once its leaves are registered. A fence always issues and waits for nothing (R385); `TWAIT` issues where no local post on an
engine of its mask is left in the window, and waits while one is (R320). -/
def Obligations.SystemOperations : Prop :=
  ∀ (x : BitVec 16) (map : BitVec 12) (o : Ord) (sc : Scope) (em : BitVec 6),
    (∀ s, MayIssue (.solo (.fence o sc)) s →
      ∃ u, exec (.fence o sc) s = .next u ∧ u.core.pc = nextPc s 1 ∧ u.core.nextOp = s.core.nextOp + 1 ∧ Keeps { queue := true } s u) ∧
    (∀ s, MayIssue (.solo (.twait em)) s → s.core.board.bundle = none → (∀ v ∈ s.core.board.units, v.sect = 0) →
      (∀ e ∈ s.core.board.entries, e.remote = false → em.getLsbD e.post.engine = false) →
      ∃ u, exec (.twait em) s = .next u ∧ u.core.pc = nextPc s 1 ∧ Keeps {} s u) ∧
    (∀ s e, MayIssue (.solo (.twait em)) s → s.core.board.bundle = none → (∀ v ∈ s.core.board.units, v.sect = 0) →
      e ∈ s.core.board.entries → e.remote = false → em.getLsbD e.post.engine = true →
      ∃ u, exec (.twait em) s = .next u ∧ u.core.pc = s.core.pc ∧ u.core.regs = s.core.regs) ∧
    Completes (.sysc x) (.solo (.sysc x)) (fun _ => {}) (fun _ t => t.core.wait = .sysc x) ∧
    Completes (.safept map) (.solo (.safept map)) (fun _ => {}) (fun s t => t.core.run = s.core.run)
      (fun s => s.core.preemptAsked = false ∧ s.core.preemptForced = false) ∧
    Completes (.safept map) (.solo (.safept map)) (fun _ => {}) (fun _ t => t.core.run = .stopped (some map))
      (fun s => s.core.preemptAsked = true ∨ s.core.preemptForced = true) ∧
    Completes (.wfe x) (.solo (.wfe x)) (fun _ => {}) (fun _ t => t.core.wait = .none)
      (fun s => (∃ i < 16, x.getLsbD i = true ∧ s.core.mb i ≠ 0) ∨ s.core.preemptAsked = true ∨ s.core.preemptForced = true) ∧
    Finishes .halt (.solo .halt) (fun _ => {}) (fun _ t => t.core.run = .halted ∧ t.core.sp.loops = [])
      (fun s => s.core.contextOpen = false ∧
        (registerAll (begun (.solo .halt) s).leaveAll).core.arrivals.any (·.leave) = false) ∧
    Traps .halt (.solo .halt) (fun _ => Trap.precise 0x09 0x06 0) (fun s => s.core.contextOpen = true)

/-- `ERET` outside a handler is a control fault, and so is one whose frame is not well formed; from a well-formed frame it restores the
program counter, `%bpend` but for its reserved bits, which read 0, and the loop levels, and leaves the handler (R433). -/
def Obligations.ReturnFromHandler : Prop :=
  Traps .eret (.solo .eret) (fun _ => Trap.precise 0x09 0x05 0) (fun s => s.core.inHandler = false ∨
    (s.core.frameRow ≤ 12287 ∧ (begun (.solo .eret) s).core.spBusy (.sp s.core.frameRow 1 0 32) false = false ∧
      frameOk (s.core.row s.core.frameRow) = false)) ∧
  ∀ s, MayIssue (.solo .eret) s → s.core.inHandler = true → s.core.frameRow ≤ 12287 →
    (begun (.solo .eret) s).core.spBusy (.sp s.core.frameRow 1 0 32) false = false → frameOk (s.core.row s.core.frameRow) = true →
    ∃ t, exec .eret s = .next t ∧
      t.core.pc = (frameWord (s.core.row s.core.frameRow) 8).setWidth 48 ∧
      (∀ i, t.core.sp.bpend.getLsbD i = (!(decide (48 ≤ i) && decide (i < 57)) && (frameWord (s.core.row s.core.frameRow) 32).getLsbD i)) ∧
      t.core.sp.loops = frameLevels (s.core.row s.core.frameRow) ∧ t.core.inHandler = false ∧
      (bit s.core.sp.ecause 18 = false → bit s.core.sp.ecause 19 = false → Keeps { special := [0x31] } s t)

/-! ### Signals, atomics and reductions -/

/-- Signal operations and atomics (R378, R379, R383, R384): the checks of R209 in their order, then the route (R374), then the operation
goes to the access unit with its operands; `CAS` takes `sd` and the pair forms two registers each. `SIGWAIT` reads its word as it issues, with
no earlier access of the thread outstanding and no conflict in the directory: a word that satisfies it completes it, any other makes it
wait. -/
def Obligations.ReadModifyWrites : Prop :=
  ∀ (t : Ty) (o : Ord) (sc : Scope) (d : SReg) (c : CReg) (a b : SReg) (off : BitVec 20) (off16 : BitVec 16),
    let rmw (i : Instr) (p : Op) (op : RmwOp) (f : Core → Access) : Prop :=
      PassesAccess i p f (fun s => Carried s (f s.core) op t false) ∧ Checks i p f ∧
      ∀ reason, Traps i p (fun s => Trap.precise 0x0B reason (BitVec.ofInt 64 (f s.core).addr)) fun s => Misrouted s (f s.core) op t false reason
    let sig (op : RmwOp) (k : Core) : Access :=
      rmwOf op t o sc d (k.rc c) ((k.rs a).toNat + off.toInt) ((k.rs b).setWidth 128) 0
    let amo (op : RmwOp) (k : Core) : Access :=
      rmwOf op t o sc d (k.rc c) ((k.rs a).toNat + off16.toInt) ((k.rs b).setWidth 128) ((k.rs d).setWidth 128)
    let two (k : Core) (r : SReg) : BitVec 128 := (k.rs r).setWidth 128 ||| (k.rs (r + 1)).setWidth 128 <<< 64
    let acc (k : Core) : Access := ⟨.wait t (k.rs b) d, k.rc c, (k.rs a).toNat + off.toInt, 8, o, sc, 0, 0, [0]⟩
    let word (s : State) : Word := wordAt s (Cap.obj (s.core.rc c)) (acc s.core).addr.toNat
    let reads (s : State) : Prop := MayIssue (.solo (.sigwait t o sc d c a b off)) s ∧ s.core.wait = .none ∧ ReadsAtOnce (.solo (.sigwait t o sc d c a b off)) s (acc s.core)
    let satisfied (s : State) : Prop := if t = .i64 then (s.core.rs b).toInt ≤ (word s).toInt else (s.core.rs b).toNat ≤ (word s).toNat
    (∀ s, reads s → satisfied s → ∃ u, exec (.sigwait t o sc d c a b off) s = .next u ∧ u.core.pc = nextPc s 1 ∧ u.core.wait = .none ∧
      u.core.rs d = (if d.val = 0 then 0 else word s) ∧ Keeps { s := [d.val] } s u) ∧
    (∀ s, reads s → ¬ satisfied s → ∃ u, exec (.sigwait t o sc d c a b off) s = .next u ∧ u.core.pc = s.core.pc ∧
      u.core.wait = .sigwait s.core.nextOp ∧ u.core.regs = s.core.regs ∧ u.hbm.mem = s.hbm.mem) ∧
    rmw (.sigadd t o sc d c a b off) (.solo (.sigadd t o sc d c a b off)) .sigadd (sig .sigadd) ∧
    rmw (.sigset t o sc d c a b off) (.solo (.sigset t o sc d c a b off)) .sigset (sig .sigset) ∧
    rmw (.amoAdd t o sc d c a b off16) (.solo (.amoAdd t o sc d c a b off16)) .add (amo .add) ∧
    rmw (.amoMin t o sc d c a b off16) (.solo (.amoMin t o sc d c a b off16)) .min (amo .min) ∧
    rmw (.amoMax t o sc d c a b off16) (.solo (.amoMax t o sc d c a b off16)) .max (amo .max) ∧
    rmw (.amoAnd t o sc d c a b off16) (.solo (.amoAnd t o sc d c a b off16)) .and (amo .and) ∧
    rmw (.amoOr t o sc d c a b off16) (.solo (.amoOr t o sc d c a b off16)) .or (amo .or) ∧
    rmw (.amoXor t o sc d c a b off16) (.solo (.amoXor t o sc d c a b off16)) .xor (amo .xor) ∧
    rmw (.amoXchg t o sc d c a b off16) (.solo (.amoXchg t o sc d c a b off16)) .xchg (amo .xchg) ∧
    rmw (.amoCas t o sc d c a b off16) (.solo (.amoCas t o sc d c a b off16)) .cas (amo .cas) ∧
    rmw (.amoCas2 t o sc d c a b off16) (.solo (.amoCas2 t o sc d c a b off16)) .cas2
      (fun k => rmwOf .cas2 t o sc d (k.rc c) ((k.rs a).toNat + off16.toInt) (two k b) (two k d))

/-- Reductions without a result go to the combining buffer (R380, R381). -/
def Obligations.BufferedReductions : Prop :=
  ∀ (t : Ty) (o : Ord) (sc : Scope) (c : CReg) (a b : SReg) (off : BitVec 16),
    let f (op : RmwOp) (k : Core) : Access := redOf op t o sc (k.rc c) ((k.rs a).toNat + off.toInt) (k.rs b)
    Buffers (.redAdd t o sc c a b off) (.solo (.redAdd t o sc c a b off)) .add t (f .add) ∧
    Buffers (.redMin t o sc c a b off) (.solo (.redMin t o sc c a b off)) .min t (f .min) ∧
    Buffers (.redMax t o sc c a b off) (.solo (.redMax t o sc c a b off)) .max t (f .max) ∧
    Buffers (.redAnd t o sc c a b off) (.solo (.redAnd t o sc c a b off)) .and t (f .and) ∧
    Buffers (.redOr t o sc c a b off) (.solo (.redOr t o sc c a b off)) .or t (f .or) ∧
    Buffers (.redXor t o sc c a b off) (.solo (.redXor t o sc c a b off)) .xor t (f .xor)

/-- The new value of a read-modify-write over its operand width (R379, R383): integer sums wrap, minima and maxima are signed for the
signed types alone, a compare-and-swap keeps the old value where it differs, a timeline saturates once and then faults, and a lower
timeline set is ignored. -/
def Obligations.ReadModifyWriteValues : Prop :=
  ∀ (t : Ty) (old b d : Nat), t = .i32 ∨ t = .n32 ∨ t = .i64 ∨ t = .n64 →
    let w := if t = .i64 ∨ t = .n64 then 64 else 32
    let s (x : Nat) : Int := if t = .i32 ∨ t = .i64 then (BitVec.ofNat w x).toInt else x
    (old < 2 ^ w → b < 2 ^ w → d < 2 ^ w →
      rmwNew .add t old b d = some ((old + b) % 2 ^ w) ∧
      (∀ v, rmwNew .min t old b d = some v → (v = old ∨ v = b) ∧ s v ≤ s old ∧ s v ≤ s b) ∧ (rmwNew .min t old b d).isSome = true ∧
      (∀ v, rmwNew .max t old b d = some v → (v = old ∨ v = b) ∧ s old ≤ s v ∧ s b ≤ s v) ∧ (rmwNew .max t old b d).isSome = true ∧
      rmwNew .and t old b d = some (old &&& b) ∧ rmwNew .or t old b d = some (old ||| b) ∧ rmwNew .xor t old b d = some (old ^^^ b) ∧
      rmwNew .xchg t old b d = some b ∧
      rmwNew .cas t old b d = some (if old = d then b else old)) ∧
    (old < 2 ^ 128 → b < 2 ^ 128 → d < 2 ^ 128 → rmwNew .cas2 t old b d = some (if old = d then b else old)) ∧
    (old < 2 ^ 64 → b < 2 ^ 64 →
      rmwNew .sigadd .i64 old b d = some ((old + b) % 2 ^ 64) ∧ rmwNew .sigset .i64 old b d = some b ∧
      rmwNew .sigadd .n64 old b d =
        (if b = 0 then some old else if old = 2 ^ 64 - 1 then none else some (min (old + b) (2 ^ 64 - 1))) ∧
      rmwNew .sigset .n64 old b d = some (if old ≤ b then b else old))

/-- Waits, fences and snapshots (R320, R384, R385, R459, R460): a `SIGWAIT` that waits issues once its read is satisfied, with the value read; a
fence stays behind what it orders and keeps the pairs of its form in order; a `SNAP` takes the generation its cut closes, and one that does not wait reports the frozen one;
`TWAIT` issues once no local post on its engines is left. What `%einfo` holds of a `SNAP` is a free value (log 26). -/
def Obligations.WaitsFencesSnapshots : Prop :=
  ∀ (t : Ty) (o : Ord) (sc : Scope) (d : SReg) (c : CReg) (a b : SReg) (p : PReg) (off : BitVec 20) (em : BitVec 6),
    (∀ (id : Nat) (q : AccOp), Completes (.sigwait t o sc d c a b off) (.solo (.sigwait t o sc d c a b off))
      (fun _ => { s := [d.val], queue := true })
      (fun s u => u.core.rs d = (if d.val = 0 then 0 else q.result.setWidth 64) ∧ u.core.wait = .none ∧
        u.core.acc = s.core.acc.filter fun (x : AccOp) => x.id != id)
      (fun s => s.core.wait = .sigwait id ∧ s.core.accOp id = some q ∧ q.phase = .performed)) ∧
    Completes (.fence o sc) (.solo (.fence o sc)) (fun _ => { queue := true })
      (fun s u => (u.core.acc.filter fun (x : AccOp) => x.kind != .fence) = (s.core.acc.filter fun (x : AccOp) => x.kind != .fence) ∧
        ((∃ x ∈ s.core.acc, x.kind ≠ .fence ∧ x.rank < s.core.nextOp ∧ x.phase ≠ .performed) →
          ∃ f ∈ u.core.acc, f.kind = .fence ∧ f.ord = o ∧ f.scope = sc ∧ f.rank = s.core.nextOp) ∧
        ∀ x ∈ s.core.acc, ∀ y : AccOp, x.kind ≠ .fence → x.rank < s.core.nextOp → x.phase ≠ .performed → s.core.nextOp < y.rank →
          (o = .acq → x.returns = true) → (o = .rel → y.updates = true) → u.core.keepsOp x y = true) ∧
    Completes (.twait em) (.solo (.twait em)) (fun _ => {}) (fun _ _ => True)
      (fun s => s.core.contextOpen = false ∧ ∀ e ∈ s.core.board.entries, e.remote = false → em.getLsbD e.post.engine = false) ∧
    Traps (.twait em) (.solo (.twait em)) (fun _ => Trap.precise 0x09 0x07 0) (fun s => s.core.contextOpen = true) ∧
    SnapRefused (.snap d c p) (.solo (.snap d c p)) c ∧ SnapRefused (.snapNw d c p) (.solo (.snapNw d c p)) c ∧
    SnapRefused (.snapq d c a) (.solo (.snapq d c a)) c ∧
    (∀ f, Completes (.snap d c p) (.solo (.snap d c p)) (fun _ => { s := [d.val], p := [p.val] })
        (fun s u => u.core.rs d = (if d.val = 0 then 0 else f) ∧ u.core.rp p = true ∧
          u.core.stamp = if s.core.stamp.toNat < (f + 1).toNat then f + 1 else s.core.stamp)
        (fun s => MaySnap s c ∧ s.core.settledBefore s.core.nextOp = true ∧ s.core.wait = .snap ∧ (homeOf s).frozen = some f ∧
          (homeOf s).asker = .core s.cur ∧ (homeOf s).opened = true) ∧
      Completes (.snapNw d c p) (.solo (.snapNw d c p)) (fun _ => { s := [d.val], p := [p.val] })
        (fun s u => u.core.rs d = (if d.val = 0 then 0 else f) ∧ u.core.rp p = true ∧
          u.core.stamp = if s.core.stamp.toNat < (f + 1).toNat then f + 1 else s.core.stamp)
        (fun s => MaySnap s c ∧ s.core.settledBefore s.core.nextOp = true ∧ s.core.wait = .snap ∧ (homeOf s).frozen = some f ∧
          (homeOf s).asker = .core s.cur ∧ (homeOf s).opened = true) ∧
      Completes (.snapNw d c p) (.solo (.snapNw d c p)) (fun _ => { s := [d.val], p := [p.val] })
        (fun s u => u.core.rs d = (if d.val = 0 then 0 else f) ∧ u.core.rp p = (if p.val = 0 then true else false) ∧
          u.core.stamp = s.core.stamp)
        (fun s => MaySnap s c ∧ s.core.settledBefore s.core.nextOp = true ∧ s.core.wait ≠ .snap ∧ (homeOf s).frozen = some f ∧
          (homeOf s).opened = true)) ∧
    (∀ i q, (i, q) ∈ [(Instr.snap d c p, SoloOp.snap d c p), (.snapNw d c p, .snapNw d c p)] → ∀ s, MayIssue (.solo q) s → MaySnap s c →
      s.core.settledBefore s.core.nextOp = true → (homeOf s).frozen = none →
      ∃ u, exec i s = .next u ∧ u.core.wait = .snap ∧ u.core.pc = s.core.pc ∧
        (homeOf u).frozen = some (homeOf s).current ∧ (homeOf u).asker = .core s.cur) ∧
    ∀ w : Word, Completes (.snapq d c a) (.solo (.snapq d c a)) (fun _ => { s := [d.val] })
      (fun _ u => u.core.rs d = if d.val = 0 then 0 else w)
      (fun s => MaySnap s c ∧
        let g := homeOf s
        let q := s.core.rs a
        if q = 0 ∨ g.current.toNat < q.toNat ∨ q.toNat + 64 < g.current.toNat then w = 0x0500000000000000
        else if q = g.current then w = 0
        else match g.history.find? fun (r : GenRec) => r.gen == q with
          | none => w = 0x0500000000000000
          | some r => match r.phase with
            | .cutting => w = 0x0100000000000000
            | .draining => w = 0x0200000000000000 ||| BitVec.ofNat 64 (remainingGrains s (s.tenantOf s.cur) % 2 ^ 48)
            | .durable => w = 0x0300000000000000
            | .aborted k => w = 0x0400000000000000 ||| k.setWidth 64 <<< 48)

/-- Rendezvous points (R389 to R392): `RVINIT` sets the members of a point without arrivals, `RVARRIVE` answers the phase and holds an
arrival, the waits answer once the phase has passed, and a leave replaces an arrival; a caller that is no member, or that has arrived,
takes a control fault. -/
def Obligations.Rendezvous : Prop :=
  ∀ (pt : BitVec 5) (em : BitVec 6) (a d : SReg) (t : Nat),
    let k := pt.toNat
    let arrive (x : Instr) : Prop :=
      Traps x (match x with | .rvarw .. => .solo (.rvarw pt em d) | _ => .solo (.rvarrive pt em d))
        (fun _ => Trap.precise 0x09 0x08 0) (fun s => s.core.mark = none ∧ s.core.team = some t ∧
          ((s.point t k).members.getLsbD s.core.rank = false ∨ s.core.leaving k = true)) ∧
      Traps x (match x with | .rvarw .. => .solo (.rvarw pt em d) | _ => .solo (.rvarrive pt em d))
        (fun _ => Trap.precise 0x09 0x09 0) (fun s => s.core.mark = none ∧ Member s t k ∧ s.core.arrivedAt k (s.point t k).phase = true)
    Completes (.rvinit pt a) (.solo (.rvinit pt a)) (fun _ => { team := true })
      (fun s u => u.point t k =
          ⟨(s.point t k).phase, (s.core.rs a).setWidth 32 &&& BitVec.ofNat 32 (2 ^ s.teamSize t - 1), 0⟩ ∧
        ∀ j, j ≠ k → u.point t j = s.point t j)
      (fun s => s.core.team = some t ∧ (s.team t).isSome = true ∧ (s.point t k).arrived = 0) ∧
    Traps (.rvinit pt a) (.solo (.rvinit pt a)) (fun _ => Trap.precise 0x09 0x0A 0)
      (fun s => s.core.team = some t ∧ (s.point t k).arrived ≠ 0) ∧
    Completes (.rvarrive pt em d) (.solo (.rvarrive pt em d)) (fun _ => { s := [d.val] })
      (fun s u => u.core.rs d = (if d.val = 0 then 0 else (s.point t k).phase.setWidth 64) ∧
        ∃ x ∈ u.core.arrivals, x.pt = k ∧ x.leave = false ∧ x.phase = (s.point t k).phase ∧ x.mask = em ∧ x.after = s.core.nextOp ∧
          x.registered = false)
      (fun s => Member s t k ∧ s.core.arrivedAt k (s.point t k).phase = false) ∧
    arrive (.rvarrive pt em d) ∧ arrive (.rvarw pt em d) ∧
    Completes (.rvwait pt a d) (.solo (.rvwait pt a d)) (fun _ => { s := [d.val] })
      (fun s u => u.core.rs d = if d.val = 0 then 0 else (s.point t k).phase.setWidth 64)
      (fun s => s.core.team = some t ∧ 1 ≤ ((s.point t k).phase - (s.core.rs a).setWidth 32).toNat ∧
        ((s.point t k).phase - (s.core.rs a).setWidth 32).toNat ≤ 2 ^ 31) ∧
    (∀ s, MayIssue (.solo (.rvarw pt em d)) s → s.core.mark = none → Member s t k → s.core.arrivedAt k (s.point t k).phase = false →
      ∃ u, exec (.rvarw pt em d) s = .next u ∧ u.core.mark = some ⟨k, (s.point t k).phase, s.core.pc⟩ ∧ u.core.pc = s.core.pc ∧
        u.core.arrivedAt k (s.point t k).phase = true) ∧
    (∀ ph, Completes (.rvarw pt em d) (.solo (.rvarw pt em d)) (fun _ => { s := [d.val] })
      (fun _ u => u.core.rs d = (if d.val = 0 then 0 else ph.setWidth 64) ∧ u.core.mark = none)
      (fun s => s.core.mark = some ⟨k, ph, s.core.pc⟩ ∧ s.core.team = some t ∧ 1 ≤ ((s.point t k).phase - ph).toNat ∧
        ((s.point t k).phase - ph).toNat ≤ 2 ^ 31)) ∧
    Completes (.rvleave pt) (.solo (.rvleave pt)) (fun _ => {})
      (fun _ u => u.core.leaving k = true ∧ (∀ x ∈ u.core.arrivals, x.pt = k → x.leave = true) ∧ ∀ m, u.core.mark = some m → m.pt ≠ k)
      (fun s => Member s t k) ∧
    Completes (.rvleave pt) (.solo (.rvleave pt)) (fun _ => {}) (fun s u => u.core.arrivals = s.core.arrivals ∧ u.core.mark = s.core.mark)
      (fun s => s.core.team = some t ∧ (s.point t k).members.getLsbD s.core.rank = false) ∧
    Completes .rvleaveAll (.solo .rvleaveAll) (fun _ => {})
      (fun s u => ∀ j < 24, (s.point t j).members.getLsbD s.core.rank = true → u.core.leaving j = true) (fun s => s.core.team = some t)

/-! ### The lane unit -/

/-- Elementwise arithmetic (R239, R240): integers wrap, or clamp with SAT in the saturating forms, floats are rounded once. -/
def Obligations.VectorArithmetic : Prop :=
  ∀ (t : Ty) (r : Rnd) (d a b : VReg) (m : MReg),
    let x (c : Core) (k : Nat) : Nat := lane t c a k
    let y (c : Core) (k : Nat) : Nat := lane t c b k
    let z (c : Core) (k : Nat) : Nat := lane t c d k
    LaneForms (.vadd t r d a b m) (.vadd t r d a b m) (.vaddSlot d a b) (.vaddSlot d a b) t r d m
      (fun c k => laneResult t r (t.int (x c k) + t.int (y c k)) (FVal.add r (t.value (x c k)) (t.value (y c k)))) ∧
    LaneForms (.vsub t r d a b m) (.vsub t r d a b m) (.vsubSlot d a b) (.vsubSlot d a b) t r d m
      (fun c k => laneResult t r (t.int (x c k) - t.int (y c k)) (FVal.add r (t.value (x c k)) (t.value (y c k)).negate)) ∧
    LaneForms (.vmul t r d a b m) (.vmul t r d a b m) (.vmulSlot d a b) (.vmulSlot d a b) t r d m
      (fun c k => laneResult t r (t.int (x c k) * t.int (y c k)) (FVal.mul (t.value (x c k)) (t.value (y c k)))) ∧
    LaneForms (.vfma t r d a b m) (.vfma t r d a b m) (.vfmaSlot d a b) (.vfmaSlot d a b) t r d m
      (fun c k => laneResult t r (t.int (x c k) * t.int (y c k) + t.int (z c k))
        (FVal.fma r (t.value (x c k)) (t.value (y c k)) (t.value (z c k)))) ∧
    LaneForms (.vfms t r d a b m) (.vfms t r d a b m) (.vfmsSlot d a b) (.vfmsSlot d a b) t r d m
      (fun c k => laneResult t r (t.int (x c k) * t.int (y c k) - t.int (z c k))
        (FVal.fma r (t.value (x c k)) (t.value (y c k)) (t.value (z c k)).negate)) ∧
    LaneForms (.vmin t d a b m) (.vmin t d a b m) (.vminSlot d a b) (.vminSlot d a b) t r d m
      (fun c k => laneResult t .rne (min (t.int (x c k)) (t.int (y c k))) (FVal.min (t.value (x c k)) (t.value (y c k)), 0)) ∧
    LaneForms (.vmax t d a b m) (.vmax t d a b m) (.vmaxSlot d a b) (.vmaxSlot d a b) t r d m
      (fun c k => laneResult t .rne (max (t.int (x c k)) (t.int (y c k))) (FVal.max (t.value (x c k)) (t.value (y c k)), 0)) ∧
    LaneForms (.vadds t d a b m) (.vadds t d a b m) (.vaddsSlot d a b) (.vaddsSlot d a b) t r d m
      (fun c k => narrowInt t.lo t.hi t.width (t.int (x c k) + t.int (y c k))) ∧
    LaneForms (.vsubs t d a b m) (.vsubs t d a b m) (.vsubsSlot d a b) (.vsubsSlot d a b) t r d m
      (fun c k => narrowInt t.lo t.hi t.width (t.int (x c k) - t.int (y c k)))

/-- Signs, bitwise operations and shifts of elements (R239, R240): none raises a flag or draws. -/
def Obligations.VectorBitwise : Prop :=
  ∀ (t : Ty) (r : Rnd) (d a b : VReg) (m : MReg),
    let x (c : Core) (k : Nat) : Nat := lane t c a k
    let y (c : Core) (k : Nat) : Nat := lane t c b k
    let sign (c : Core) (k : Nat) (n : Int) (bits : Nat) : BitVec 32 → Rounded :=
      match t.fmt? with
      | none => bitsOf (n % (2 ^ t.width : Nat)).toNat
      | some f => bitsOf (if (f.value (x c k)).isNan then f.nanBits else bits)
    LaneForms (.vabs t d a m) (.vabs t d a m) (.vabsSlot d a) (.vabsSlot d a) t r d m
      (fun c k => sign c k (t.int (x c k)).natAbs (x c k % 2 ^ (t.width - 1))) ∧
    LaneForms (.vneg t d a m) (.vneg t d a m) (.vnegSlot d a) (.vnegSlot d a) t r d m
      (fun c k => sign c k (-(t.int (x c k))) (x c k ^^^ 2 ^ (t.width - 1))) ∧
    LaneForms (.vand t d a b m) (.vand t d a b m) (.vandSlot d a b) (.vandSlot d a b) t r d m (fun c k => bitsOf (x c k &&& y c k)) ∧
    LaneForms (.vor t d a b m) (.vor t d a b m) (.vorSlot d a b) (.vorSlot d a b) t r d m (fun c k => bitsOf (x c k ||| y c k)) ∧
    LaneForms (.vxor t d a b m) (.vxor t d a b m) (.vxorSlot d a b) (.vxorSlot d a b) t r d m (fun c k => bitsOf (x c k ^^^ y c k)) ∧
    LaneForms (.vandn t d a b m) (.vandn t d a b m) (.vandnSlot d a b) (.vandnSlot d a b) t r d m
      (fun c k => bitsOf (x c k &&& (2 ^ t.width - 1 - y c k))) ∧
    LaneForms (.vshl t d a b m) (.vshl t d a b m) (.vshlSlot d a b) (.vshlSlot d a b) t r d m
      (fun c k => bitsOf (x c k * 2 ^ (y c k % t.width))) ∧
    LaneForms (.vshr t d a b m) (.vshr t d a b m) (.vshrSlot d a b) (.vshrSlot d a b) t r d m
      (fun c k => bitsOf (x c k / 2 ^ (y c k % t.width))) ∧
    LaneForms (.vsra t d a b m) (.vsra t d a b m) (.vsraSlot d a b) (.vsraSlot d a b) t r d m
      (fun c k => bitsOf (((BitVec.ofNat t.width (x c k)).toInt / 2 ^ (y c k % t.width)) % (2 ^ t.width : Nat)).toNat)

/-- Functions of elements (R246 to R248): the exact value rounded once, an integral value in the same format, and the value of a
piecewise-linear table. The exact value is taken to a relative error far below the last place of every format (log 24). -/
def Obligations.VectorFunctions : Prop :=
  ∀ (t : Ty) (r : Rnd) (d a b : VReg) (m : MReg),
    let x (c : Core) (k : Nat) : FVal := t.value (lane t c a k)
    LaneForms (.vrcp t r d a m) (.vrcp t r d a m) (.vrcpSlot d a) (.vrcpSlot d a) t r d m (fun c k => laneValue t r (FVal.rcp (x c k))) ∧
    LaneForms (.vrsq t r d a m) (.vrsq t r d a m) (.vrsqSlot d a) (.vrsqSlot d a) t r d m (fun c k => laneValue t r (FVal.rsqrt (x c k))) ∧
    LaneForms (.vexp2 t r d a m) (.vexp2 t r d a m) (.vexp2Slot d a) (.vexp2Slot d a) t r d m (fun c k => laneValue t r (FVal.exp2 (x c k))) ∧
    LaneForms (.vlog2 t r d a m) (.vlog2 t r d a m) (.vlog2Slot d a) (.vlog2Slot d a) t r d m (fun c k => laneValue t r (FVal.log2 (x c k))) ∧
    LaneForms (.vsin t r d a m) (.vsin t r d a m) (.vsinSlot d a) (.vsinSlot d a) t r d m (fun c k => laneValue t r (FVal.sinPi (x c k))) ∧
    LaneForms (.vrint t r d a m) (.vrint t r d a m) (.vrintSlot d a) (.vrintSlot d a) t r d m (fun c k => integral t r (x c k)) ∧
    LaneForms (.vtlu t r d a b m) (.vtlu t r d a b m) (.vtluSlot d a b) (.vtluSlot d a b) t r d m
      (fun c k => laneValue t r (tluValue r (field c.sp.vt 8 5).toInt (Nat.log2 (elemCount t / 2)) (fun j => t.value (lane t c b (2 * j)))
        (fun j => t.value (lane t c b (2 * j + 1))) (x c k))) ∧
    (∀ (n : Bool) (e : Int), FVal.rcp (.fin n 0 e) = (.inf n, FFlags.dz) ∧ FVal.rcp (.inf n) = (.fin n 0 0, 0) ∧ FVal.rcp .nan = (.nan, 0) ∧
      FVal.rsqrt (.fin n 0 e) = (.inf n, FFlags.dz) ∧ FVal.rsqrt (.inf false) = (.fin false 0 0, 0) ∧ FVal.rsqrt .nan = (.nan, 0) ∧
      FVal.exp2 (.inf true) = (.fin false 0 0, 0) ∧ FVal.exp2 (.inf false) = (.inf false, 0) ∧ FVal.exp2 .nan = (.nan, 0) ∧
      FVal.log2 (.fin n 0 e) = (.inf true, FFlags.dz) ∧ FVal.log2 (.inf false) = (.inf false, 0) ∧ FVal.log2 .nan = (.nan, 0) ∧
      FVal.sinPi (.inf n) = (.nan, FFlags.nv) ∧ FVal.sinPi .nan = (.nan, 0))

/-- Conversions (R244, R245): a narrowing takes its elements two at a time from two sources into part `k`, a widening takes part `k` of
each element's lane. The flags of an integer result out of range are the model's reading (log 20). -/
def Obligations.VectorConversions : Prop :=
  ∀ (td ts : Ty) (r : Rnd) (d a b : VReg) (k : BitVec 3) (m : MReg),
    let source (ws wd part : Nat) (c : Core) (j : Nat) : Nat :=
      if wd < ws then elem (c.rv (if j % (ws / wd) = 2 * part then a else b)) ws (j / (ws / wd)) else elem (c.rv a) ws (wd / ws * j + part)
    let part (ws wd part j : Nat) : Bool := decide (ws ≤ wd ∨ (2 * part ≤ j % (ws / wd) ∧ j % (ws / wd) < 2 * part + 2))
    SetsElems (.vcvt td ts r d a b k m) (.solo (.vcvt td ts r d a b k m)) td.width d
      (fun c j => part ts.width td.width k.toNat j && enabledBy td m c j)
      (fun c j => convert ts td r (source ts.width td.width k.toNat c j)) ∧
    SetsElems (.vpk4 ts r d a b k m) (.solo (.vpk4 ts r d a b k m)) 4 d
      (fun c j => part ts.width 4 k.toNat j && (c.rm m).getLsbD (4 * j / 8))
      (fun c j => convertToInt4 ts r (source ts.width 4 k.toNat c j)) ∧
    SetsElems (.vupk4 td r d a k m) (.solo (.vupk4 td r d a k m)) td.width d (fun c j => enabledBy td m c j)
      (fun c j => convertFromInt4 td r (elem (c.rv a) 4 (td.width / 4 * j + k.toNat))) ∧
    SetsElems (.vcvtSlot d a b) (.slot (.vcvtSlot d a b)) td.width d (fun _ j => part ts.width td.width 0 j)
      (fun c j => convert ts td r (source ts.width td.width 0 c j))
      (fun s => vtTy s.core = ts ∧ vtCty s.core = td ∧ vtRnd s.core = r ∧ cvtPair td ts = true) ∧
    Traps (.vcvtSlot d a b) (.slot (.vcvtSlot d a b)) (fun s => Trap.precise 0x01 0x07 (s.core.pc.setWidth 64))
      (fun s => cvtPair (vtCty s.core) (vtTy s.core) = false)

/-- Moves of elements, exchanges with scalar registers and mask-driven moves (R232, R233, R242, R249 to R251). -/
def Obligations.VectorMoves : Prop :=
  ∀ (t ct : Ty) (r : Rnd) (e5 : BitVec 5) (d a b : VReg) (m : MReg) (n : BitVec 7) (f g : SReg) (x : Word), n.toNat < elemCount t →
    let up (k : BitVec 7) (c : Core) (j : Nat) : Nat := if k.toNat ≤ j then lane t c a (j - k.toNat) else lane t c b (elemCount t - k.toNat + j)
    let down (k : BitVec 7) (c : Core) (j : Nat) : Nat :=
      if j + k.toNat < elemCount t then lane t c a (j + k.toNat) else lane t c b (j + k.toNat - elemCount t)
    let perm (c : Core) (j : Nat) : Nat := lane t c a (lane t c b j % elemCount t)
    let below (c : Core) (j : Nat) : Nat := (List.range j).countP (enabledBy t m c)
    let all (_ : Core) (_ : Nat) : Bool := true
    SetsElems (.vsel t d a b m) (.solo (.vsel t d a b m)) t.width d all
      (fun c k => bitsOf (if enabledBy t m c k then lane t c a k else lane t c b k)) ∧
    LaneForms (.vperm t d a b m) (.vperm t d a b m) (.vpermSlot d a b) (.vpermSlot d a b) t r d m (fun c k => bitsOf (perm c k)) ∧
    LaneForms (.vsldu t d a b 1 m) (.vsldu t d a b 1 m) (.vslduSlot d a b) (.vslduSlot d a b) t r d m (fun c k => bitsOf (up 1 c k)) ∧
    LaneForms (.vsldd t d a b 1 m) (.vsldd t d a b 1 m) (.vslddSlot d a b) (.vslddSlot d a b) t r d m (fun c k => bitsOf (down 1 c k)) ∧
    SetsElems (.vsldu t d a b n m) (.solo (.vsldu t d a b n m)) t.width d (enabledBy t m) (fun c k => bitsOf (up n c k)) ∧
    SetsElems (.vsldd t d a b n m) (.solo (.vsldd t d a b n m)) t.width d (enabledBy t m) (fun c k => bitsOf (down n c k)) ∧
    SetsElems (.vcmpr t d a m) (.solo (.vcmpr t d a m)) t.width d all
      (fun c k => bitsOf (((((List.range (elemCount t)).filter (enabledBy t m c))[k]?).map (lane t c a)).getD 0)) ∧
    SetsElems (.vxpnd t d a m) (.solo (.vxpnd t d a m)) t.width d all
      (fun c k => bitsOf (if enabledBy t m c k then lane t c a (below c k) else 0)) ∧
    SetsElems (.viota t d m) (.solo (.viota t d m)) t.width d all (fun c k => bitsOf (below c k)) ∧
    SetsElems (.vbcst t d f m) (.solo (.vbcst t d f m)) t.width d (enabledBy t m) (fun c _ => bitsOf ((c.rs f).toNat % 2 ^ t.width)) ∧
    SetsElems (.vins t d f g) (.solo (.vins t d f g)) t.width d (fun c k => decide (k = (c.rs g).toNat % elemCount t))
      (fun c _ => bitsOf ((c.rs f).toNat % 2 ^ t.width)) ∧
    (Ty.notF4 t = true → SetsScalar (.vext t f a g) (.solo (.vext t f a g)) f
      (fun c => extended t (lane t c a ((c.rs g).toNat % elemCount t)))) ∧
    SetsElems (.vli d x) (.solo (.vli d x)) 64 d all (fun _ _ => bitsOf x.toNat) ∧
    SetsVector (.vmov d a) (.slot (.vmov d a)) d (fun c => c.rv a) ∧
    (∀ s, MayIssue (.slot .vnop) s → ∃ u, exec .vnop s = .next u ∧ Keeps {} s u ∧ u.core.pc = nextPc s 1) ∧
    Completes (.vsett t r ct e5) (.solo (.vsett t r ct e5)) (fun _ => { special := [2] })
      (fun _ u => nfield u.core.sp.vt 0 4 = t.code ∧ nfield u.core.sp.vt 4 3 = r.code ∧ nfield u.core.sp.vt 8 5 = e5.toNat ∧
        nfield u.core.sp.vt 16 4 = ct.code ∧ bit u.core.sp.vt 7 = false ∧ nfield u.core.sp.vt 13 3 = 0 ∧ nfield u.core.sp.vt 20 44 = 0)

/-- Masks (R228, R241, R243, R253): lane compares, mask logic and votes. -/
def Obligations.VectorMasks : Prop :=
  ∀ (k : VCond) (t : Ty) (d e f : MReg) (a b : VReg) (m : MReg) (p : PReg) (g : SReg), Ty.notF4 t = true →
    let set (c : Core) : List Nat := (List.range (elemCount t)).filter fun i => enabledBy t m c i
    let slot (k : VCond) (i : Instr) (o : SlotOp) : Prop :=
      SetsCompared i (.slot o) k t d a b (fun _ _ => true) (fun s => vtTy s.core = t ∧ Ty.laneArith t = true) ∧
      Traps i (.slot o) (fun s => Trap.precise 0x01 0x07 (s.core.pc.setWidth 64)) (fun s => Ty.laneArith (vtTy s.core) = false)
    SetsCompared (.vcmp k t d a b m) (.solo (.vcmp k t d a b m)) k t d a b (enabledBy t m) ∧
    slot .eq (.vcmpEqSlot d a b) (.vcmpEqSlot d a b) ∧ slot .ne (.vcmpNeSlot d a b) (.vcmpNeSlot d a b) ∧
    slot .lt (.vcmpLtSlot d a b) (.vcmpLtSlot d a b) ∧ slot .le (.vcmpLeSlot d a b) (.vcmpLeSlot d a b) ∧
    SetsMask (.mlogAnd d e f) (.solo (.mlogAnd d e f)) d (fun c => c.rm e &&& c.rm f) ∧
    SetsMask (.mlogOr d e f) (.solo (.mlogOr d e f)) d (fun c => c.rm e ||| c.rm f) ∧
    SetsMask (.mlogXor d e f) (.solo (.mlogXor d e f)) d (fun c => c.rm e ^^^ c.rm f) ∧
    SetsMask (.mlogAndn d e f) (.solo (.mlogAndn d e f)) d (fun c => c.rm e &&& ~~~(c.rm f)) ∧
    SetsMask (.mlogNot d e) (.solo (.mlogNot d e)) d (fun c => ~~~(c.rm e)) ∧
    SetsPredicate (.vany t p e m) (.solo (.vany t p e m)) p (fun c => (set c).any (enabledBy t e c)) ∧
    SetsPredicate (.vall t p e m) (.solo (.vall t p e m)) p (fun c => (set c).all (enabledBy t e c)) ∧
    SetsScalar (.vmpop t g e m) (.solo (.vmpop t g e m)) g (fun c => BitVec.ofNat 64 ((set c).countP (enabledBy t e c))) ∧
    (t.isInt = true → ∀ x y, x < 2 ^ t.width → y < 2 ^ t.width →
      LaneCompared .eq t x y = decide (t.int x = t.int y) ∧ LaneCompared .lt t x y = decide (t.int x < t.int y) ∧
      LaneCompared .le t x y = decide (t.int x ≤ t.int y))

/-- Reductions by the halving tree (R62, R252): each combine once rounded in the mode of `%vt`, ordered, bitwise or clamped; a disabled
element is the identity. -/
def Obligations.VectorReductions : Prop :=
  ∀ (t : Ty) (d : SReg) (a : VReg) (m : MReg),
    let ident (int : Int) (f : Fmt → Nat) : Nat := match t.fmt? with | none => (int % (2 ^ t.width : Nat)).toNat | some q => f q
    Reduces (.vredSum t d a m) (.solo (.vredSum t d a m)) t d a m (ident 0 fun q => q.enc true 0)
      (fun c x y => laneResult t (vtRnd c) (t.int x + t.int y) (FVal.add (vtRnd c) (t.value x) (t.value y))) ∧
    Reduces (.vredMin t d a m) (.solo (.vredMin t d a m)) t d a m (ident t.hi fun q => q.enc false q.infCode)
      (fun _ x y => laneResult t .rne (min (t.int x) (t.int y)) (FVal.min (t.value x) (t.value y), 0)) ∧
    Reduces (.vredMax t d a m) (.solo (.vredMax t d a m)) t d a m (ident t.lo fun q => q.enc true q.infCode)
      (fun _ x y => laneResult t .rne (max (t.int x) (t.int y)) (FVal.max (t.value x) (t.value y), 0)) ∧
    Reduces (.vredAnd t d a m) (.solo (.vredAnd t d a m)) t d a m (2 ^ t.width - 1) (fun _ x y => bitsOf (x &&& y)) ∧
    Reduces (.vredOr t d a m) (.solo (.vredOr t d a m)) t d a m 0 (fun _ x y => bitsOf (x ||| y)) ∧
    Reduces (.vredXor t d a m) (.solo (.vredXor t d a m)) t d a m 0 (fun _ x y => bitsOf (x ^^^ y)) ∧
    Reduces (.vredSums t d a m) (.solo (.vredSums t d a m)) t d a m 0 (fun _ x y => narrowInt t.lo t.hi t.width (t.int x + t.int y))

/-- Rows between the vector registers and the scratchpad (R254 to R257, R480): a load fills the enabled elements, a store writes their
bytes and no others; a bound register flags, clamps or traps the elements outside its bounds, and its format must be the store's type.
That a clamp of `VST.B` raises the conversion's flags is the model's reading (log 23). -/
def Obligations.VectorMemory : Prop :=
  ∀ (t : Ty) (d : VReg) (a : SReg) (off : BitVec 20) (m : MReg) (k : Fin 16),
    let addr (c : Core) : Int := (c.rs a).toNat + off.toInt
    let row (c : Core) : Nat := (addr c).toNat / 512
    let stored (s u : State) (f : Nat → Nat) : Prop := ∀ j < elemCount t, elem (u.core.row (row s.core)) t.width j =
      if enabledBy t m s.core j then f j % 2 ^ t.width else elem (s.core.row (row s.core)) t.width j
    let bad (c : Core) (j : Nat) : Bool := Bound.breaches (c.bnd k.val) (t.value (lane t c d j))
    let fix (c : Core) (j : Nat) : Rounded := Bound.clamped (c.bnd k.val) t (t.value (lane t c d j))
    let broken (c : Core) : Bool := (List.range (elemCount t)).any fun j => enabledBy t m c j && bad c j
    let B : Instr := .vstB t a off d m k
    let b : Op := .solo (.vstB t a off d m k)
    let ok (s : State) : Prop := RowAddress b s (addr s.core) true ∧ Bound.fmt (s.core.bnd k.val) = t.code
    SetsElems (.vld t d a off m) (.solo (.vld t d a off m)) t.width d (enabledBy t m)
      (fun c j => bitsOf (elem (c.row (row c)) t.width j)) (fun s => RowAddress (.solo (.vld t d a off m)) s (addr s.core) false) ∧
    Completes (.vst t a off d m) (.solo (.vst t a off d m)) (fun s => { sp := ((addr s.core).toNat, 512) })
      (fun s u => stored s u (lane t s.core d)) (fun s => RowAddress (.solo (.vst t a off d m)) s (addr s.core) true) ∧
    RowChecks (.vld t d a off m) (.solo (.vld t d a off m)) addr ∧ RowChecks (.vst t a off d m) (.solo (.vst t a off d m)) addr ∧
    RowChecks B b addr ∧
    Traps B b (fun s => Trap.precise 0x03 0 (BitVec.ofInt 64 (addr s.core)))
      (fun s => RowAddress b s (addr s.core) true ∧ Bound.fmt (s.core.bnd k.val) ≠ t.code) ∧
    Completes B b (fun s => { sp := ((addr s.core).toNat, 512) }) (fun s u => stored s u (lane t s.core d))
      (fun s => ok s ∧ broken s.core = false) ∧
    Completes B b (fun s => { sp := ((addr s.core).toNat, 512), special := [0x100 + k.val] })
      (fun s u => stored s u (lane t s.core d) ∧ u.core.bnd k.val = setBit (s.core.bnd k.val) 3 true)
      (fun s => ok s ∧ broken s.core = true ∧ Bound.mode (s.core.bnd k.val) = 0) ∧
    Completes B b (fun s =>
        { sp := ((addr s.core).toNat, 512), special := [0x100 + k.val],
          flags := (List.range (elemCount t)).foldl
            (fun f j => if enabledBy t m s.core j && bad s.core j then f ||| (fix s.core j).flags else f) 0 })
      (fun s u => stored s u (fun j => if bad s.core j then (fix s.core j).bits else lane t s.core d j) ∧
        u.core.bnd k.val = setBit (s.core.bnd k.val) 3 true)
      (fun s => ok s ∧ broken s.core = true ∧ Bound.mode (s.core.bnd k.val) = 1) ∧
    ∀ s, MayIssue b s → ok s → broken s.core = true → Bound.mode (s.core.bnd k.val) = 2 →
      exec B s = .next (((begun b s).on fun c => c.setBnd k.val (setBit (c.bnd k.val) 3 true)).raiseTrap s.cur
        (Trap.precise 0x0F 0 (BitVec.ofNat 64 k.val)))

/-! ### Posts -/

/-- The records that the posting instructions build (R259 to R261, R318, R324, R325, R411): the header, the boxes in their slots, the
operation words from the scalar registers, and the steps of the walked slots. -/
def Obligations.TaskPosts : Prop :=
  ∀ (nb : NB) (ga gb gc gx : GReg) (sx sy sz sw : SReg) (s0 s1 s2 : Step) (ts ord : Bool) (stage : BitVec 3),
    let head (k e : Nat) (t f : Bool) (_ : Core) : Head := ⟨k, e, stage, t, f⟩
    let opt (c : Core) (g : GReg) : Word := if g.val = 0 then 0 else c.rg g
    let no (_ : Core) : Word := 0
    let x (c : Core) : Word := c.rs sx
    let y (c : Core) : Word := c.rs sy
    let z (c : Core) : Word := c.rs sz
    let w (c : Core) : Word := c.rs sw
    let steps (bs : Core → List Word) (st : List (Option Step)) (c : Core) : Word := stepsWord (bs c) st
    let one (c : Core) : List Word := [c.rg ga]
    let two (c : Core) : List Word := [c.rg ga, c.rg gb]
    let ab (c : Core) : List Word := [c.rg ga, opt c gb]
    let three (c : Core) : List Word := [c.rg ga, c.rg gb, c.rg gc]
    let abc (c : Core) : List Word := [c.rg ga, c.rg gb, opt c gc]
    let four (c : Core) : List Word := [c.rg ga, opt c gb, c.rg gc, opt c gx]
    Posts (.mldst nb ga gb sx sy s0 s1 ts stage) (.solo (.mldst nb ga gb sx sy s0 s1 ts stage)) nb (head 0x01 0 ts false) ab y x
      (steps ab [some s0, some s1]) no ∧
    Posts (.mswap nb ts stage) (.solo (.mswap nb ts stage)) nb (head 0x02 0 ts false) (fun _ => []) no no no no ∧
    Posts (.mzero nb ga sy ts stage) (.solo (.mzero nb ga sy ts stage)) nb (head 0x03 0 ts false) one y no no no ∧
    Posts (.mstream nb ga gb gc sx sy s0 s2 ts stage) (.solo (.mstream nb ga gb gc sx sy s0 s2 ts stage)) nb (head 0x04 0 ts false) abc y x
      (steps abc [some s0, none, some s2]) no ∧
    Posts (.mdrain nb ga gb gc sx sy s1 ts stage) (.solo (.mdrain nb ga gb gc sx sy s1 ts stage)) nb (head 0x05 0 ts false) abc y x
      (steps abc [none, some s1]) no ∧
    Posts (.mepi nb ga sx sy ts stage) (.solo (.mepi nb ga sx sy ts stage)) nb
      (fun c => ⟨0x06, if bit (c.rs sy) 16 then 1 else 0, stage, ts, false⟩) one y x no no ∧
    Posts (.smap nb ga gb gc gx sx sy s0 s1 s2 stage) (.solo (.smap nb ga gb gc gx sx sy s0 s1 s2 stage)) nb (head 0x10 1 false false) four y x
      (steps four [some s0, some s1, some s2]) no ∧
    Posts (.sred nb ga gb sx sy s0 stage) (.solo (.sred nb ga gb sx sy s0 stage)) nb (head 0x11 1 false false) ab y x (steps ab [some s0]) no ∧
    Posts (.xpose nb ga gb sx sy s0 s1 stage) (.solo (.xpose nb ga gb sx sy s0 s1 stage)) nb (head 0x18 2 false false) two y x
      (steps two [some s0, some s1]) no ∧
    Posts (.copy nb ga gb sx sy sz sw ord stage) (.solo (.copy nb ga gb sx sy sz sw ord stage)) nb (head 0x20 3 false ord) two y x z w ∧
    Posts (.gather nb ga gb gc sx sy sz sw ord stage) (.solo (.gather nb ga gb gc sx sy sz sw ord stage)) nb (head 0x21 3 false ord) three y x z w ∧
    Posts (.scatter nb ga gb gc sx sy sz sw ord stage) (.solo (.scatter nb ga gb gc sx sy sz sw ord stage)) nb (head 0x22 3 false ord) three y x z w ∧
    Posts (.subscr nb ga gb sx sy sz stage) (.solo (.subscr nb ga gb sx sy sz stage)) nb (head 0x23 3 false false) two y x z no ∧
    Posts (.ringpop nb ga sx stage) (.solo (.ringpop nb ga sx stage)) nb (head 0x30 5 false false) one no x no no ∧
    Posts (.ringpush nb ga sx stage) (.solo (.ringpush nb ga sx stage)) nb (head 0x31 5 false false) one no x no no ∧
    Posts (.coll nb ga gb sx sy sz ord stage) (.solo (.coll nb ga gb sx sy sz ord stage)) nb (head 0x28 4 false ord) two y x z no ∧
    Posts (.tstart nb ga) (.solo (.tstart nb ga)) nb (fun _ => ⟨0x3C, 0, 0, true, false⟩) (fun c => [opt c ga]) no no no no

/-- The signed row steps of the step codes (R260), by slot in word 9: a slot that is absent has none. -/
def Obligations.RecordSteps : Prop :=
  ∀ (boxes : List Word) (a b c : Option Step),
    let w := stepsWord boxes [a, b, c]
    let step (q : Nat) : Int := (field w (16 * q) 16 : BitVec 16).toInt
    let is (q : Nat) (s : Option Step) (code : BitVec 3) (v : Int) : Prop := s = some code → bit ((boxes[q]?).getD 0) 63 = true → step q = v
    ∀ q s, [a, b, c][q]? = some s →
      is q s 0 1 ∧ is q s 1 2 ∧ is q s 2 4 ∧ is q s 3 8 ∧ is q s 4 0 ∧ is q s 5 (-1) ∧ is q s 6 (-2) ∧
      (s = none → step q = 0) ∧ (bit ((boxes[q]?).getD 0) 63 = false → step q = 0)

/-- Bundles and guarded units (R81, R83, R310 to R313, R432): `BUNDLE` opens one, `BEND` closes it, `GUARD` posts its record as an
unresolved unit, and the markers move the open unit from section to section; in a handler each is a control fault. -/
def Obligations.BundlesAndUnits : Prop :=
  ∀ (nb : NB) (k : Fin 16) (ga gb gc gd ge gf : GReg),
    let G : Instr := .guard nb k ga gb gc gd ge gf
    let o : Op := .solo (.guard nb k ga gb gc gd ge gf)
    let opt (c : Core) (g : GReg) : Word := if g.val = 0 then 0 else c.rg g
    let boxes (c : Core) : List Word := [c.rg ga, opt c gb, opt c gc, opt c gd, opt c ge, opt c gf]
    let checked (s : State) : Except Trap Posted := checkRecord (localCtx (begun o s).core (ownIds (begun o s)))
      (buildRecord ⟨0x38, 5, 0, false, false⟩ (boxes s.core) 0 (BitVec.ofNat 64 k.val) 0 0)
    Completes .bundle (.solo .bundle) (fun _ => { window := true }) (fun s u => u.core.board = { s.core.board with bundle := some ⟨0, none⟩ })
      (fun s => s.core.inHandler = false ∧ s.core.board.bundle = none) ∧
    Traps .bundle (.solo .bundle) (fun _ => Trap.precise 0x04 0 0) (fun s => s.core.inHandler = false ∧ s.core.board.bundle.isSome = true) ∧
    Traps .bundle (.solo .bundle) (fun _ => Trap.precise 0x09 0x0B 0) (fun s => s.core.inHandler = true) ∧
    Completes .bend (.solo .bend) (fun _ => {}) (fun _ _ => True) (fun s => s.core.inHandler = false ∧ s.core.board.bundle = none) ∧
    (∀ n, Completes .bend (.solo .bend) (fun _ => { window := true }) (fun s u => u.core.board = { s.core.board with bundle := none })
      (fun s => s.core.inHandler = false ∧ s.core.board.bundle = some ⟨n, none⟩)) ∧
    Traps .bend (.solo .bend) (fun _ => Trap.precise 0x09 0x0B 0) (fun s => s.core.inHandler = true) ∧
    Marks .gcheck (.solo .gcheck) 1 2 ∧ Marks .gexact (.solo .gexact) 2 3 ∧ Marks .gend (.solo .gend) 3 0 ∧
    (∀ p, Completes G o (fun _ => { p := nbWrites nb, window := true })
      (fun s u => nbHolds nb u true ∧ u.core.board.nextSeq = s.core.board.nextSeq + 1 ∧
        (∃ e : Entry, u.core.board.entries = s.core.board.entries ++ [e] ∧ e.seq = s.core.board.nextSeq ∧ e.state = .unit ∧
          nfield (e.post.word 0) 0 8 = 0x38 ∧ e.post.word 8 = BitVec.ofNat 64 k.val ∧
          ∀ j < 6, e.post.word (j + 1) = ((boxes s.core)[j]?).getD 0) ∧
        ∃ v : GUnit, u.core.board.units = s.core.board.units ++ [v] ∧ v.guardSeq = s.core.board.nextSeq ∧ v.sect = 1 ∧ v.failed = false ∧
          v.captured = [])
      (fun s => s.core.inHandler = false ∧ checked s = .ok p ∧ s.core.board.bundle = none ∧ s.core.openUnit = none ∧
        ringCheck (begun o s).core p = none ∧ s.core.room false = true ∧ s.core.board.units.length < 4 ∧ commitRows p ≤ s.core.spareRows)) ∧
    Traps G o (fun _ => Trap.precise 0x09 0x0B 0) (fun s => s.core.inHandler = true) ∧
    (∀ p, Traps G o (fun _ => Trap.precise 0x04 0 0) (fun s => s.core.inHandler = false ∧ checked s = .ok p ∧
      (s.core.board.bundle.isSome = true ∨ s.core.openUnit.isSome = true)))

/-- `POSTM` (R295, R296): it leaves off at its limit, at the end of the area, at a pre-emption or at a record that is not sealed, with the
cursor and the count in its registers; it posts a sealed record and moves the cursor on; and its `.NB` form answers false where no entry
is free. -/
def Obligations.PostsFromMemory : Prop :=
  ∀ (nb : NB) (ga : GReg) (sx sy : SReg) (a : Area),
    let i : Instr := .postm nb ga sx sy
    let o : Op := .solo (.postm nb ga sx sy)
    let area (s : State) : Prop := recordArea (begun o s).core (ownIds (begun o s)) ga = .ok a
    let idx (c : Core) : Nat := nfield (c.rs sx) 48 16
    let seq (c : Core) : BitVec 32 := field (c.rs sx) 0 32
    let cur (n : Nat) (q : BitVec 32) : Word := BitVec.ofNat 64 (n * 2 ^ 48 + q.toNat)
    let fresh (s : State) : Prop := area s ∧ s.core.wait = .none ∧ s.core.room false = true
    let stops (w : Writes) (res : Word) (when : State → Prop) : Prop :=
      Completes i o (fun _ => w)
        (fun s u => (∀ r, u.core.rs r = ((s.core.ws sx (cur (idx s.core) (seq s.core))).ws sy res).rs r) ∧ nbHolds nb u true) when
    let regs : Writes := { s := [sx.val, sy.val], p := nbWrites nb }
    stops regs 0 (fun s => fresh s ∧ s.core.rs sy = 0) ∧
    stops regs 0x2000000000000000 (fun s => fresh s ∧ s.core.rs sy ≠ 0 ∧ a.capacity ≤ idx s.core) ∧
    stops regs 0x8000000000000000 (fun s => fresh s ∧ s.core.rs sy ≠ 0 ∧ idx s.core < a.capacity ∧ s.core.preemptAsked = true) ∧
    stops regs 0x4000000000000000 (fun s => fresh s ∧ s.core.rs sy ≠ 0 ∧ idx s.core < a.capacity ∧ s.core.preemptAsked = false ∧
      ∃ bs s1, readArea (begun o s) a (idx s.core) 1 = .bytes bs s1 ∧ isSealed bs (seq s.core) = false) ∧
    Completes i o (fun _ => { regs with window := true })
      (fun s u => u.core.board.nextSeq = s.core.board.nextSeq + 1 ∧ nbHolds nb u true ∧
        (∀ r, u.core.rs r = ((s.core.ws sx (cur (idx s.core + 1) (seq s.core + 1))).ws sy 1).rs r) ∧
        ∃ e : Entry, u.core.board.entries = s.core.board.entries ++ [e] ∧ e.seq = s.core.board.nextSeq ∧ e.state = .waiting)
      (fun s => fresh s ∧ s.core.rs sy = 1 ∧ idx s.core < a.capacity ∧ s.core.preemptAsked = false ∧
        s.core.joinBundle = none ∧ s.core.joinUnit = none ∧
        ∃ bs s1 p, readArea (begun o s) a (idx s.core) 1 = .bytes bs s1 ∧ isSealed bs (seq s.core) = true ∧
          ¬ (0x38 ≤ nfield ((recordWords bs)[0]?.getD 0) 0 8 ∧ nfield ((recordWords bs)[0]?.getD 0) 0 8 ≤ 0x3B) ∧
          checkRecord (localCtx s1.core (ownIds s1)) (recordWords bs) = .ok p ∧ ringCheck s1.core p = none) ∧
    (∀ q, nb = some q → Completes i o (fun _ => { s := [sy.val], p := [q.val] })
      (fun _ u => u.core.rs sy = (if sy.val = 0 then 0 else 0x6000000000000000) ∧ predicateIs u q false)
      (fun s => area s ∧ s.core.wait = .none ∧ s.core.room false = false)) ∧
    (∀ t, Traps i o (fun _ => t) fun s => recordArea (begun o s).core (ownIds (begun o s)) ga = .error t ∧ t.delivery = .precise)

/-- `POSTR` (R404 to R407): all records of its target are queued as one message and the cursor passes them, or the status says why none
is; a target that is not well formed, or a post inside a bundle or a unit, is a record fault, and an unmapped chip is a link fault. -/
def Obligations.PostsToOtherCores : Prop :=
  ∀ (nb : NB) (ga : GReg) (sx sy sr : SReg) (ord : Bool) (a : Area),
    let i : Instr := .postr nb ga sx sy sr ord
    let o : Op := .solo (.postr nb ga sx sy sr ord)
    let target (c : Core) : Word := c.rs sy
    let count (c : Core) : Nat := nfield (target c) 32 5
    let idx (c : Core) : Nat := nfield (c.rs sx) 48 16
    let seq (c : Core) : BitVec 32 := field (c.rs sx) 0 32
    let mapped (s : State) : Prop :=
      (SMap.get PeerEntry.initial (s.tenant (s.tenantOf s.cur)).peers (nfield (target s.core) 0 10)).valid = true
    let may (s : State) : Prop := s.core.board.bundle = none ∧ s.core.openUnit = none ∧ targetOk s (target s.core) = true ∧ mapped s ∧
      s.fab.flowsOut.any (endedFlow s.cur (s.tenantOf s.cur) (nfield (target s.core) 0 10)) = false ∧
      recordArea (begun o s).core (ownIds (begun o s)) ga = .ok a
    let status (n : Nat) (when : State → Prop) : Prop :=
      Completes i o (fun _ => { s := [sr.val], p := nbWrites nb })
        (fun _ u => u.core.rs sr = (if sr.val = 0 then 0 else BitVec.ofNat 64 n) ∧ nbHolds nb u (decide (n = 0))) when
    let records (bs : Bytes) (n : Nat) : List Bytes := (List.range n).map fun k => (bs.drop (128 * k)).take 128
    let sealed (bs : Bytes) (s : State) : Bool := (List.range (count s.core)).all fun k =>
      isSealed ((records bs (count s.core))[k]?.getD []) (seq s.core + BitVec.ofNat 32 k)
    status 3 (fun s => may s ∧ a.capacity < idx s.core + count s.core) ∧
    status 2 (fun s => may s ∧ idx s.core + count s.core ≤ a.capacity ∧
      ∃ bs s1, readArea (begun o s) a (idx s.core) (count s.core) = .bytes bs s1 ∧ sealed bs s = false) ∧
    (∀ rs, Completes i o (fun _ => { s := [sx.val, sr.val], p := nbWrites nb })
      (fun s u => nbHolds nb u true ∧
        (∀ r, u.core.rs r =
          ((s.core.ws sx (BitVec.ofNat 64 ((idx s.core + count s.core) * 2 ^ 48 + (seq s.core + BitVec.ofNat 32 (count s.core)).toNat))).ws sr 0).rs r) ∧
        ∃ m : OutPost, u.core.outPosts = s.core.outPosts ++ [m] ∧ m.lid = nfield (target s.core) 0 10 ∧ m.core = nfield (target s.core) 16 9 ∧
          m.ordered = ord ∧ m.msg.recs = rs ∧ m.sent = none)
      (fun s => may s ∧ idx s.core + count s.core ≤ a.capacity ∧ s.core.outbound + count s.core ≤ 32 ∧
        ∃ bs s1, readArea (begun o s) a (idx s.core) (count s.core) = .bytes bs s1 ∧ sealed bs s = true ∧
          sendRecords (begun o s).core (ownIds (begun o s)) 0 (records bs (count s.core)) = .ok rs)) ∧
    Traps i o (fun _ => Trap.precise 0x04 0 0) (fun s => s.core.board.bundle.isSome = true ∨ s.core.openUnit.isSome = true ∨
      targetOk s (target s.core) = false) ∧
    Traps i o (fun s => Trap.precise 0x0C 0x01 (BitVec.ofNat 64 (nfield (target s.core) 0 10)))
      (fun s => s.core.board.bundle = none ∧ s.core.openUnit = none ∧ targetOk s (target s.core) = true ∧ ¬ mapped s)

/-! ### Encodings -/

/-- Words of the manual's examples are the instructions that the manual says (R159, R173, R174, R215, R288 to R320, R385, R459). -/
def Obligations.DecodedWords : Prop :=
  decodeTableWord 64 0xA059000000000000 = some .eret ∧
  decodeTableWord 64 0xA0B2000000000000 = some .bundle ∧
  decodeTableWord 64 0xA06A00000000001C = some (.fence .ar .sys) ∧
  decodeTableWord 64 0xA06B290800000000 = some (.snap 5 2 1) ∧
  decodeTableWord 64 0xA06B290C00000000 = some (.snapNw 5 2 1) ∧
  decodeTableWord 64 0xA06C311400000000 = some (.snapq 6 2 5) ∧
  decodeTableWord 64 0xA0BA00000000003F = some (.twait 0x3F) ∧
  decodeTableWord 64 0xA063000000002903 = some (.rvarw 3 0x08 5) ∧
  decodeTableWord 64 0xA054480000000007 = some (.loop 9 7) ∧
  decodeTableWord 64 0xA04E10280C000004 = some (.ldx .n32 2 10 0 4) ∧
  decodeTableWord 64 0xA026204430000000 = some (.bilv3 4 1 2 3) ∧
  decodeTableWord 64 0xA0B8000000000000 = some (.tstart none 0) ∧
  decodeTableWord 64 0xA0B800C000000000 = some (.tstart none 3) ∧
  decodeTableWord 64 0xA0B4014C01000000 = some (.guard none 2 5 6 0 0 0 0) ∧
  decodeTableWord 64 0xA0B09240052C0000 = some (.postm (some 2) 9 10 11)

/-- Decoding what the encoder writes gives the operation back, every operand of it, under guard 0 and with the stop bit; a slot stands
beside a no-op (R158, R159, R165, R175 to R178). -/
def Obligations.EncodingRoundTrip : Prop :=
  ∀ o : Op, o.instr.wellFormed = true →
    Decode.decode ((Decode.encode o.instr).flatMap fun w => toBytes w 8) =
      .ok (⟨true, false, 0, (Decode.encode o.instr).length, Decode.wordOps o⟩, [])

/-! ### Steps -/

/-- A step with nothing scheduled runs the instruction that the bytes at the program counter decode to, one cycle on; where its thread
waits, another part of the package goes on instead, which is the model's choice (log 3). A scheduled event is run as it stands. -/
def Obligations.StepRunsDecoded : Prop :=
  (∀ (s : State) (i : Instr) (r : List Instr), s.inputs = i :: r → step s = exec i { s with inputs := r }) ∧
  (∀ (s : State) (ws : List Nat) (is : List GInstr) (o : Op),
    s.inputs = [] → s.turnOfOthers = false → s.freezing s.cur = false → s.core.forcedHere = false → s.core.mayRun = true →
    fetchGroup (tick s.cur s) (tick s.cur s).core 4 0 false false = .words ws → readGroup (tick s.cur s).core ws = .ok is →
    onlyOp (tick s.cur s).core is = some o →
    ∃ t, exec o.instr (tick s.cur s) = .next t ∧ step s = .next (if progressed s.cur s t then t else (autopilot t).getD t)) ∧
  ∀ (s : State) (x : SoloOp) (inv : Bool) (g : PReg) (rest : List Byte),
    Cap.within s.core.fetchCap s.core.pc.toNat 8 = true → s.core.codeLines.contains (s.core.pc.toNat / 128) = true →
    s.core.aheadKnown (match s.obj (Cap.obj s.core.fetchCap) with | some o => o.bytes | none => 0) = true →
    Decode.decode (SMap.getList 0 s.core.code s.core.pc.toNat 8 ++ rest) = .ok (⟨true, inv, g, 1, [.solo x]⟩, rest) →
    s.core.pend = 0 → xor (s.core.rp g) inv = true →
    ∃ ws is, fetchGroup s s.core 4 0 false false = .words ws ∧ readGroup s.core ws = .ok is ∧ onlyOp s.core is = some (.solo x)

/-- No instruction and no event ends a run: from every state each answers a next state. -/
def Obligations.NeverStops : Prop := (∀ (i : Instr) (s : State), ∃ t, exec i s = .next t) ∧ ∀ s, RunsOn s

/-- Every step keeps device memory in its canonical form. -/
def Obligations.StepKeepsMemoryCanonical : Prop := Kept MemoryCanonical

/-- Every step keeps every map that other statements take to be in canonical form so: device memory, host memory and the lower tier, and
each core's accumulators, checkpoint and renamed rows. -/
def Obligations.StepKeepsMapsCanonical : Prop := Kept MapsCanonical

/-! ### State -/

/-- The machine after cold reset (R10, R54, R57, R59, R163, R202, R230, R231, R288, R428, R478): the fields that the manual gives a value
hold it, in every core, and device memory is in its canonical form. That device memory lists nothing is the model's choice (log 2). -/
def Obligations.ResetState : Prop :=
  (∀ n, let c := State.reset.coreAt n
    nfield c.sp.vt 0 4 = 0xD ∧ nfield c.sp.vt 4 3 = 0 ∧ nfield c.sp.vt 8 5 = 3 ∧ nfield c.sp.vt 16 4 = 0xB ∧ nfield c.sp.vt 20 44 = 0 ∧
    c.sp.cyc = 0 ∧ c.sp.fflags = 0 ∧ c.sp.aflags = 0 ∧ c.sp.rngl = 1 ∧ c.sp.rnge = 1 ∧ c.sp.gfail = 0 ∧ c.sp.bpend = 0 ∧
    c.sp.epc = 0 ∧ c.sp.ecause = 0 ∧ c.sp.einfo = 0 ∧ c.sp.evec = 0 ∧ c.sp.loops = [] ∧ (∀ i, c.mb i = 0) ∧
    c.board.entries = [] ∧ c.board.rres = 64 ∧ c.inHandler = false) ∧
  State.reset.dev.fwLock = false ∧ State.reset.dev.dbgctl = 0 ∧ (∀ a, State.reset.hbmByte a = 0) ∧ MapsCanonical State.reset

/-- The register files (R160 to R162, R182): `s0` reads zero, `p0` and `m0` read true, whatever was written to them; every other register
reads what was last written to it, and a write changes no other. -/
def Obligations.RegisterFiles : Prop :=
  ∀ (c : Core) (w : Word) (v : Bool) (m : Mask) (k : Cap) (b : BitVec 48),
    c.rs 0 = 0 ∧ c.rp 0 = true ∧ c.rm 0 = BitVec.allOnes 512 ∧ c.ws 0 w = c ∧ c.wp 0 v = c ∧ c.wm 0 m = c ∧
    (∀ d r : SReg, d ≠ 0 → (c.ws d w).rs r = if r = d then w else c.rs r) ∧
    (∀ d r : PReg, d ≠ 0 → (c.wp d v).rp r = if r = d then v else c.rp r) ∧
    (∀ d r : MReg, d ≠ 0 → (c.wm d m).rm r = if r = d then m else c.rm r) ∧
    (∀ d r : CReg, (c.wc d k).rc r = if r = d then k else c.rc r) ∧
    (∀ d r : GReg, (c.wg d w).rg r = if r = d then w else c.rg r) ∧
    ∀ d r : BReg, (c.wb d b).rb r = if r = d then b else c.rb r

/-- Device memory (R7, R12, R350): bytes written stand where they were written and nowhere else, values are little-endian, and a read at
the port answers the bytes of the object. -/
def Obligations.MemoryBytes : Prop :=
  (∀ (s : State) (a b : Nat) (bs : List Byte), MemoryCanonical s →
    MemoryCanonical (s.setHbmBytes a bs) ∧
    (s.setHbmBytes a bs).hbmByte b = if a ≤ b ∧ b < a + bs.length then (bs[b - a]?).getD 0 else s.hbmByte b) ∧
  (∀ (v : BitVec 128) (n : Nat), n ≤ 16 → natOfBytes (toBytes v n) = v.toNat % 2 ^ (8 * n)) ∧
  ∀ (s : State) (tenant obj off n : Nat) (stamp : Word), s.portCheck tenant obj off n = .proceed → s.portStopped obj off = false →
    s.poisonFault obj off n false = false →
    s.portLocal tenant obj off (.read n) stamp = .done ((List.range n).map fun i => s.byteAt obj (off + i)) (s.stampAt obj off) s

/-- Taking a delegated trap (R429 to R432): the frame and the trap registers hold the cause, the resume offset and the report, `%bpend` and
the loop levels are saved and cleared, and the program counter goes to the handler; bytes 304 to 511 of the frame's row keep their values.
A capability fault and a bound trap freeze the thread first (R437), and a stall trap that cannot be delegated is dropped (R427). -/
def Obligations.TakingATrap : Prop :=
  ∀ (s : State) (n : Nat) (t : Trap),
    let c := s.coreAt n
    let d := (s.raiseTrap n t).coreAt n
    let frame (k : Nat) : Word := frameWord (d.row c.frameRow) k
    (t.cause ≠ 0x02 → t.cause ≠ 0x0F → c.delegable t = true → c.frameBusy = false →
      d.pc = (field c.sp.evec 3 45).setWidth 48 <<< 3 ∧ d.sp.epc = c.pc ∧ d.sp.einfo = t.info ∧ d.sp.bpend = 0 ∧ d.sp.loops = [] ∧
      nfield d.sp.ecause 0 8 = t.cause.toNat ∧ nfield d.sp.ecause 8 8 = t.reason.toNat ∧ nfield d.sp.ecause 16 2 = t.word.toNat ∧
      bit d.sp.ecause 18 = (t.delivery == .afterIssue) ∧ bit d.sp.ecause 19 = (t.delivery == .engine) ∧ bit d.sp.ecause 20 = t.remote ∧
      bit d.sp.ecause 21 = (t.delivery == .engine || t.delivery == .boundary || t.late) ∧ d.inHandler = true ∧
      frame 0 = d.sp.ecause.setWidth 64 ∧ frame 8 = c.pc.setWidth 64 ∧ frame 16 = t.info ∧ frame 24 = 0 ∧ frame 32 = c.sp.bpend ∧
      frame 40 = BitVec.ofNat 64 c.sp.loops.length ∧
      (∀ (k : Nat) (l : Loop), k < 4 → c.sp.loops[k]? = some l →
        frame (48 + 24 * k) = l.start.setWidth 64 ∧ frame (56 + 24 * k) = l.last.setWidth 64 ∧ frame (64 + 24 * k) = l.count) ∧
      (∀ k < 4, frame (144 + 8 * k) = (t.report[k]?).getD 0) ∧ (∀ k < 16, frame (176 + 8 * k) = (t.record[k]?).getD 0) ∧
      (∀ k, 304 ≤ k → k < 512 → d.spByte (512 * c.frameRow + k) = c.spByte (512 * c.frameRow + k)) ∧ d.board.bundle = c.board.bundle) ∧
    (t.cause = 0x02 ∨ t.cause = 0x0F → d.frozen = c.frozen ++ [.thread] ∧ d.frozenTraps = c.frozenTraps ++ [(.thread, t)] ∧ d.pc = c.pc ∧
      d.regs = c.regs) ∧
    (t.cause = 0x13 → c.delegable t = false → d = c.dropGroup) ∧
    ∀ m, m ≠ n → t.cause = 0x02 ∨ t.cause = 0x0F ∨ t.cause = 0x13 ∨ c.delegable t = true → (s.raiseTrap n t).coreAt m = s.coreAt m

/-! ### Device events -/

/-- Resets (R10, R129) and the links as they train (R514, R515), the locking of the firmware and its aperture (R133, R135). What
lies outside the package outlives a cold reset, and which chip fields are kept and that a link trains at three lanes are the model's
choices (log 5, 69). -/
def Obligations.ResetsAndLinks : Prop :=
  Happens .coldReset (fun _ => True) (fun s t => (∀ n, t.coreAt n = State.reset.coreAt n) ∧ t.sched = State.reset.sched ∧
    t.fab = State.reset.fab ∧ t.dev = { State.reset.dev with chip := s.dev.chip } ∧ (∀ a, t.hbmByte a = 0) ∧ (∀ o, t.obj o = none) ∧
    (∀ f, t.hostFn f = State.reset.hostFn f) ∧ t.host.hostMem = s.host.hostMem ∧ t.hbm.lower = s.hbm.lower) ∧
  (∀ die, Happens (.partitionReset die) (fun s => DeviceRuns s ∧ die < 12) fun s t =>
    (∀ i < 32, t.coreAt (32 * die + i) = State.reset.coreAt (32 * die + i)) ∧ t.dev = s.dev ∧ OnlySteps s t ∧ t.hbm.mem = s.hbm.mem ∧
    t.hbm.objs = s.hbm.objs ∧ t.sched.tenants = s.sched.tenants ∧ t.sched.partitions = s.sched.partitions) ∧
  (∀ fn, Happens (.flrVf fn) (fun s => DeviceRuns s ∧ 1 ≤ fn ∧ fn ≤ 256) fun s t =>
    (t.hostFn fn).tenant = 0 ∧ (t.hostFn fn).queues = [] ∧ (t.hostFn fn).vfEnabled = (s.hostFn fn).vfEnabled ∧
    ((s.hostFn fn).tenant ≠ 0 → t.tenant (s.hostFn fn).tenant.toNat = Tenant.initial)) ∧
  Happens .flrPf DeviceRuns (fun _ t => (∀ f, (t.hostFn f).tenant = 0 ∧ (t.hostFn f).queues = []) ∧ ∀ f, f ≠ 0 → (t.hostFn f).vfEnabled = false) ∧
  Happens .pcieLinkTraining (fun s => DeviceRuns s ∧ s.dev.bringUp ≠ 0 ∧ s.dev.pcieUp = false)
    (fun s => DevBecomes { s.dev with pcieUp := true, bringUp := Nat.max s.dev.bringUp 4 } s) ∧
  (∀ p chip peer lanes, Happens (.jedomPortTraining p chip peer lanes)
    (fun s => DeviceRuns s ∧ p < 18 ∧ 6 ≤ s.dev.bringUp ∧
      (SMap.get JPort.initial s.dev.jports p).failures < 3 ∧ (SMap.get JPort.initial s.dev.jports p).state ≠ 5 ∧
      (SMap.get JPort.initial s.dev.jports p).state ≠ 6)
    fun s t => let j := SMap.get JPort.initial s.dev.jports p
      SMap.get JPort.initial t.dev.jports p =
        (if popCount lanes < 2 then { j with lanes := lanes, state := 7, failures := j.failures + 1 }
         else { j with crcErr := 0, peerChip := chip, peerPort := peer, lanes := lanes, state := if popCount lanes = 4 then 5 else 6, failures := 0 }) ∧
      (∀ q, q ≠ p → SMap.get JPort.initial t.dev.jports q = SMap.get JPort.initial s.dev.jports q) ∧ t.cores = s.cores) ∧
  (∀ p errs, Happens (.jedomCrcRetrain p errs)
    (fun s => DeviceRuns s ∧ p < 18 ∧ 16 < errs ∧ ((SMap.get JPort.initial s.dev.jports p).state = 5 ∨ (SMap.get JPort.initial s.dev.jports p).state = 6))
    fun s t => let j := SMap.get JPort.initial s.dev.jports p
      t = { s with dev := { s.dev with jports := t.dev.jports } } ∧
      SMap.get JPort.initial t.dev.jports p =
        { j with crcErr := min (2 ^ 24 - 1) (j.crcErr + errs), retrains := min 15 (j.retrains + 1), lanes := 0, state := 1 } ∧
      ∀ q, q ≠ p → SMap.get JPort.initial t.dev.jports q = SMap.get JPort.initial s.dev.jports q) ∧
  (∀ up, Happens (.cxlLinkTraining up) (fun s => DeviceRuns s ∧ 6 ≤ s.dev.bringUp) fun s t =>
    t.dev.cxlUp = up ∧ t.dev.cxlTried = true ∧ t.cores = s.cores ∧
    (s.dev.bringUp = 6 → s.dev.ethTried = true → (∀ p < 18, 5 ≤ (SMap.get JPort.initial s.dev.jports p).state) →
      t.dev.bringUp = 7 ∧ (t.hostFn 0).tenant = 1 ∧ (t.hostFn 0).partMask = 0xFFF ∧ ∀ d < 12, (t.partition d).holder = some 1)) ∧
  (∀ up, Happens (.ethernetLinkTraining up) (fun s => DeviceRuns s ∧ 6 ≤ s.dev.bringUp) fun s t =>
    t.dev.ethUp = up ∧ t.dev.ethTried = true ∧ t.cores = s.cores) ∧
  Happens .linkRetransmission DeviceRuns (fun s t => OnlyHost s t ∧ (∀ f, f ≠ 0 → t.hostFn f = s.hostFn f) ∧
    ∀ i, SMap.get 0 (t.hostFn 0).counters i = if i = 12 ∧ SMap.get 0 (s.hostFn 0).counters i ≠ BitVec.allOnes 64
      then SMap.get 0 (s.hostFn 0).counters i + 1 else SMap.get 0 (s.hostFn 0).counters i) ∧
  (∀ v, Happens (.fwlockLock v) (fun s => DeviceRuns s ∧ s.dev.pcieUp = true ∧ s.dev.fwLock = false ∧ bit v 63 = true) fun s t =>
    t = { s with dev := t.dev } ∧ t.dev.fwLock = true ∧ t.dev.fwSize = field v 0 8 ∧
    (s.verifyImage (nfield v 0 8) ≠ 0 → t.dev.fwState = 3 ∧ t.dev.fwCode = s.verifyImage (nfield v 0 8) ∧ t.dev.meas0 = s.dev.meas0) ∧
    (s.verifyImage (nfield v 0 8) = 0 → t.dev.fwState = 2 ∧ t.dev.bringUp = 6 ∧
      t.dev.meas0 = Sha.sha384 (toBytes s.dev.meas0 48 ++ toBytes s.imageDigest 48) ∧
      ∀ i < 24, (t.island i).present = (s.island i).fcode)) ∧
  (∀ off data, Happens (.bar4Write off data) (fun s => DeviceRuns s ∧ s.dev.pcieUp = true ∧ s.dev.fwLock = false ∧ MemoryCanonical s) fun s t =>
    t = { s with hbm := { s.hbm with mem := t.hbm.mem } } ∧
    ∀ a, t.hbmByte a = if off ≤ a ∧ a < off + data.length ∧ a < 0x8000000 then (data[a - off]?).getD 0 else s.hbmByte a) ∧
  ∀ off data, Happens (.bar4Write off data) (fun s => DeviceRuns s ∧ s.dev.fwLock = true) fun s t => t = s

/-- Host accesses: rings through BAR2 (R97), queue registers (R99, R100), the attestation mailbox (R137, R489), SPDM, and registers
without a row of their own (R9, R124, R288, R516). -/
def Obligations.HostAccesses : Prop :=
  (∀ fn q off n, Happens (.bar2Access fn q off (.read n))
    (fun s => DeviceRuns s ∧ ∃ k, s.queueAt fn q = some k ∧ off + n ≤ 128 * 2 ^ k.lgEnt ∧
      Readable s (s.hostFn fn).tenant.toNat k.ring.toNat off n)
    fun s t => ∃ k, s.queueAt fn q = some k ∧ t = { s with host := { s.host with lastRead := t.host.lastRead } } ∧
      ∀ i < n, t.host.lastRead[i]? = some (s.byteAt k.ring.toNat (off + i))) ∧
  (∀ fn q off d, Happens (.bar2Access fn q off (.write d))
    (fun s => DeviceRuns s ∧ ∃ k bs st a, s.queueAt fn q = some k ∧ off + d.length ≤ 128 * 2 ^ k.lgEnt ∧
      s.feAccess (s.hostFn fn).tenant.toNat k.ring.toNat off (.write d) = .done bs st a)
    fun s t => ∃ k bs st, s.queueAt fn q = some k ∧ s.feAccess (s.hostFn fn).tenant.toNat k.ring.toNat off (.write d) = .done bs st t) ∧
  (∀ fn q off n, Happens (.bar2Access fn q off (.read n))
    (fun s => DeviceRuns s ∧ ∀ k, s.queueAt fn q = some k → 128 * 2 ^ k.lgEnt < off + n)
    fun s t => t = { s with host := { s.host with lastRead := List.replicate n 0xFF } }) ∧
  (∀ fn q off d, Happens (.bar2Access fn q off (.write d))
    (fun s => DeviceRuns s ∧ ∀ k, s.queueAt fn q = some k → 128 * 2 ^ k.lgEnt < off + d.length) fun s t => t = s) ∧
  (∀ fn q v, Happens (.hqDoorbell fn q v) (fun s => DeviceRuns s ∧ ∃ k, s.queueAt fn q = some k ∧ (v - k.head).toNat ≤ 2 ^ k.lgEnt)
    fun s t => ∃ k, s.queueAt fn q = some k ∧ QueueBecomes fn q { k with tail := v } s t) ∧
  (∀ fn q v, Happens (.hqDoorbell fn q v) (fun s => DeviceRuns s ∧ ∃ k, s.queueAt fn q = some k ∧ 2 ^ k.lgEnt < (v - k.head).toNat)
    fun s t => ∃ k, s.queueAt fn q = some k ∧ QueueBecomes fn q { k with errCode := 0x21, errIdx := v } s t) ∧
  (∀ fn q v, Happens (.queueEnable fn q v) (fun s => DeviceRuns s ∧ bit v 0 = true ∧ (s.queueAt fn q).isSome = true)
    fun s t => ∃ k, s.queueAt fn q = some k ∧ QueueBecomes fn q { k with vector := field v 2 11, irqEn := bit v 1, enable := true } s t) ∧
  (∀ fn q v, Happens (.queueDisable fn q v) (fun s => DeviceRuns s ∧ bit v 0 = false ∧ (s.queueAt fn q).isSome = true)
    fun s t => ∃ k, s.queueAt fn q = some k ∧ QueueBecomes fn q { k with
      vector := field v 2 11, irqEn := bit v 1, enable := false, tried := false, refetch := 0, waitRec := [], blocked := false } s t) ∧
  (∀ fn q, Happens (.queueResume fn q) (fun s => DeviceRuns s ∧ (s.queueAt fn q).isSome = true)
    fun s t => ∃ k, s.queueAt fn q = some k ∧ QueueBecomes fn q
      (if k.enable = true ∧ k.halted = true then { k with errCode := 0, halted := false, tried := false, refetch := 0 } else { k with errCode := 0 }) s t) ∧
  (∀ fn, Happens (.attestationRequest fn) (fun s => DeviceRuns s ∧ s.fnPresent fn = true ∧ s.mailByte fn 0x20 ≠ 1 ∧ s.mailByte fn 0x20 ≠ 3)
    fun s t => t = s.putMail fn 0x20 [1]) ∧
  (∀ fn, Happens (.errorCounterRead fn) (fun s => DeviceRuns s ∧ s.fnPresent fn = true ∧ s.mailByte fn 0x20 ≠ 1 ∧ s.mailByte fn 0x20 ≠ 3)
    fun s t => t = s.putMail fn 0x20 [3]) ∧
  (∀ fn, Happens (.attestationReportReady fn) (fun s => FirmwareRuns s ∧ s.fnPresent fn = true ∧ s.mailByte fn 0x20 = 1) fun s t =>
    let r := toBytes s.dev.meas0 48 ++ toBytes s.dev.meas1 48 ++ toBytes s.dev.secVersion 4 ++ toBytes ((s.hostFn fn).tenant.setWidth 32) 4
    let nonce := (List.range 32).map (s.mailByte fn)
    t = (s.putMail fn 0x40 (r ++ toBytes (Config.attestSign s.dev.meas0 (Sha.sha384 (nonce ++ r))) 96)).putMail fn 0x20 [2]) ∧
  (∀ fn, Happens (.counterSnapshotReady fn) (fun s => FirmwareRuns s ∧ s.fnPresent fn = true ∧ s.mailByte fn 0x20 = 3) fun s t =>
    t = (s.putMail fn 0x40 ((List.range 16).flatMap fun i => toBytes (SMap.get 0 (s.hostFn fn).counters i) 8)).putMail fn 0x20 [4]) ∧
  (∀ nonce, Happens (.spdmRequest nonce) (fun s => FirmwareRuns s ∧ s.dev.pcieUp = true) fun s t =>
    let r := toBytes s.dev.meas0 48 ++ toBytes s.dev.meas1 48 ++ toBytes s.dev.secVersion 4 ++ toBytes ((s.hostFn 0).tenant.setWidth 32) 4
    t = { s with host := { s.host with
      spdm := s.host.spdm ++ [r ++ toBytes (Config.attestSign s.dev.meas0 (Sha.sha384 (nonce ++ r))) 96] } }) ∧
  (∀ fn v, Happens (.registerWrite (.vfEnable fn) v) (fun s => DeviceRuns s ∧ 1 ≤ fn ∧ fn ≤ 256 ∧ s.dev.pcieUp = true ∧ bit v 0 = true)
    fun s t => OnlyHost s t ∧ ∀ f, t.hostFn f = if f = fn then { s.hostFn fn with vfEnabled := true } else s.hostFn f) ∧
  (∀ fn k v, Happens (.registerWrite (.bar0 fn (0x3000 + 8 * k)) v) (fun s => DeviceRuns s ∧ k < 4 ∧ s.fnPresent fn = true)
    fun s t => t = s.putMail fn (8 * k) (toBytes v 8)) ∧
  (∀ n m v, Happens (.registerWrite (.dev (0x40 * n) m) v)
    (fun s => DeviceRuns s ∧ s.devWritable m = true ∧ n < 384 ∧ nfield v 0 9 ≤ 256) fun s t =>
    CoreBecomes n { s.coreAt n with board := { (s.coreAt n).board with rres := field v 0 9 } } s t) ∧
  (∀ off m v, off ≠ 0x12010 → Happens (.registerWrite (.dev off m) v) (fun s => DeviceRuns s ∧ s.devWritable m = false) fun s t => t = s) ∧
  ∀ v, Happens (.registerWrite (.dev 0x12010 true) v) (fun s => s.devWritable true = true) fun s t =>
    t = { s with dev := { s.dev with dbgctl := t.dev.dbgctl }, cores := t.cores } ∧ FreezeFlushes s t ∧
    (∀ i, 32 ≤ i → i < 45 → bit t.dev.dbgctl i = bit v i) ∧
    ∀ i < 12, bit t.dev.dbgctl i = (bit v i && match (s.partition i).holder with | none => true | some h => h == (s.hostFn 0).tenant.toNat)

/-- The front end (R105, R107 to R112, R114 to R117, R461): reading a record's slot, what each kind of record does as it is taken up, and
how records and launches complete. That a group never installed is at version 0 is the model's choice (log 51). -/
def Obligations.FrontEndRecords : Prop :=
  (∀ fn q k ws, Happens (.recordSealRead fn q)
    (fun s => FirmwareRuns s ∧ AtHead s fn q k ws ∧ k.tried = false ∧ recSealed ws k.head = false)
    (QueueBecomes fn q { k with tried := true })) ∧
  (∀ fn q k ws, Happens (.recordSealRead fn q)
    (fun s => FirmwareRuns s ∧ AtHead s fn q k ws ∧ k.tried = false ∧ recSealed ws k.head = true ∧ s.holdsPartition (tenantFn s fn) = true ∧
      (bit (hostWord ws 0) 8 = true → k.done = k.head) ∧ s.turnOfQueue fn q = true ∧ recordOk (s.ownLid (tenantFn s fn)) ws = true ∧
      ¬ (recKind ws = 3 ∧ nfield (hostWord ws 1) 0 2 = 2))
    (Consumes fn q ws none (64 * fn + q))) ∧
  (∀ fn q k ws, Happens (.recordSealRead fn q)
    (fun s => FirmwareRuns s ∧ AtHead s fn q k ws ∧ k.tried = false ∧ recSealed ws k.head = true ∧ s.holdsPartition (tenantFn s fn) = true ∧
      (bit (hostWord ws 0) 8 = true → k.done = k.head) ∧ s.turnOfQueue fn q = true ∧ recordOk (s.ownLid (tenantFn s fn)) ws = false)
    (Consumes fn q ws (some (0x02, 0, none)) (64 * fn + q))) ∧
  (∀ fn q k ws, Happens (.recordSealRead fn q)
    (fun s => FirmwareRuns s ∧ AtHead s fn q k ws ∧ k.tried = false ∧ recSealed ws k.head = true ∧ recKind ws ≠ 6 ∧
      (s.holdsPartition (tenantFn s fn) = false ∨ (bit (hostWord ws 0) 8 = true ∧ k.done ≠ k.head)))
    (QueueBecomes fn q k)) ∧
  (∀ fn q k ws, Happens (.recordSealRead fn q)
    (fun s => FirmwareRuns s ∧ AtHead s fn q k ws ∧ k.tried = false ∧ recSealed ws k.head = true ∧ s.heldRecord fn k ws = false ∧
      s.turnOfQueue fn q = false)
    fun s t => t = s) ∧
  (∀ fn q k ws, Happens (.sealRefetch fn q)
    (fun s => FirmwareRuns s ∧ AtHead s fn q k ws ∧ k.tried = true ∧ recSealed ws k.head = false ∧ k.refetch < 7)
    (QueueBecomes fn q { k with refetch := k.refetch + 1 })) ∧
  (∀ fn q k ws, Happens (.sealRefetch fn q)
    (fun s => FirmwareRuns s ∧ AtHead s fn q k ws ∧ k.tried = true ∧ recSealed ws k.head = false ∧ k.refetch = 7)
    (QueueBecomes fn q { k with refetch := 8, halted := true, tried := false, errCode := 0x20, errIdx := k.head })) ∧
  (∀ fn q idx ws, Happens (.noopRecord fn q idx) (fun s => FirmwareRuns s ∧ Consumed s fn q idx (recKind · == 0) ws) (Ends fn q idx 0 0 none)) ∧
  (∀ fn q idx ws c off k, Happens (.kernelRecord fn q idx)
    (fun s => FirmwareRuns s ∧ Consumed s fn q idx (recKind · == 1) ws ∧ s.queueAt fn q = some k ∧
      s.resolveRef (tenantFn s fn) (hostWord ws 1) [5] 8 = some (c, off) ∧ bit (hostWord ws 10) 63 = false ∧ bit (hostWord ws 12) 63 = false ∧
      field (hostWord ws 2) 34 12 &&& ~~~ (s.hostFn fn).partMask = 0 ∧ bit (hostWord ws 2) 32 = false ∧ 1 ≤ nfield (hostWord ws 2) 8 24)
    fun s t => Begins fn q idx none s t ∧ t.cores = s.cores ∧ t.hbm = s.hbm ∧ t.sched.nextLaunch = s.sched.nextLaunch + 1 ∧
      (∃ la, t.launch s.sched.nextLaunch = some la ∧ la.fn = fn ∧ la.queue = q ∧ la.idx = idx ∧ la.tenant = tenantFn s fn ∧
        la.prio = Nat.min (nfield (hostWord ws 0) 11 3) k.prioCap ∧ la.codeCap = c ∧ la.codeOff = BitVec.ofNat 48 off ∧
        la.teamSize = nfield (hostWord ws 2) 0 6 ∧ la.teamCount = nfield (hostWord ws 2) 8 24 ∧ la.persist = bit (hostWord ws 2) 33 ∧
        la.partMask = (if field (hostWord ws 2) 34 12 = 0#12 then (s.hostFn fn).partMask else field (hostWord ws 2) 34 12) ∧
        la.preemptUs = (if nfield (hostWord ws 3) 0 24 = 0 then 100 else nfield (hostWord ws 3) 0 24) ∧
        (∀ i < 6, la.args[i]? = some (hostWord ws (4 + i))) ∧ la.eligible = true ∧ la.ended = 0 ∧ la.abort = none ∧ la.unitFails = 0) ∧
      ∃ tm, t.team s.sched.nextTeam = some tm ∧ tm.launch = s.sched.nextLaunch ∧ tm.index = 0 ∧ tm.state = .pending ∧ tm.cores = []) ∧
  (∀ fn q idx ws, Happens (.kernelRecord fn q idx)
    (fun s => FirmwareRuns s ∧ Consumed s fn q idx (recKind · == 1) ws ∧ s.resolveRef (tenantFn s fn) (hostWord ws 1) [5] 8 = none)
    (Ends fn q idx 0x03 0 none)) ∧
  (∀ l la c off, Happens (.waitRefSatisfied l)
    (fun s => FirmwareRuns s ∧ s.launch l = some la ∧ la.eligible = false ∧ la.waitRef = some (c, off) ∧ Readable s la.tenant (Cap.obj c) off 8 ∧
      la.waitVal.toInt ≤ (wordAt s (Cap.obj c) off).toInt)
    fun s t => t = s.setLaunch l (some { la with eligible := true })) ∧
  (∀ fn q idx ws p n, Happens (.collectiveStepRecord fn q idx)
    (fun s => FirmwareRuns s ∧ Consumed s fn q idx (recKind · == 2) ws ∧ n = nfield (hostWord ws 1) 0 9 ∧ CoreRuns s n ∧
      checkRecord (collCtx (s.ownLid (tenantFn s fn)) [s.tableCap (tenantFn s fn) (nfield (hostWord ws 2) 52 12),
        s.tableCap (tenantFn s fn) (nfield (hostWord ws 3) 52 12), s.tableCap (tenantFn s fn) (nfield (hostWord ws 5) 48 12)]) (collRecord ws) = .ok p ∧
      (s.hostFn fn).partMask.getLsbD (n / 32) = true ∧ s.occupied (tenantFn s fn) n = true ∧ 1 ≤ (s.coreAt n).remoteRoom)
    fun s t => Begins fn q idx none s t ∧ (∀ m, m ≠ n → t.coreAt m = s.coreAt m) ∧ t.hbm = s.hbm ∧
      ∃ e, (t.coreAt n).board.entries = (s.coreAt n).board.entries ++ [e] ∧ e.seq = (s.coreAt n).board.nextSeq ∧ e.state = .waiting ∧
        e.remote = true ∧ e.origin = some (fn, q, idx) ∧ e.post.caps = p.caps ∧ nfield (e.post.word 0) 0 8 = 0x28) ∧
  (∀ fn q idx ws c off, Happens (.signalAddRecord fn q idx)
    (fun s => FirmwareRuns s ∧ Consumed s fn q idx (fun w => recKind w == 3 && nfield (hostWord w 1) 0 2 == 0) ws ∧
      SignalWord s (tenantFn s fn) (hostWord ws 2) c off ∧ bit (hostWord ws 1) 2 = false)
    fun s t => Begins fn q idx (some (0, 0, none)) s t ∧ t.cores = s.cores ∧
      StoresWord (Cap.obj c) off (wordAt s (Cap.obj c) off + hostWord ws 3) s t) ∧
  (∀ fn q idx ws c off, Happens (.signalAddRecord fn q idx)
    (fun s => FirmwareRuns s ∧ Consumed s fn q idx (fun w => recKind w == 3 && nfield (hostWord w 1) 0 2 == 0) ws ∧
      SignalWord s (tenantFn s fn) (hostWord ws 2) c off ∧ bit (hostWord ws 1) 2 = true ∧ wordAt s (Cap.obj c) off = BitVec.allOnes 64 ∧
      hostWord ws 3 ≠ 0)
    (Ends fn q idx 0x09 0 none)) ∧
  (∀ fn q idx ws c off, Happens (.signalSetRecord fn q idx)
    (fun s => FirmwareRuns s ∧ Consumed s fn q idx (fun w => recKind w == 3 && nfield (hostWord w 1) 0 2 == 1) ws ∧
      SignalWord s (tenantFn s fn) (hostWord ws 2) c off)
    fun s t => t.cores = s.cores ∧
      if bit (hostWord ws 1) 2 = true ∧ (hostWord ws 3).toNat < (wordAt s (Cap.obj c) off).toNat
      then Begins fn q idx (some (0x06, 0, none)) s t ∧ StoresWord (Cap.obj c) off (wordAt s (Cap.obj c) off) s t
      else Begins fn q idx (some (0, 0, none)) s t ∧ StoresWord (Cap.obj c) off (hostWord ws 3) s t) ∧
  (∀ fn q k c off, Happens (.signalWaitRecord fn q)
    (fun s => FirmwareRuns s ∧ s.queueAt fn q = some k ∧ k.waitRec ≠ [] ∧ s.holdsPartition (tenantFn s fn) = true ∧
      SignalWord s (tenantFn s fn) (hostWord k.waitRec 2) c off ∧ bit (hostWord k.waitRec 1) 2 = false ∧ (wordAt s (Cap.obj c) off).toInt < (hostWord k.waitRec 3).toInt)
    (QueueBecomes fn q { k with blocked := true })) ∧
  (∀ fn q k c off, Happens (.signalWaitSatisfied fn q)
    (fun s => FirmwareRuns s ∧ s.queueAt fn q = some k ∧ k.waitRec ≠ [] ∧ s.holdsPartition (tenantFn s fn) = true ∧
      SignalWord s (tenantFn s fn) (hostWord k.waitRec 2) c off ∧
      (if bit (hostWord k.waitRec 1) 2 = true then (hostWord k.waitRec 3).toNat ≤ (wordAt s (Cap.obj c) off).toNat
       else (hostWord k.waitRec 3).toInt ≤ (wordAt s (Cap.obj c) off).toInt))
    fun s t => Consumes fn q k.waitRec (some (0, 0, none)) s.sched.hostTurn s t) ∧
  (∀ fn q k, Happens (.signalWaitTimeout fn q)
    (fun s => FirmwareRuns s ∧ s.queueAt fn q = some k ∧ k.waitRec ≠ [] ∧ s.holdsPartition (tenantFn s fn) = true ∧ k.blocked = true ∧
      hostWord k.waitRec 4 ≠ 0)
    fun s t => Consumes fn q k.waitRec (some (0x0A, 0, none)) s.sched.hostTurn s t) ∧
  (∀ fn q k, ∀ x ∈ [Instr.signalWaitRecord fn q, .signalWaitSatisfied fn q, .signalWaitTimeout fn q], Happens x
      (fun s => FirmwareRuns s ∧ s.queueAt fn q = some k ∧ s.holdsPartition (tenantFn s fn) = false) fun s t => t = s) ∧
  (∀ fn q idx, ChangesGroup (.membershipReplaceRecord fn q idx) fn q idx 0 (fun s t ws tb => MemberTable s t (hostWord ws 2) tb.1 tb.2)
    fun old _ tb => ⟨old.num + 1, tb.1, tb.2, tb.2.map fun w =>
      if (w, MemberState.absentPending) ∈ old.members.zip old.states then .absentPending else .present⟩) ∧
  (∀ fn q idx, ChangesGroup (.membershipWithdrawRecord fn q idx) fn q idx 1 (fun _ _ _ tb => tb = (0, []))
    fun old ws _ => ⟨old.num + 1, old.timeout, old.members, old.states.set (nfield (hostWord ws 3) 0 16) .withdrawn⟩) ∧
  (∀ fn q idx, ChangesGroup (.membershipAddRecord fn q idx) fn q idx 2 (fun s t ws tb => MemberTable s t (hostWord ws 2) tb.1 tb.2)
    fun old _ tb => ⟨old.num + 1, tb.1, old.members ++ tb.2, old.states ++ tb.2.map fun _ => .present⟩) ∧
  (∀ fn q idx ws, Happens (.snapshotRecord fn q idx)
    (fun s => FirmwareRuns s ∧ Consumed s fn q idx (fun w => recKind w == 5 && !bit (hostWord w 1) 12) ws ∧
      Cap.obj (s.recCap fn q idx (nfield (hostWord ws 1) 0 12)) ≠ 0 ∧ Cap.has (s.recCap fn q idx (nfield (hostWord ws 1) 0 12)) 4 = true ∧ s.frozenOf (tenantFn s fn) = none)
    fun s t => Begins fn q idx none s t ∧ t.cores = s.cores ∧ t.hbm = s.hbm ∧
      (t.tenant (tenantFn s fn)).gen.frozen = some (s.tenant (tenantFn s fn)).gen.current ∧
      (t.tenant (tenantFn s fn)).gen.current = (s.tenant (tenantFn s fn)).gen.current ∧
      (t.tenant (tenantFn s fn)).gen.opened = false ∧ (t.tenant (tenantFn s fn)).gen.asker = .record fn q idx) ∧
  (∀ fn q idx ws, Happens (.snapshotQueryRecord fn q idx)
    (fun s => FirmwareRuns s ∧ Consumed s fn q idx (fun w => recKind w == 5 && bit (hostWord w 1) 12) ws ∧
      Cap.obj (s.recCap fn q idx (nfield (hostWord ws 1) 0 12)) ≠ 0 ∧ Cap.has (s.recCap fn q idx (nfield (hostWord ws 1) 0 12)) 4 = true)
    fun s t => let r := queryGen s (tenantFn s fn) ((s.tenant (tenantFn s fn)).gen.current - 1)
      Ends fn q idx 0 (BitVec.ofNat 32 (nfield r 56 8)) (some r) s t) ∧
  (∀ fn q idx k r st res, Happens (.recordCompletion fn q idx)
    (fun s => FirmwareRuns s ∧ s.queueAt fn q = some k ∧ (k.recs.find? fun x => x.idx == idx && !x.finished) = some r ∧
      r.outcome = some (st, res, none) ∧ r.word12 = none ∧ recKind r.words ≠ 2 ∧
      Writable s (tenantFn s fn) k.ring.toNat (128 * (idx.toNat % 2 ^ k.lgEnt)) 128)
    fun s t => t.cores = s.cores ∧
      StoresWord k.ring.toNat (128 * (idx.toNat % 2 ^ k.lgEnt) + 112) (BitVec.ofNat 64 (st.toNat + res.toNat * 2 ^ 32)) s t ∧
      ∃ k', t.queueAt fn q = some k' ∧
        k'.done = k.done + BitVec.ofNat 32 ((k.recs.map fun (x : HostRec) => if x.idx = idx then { x with finished := true } else x).takeWhile (·.finished)).length ∧
        (st ≠ 0 → bit (hostWord r.words 0) 10 = true → k'.halted = true ∧ k'.errCode = st ∧ k'.errIdx = idx) ∧
        (st = 0 → k'.halted = k.halted)) ∧
  ∀ l la, Happens (.launchComplete l)
    (fun s => FirmwareRuns s ∧ s.launch l = some la ∧ la.teamCount ≤ la.ended ∧ la.abort = none ∧ la.doneRef = none ∧
      (s.queueAt la.fn la.queue).isSome = true)
    fun s t => t.launch l = none ∧ t.cores = s.cores ∧ t.hbm = s.hbm ∧
      ∃ k, s.queueAt la.fn la.queue = some k ∧ t.queueAt la.fn la.queue = some { k with recs := k.recs.map fun (r : HostRec) =>
        if r.idx = la.idx ∧ r.outcome = none then { r with outcome := some (0, BitVec.ofNat 32 (min la.unitFails (2 ^ 32 - 1)), none) } else r }

/-- Service records (R118 to R124): objects, capabilities and copies, device registers, provisioning, peer maps, windows and plug-ins,
and the debug controls (R516, R517). The lowest free number for a new object or tenant is the model's choice (log 43). -/
def Obligations.Services : Prop :=
  (∀ fn q idx ws i, Happens (.createObject fn q idx)
    (fun s => Asks s fn q idx 1 ws ∧ s.freeObj = some i ∧ bit (hostWord ws 2) 40 = false)
    fun s t => Begins fn q idx (some (0, BitVec.ofNat 32 i, none)) s t ∧ s.obj i = none ∧
      t.obj i = some ⟨tenantFn s fn, nfield (hostWord ws 2) 0 27, field (hostWord ws 2) 28 12, .local, []⟩ ∧
      (∀ j, j ≠ i → t.obj j = s.obj j) ∧ t.cores = s.cores ∧ t.hbm.mem = s.hbm.mem) ∧
  (∀ fn q idx ws, Happens (.createObject fn q idx)
    (fun s => Asks s fn q idx 1 ws ∧ bit (hostWord ws 2) 40 = true ∧ field (hostWord ws 2) 28 12 = 0#12 ∧ HasRoom s (1 + nfield (hostWord ws 2) 0 27))
    fun s t => t.cores = s.cores ∧ ∃ i o, Begins fn q idx (some (0, BitVec.ofNat 32 i, none)) s t ∧ s.obj i = none ∧ t.obj i = some o ∧
      o.tenant = tenantFn s fn ∧ o.size = nfield (hostWord ws 2) 0 27 ∧ ∀ e < o.size, (o.ext e).frame.isSome = true) ∧
  (∀ fn q idx ws i o, Happens (.destroyObject fn q idx)
    (fun s => Asks s fn q idx 2 ws ∧ i = nfield (hostWord ws 2) 0 24 ∧ s.obj i = some o ∧ o.tenant = tenantFn s fn ∧
      ∀ x ∈ o.exts, s.chunkHolds i x.1 = false)
    fun s t => Begins fn q idx (some (0, 0, none)) s t ∧ t.obj i = none ∧ (∀ j, j ≠ i → t.obj j = s.obj j) ∧ t.cores = s.cores) ∧
  (∀ fn q idx ws, Happens (.destroyObject fn q idx)
    (fun s => Asks s fn q idx 2 ws ∧ ∀ o, s.obj (nfield (hostWord ws 2) 0 24) = some o → o.tenant ≠ tenantFn s fn) (Ends fn q idx 0x0D 0 none)) ∧
  (∀ fn q idx ws (c : Cap), Happens (.writeCapabilityEntry fn q idx)
    (fun s => Asks s fn q idx 3 ws ∧ c = hostWord ws 4 ++ hostWord ws 3 ∧ Cap.wf c = true ∧
      (Cap.obj c = 0 ∨ ∃ o, s.obj (Cap.obj c) = some o ∧ o.tenant = tenantFn s fn))
    fun s t => Begins fn q idx (some (0, 0, none)) s t ∧ t.cores = s.cores ∧ t.hbm = s.hbm ∧
      ∀ k, t.tableCap (tenantFn s fn) k = if k = nfield (hostWord ws 2) 0 12 then c else s.tableCap (tenantFn s fn) k) ∧
  (∀ fn q idx ws (c : Cap), Happens (.writeCapabilityEntry fn q idx)
    (fun s => Asks s fn q idx 3 ws ∧ c = hostWord ws 4 ++ hostWord ws 3 ∧ (Cap.wf c = false ∨
      (Cap.obj c ≠ 0 ∧ ∀ o, s.obj (Cap.obj c) = some o → o.tenant ≠ tenantFn s fn))) (Ends fn q idx 0x0D 0 none)) ∧
  (∀ fn q idx ws c off n, Happens (.copyHostToObject fn q idx)
    (fun s => Asks s fn q idx 4 ws ∧ n = (hostWord ws 4).toNat ∧ s.resolveRec fn q idx (hostWord ws 3) [1] n = some (c, off) ∧
      s.movedOf fn q idx = 0 ∧
      Writable s (tenantFn s fn) (Cap.obj c) off n)
    fun s t => Begins fn q idx (some (0, BitVec.ofNat 32 n, none)) s t ∧ t.cores = s.cores ∧ SparesBytes s t (Cap.obj c) off n ∧
      ∀ i < n, ∃ ctr, t.byteAt (Cap.obj c) (off + i) =
        (SMap.get none s.host.hostMem ((hostWord ws 2).toNat + i)).getD (Config.hostByte ((hostWord ws 2).toNat + i) ctr)) ∧
  (∀ fn q idx ws c off n, Happens (.copyObjectToHost fn q idx)
    (fun s => Asks s fn q idx 5 ws ∧ n = (hostWord ws 4).toNat ∧ s.resolveRec fn q idx (hostWord ws 3) [0] n = some (c, off) ∧
      s.movedOf fn q idx = 0 ∧
      Readable s (tenantFn s fn) (Cap.obj c) off n ∧ off / 65536 = (off + n - 1) / 65536 ∧ HostCanonical s)
    fun s t => Begins fn q idx (some (0, BitVec.ofNat 32 n, none)) s t ∧ t.cores = s.cores ∧ t.hbm = s.hbm ∧
      ∀ a, SMap.get none t.host.hostMem a =
        if (hostWord ws 2).toNat ≤ a ∧ a < (hostWord ws 2).toNat + n then some (s.byteAt (Cap.obj c) (off + (a - (hostWord ws 2).toNat)))
        else SMap.get none s.host.hostMem a) ∧
  (∀ q idx ws v, Happens (.readRegister 0 q idx)
    (fun s => Asks s 0 q idx 6 ws ∧ s.readReg (nfield (hostWord ws 2) 0 16) (nfield (hostWord ws 2) 16 16) = some v)
    (Ends 0 q idx 0 (v.setWidth 32) (some v))) ∧
  (∀ q idx ws, Happens (.readRegister 0 q idx)
    (fun s => Asks s 0 q idx 6 ws ∧ s.readReg (nfield (hostWord ws 2) 0 16) (nfield (hostWord ws 2) 16 16) = none) (Ends 0 q idx 0x0D 0 none)) ∧
  (∀ fn q idx ws, Happens (.readRegister fn q idx) (fun s => Asks s fn q idx 6 ws ∧ fn ≠ 0) (Ends fn q idx 0x0E 0 none)) ∧
  (∀ q idx i v, Happens (.writePartitionAssignment 0 q idx)
    (fun s => FirmwareRuns s ∧ WritesReg s q idx 1 (fun _ => true) i v ∧ i < 12 ∧ s.assignOk v = true ∧ (s.partition i).holder = some (nfield v 0 9) ∧
      State.slicing (s.partition i).assign = State.slicing (v &&& 0x1FFFFFF81FF))
    fun s t => Begins 0 q idx (some (0, 0, some (v &&& 0x1FFFFFF81FF))) s t ∧ t.cores = s.cores ∧ t.hbm = s.hbm ∧
      ∀ d, t.partition d = if d = i then { s.partition i with assign := v &&& 0x1FFFFFF81FF } else s.partition d) ∧
  (∀ q idx i v, Happens (.writePartitionAssignment 0 q idx)
    (fun s => FirmwareRuns s ∧ WritesReg s q idx 1 (fun _ => true) i v ∧ i < 12 ∧ s.assignOk v = true ∧ (s.partition i).turning = false ∧
      State.slicing (s.partition i).assign ≠ State.slicing (v &&& 0x1FFFFFF81FF))
    fun s t => Begins 0 q idx (some (0, 0, some (v &&& 0x1FFFFFF81FF))) s t ∧ t.hbm = s.hbm ∧
      t.partition i = { s.partition i with assign := v &&& 0x1FFFFFF81FF, turning := true } ∧ (∀ d, d ≠ i → t.partition d = s.partition d) ∧
      ∀ k tm, s.team k = some tm → tm.state = .placed → (∃ n ∈ tm.cores, n / 32 = i) → ∃ u, t.team k = some u ∧ u.state = .saving) ∧
  (∀ q idx i v k, Happens (.writePlacementWeight 0 q idx)
    (fun s => FirmwareRuns s ∧ WritesReg s q idx 2 (fun _ => true) i v ∧ i ≠ q ∧ s.queueAt (i / 64) (i % 64) = some k ∧ 1 ≤ nfield v 0 5 ∧ nfield v 0 5 ≤ 16)
    fun s t => OnlyHost s t ∧ t.queueAt (i / 64) (i % 64) = some { k with weight := nfield v 0 5 } ∧ ((i / 64, i % 64) ≠ (0, q) →
      Begins 0 q idx (some (0, 0, some (BitVec.ofNat 64 (nfield v 0 5)))) s t)) ∧
  (∀ q idx n v, Happens (.writeSbcfg 0 q idx)
    (fun s => FirmwareRuns s ∧ WritesReg s q idx 3 (fun _ => true) n v ∧ n < 384 ∧ nfield v 0 9 ≤ 256)
    fun s t => Begins 0 q idx (some (0, 0, some ((field v 0 9).setWidth 64))) s t ∧ t.hbm = s.hbm ∧
      ∀ m, t.coreAt m = if m = n then { s.coreAt n with board := { (s.coreAt n).board with rres := field v 0 9 } } else s.coreAt m) ∧
  (∀ q idx n v, Happens (.writeCwcfg 0 q idx) (fun s => FirmwareRuns s ∧ WritesReg s q idx 4 (fun _ => true) n v ∧ n < 384)
    fun s t => (∀ m, m ≠ n → t.coreAt m = s.coreAt m) ∧ t.hbm = s.hbm ∧ (t.coreAt n).board.entries = (s.coreAt n).board.entries ∧
      (t.coreAt n).regs = (s.coreAt n).regs ∧ Begins 0 q idx (some (0, 0, some (t.coreAt n).board.cwcfg)) s t ∧
      ∀ k < 4, nfield (t.coreAt n).board.cwcfg (8 * k) 7 =
        if 2 ≤ nfield v (8 * k) 7 ∧ nfield v (8 * k) 7 ≤ 64 then nfield v (8 * k) 7 else nfield (s.coreAt n).board.cwcfg (8 * k) 7) ∧
  (∀ q idx v, Happens (.writeSncfg 0 q idx) (fun s => FirmwareRuns s ∧ WritesReg s q idx 5 (fun _ => true) 0 v)
    fun s t => t.cores = s.cores ∧ t.hbm.mem = s.hbm.mem ∧
      t.dev.snShare = (if 1 ≤ nfield v 8 8 ∧ nfield v 8 8 ≤ 50 then nfield v 8 8 else s.dev.snShare) ∧
      t.dev.snReserveNext = (if 2 ≤ nfield v 0 5 ∧ nfield v 0 5 ≤ 25 then nfield v 0 5 else s.dev.snReserveNext) ∧
      t.dev.snTargetNext = (if nfield v 32 2 < 2 then field v 32 2 else s.dev.snTargetNext)) ∧
  (∀ q idx i v, Happens (.writeIslcfg 0 q idx) (fun s => FirmwareRuns s ∧ WritesReg s q idx 6 (fun _ => true) i v ∧ i < 24)
    fun s t => t.cores = s.cores ∧ t.hbm = s.hbm ∧ (∀ j, j ≠ i → t.island j = s.island j) ∧
      (t.island i).retLg = (if nfield v 8 5 = 0 ∨ (8 ≤ nfield v 8 5 ∧ nfield v 8 5 ≤ 20) then nfield v 8 5 else (s.island i).retLg) ∧
      (4 ≤ nfield v 0 5 → nfield v 0 5 ≤ 16 → (s.island i).busy = false → (t.island i).fcode = nfield v 0 5 ∧
        (t.island i).busy = decide (nfield v 0 5 ≠ (s.island i).fcode)) ∧
      (t.island i).present = (s.island i).present) ∧
  (∀ q idx v, Happens (.writePwrcap 0 q idx) (fun s => FirmwareRuns s ∧ WritesReg s q idx 8 (fun _ => true) 0 v ∧ nfield v 0 16 ≤ 3600)
    fun s t => t = { s with dev := { s.dev with pwrcap := nfield v 0 16 }, host := t.host } ∧
      Begins 0 q idx (some (0, 0, some (BitVec.ofNat 64 (nfield v 0 16)))) s t) ∧
  (∀ q idx v, Happens (.debugEnable 0 q idx)
    (fun s => FirmwareRuns s ∧ WritesReg s q idx 9 (fun w => State.dbgChange s.dev.dbgctl w == 0) 0 v) (SetsDebug v q idx)) ∧
  (∀ q idx v, Happens (.debugFreezePartition 0 q idx)
    (fun s => FirmwareRuns s ∧ WritesReg s q idx 9 (fun w => State.dbgChange s.dev.dbgctl w == 1) 0 v) (SetsDebug v q idx)) ∧
  (∀ q idx v, Happens (.debugFreezeDevice 0 q idx)
    (fun s => FirmwareRuns s ∧ WritesReg s q idx 9 (fun w => State.dbgChange s.dev.dbgctl w == 2) 0 v) (SetsDebug v q idx)) ∧
  (∀ q idx v, Happens (.debugThaw 0 q idx) (fun s => WritesReg s q idx 9 (fun w => State.dbgChange s.dev.dbgctl w == 3) 0 v) (SetsDebug v q idx)) ∧
  (∀ part bits, Happens (.scanShift part bits) (fun _ => True) fun s t => t = s) ∧
  (∀ n, Happens (.debugRelease n) (fun s => n < 384 ∧ (s.coreAt n).run = .broken) fun s => CoreBecomes n { s.coreAt n with run := .running } s) ∧
  (∀ q idx ws f i nq lg, Happens (.provisionFunction 0 q idx)
    (fun s => Asks s 0 q idx 8 ws ∧ f = nfield (hostWord ws 2) 0 9 ∧ 1 ≤ f ∧ f ≤ 256 ∧ (s.hostFn f).vfEnabled = true ∧ (s.hostFn f).tenant = 0 ∧
      nq = nfield (hostWord ws 2) 9 6 ∧ 1 ≤ nq ∧ nq ≤ 16 ∧ lg = nfield (hostWord ws 2) 15 5 ∧ lg ≤ 16 ∧ HasRoom s 80 ∧ 2 ≤ i ∧ i ≤ 511 ∧
      (s.tenant i).live = false ∧ ∀ j, 2 ≤ j → j < i → (s.tenant j).live = true)
    fun s t => Begins 0 q idx (some (0, BitVec.ofNat 32 i, none)) s t ∧ t.cores = s.cores ∧ (t.tenant i).live = true ∧
      (∀ k, t.tableCap i k = nullCap) ∧ (t.hostFn f).tenant = BitVec.ofNat 9 i ∧ (t.hostFn f).nq = BitVec.ofNat 8 nq ∧
      (t.hostFn f).partMask = field (hostWord ws 3) 0 12 ∧
      ∀ k < nq, ∃ x, t.queueAt f k = some x ∧ x.lgEnt = lg ∧ x.prioCap = nfield (hostWord ws 2) 20 3 ∧ x.weight = 1 ∧ x.enable = false ∧
        x.head = 0 ∧ x.tail = 0) ∧
  (∀ q idx ws f, Happens (.unprovisionFunction 0 q idx)
    (fun s => Asks s 0 q idx 9 ws ∧ f = nfield (hostWord ws 2) 0 9 ∧ f ≠ 0 ∧ (s.hostFn f).tenant ≠ 0)
    fun s t => (t.hostFn f).tenant = 0 ∧ (t.hostFn f).queues = [] ∧ t.tenant (s.hostFn f).tenant.toNat = Tenant.initial) ∧
  (∀ q idx ws f, Happens (.unprovisionFunction 0 q idx)
    (fun s => Asks s 0 q idx 9 ws ∧ f = nfield (hostWord ws 2) 0 9 ∧ (s.hostFn f).tenant = 0) (Ends 0 q idx 0x0D 0 none)) ∧
  (∀ q idx ws x lid v e, Happens (.writePeerMapEntry 0 q idx)
    (fun s => Asks s 0 q idx 10 ws ∧ x = nfield (hostWord ws 2) 0 9 ∧ lid = nfield (hostWord ws 2) 16 10 ∧ v = hostWord ws 3 ∧
      x ≠ 0 ∧ (s.tenant x).live = true ∧ e = s.peer x lid ∧ ¬ (e.valid = true ∧ e.phys ≠ field v 32 10))
    fun s t => t.cores = s.cores ∧ t.hbm = s.hbm ∧ t.fab = s.fab ∧
      (∀ l, t.peer x l = if l = lid then { e with valid := bit v 63, far := bit v 61, phys := field v 32 10 } else s.peer x l) ∧
      Begins 0 q idx (some (0, 0, some (State.peerWord (t.peer x lid)))) s t) ∧
  (∀ q idx ws x w, Happens (.writeReductionWindow 0 q idx)
    (fun s => Asks s 0 q idx 11 ws ∧ x = nfield (hostWord ws 2) 0 9 ∧ w = nfield (hostWord ws 2) 16 6 ∧ x ≠ 0 ∧ (s.tenant x).live = true)
    fun s t => Begins 0 q idx (some (0, 0, none)) s t ∧ t.cores = s.cores ∧ t.hbm = s.hbm ∧
      ∀ k, SMap.get none (t.tenant x).windows k =
        if k = w then some ⟨hostWord ws 3 &&& 0xFFFFFFFFC000FFFF, hostWord ws 4 &&& 0xFFFFFFFFFFFFFF00⟩ else SMap.get none (s.tenant x).windows k) ∧
  ∀ fn q idx ws c off n, Happens (.loadPolicyPlugin fn q idx)
    (fun s => Asks s fn q idx 12 ws ∧ n = (hostWord ws 3).toNat ∧ s.resolveRec fn q idx (hostWord ws 2) [0] n = some (c, off) ∧
      Readable s (tenantFn s fn) (Cap.obj c) off n)
    fun s t => Begins fn q idx (some (0, 0, none)) s t ∧ t.cores = s.cores ∧ t.hbm = s.hbm ∧
      (t.tenant (tenantFn s fn)).plugin = some ⟨readBytes s (Cap.obj c) off n, true⟩ ∧
      t.dev = { s.dev with meas1 := Sha.sha384 (toBytes s.dev.meas1 48 ++ toBytes (Sha.sha384 (readBytes s (Cap.obj c) off n)) 48) }

/-- Teams, partitions and plug-ins (R112, R113, R127, R132, R141 to R151, R446, R451), power (R510 to R513), and traps that wait for a boundary
(R427, R430, R431, R437). Which cores a placement takes, the addresses of parked images and the step of a power cap are the model's
choices (log 56, 59, 70). -/
def Obligations.PlacementPowerTraps : Prop :=
  (∀ d a, Happens (.sliceTurn d) (fun s => FirmwareRuns s ∧ d < 12 ∧ FixedTo s d a ∧ (s.partition d).holder = some a)
    fun s t => t.cores = s.cores ∧ t.hbm = s.hbm ∧ ∀ e, t.partition e = if e = d then { s.partition d with turning := false } else s.partition e) ∧
  (∀ d a, Happens (.sliceTurn d)
    (fun s => FirmwareRuns s ∧ d < 12 ∧ FixedTo s d a ∧ (s.partition d).holder ≠ some a ∧ (s.partition d).turning = false)
    fun s t => (t.partition d).turning = true ∧ (t.partition d).holder = (s.partition d).holder ∧ t.hbm = s.hbm ∧
      ∀ k tm, s.team k = some tm → tm.state = .placed → (∃ n ∈ tm.cores, n / 32 = d) → ∃ u, t.team k = some u ∧ u.state = .saving) ∧
  (∀ d a, Happens (.sliceTurn d)
    (fun s => FirmwareRuns s ∧ d < 12 ∧ FixedTo s d a ∧ (s.partition d).holder ≠ some a ∧ (s.partition d).turning = true ∧
      ∀ i < 32, (s.coreAt (32 * d + i)).team = none ∧ (s.coreAt (32 * d + i)).acc = [] ∧ (s.coreAt (32 * d + i)).reds = [])
    fun s t => (t.partition d).turning = false ∧ (t.partition d).holder = some a ∧ t.hbm = s.hbm ∧
      (∀ i < 32, let c := t.coreAt (32 * d + i)
        c.team = none ∧ c.regs = State.reset.core.regs ∧ c.eng.rows = [] ∧ c.eng.acc = [] ∧ c.sp.cyc = (s.coreAt (32 * d + i)).sp.cyc) ∧
      ∀ n, n / 32 ≠ d → t.coreAt n = s.coreAt n) ∧
  (∀ x dies g, Happens (.pluginCall x dies)
    (fun s => FirmwareRuns s ∧ (s.tenant x).plugin = some g ∧ g.enabled = true ∧ ∀ d ∈ dies, d < 12 ∧ (s.maskOf x).getLsbD d = true)
    fun s t => SMap.get [] t.sched.ranking x = dies.eraseDups ∧ t.cores = s.cores ∧ t.hbm = s.hbm ∧ t.sched.tenants = s.sched.tenants ∧
      t.sched.teams = s.sched.teams ∧ ∀ y, y ≠ x → SMap.get [] t.sched.ranking y = SMap.get [] s.sched.ranking y) ∧
  (∀ x dies g, Happens (.pluginCall x dies)
    (fun s => FirmwareRuns s ∧ (s.tenant x).plugin = some g ∧ g.enabled = true ∧ ∃ d ∈ dies, 12 ≤ d ∨ (s.maskOf x).getLsbD d = false)
    fun s t => (t.tenant x).plugin = some { g with enabled := false } ∧ SMap.get [] t.sched.ranking x = [] ∧ t.cores = s.cores ∧ t.hbm = s.hbm) ∧
  (∀ x g, Happens (.pluginBudgetExpiry x) (fun s => FirmwareRuns s ∧ (s.tenant x).plugin = some g)
    fun s t => (t.tenant x).plugin = some { g with enabled := false } ∧ SMap.get [] t.sched.ranking x = [] ∧ t = { s with sched := t.sched } ∧
      t.sched.teams = s.sched.teams) ∧
  (∀ x g, Happens (.pluginFault x) (fun s => FirmwareRuns s ∧ (s.tenant x).plugin = some g)
    fun s t => (t.tenant x).plugin = some { g with enabled := false } ∧ SMap.get [] t.sched.ranking x = [] ∧ t = { s with sched := t.sched } ∧
      t.sched.teams = s.sched.teams) ∧
  (∀ k, Happens (.schedulerPmpFault k) (fun s => DeviceRuns s ∧ k < 4)
    fun s t => t = { s with dev := { s.dev with schedFrozen := t.dev.schedFrozen } } ∧
      ∀ i < 4, t.dev.schedFrozen.getLsbD i = (decide (i = k) || s.dev.schedFrozen.getLsbD i)) ∧
  (∀ l k d la tm, Happens .placementDecision (fun s => FirmwareRuns s ∧ OneTeamWaits s l k d la tm)
    fun s t => t.cores = s.cores ∧ t.hbm = s.hbm ∧ ∃ u, t.team k = some u ∧ u.state = .pending ∧ u.cores.length = la.teamSize ∧ u.cores.Nodup ∧
      (∀ n ∈ u.cores, CoreFreeFor s la.tenant n ∧ la.partMask.getLsbD (n / 32) = true) ∧ (∀ n ∈ u.cores, ∀ m ∈ u.cores, n / 32 = m / 32) ∧
      (la.teamSize ≤ 16 → ∀ n ∈ u.cores, ∀ m ∈ u.cores, n / 16 = m / 16)) ∧
  (∀ l k d lv v la lav tm tv, Happens (.rotationIntervalExpiry k) (fun s => FirmwareRuns s ∧ OneTeamRotates s l k d lv v la lav tm tv)
    fun _ t => (∃ u, t.team v = some u ∧ u.state = .saving) ∧ (∃ u, t.team k = some u ∧ u.state = .pending ∧ u.cores = tv.cores) ∧
      ∀ n ∈ tv.cores, (t.coreAt n).preemptAsked = true) ∧
  (∀ k tm la, Happens (.teamPlace k)
    (fun s => FirmwareRuns s ∧ s.team k = some tm ∧ s.launch tm.launch = some la ∧ tm.state = .pending ∧ la.abort = none ∧ la.coplace = false ∧
      tm.cores.length = la.teamSize ∧ tm.cores.Nodup ∧
      ∀ n ∈ tm.cores, CoreFreeFor s la.tenant n ∧ (s.coreAt n).acc = [] ∧ (s.coreAt n).reds = [])
    fun s t => t.hbm = s.hbm ∧ (∀ n, n ∉ tm.cores → t.coreAt n = s.coreAt n) ∧
      (∀ i n, tm.cores[i]? = some n → StartsMember k i n tm la s t) ∧
      ∃ u, t.team k = some u ∧ u.state = .placed ∧ u.cores = tm.cores ∧ u.home = tm.cores ∧ u.points = []) ∧
  (∀ k tm la, Happens (.teamEnd k)
    (fun s => FirmwareRuns s ∧ s.team k = some tm ∧ s.launch tm.launch = some la ∧ (tm.state = .placed ∨ tm.state = .saving) ∧ s.hasTasks k tm = false ∧ s.hasPosts k = false ∧
      s.hasFar tm = false ∧ ∀ n ∈ tm.cores, State.memberDone (s.coreAt n) = true)
    fun s t => t.launch tm.launch = some { la with ended := la.ended + 1 } ∧ t.team k = some { tm with state := .ended, cores := [], forced := false } ∧
      (∀ n ∈ tm.cores, (t.coreAt n).team = none ∧ (t.coreAt n).run = .idle ∧ (t.coreAt n).sp.cyc = (s.coreAt n).sp.cyc) ∧
      (∀ n, n ∉ tm.cores → t.coreAt n = s.coreAt n) ∧ t.hbm.mem = s.hbm.mem) ∧
  (∀ k tm, Happens (.teamEnd k)
    (fun s => FirmwareRuns s ∧ s.team k = some tm ∧ (tm.state = .placed ∨ tm.state = .saving) ∧ s.hasTasks k tm = false ∧ s.hasPosts k = false ∧
      s.hasFar tm = true ∧ ∀ n ∈ tm.cores, State.memberDone (s.coreAt n) = true)
    fun s t => t = { s with fab := t.fab } ∧ t = s.leaveTeam tm) ∧
  (∀ k tm, Happens (.forcedPreemptionTimeout k) (fun s => FirmwareRuns s ∧ s.team k = some tm ∧ tm.state = .saving)
    fun s t => t.hbm = s.hbm ∧ t.team k = some { tm with forced := true } ∧ (∀ n, n ∉ tm.cores → t.coreAt n = s.coreAt n) ∧
      ∀ n ∈ tm.cores, t.coreAt n = if (s.coreAt n).run = .running ∨ (s.coreAt n).run = .broken then { s.coreAt n with preemptForced := true } else s.coreAt n) ∧
  (∀ k tm, Happens (.saveComplete k)
    (fun s => FirmwareRuns s ∧ s.team k = some tm ∧ tm.state = .saving ∧ tm.cores.Nodup ∧ (∃ n ∈ tm.cores, (s.coreAt n).run ≠ .halted) ∧
      ∀ n ∈ tm.cores, n < 384 ∧ s.memberStops n = true)
    fun s t => t.team k = some { tm with state := .saved, cores := [], forced := false } ∧
      (∀ n ∈ tm.cores, (t.coreAt n).team = none ∧ (t.coreAt n).run = .idle) ∧ (∀ n < 384, n ∉ tm.cores → t.coreAt n = s.coreAt n) ∧
      ∀ i n, tm.cores[i]? = some n → (s.coreAt n).run = .stopped none → (t.coreAt (1024 + 32 * k + i)).regs = (s.coreAt n).regs ∧
        (t.coreAt (1024 + 32 * k + i)).pc = (s.coreAt n).pc ∧ (t.coreAt (1024 + 32 * k + i)).eng.rows = (s.coreAt n).eng.rows) ∧
  (∀ k tm, Happens (.saveComplete k)
    (fun s => FirmwareRuns s ∧ s.team k = some tm ∧ tm.state = .saving ∧ tm.cores.Nodup ∧ ∀ n ∈ tm.cores, (s.coreAt n).run = .halted)
    fun s t => t = { s with cores := t.cores } ∧ ∀ n, t.coreAt n =
      if n ∈ tm.cores then { s.coreAt n with preemptAsked := false, preemptForced := false } else s.coreAt n) ∧
  (∀ k tm la, Happens (.teamResume k)
    (fun s => FirmwareRuns s ∧ s.team k = some tm ∧ s.launch tm.launch = some la ∧ tm.state = .saved ∧ la.coplace = false ∧
      tm.cores.length = la.teamSize ∧ tm.cores.Nodup ∧
      ∀ n ∈ tm.cores, n < 384 ∧ CoreFreeFor s la.tenant n ∧ (s.coreAt n).acc = [] ∧ (s.coreAt n).reds = [])
    fun s t => (∃ u, t.team k = some u ∧ u.state = .placed ∧ u.cores = tm.cores) ∧ (∀ n < 384, n ∉ tm.cores → t.coreAt n = s.coreAt n) ∧
      ∀ i n, tm.cores[i]? = some n → (t.coreAt n).regs = (s.coreAt (1024 + 32 * k + i)).regs ∧ (t.coreAt n).pc = (s.coreAt (1024 + 32 * k + i)).pc ∧
        (t.coreAt n).eng.rows = (s.coreAt (1024 + 32 * k + i)).eng.rows ∧ (t.coreAt n).sp.cyc = (s.coreAt n).sp.cyc ∧
        (∀ m, (s.coreAt (1024 + 32 * k + i)).run = .stopped m → (t.coreAt n).run = .running)) ∧
  (∀ i, Happens (.islandFrequencySwitch i) (fun s => DeviceRuns s ∧ i < 24 ∧ (s.island i).busy = true ∧ (s.island i).pending = none)
    fun s t => t = { s with dev := { s.dev with islands := t.dev.islands } } ∧ ∀ j, t.island j = if j = i then
      { s.island i with present := if bit s.dev.thermal (i / 2) then 4 else (s.island i).fcode, busy := false } else s.island j) ∧
  (∀ i watts, Happens (.powerCapEnforce watts i)
    (fun s => FirmwareRuns s ∧ i < 24 ∧ s.dev.pwrcap < watts ∧ (s.island i).busy = false ∧ (s.island i).pending = none ∧ 4 < (s.island i).fcode ∧
      ∀ j < 24, 4 < State.Island.target (s.island j) → s.islandClass i ≤ s.islandClass j)
    fun s t => t = { s with dev := { s.dev with islands := t.dev.islands } } ∧ ∀ j, t.island j = if j = i then
      { s.island i with fcode := (s.island i).fcode - 1, busy := true } else s.island j) ∧
  (∀ d temp, Happens (.thermalThrottle d temp) (fun s => DeviceRuns s ∧ d < 12 ∧ 105 < temp)
    fun s t => t = { s with dev := { s.dev with islands := t.dev.islands, thermal := t.dev.thermal } } ∧
      (∀ e < 12, bit t.dev.thermal e = (decide (e = d) || bit s.dev.thermal e)) ∧
      ∀ j, t.island j = if j = 2 * d ∨ j = 2 * d + 1 then { s.island j with present := 4 } else s.island j) ∧
  (∀ d temp, Happens (.thermalRecovery d temp) (fun s => DeviceRuns s ∧ d < 12 ∧ temp < 95 ∧ bit s.dev.thermal d = true)
    fun s t => t = { s with dev := { s.dev with islands := t.dev.islands, thermal := t.dev.thermal } } ∧
      (∀ e < 12, bit t.dev.thermal e = (decide (e ≠ d) && bit s.dev.thermal e)) ∧
      ∀ j, t.island j = if (j = 2 * d ∨ j = 2 * d + 1) ∧ (s.island j).present ≠ (s.island j).fcode then { s.island j with busy := true } else s.island j) ∧
  (∀ n, Happens (.retentionEntry n) (fun s => CoreRuns s n ∧ s.mayRetain n = true)
    fun s => CoreBecomes n { s.coreAt n with eng := { (s.coreAt n).eng with retention := true } } s) ∧
  (∀ n k bad, Happens (.retentionExit n k bad)
    (fun s => CoreRuns s n ∧ (s.coreAt n).eng.retention = true ∧ (SMap.get [] (s.coreAt n).eng.queues 0 ≠ [] ∨ (s.coreAt n).stopping = true ∨
      (s.island (n / 16)).retLg = 0))
    fun s t => t = { s with cores := t.cores, host := t.host } ∧ (∀ m, m ≠ n → t.coreAt m = s.coreAt m) ∧ (t.coreAt n).regs = (s.coreAt n).regs ∧
      (t.coreAt n).eng.retention = false ∧ (t.coreAt n).eng.rows = (s.coreAt n).eng.rows ∧ (t.coreAt n).eng.acc = (s.coreAt n).eng.acc ∧
      (∀ w, w ∈ (t.coreAt n).eng.bad ↔ w ∈ (s.coreAt n).eng.bad ∨ (w ∈ bad ∧ ∀ r, w ≠ .row r)) ∧
      ∀ f, f = s.chargedFn n 0 → (SMap.get 0 (t.hostFn f).counters 0).toNat = min (2 ^ 64 - 1) ((SMap.get 0 (s.hostFn f).counters 0).toNat + k)) ∧
  (∀ n x, Happens (.trapEntry n)
    (fun s => CoreRuns s n ∧ (s.coreAt n).nextTrap = some x ∧ (s.coreAt n).atBoundary = true ∧ (s.coreAt n).delegable x = true ∧
      (s.coreAt n).frameBusy = false)
    fun s => CoreBecomes n (((s.coreAt n).dropTrap x).takeTrap x) s) ∧
  (∀ n x l la, Happens (.launchAbort n)
    (fun s => CoreRuns s n ∧ (s.coreAt n).nextTrap = some x ∧ (s.coreAt n).atBoundary = true ∧ (s.coreAt n).delegable x = false ∧ x.cause ≠ 0x13 ∧
      s.launchOf n = some (l, la))
    fun s t => t.launch l = some { la with abort := some (x.cause, n), made := la.teamCount, ended := la.teamCount, pool := [] } ∧
      t.hbm.mem = s.hbm.mem ∧ ∀ k tm, s.team k = some tm → tm.launch = l → ∃ u, t.team k = some u ∧ u.state = .ended ∧ u.cores = []) ∧
  (∀ n m, Happens (.masterFreeze n m) (fun s => CoreRuns s n ∧ m ∈ (s.coreAt n).frozen ∧ m ∉ (s.coreAt n).told)
    fun s => CoreBecomes n { s.coreAt n with told := m :: (s.coreAt n).told } s) ∧
  (∀ n q x, Happens (.freezeService n (.engine q))
    (fun s => CoreRuns s n ∧ FirmwareRuns s ∧ ((s.coreAt n).frozenTraps.find? fun y => y.1 == .engine q) = some (.engine q, x) ∧
      .engine q ∈ (s.coreAt n).told ∧ (s.coreAt n).postedBy x.seq = none)
    fun s => CoreBecomes n { s.coreAt n with
      frozen := (s.coreAt n).frozen.erase (.engine q), frozenTraps := (s.coreAt n).frozenTraps.erase (.engine q, x)
      told := (s.coreAt n).told.erase (.engine q), asyncTraps := (s.coreAt n).asyncTraps ++ [x] } s) ∧
  (∀ n q x e fn hq idx, Happens (.freezeService n (.engine q))
    (fun s => CoreRuns s n ∧ FirmwareRuns s ∧ ((s.coreAt n).frozenTraps.find? fun y => y.1 == .engine q) = some (.engine q, x) ∧
      .engine q ∈ (s.coreAt n).told ∧ (s.coreAt n).postedBy x.seq = some (e, fn, hq, idx))
    fun s t => t = (s.onCore n fun c => { c with
      frozen := c.frozen.erase (.engine q), frozenTraps := c.frozenTraps.erase (.engine q, x), told := c.told.erase (.engine q) }).endPosted n e fn hq idx) ∧
  ∀ n x, Happens (.freezeService n .thread)
    (fun s => CoreRuns s n ∧ FirmwareRuns s ∧ ((s.coreAt n).frozenTraps.find? fun y => y.1 == .thread) = some (.thread, x) ∧
      .thread ∈ (s.coreAt n).told ∧ (s.coreAt n).delegable x = true ∧ (s.coreAt n).frameBusy = false)
    fun s => CoreBecomes n (Core.takeTrap x { s.coreAt n with
      frozen := (s.coreAt n).frozen.erase .thread, frozenTraps := (s.coreAt n).frozenTraps.erase (.thread, x)
      told := (s.coreAt n).told.erase .thread }) s

/-- The access unit and the memory ports (R16, R17, R157, R353, R362 to R366, R373 to R376, R380 to R384, R438 to R441, R487, R488), and
the waits of a thread that end (R221, R223, R384, R390). -/
def Obligations.MemoryEvents : Prop :=
  (∀ n line e o f, Happens (.icacheLineFill n line)
    (fun s => CoreRuns s n ∧ PlainMemory s ∧ (s.coreAt n).run = .running ∧ e = line * 128 / 2097152 ∧ (s.coreAt n).codeExts.contains e = false ∧
      (s.coreAt n).codeLines.contains line = false ∧ s.obj (Cap.obj (s.coreAt n).fetchCap) = some o ∧ (o.ext e).frame = some f ∧
      s.portCheck (s.tenantOf n) (Cap.obj (s.coreAt n).fetchCap) (line * 128) 128 = .proceed ∧ (s.coreAt n).code = [])
    fun s t => CoreBecomes n { s.coreAt n with
        code := (t.coreAt n).code, codeExts := e :: (s.coreAt n).codeExts, codeLines := (line :: (s.coreAt n).codeLines).take 512 } s t ∧
      ∀ a, SMap.get 0 (t.coreAt n).code a = if a / 2097152 = e then s.hbmByte (f * 2097152 + a % 2097152) else 0) ∧
  (∀ n line, Happens (.icacheLineFill n line)
    (fun s => CoreRuns s n ∧ (s.coreAt n).run = .running ∧ (s.coreAt n).codeExts.contains (line * 128 / 2097152) = true ∧
      (s.coreAt n).codeLines.contains line = false ∧ s.portCheck (s.tenantOf n) (Cap.obj (s.coreAt n).fetchCap) (line * 128) 128 = .proceed)
    fun s => CoreBecomes n { s.coreAt n with codeLines := (line :: (s.coreAt n).codeLines).take 512 } s) ∧
  (∀ n obj, Happens (.routeLookup n obj) (CoreRuns · n) fun s => CoreBecomes n { s.coreAt n with
    routeCache := ((obj, (s.obj obj).map Obj.route) :: (s.coreAt n).routeCache.filter (·.1 != obj)).take 256 } s) ∧
  (∀ chan obj ext o f, Happens (.extentTableWalk chan obj ext)
    (fun s => DeviceRuns s ∧ chan < 384 ∧ s.obj obj = some o ∧ (o.ext ext).frame = some f)
    fun s t => t = { s with hbm := { s.hbm with extCache := t.hbm.extCache } } ∧ ⟨chan, obj, ext, f⟩ ∈ t.hbm.extCache ∧
      (t.hbm.extCache.filter (·.chan == chan)).length ≤ 4096 ∧ ∀ x, x.chan ≠ chan → (x ∈ t.hbm.extCache ↔ x ∈ s.hbm.extCache)) ∧
  (∀ chan obj ext, Happens (.extentTableWalk chan obj ext) (fun s => DeviceRuns s ∧ 384 ≤ chan) fun s t => t = s) ∧
  (∀ obj ext, Happens (.extentInvalidate obj ext) (fun s => FirmwareRuns s ∧ s.chunkHolds obj ext = false)
    fun s t => t = { s with hbm := { s.hbm with extCache := t.hbm.extCache } } ∧
      ∀ x, x ∈ t.hbm.extCache ↔ x ∈ s.hbm.extCache ∧ ¬ (x.obj = obj ∧ x.ext = ext)) ∧
  (∀ obj ext, Happens (.extentInvalidate obj ext) (fun s => FirmwareRuns s ∧ s.chunkHolds obj ext = true) fun s t => t = s) ∧
  (∀ n k o es, Happens (.directoryInsert n (.op k))
    (fun s => CoreRuns s n ∧ (s.coreAt n).accOp k = some o ∧ o.phase = .queued ∧ o.kind ≠ .fence ∧ (s.coreAt n).accHalted = false ∧
      es = s.scalarEntries n k o.cap o.addr o.len o.updates o.marked ∧ (∀ x ∈ s.hbm.dir, ∀ e ∈ es, x.conflicts e = false) ∧
      s.hbm.dir.length + es.length ≤ 16384)
    fun s t => t = { s with cores := t.cores, hbm := { s.hbm with dir := s.hbm.dir ++ es } } ∧ (∀ m, m ≠ n → t.coreAt m = s.coreAt m) ∧
      t.coreAt n = { s.coreAt n with acc := (s.coreAt n).acc.map fun x => if x.id = k then { x with phase := .entered } else x }) ∧
  (∀ n k o e es x, Happens (.directoryInsert n (.op k))
    (fun s => CoreRuns s n ∧ (s.coreAt n).accOp k = some o ∧ o.phase = .queued ∧ o.kind ≠ .fence ∧ (s.coreAt n).accHalted = false ∧
      (s.coreAt n).wait ≠ .sigwait k ∧ s.scalarEntries n k o.cap o.addr o.len o.updates o.marked = e :: es ∧ s.hbm.dir.find? (·.conflicts e) = some x)
    fun s t => OpBecomes n k none s t ∧ t.hbm.mem = s.hbm.mem ∧ ∃ tr, (t.coreAt n).asyncTraps = (s.coreAt n).asyncTraps ++ [tr] ∧ tr.cause = 0x0A ∧
      tr.report = s.mmxReport x e ∧ tr.word = o.word) ∧
  (∀ n seq e es, Happens (.directoryInsert n (.task seq))
    (fun s => CoreRuns s n ∧ (s.coreAt n).entry seq = some e ∧ s.taskEntered n e = false ∧ entryReady (s.coreAt n) e (s.collReady n e) = true ∧
      s.farFeet n e.post = [] ∧ s.fab.remDirs = [] ∧ es = s.nextEntries (s.taskEntries n e) ∧
      (∀ x ∈ s.hbm.dir, ∀ e ∈ es, x.conflicts e = false) ∧ s.hbm.dir.length + es.length ≤ 16128)
    fun s t => t = { s with hbm := { s.hbm with dir := s.hbm.dir ++ es } }) ∧
  (∀ n k o, Happens (.memoryRequestSend n k)
    (fun s => CoreRuns s n ∧ (s.coreAt n).accOp k = some o ∧ o.phase = .entered ∧ o.kind ≠ .fence ∧
      (s.coreAt n).haltedBefore o.rank = false ∧ (s.coreAt n).mayPerform o = true ∧ (s.obj o.objId).map Obj.route = some .local)
    fun s => CoreBecomes n { s.coreAt n with acc := (s.coreAt n).acc.map fun x =>
      if x.id = k then { x with phase := .sent, stamp := (s.coreAt n).stamp } else x } s) ∧
  (∀ n k r, Happens (.memoryRequestSend n k)
    (fun s => CoreRuns s n ∧ (s.coreAt n).accOp k = none ∧ (s.coreAt n).redEntry k = some r ∧ r.entered = true ∧ r.flushing = true ∧
      r.sent = false ∧ (s.coreAt n).haltedBefore r.rank = false ∧ (s.coreAt n).mayFlush r = true ∧ (s.obj (Cap.obj r.cap)).map Obj.route = some .local)
    fun s => CoreBecomes n { s.coreAt n with reds := (s.coreAt n).reds.map fun x =>
      if x.id = k then { x with sent := true, stamp := (s.coreAt n).stamp } else x } s) ∧
  (∀ n k o ty d, Happens (.memoryPortRequest n k)
    (fun s => SentOp s n k o ∧ o.kind = .load ty d ∧ Readable s (s.tenantOf n) o.objId o.addr (Ty.bytes ty))
    fun s t => t.hbm.mem = s.hbm.mem ∧
      OpBecomes n k (some { o with phase := .performed, result := BitVec.ofNat 128 (natOfBytes (readBytes s o.objId o.addr (Ty.bytes ty))) }) s t) ∧
  (∀ n k o, Happens (.memoryPortRequest n k)
    (fun s => SentOp s n k o ∧ o.kind = .store ∧ Writable s (s.tenantOf n) o.objId o.addr o.len)
    fun s t => OpBecomes n k none s t ∧ readBytes t o.objId o.addr o.len = toBytes o.data o.len ∧ SparesBytes s t o.objId o.addr o.len) ∧
  (∀ n k o op ty d bs, Happens (.memoryPortRequest n k)
    (fun s => SentOp s n k o ∧ o.kind = .rmw op ty d ∧ Writable s (s.tenantOf n) o.objId o.addr (rmwWidth op ty / 8) ∧
      State.rmwBytes op ty (readBytes s o.objId o.addr (rmwWidth op ty / 8)) o.data o.cmp = some bs)
    fun s t => readBytes t o.objId o.addr (rmwWidth op ty / 8) = bs ∧ SparesBytes s t o.objId o.addr (rmwWidth op ty / 8) ∧
      OpBecomes n k (some { o with phase := .performed
                                   result := BitVec.ofNat 128 (natOfBytes (readBytes s o.objId o.addr (rmwWidth op ty / 8))) }) s t) ∧
  (∀ n k o e x, Happens (.memoryPortRequest n k)
    (fun s => SentOp s n k o ∧ s.obj o.objId = some x ∧ x.route = .local ∧ s.portCheck (s.tenantOf n) o.objId o.addr o.request.len = .pageFault e)
    fun s => CoreBecomes n { s.coreAt n with accHalted := true, acc := (s.coreAt n).acc.map fun x =>
      if x.id = k then { x with phase := .paged, stamp := o.stamp } else x } s) ∧
  (∀ n k o x, Happens (.memoryPortRequest n k)
    (fun s => SentOp s n k o ∧ o.kind ≠ .fence ∧ (s.coreAt n).wait ≠ .sigwait k ∧ s.obj o.objId = some x ∧ x.route = .local ∧
      s.portCheck (s.tenantOf n) o.objId o.addr o.request.len = .objectFault)
    fun s t => t.hbm.mem = s.hbm.mem ∧ OpBecomes n k none s t ∧ ∃ tr, (t.coreAt n).asyncTraps = (s.coreAt n).asyncTraps ++ [tr] ∧
      tr.cause = 0x07 ∧ tr.reason = 0 ∧ tr.word = o.word ∧ tr.info = BitVec.ofNat 64 o.addr) ∧
  (∀ n k r bs, Happens (.memoryPortRequest n k)
    (fun s => CoreRuns s n ∧ (s.coreAt n).accOp k = none ∧ (s.coreAt n).redEntry k = some r ∧ r.sent = true ∧
      Writable s (s.tenantOf n) (Cap.obj r.cap) r.addr (rmwWidth r.op r.t / 8) ∧
      State.rmwBytes r.op r.t (readBytes s (Cap.obj r.cap) r.addr (rmwWidth r.op r.t / 8)) (r.data.setWidth 128) 0 = some bs)
    fun s t => (t.coreAt n).redEntry k = none ∧ (∀ m, m ≠ n → t.coreAt m = s.coreAt m) ∧ (t.coreAt n).regs = (s.coreAt n).regs ∧
      readBytes t (Cap.obj r.cap) r.addr (rmwWidth r.op r.t / 8) = bs ∧ SparesBytes s t (Cap.obj r.cap) r.addr (rmwWidth r.op r.t / 8)) ∧
  (∀ n k o ty d, Happens (.loadReturn n k)
    (fun s => CoreRuns s n ∧ (s.coreAt n).accOp k = some o ∧ o.phase = .performed ∧ o.kind = .load ty d ∧ (s.coreAt n).wait ≠ .sigwait k)
    fun s => CoreBecomes n (((s.coreAt n).ws d (loadValue ty (toBytes o.result (Ty.bytes ty)))).dropAcc k) s) ∧
  (∀ n k o d, Happens (.loadReturn n k)
    (fun s => CoreRuns s n ∧ (s.coreAt n).accOp k = some o ∧ o.phase = .performed ∧ o.kind = .loadRegion d ∧
      (s.coreAt n).wait ≠ .sigwait k)
    fun s => CoreBecomes n (((s.coreAt n).wg d (cleanRegion (o.result.setWidth 64))).dropAcc k) s) ∧
  (∀ n k o op ty d, Happens (.loadReturn n k)
    (fun s => CoreRuns s n ∧ (s.coreAt n).accOp k = some o ∧ o.phase = .performed ∧ o.kind = .rmw op ty d ∧ op ≠ .cas2 ∧
      (s.coreAt n).wait ≠ .sigwait k)
    fun s => CoreBecomes n (((s.coreAt n).ws d (if rmwWidth op ty = 64 then o.result.setWidth 64
      else if ty = .i32 then (o.result.setWidth 32).signExtend 64 else (o.result.setWidth 32).setWidth 64)).dropAcc k) s) ∧
  (∀ n k, Happens (.redFlushAge n k) (CoreRuns · n) fun s => CoreBecomes n { s.coreAt n with reds := (s.coreAt n).reds.map fun r =>
    if r.id = k then { r with flushing := true } else r } s) ∧
  (∀ obj ext o, Happens (.pageFaultService obj ext)
    (fun s => FirmwareRuns s ∧ MemoryCanonical s ∧ s.obj obj = some o ∧ ext < o.size ∧ (o.ext ext).frame = none ∧ o.route = .local ∧ HasRoom s 1)
    fun s t => ∃ u f, t.obj obj = some u ∧ u.ext ext = ⟨some f, none⟩ ∧ (∀ e, e ≠ ext → u.ext e = o.ext e) ∧ f ∉ s.usedFrames ∧
      (∀ a, t.hbmByte a = if a / 2097152 = f then 0 else s.hbmByte a) ∧
      ∀ n, (t.coreAt n).acc = (s.coreAt n).acc ∧ ((s.coreAt n).acc.any (·.inExtent obj ext) = true → (t.coreAt n).accHalted = false)) ∧
  (∀ obj ext stack o f, Happens (.extentMigration obj ext stack)
    (fun s => FirmwareRuns s ∧ s.obj obj = some o ∧ o.route = .local ∧ o.ext ext = ⟨some f, none⟩ ∧ (State.stacksOf o.stackMask).contains stack = true ∧
      HasRoom s 1)
    fun s t => t.hbm.mem = s.hbm.mem ∧ t.cores = s.cores ∧ ∃ u n, t.obj obj = some u ∧ u.ext ext = ⟨some f, some n⟩ ∧ n / 32768 = stack ∧
      n ∉ s.usedFrames ∧ ∀ e, e ≠ ext → u.ext e = o.ext e) ∧
  (∀ obj ext o old new, Happens (.migrationCopyComplete obj ext)
    (fun s => FirmwareRuns s ∧ PlainMemory s ∧ s.obj obj = some o ∧ o.ext ext = ⟨some old, some new⟩ ∧ old ≠ new ∧ s.frozenOf o.tenant = none ∧
      s.chunkHolds obj ext = false)
    fun s t => t.cores = s.cores ∧ (∃ u, t.obj obj = some u ∧ u.ext ext = ⟨some new, none⟩ ∧ ∀ e, e ≠ ext → u.ext e = o.ext e) ∧
      ∀ a, t.hbmByte a = if a / 2097152 = new then s.hbmByte (old * 2097152 + a % 2097152) else if a / 2097152 = old then 0 else s.hbmByte a) ∧
  (∀ frame bad, Happens (.frameRetirement frame bad)
    (fun s => FirmwareRuns s ∧ s.frameOwner frame = none ∧ s.hbm.retired.any (·.1 == frame) = false)
    fun s t => t.cores = s.cores ∧ t.hbm.mem = s.hbm.mem ∧ (∀ f, SMap.get false t.hbm.retired f = (f == frame || SMap.get false s.hbm.retired f)) ∧
      Counts 0 13 s { t with hbm := s.hbm }) ∧
  (∀ b, Happens (.memoryScrub b .corrected) DeviceRuns fun s => Counts (s.frameFn (b / 32768)) 1 s) ∧
  (∀ b, Happens (.memoryScrub b .uncorrectable) (fun s => DeviceRuns s ∧ SMap.get false s.hbm.poisoned b = false)
    fun s t => Counts (s.frameFn (b / 32768)) 5 s { t with hbm := s.hbm } ∧ t.hbm.mem = s.hbm.mem ∧
      ∀ x, SMap.get false t.hbm.poisoned x = (x == b || SMap.get false s.hbm.poisoned x)) ∧
  (∀ n row, Happens (.rowSweep n row .corrected) (fun s => CoreRuns s n ∧ row < 13312) fun s => Counts (s.chargedFn n 0) 0 s) ∧
  (∀ n row, Happens (.rowSweep n row .uncorrectable) (fun s => CoreRuns s n ∧ row < 13312 ∧ .row row ∉ (s.coreAt n).eng.bad)
    fun s => CoreBecomes n { s.coreAt n with eng := { (s.coreAt n).eng with bad := .row row :: (s.coreAt n).eng.bad } } s) ∧
  (∀ n k o ty b d, Happens (.sigwaitPoll n)
    (fun s => CoreRuns s n ∧ (s.coreAt n).wait = .sigwait k ∧ (s.coreAt n).accOp k = some o ∧ o.phase = .entered ∧ o.kind = .wait ty b d ∧
      (s.coreAt n).haltedBefore o.rank = false ∧ (s.coreAt n).mayPerform o = true ∧ Readable s (s.tenantOf n) o.objId o.addr 8)
    fun s t => t.hbm.mem = s.hbm.mem ∧ let v := wordAt s o.objId o.addr
      if (if ty = .i64 then b.toInt ≤ v.toInt else b.toNat ≤ v.toNat)
      then OpBecomes n k (some { o with phase := .performed, result := v.setWidth 128 }) s t
      else OpBecomes n k (some { o with phase := .queued }) s t) ∧
  (∀ n k x a, Happens (.rvRegister n k)
    (fun s => CoreRuns s n ∧ (s.coreAt n).team = some x ∧ (s.team x).isSome = true ∧
      (s.coreAt n).arrivals.find? (fun a => a.pt == k && !a.registered) = some a ∧ a.leave = false ∧ (s.coreAt n).mayRegister a = true)
    fun s t => t.hbm = s.hbm ∧ (∀ m, m ≠ n → t.coreAt m = s.coreAt m) ∧
      t.coreAt n = { s.coreAt n with arrivals := (s.coreAt n).arrivals.map fun y => if y.pt = k ∧ y.leave = false then { y with registered := true } else y } ∧
      let p := s.point x k
      let arrived := p.arrived ||| BitVec.ofNat 32 (2 ^ (s.coreAt n).rank)
      ∀ j, t.point x j = if j = k then (if p.members ≠ 0 ∧ arrived = p.members then ⟨p.phase + 1, p.members, 0⟩ else ⟨p.phase, p.members, arrived⟩)
        else s.point x j) ∧
  (∀ n x, Happens (.syscReturn n) (fun s => CoreRuns s n ∧ s.fwRuns = true ∧ (s.coreAt n).wait = .sysc x)
    fun s => CoreBecomes n { (s.coreAt n).ws 1 (if x = 0 then s.dev.secVersion.setWidth 64 else if x = 1 then BitVec.ofNat 64 (s.tenantOf n)
      else if x = 2 then (match s.launchOf n with | some (_, l) => l.partMask.setWidth 64 | none => 0) else BitVec.allOnes 64) with wait := .none } s) ∧
  (∀ n mask rose, Happens (.wfeWake n)
    (fun s => CoreRuns s n ∧ (s.coreAt n).wait = .wfe mask rose ∧ (s.coreAt n).run = .running ∧
      ((∃ i < 16, mask.getLsbD i = true ∧ (s.coreAt n).mb i ≠ 0) ∨ (mask = 0 ∧ rose = true) ∨ (s.coreAt n).preempting = true))
    fun s => CoreBecomes n (Core.endGroup 1 { s.coreAt n with wait := .none }) s) ∧
  ∀ n k o base, Happens (.pcieCompletionTimeout (.op n k))
    (fun s => CoreRuns s n ∧ (s.coreAt n).accOp k = some o ∧ o.phase = .sent ∧ o.kind ≠ .fence ∧ (s.coreAt n).wait ≠ .sigwait k ∧
      (s.obj o.objId).map Obj.route = some (.host base))
    fun s t => t.hbm.mem = s.hbm.mem ∧ OpBecomes n k none s t ∧ ∃ tr, (t.coreAt n).asyncTraps = (s.coreAt n).asyncTraps ++ [tr] ∧
      tr.cause = 0x07 ∧ tr.word = o.word ∧ tr.info = BitVec.ofNat 64 o.addr

/-- Windows (R82, R86, R153, R288, R298, R305, R307 to R309, R316, R322, R434, R437, R452, R485, R486) and the issue of a group (R169). -/
def Obligations.WindowEvents : Prop :=
  (∀ n ws is o s, s.freezing n = false → (tick n { s with cur := n }).core.forcedHere = false → (tick n { s with cur := n }).core.mayRun = true →
    fetchGroup (tick n { s with cur := n }) (tick n { s with cur := n }).core 4 0 false false = .words ws →
    readGroup (tick n { s with cur := n }).core ws = .ok is → onlyOp (tick n { s with cur := n }).core is = some o →
    ∃ t, exec (.groupIssue n) s = .next t ∧ exec o.instr (tick n { s with cur := n }) = .next t) ∧
  (∀ n, Happens (.groupIssue n) (fun s => s.freezing n = false ∧ (s.coreAt n).forcedHere = true ∧ ∀ m r, (s.coreAt n).wait ≠ .wfe m r)
    fun s t => (t.coreAt n).run = .stopped none ∧ (t.coreAt n).regs = (s.coreAt n).regs ∧ (t.coreAt n).pc = (s.coreAt n).pc ∧ t.hbm = s.hbm ∧
      ∀ m, m ≠ n → t.coreAt m = s.coreAt m) ∧
  (∀ n m r, Happens (.groupIssue n) (fun s => s.freezing n = false ∧ (s.coreAt n).forcedHere = true ∧ (s.coreAt n).wait = .wfe m r)
    fun s t => (t.coreAt n).run = .stopped none ∧ (t.coreAt n).wait = .none ∧ (t.coreAt n).regs = (Core.endGroup 1 (s.coreAt n)).regs ∧
      (t.coreAt n).pc = (Core.endGroup 1 (s.coreAt n)).pc ∧ t.hbm = s.hbm ∧ ∀ k, k ≠ n → t.coreAt k = s.coreAt k) ∧
  (∀ n seq, Happens (.entrySettled n seq) (CoreRuns · n)
    (EntryBecomes n seq fun e => if e.state = .unit then e else { e with settled := true })) ∧
  (∀ n seq e, Happens (.releaseAgeExpiry n seq)
    (fun s => CoreRuns s n ∧ (s.coreAt n).entry seq = some e ∧ entryReady (s.coreAt n) e (s.collReady n e) = true)
    (EntryBecomes n seq fun x => { x with aged := true })) ∧
  (∀ n q e, Happens (.taskRelease n q)
    (fun s => CoreRuns s n ∧ q ≠ .board ∧ (SMap.get [] (s.coreAt n).eng.queues (queueNo q)).length < 16 ∧ .engine q ∉ (s.coreAt n).frozen ∧
      (s.coreAt n).stopping = false ∧ firstReady (s.coreAt n) (s.releasable n q) = some e ∧ e.post.kind ≠ 0x28)
    fun s t => OnlyCore n s t ∧ (t.coreAt n).entry e.seq = ((s.coreAt n).entry e.seq).map (fun x => { x with state := .queued }) ∧
      (∀ r, r ≠ e.seq → (t.coreAt n).entry r = (s.coreAt n).entry r) ∧ (t.coreAt n).regs = (s.coreAt n).regs ∧
      ∀ k, SMap.get [] (t.coreAt n).eng.queues k = if k = queueNo q then SMap.get [] (s.coreAt n).eng.queues k ++ [e.seq] else SMap.get [] (s.coreAt n).eng.queues k) ∧
  (∀ n q e v, Happens (.taskRelease n q)
    (fun s => CoreRuns s n ∧ q ≠ .board ∧ (SMap.get [] (s.coreAt n).eng.queues (queueNo q)).length < 16 ∧ .engine q ∉ (s.coreAt n).frozen ∧
      (s.coreAt n).stopping = false ∧ firstReady (s.coreAt n) (s.releasable n q) = some e ∧ e.post.kind = 0x28 ∧
      s.collVersion (s.tenantOf n) (nfield (e.post.word 8) 0 16) = some v)
    fun s t => ((t.coreAt n).entry e.seq).map Entry.state = ((s.coreAt n).entry e.seq).map (fun _ => EState.queued) ∧ t.hbm = s.hbm ∧
      ∃ x, t.fab.steps = s.fab.steps ++ [x] ∧ x.core = n ∧ x.seq = e.seq ∧ x.version = v ∧ x.step = field (e.post.word 8) 32 32 ∧
        x.settles.map Settle.member = (List.range v.members.length).filter (fun m => v.stateOf m != .withdrawn) ∧
        ∀ y ∈ x.settles, y.count = none ∧ y.applied = [] ∧ y.timedOut = false) ∧
  (∀ n seq e, Happens (.taskComplete n seq)
    (fun s => CoreRuns s n ∧ (s.coreAt n).entry seq = some e ∧ e.state = .executing ∧ e.prog.fin = true ∧ e.fault = none ∧
      .engine e.queue ∉ (s.coreAt n).frozen)
    fun s t => OnlyCore n s t ∧ (t.coreAt n).entry seq = some { e with state := .completed } ∧
      (∀ r, r ≠ seq → (t.coreAt n).entry r = (s.coreAt n).entry r) ∧ (t.coreAt n).regs = (s.coreAt n).regs ∧ (t.coreAt n).eng.rows = (s.coreAt n).eng.rows ∧
      ∀ k, SMap.get [] (t.coreAt n).eng.queues k =
        if k = queueNo e.queue then (SMap.get [] (s.coreAt n).eng.queues k).filter (· != seq) else SMap.get [] (s.coreAt n).eng.queues k) ∧
  (∀ n seq e, Happens (.taskRetire n seq)
    (fun s => CoreRuns s n ∧ (s.coreAt n).entry seq = some e ∧ e.state = .completed ∧ e.bundleHead = none ∧ e.seg = none ∧
      (s.coreAt n).board.held = [] ∧ e.inSection = false ∧ SMap.wf 0 e.wtr = true ∧ s.fab.remDirs = [])
    fun s t => t.hbm.mem = s.hbm.mem ∧ (∀ m, m ≠ n → t.coreAt m = s.coreAt m) ∧ (t.coreAt n).regs = (s.coreAt n).regs ∧ (t.coreAt n).entry seq = none ∧
      (∀ i < 16, (t.coreAt n).mb i = if e.post.sigMask.getLsbD i = true ∧ (s.coreAt n).mb i ≠ BitVec.allOnes 64 then (s.coreAt n).mb i + 1
        else (s.coreAt n).mb i) ∧
      (∀ r, (t.coreAt n).phys r = match SMap.get 0 e.wtr r with | p + 1 => p | 0 => (s.coreAt n).phys r) ∧
      ∀ d ∈ t.hbm.dir, ¬ (d.chip = s.dev.chip ∧ d.core = n ∧ d.task = true ∧ d.party = seq.toNat)) ∧
  (∀ n g u, Happens (.unitEvaluation n g)
    (fun s => CoreRuns s n ∧ (s.coreAt n).unit g = some u ∧ unitReady (s.coreAt n) u = true ∧ unitPasses (s.coreAt n) u = true ∧ SMap.wf 0 u.spec = true)
    fun s t => OnlyCore n s t ∧ (t.coreAt n).unit g = none ∧ (t.coreAt n).entry g = none ∧ (t.coreAt n).sp = (s.coreAt n).sp ∧
      (t.coreAt n).eng.rows = (s.coreAt n).eng.rows ∧
      ∀ r, (t.coreAt n).phys r = match SMap.get 0 u.spec r with | p + 1 => p | 0 => (s.coreAt n).phys r) ∧
  (∀ n g u, Happens (.unitEvaluation n g)
    (fun s => CoreRuns s n ∧ (s.coreAt n).unit g = some u ∧ unitReady (s.coreAt n) u = true ∧ unitPasses (s.coreAt n) u = false ∧ u.exacts = [] ∧
      u.captured = [])
    fun s t => (t.coreAt n).unit g = none ∧ (t.coreAt n).entry g = none ∧ (t.coreAt n).sp.gfail = (s.coreAt n).sp.gfail + 1 ∧
      (t.coreAt n).eng.rowMap = (s.coreAt n).eng.rowMap ∧ t.hbm = s.hbm ∧ (∀ m, m ≠ n → t.coreAt m = s.coreAt m) ∧
      SMap.get 0 (t.hostFn (s.fnOf (s.tenantOf n))).counters 8 = (if SMap.get 0 (s.hostFn (s.fnOf (s.tenantOf n))).counters 8 = BitVec.allOnes 64
        then BitVec.allOnes 64 else SMap.get 0 (s.hostFn (s.fnOf (s.tenantOf n))).counters 8 + 1)) ∧
  (∀ n g u, Happens (.unitEvaluation n g)
    (fun s => CoreRuns s n ∧ (s.coreAt n).unit g = some u ∧ unitReady (s.coreAt n) u = true ∧ unitPasses (s.coreAt n) u = false ∧ u.exacts = [] ∧
      u.captured ≠ [] ∧ (∀ p ∈ u.captured, p.kind ∉ [0x23, 0x30, 0x31, 0x38]) ∧ ∀ v ∈ (s.coreAt n).board.units, v.failed = false)
    fun s t => (∃ v, (t.coreAt n).unit g = some v ∧ v.failed = true ∧ v.exacts.length = u.captured.length) ∧
      (t.coreAt n).board.entries.length = (s.coreAt n).board.entries.length + u.captured.length ∧
      (t.coreAt n).sp.gfail = (s.coreAt n).sp.gfail + 1 ∧ t.hbm = s.hbm) ∧
  (∀ n m r, Happens (.remotePostArrival n m)
    (fun s => CoreRuns s n ∧ s.fab.net = [] ∧ m.srcChip ≠ s.dev.chip ∧ (s.coreAt n).team.isSome = true ∧ s.tenantOf n = m.tenant ∧ m.recs = [r] ∧
      1 ≤ (s.coreAt n).remoteRoom ∧ ringCheck (s.coreAt n) ⟨r.words, r.caps⟩ = none)
    fun s t => t.hbm = s.hbm ∧ (∀ k, k ≠ n → t.coreAt k = s.coreAt k) ∧ (t.coreAt n).regs = (s.coreAt n).regs ∧
      (t.coreAt n).board.nextSeq = (s.coreAt n).board.nextSeq + 1 ∧
      ∃ e, (t.coreAt n).board.entries = (s.coreAt n).board.entries ++ [e] ∧ e.seq = (s.coreAt n).board.nextSeq ∧ e.remote = true ∧
        e.post.caps = r.caps ∧ e.origin = none ∧ (nfield (r.words.headD 0) 0 8 ≠ 0x38 → e.state = .waiting)) ∧
  (∀ n m, Happens (.remotePostArrival n m)
    (fun s => s.fab.net = [] ∧ m.srcChip ≠ s.dev.chip ∧ (s.coreAt n).remoteRoom < m.recs.length) fun s t => t = s) ∧
  (∀ n m r x, Happens (.remotePostArrival n m)
    (fun s => CoreRuns s n ∧ s.fab.net = [] ∧ m.srcChip ≠ s.dev.chip ∧ (s.coreAt n).team.isSome = true ∧ s.tenantOf n = m.tenant ∧ m.recs = [r] ∧
      1 ≤ (s.coreAt n).remoteRoom ∧ ringCheck (s.coreAt n) ⟨r.words, r.caps⟩ = some x)
    fun s => CoreBecomes n { s.coreAt n with asyncTraps :=
      (s.coreAt n).asyncTraps ++ [{ x with delivery := .boundary, remote := true, record := r.words }] } s) ∧
  (∀ n, Happens (.stallReport n) (fun s => CoreRuns s n ∧ externallyStalled s n = false)
    fun s => CoreBecomes n { s.coreAt n with board := { (s.coreAt n).board with stalledReported := false } } s) ∧
  (∀ n, Happens (.stallReport n) (fun s => CoreRuns s n ∧ (s.coreAt n).board.stalledReported = false ∧ externallyStalled s n = true)
    fun s t => t.hbm = s.hbm ∧ (∀ m, m ≠ n → t.coreAt m = s.coreAt m) ∧ (t.coreAt n).regs = (s.coreAt n).regs ∧
      (t.coreAt n).board = { (s.coreAt n).board with stalledReported := true } ∧
      Counts (s.fnOf (s.tenantOf n)) 10 s { t with cores := s.cores, sched := s.sched } ∧
      t.sched = { s.sched with stallReports := SMap.put [] s.sched.stallReports n (s.stallReport n) } ∧
      ∃ tr, (t.coreAt n).asyncTraps = (s.coreAt n).asyncTraps ++ [tr] ∧ tr.cause = 0x13 ∧ tr.delivery = .boundary ∧
        tr.info = (s.stallReport n).headD 0 >>> 32) ∧
  ∀ n seq e f, Happens (.engineFault n seq f)
    (fun s => CoreRuns s n ∧ (s.coreAt n).entry seq = some e ∧ e.state = .executing ∧ e.fault = none ∧ e.inSection = false ∧ e.origin = none ∧
      f.cause ∈ [0x02, 0x04, 0x05, 0x07, 0x0C, 0x0F, 0x12#8])
    fun s t => t.hbm = s.hbm ∧ (∀ m, m ≠ n → t.coreAt m = s.coreAt m) ∧ (t.coreAt n).regs = (s.coreAt n).regs ∧
      (t.coreAt n).entry seq = some { e with state := .executing, fault := some f, report := [] } ∧
      ∃ tr, tr.cause = f.cause ∧ tr.reason = f.reason ∧ tr.delivery = .engine ∧ tr.seq = seq ∧ tr.record = e.post.words ∧
        if f.cause = 0x02 ∨ f.cause = 0x0F then
          (t.coreAt n).frozen = (s.coreAt n).frozen ++ [.engine e.queue] ∧ (t.coreAt n).frozenTraps = (s.coreAt n).frozenTraps ++ [(.engine e.queue, tr)] ∧
            (t.coreAt n).asyncTraps = (s.coreAt n).asyncTraps
        else (t.coreAt n).asyncTraps = (s.coreAt n).asyncTraps ++ [tr] ∧ (t.coreAt n).frozen = (s.coreAt n).frozen

/-- Memory strata (R456, R459, R460, R462, R463, R465, R466, R469, R470): a thread's snapshot once its cut has opened, a query of the current
generation, the two phases of a cut, the undertow, durability and aborts.
The addresses inside the lower tier and what an abort leaves of steps not yet opened are the model's choices (log 54, 55). -/
def Obligations.StrataEvents : Prop :=
  (∀ (d : SReg) (c : CReg) (p : PReg) f i q, (i, q) ∈ [(Instr.snap d c p, SoloOp.snap d c p), (.snapNw d c p, .snapNw d c p)] → ∀ s,
    MayIssue (.solo q) s → Cap.obj (s.core.rc c) ≠ 0 → Cap.has (s.core.rc c) 4 = true → s.core.settledBefore s.core.nextOp = true →
    s.core.wait = .snap → (homeOf s).asker = .core s.cur → (homeOf s).opened = true → (homeOf s).frozen = some f →
    ∃ u, exec i s = .next u ∧ u.core.pc = nextPc s 1 ∧ u.core.rs d = (if d.val = 0 then 0 else f) ∧ u.core.rp p = true ∧ u.core.wait = .none ∧
      Keeps { s := [d.val], p := [p.val] } s u) ∧
  (∀ (d a : SReg) (c : CReg) s, MayIssue (.solo (.snapq d c a)) s → Cap.obj (s.core.rc c) ≠ 0 → Cap.has (s.core.rc c) 4 = true →
    s.core.rs a = (homeOf s).current → s.core.rs a ≠ 0 →
    ∃ u, exec (.snapq d c a) s = .next u ∧ u.core.pc = nextPc s 1 ∧ u.core.rs d = 0 ∧ Keeps { s := [d.val] } s u) ∧
  (∀ x chip f, Happens (.chipGenerationSet x chip (f + 1))
    (fun s => DeviceRuns s ∧ (s.tenant x).gen.frozen = some f ∧ (s.tenant x).gen.opened = false ∧ chip ∈ s.genChips x ∧ chip ∉ (s.tenant x).gen.acks)
    fun s t => let h := (s.tenant x).gen
      GenBecomes x s t fun g => g.acks = chip :: h.acks ∧ g.frozen = some f ∧ g.durable = h.durable ∧
        g.chipGen = (if chip = s.dev.chip then f + 1 else h.chipGen) ∧
        if ∀ k ∈ s.genChips x, k ∈ chip :: h.acks then g.opened = true ∧ g.current = f + 1 ∧ g.history = (⟨f, .cutting, 0⟩ :: h.history).take 64
        else g.opened = false ∧ g.current = h.current ∧ g.history = h.history) ∧
  (∀ n v, Happens (.cutNotice n v)
    (fun s => CoreRuns s n ∧ (s.coreAt n).team.isSome = true ∧ (s.tenant (s.tenantOf n)).gen.opened = true ∧
      v.toNat ≤ (s.tenant (s.tenantOf n)).gen.current.toNat)
    fun s => CoreBecomes n { s.coreAt n with stamp := if (s.coreAt n).stamp.toNat < v.toNat then v else (s.coreAt n).stamp } s) ∧
  (∀ x chip f, Happens (.chipCutComplete x chip)
    (fun s => DeviceRuns s ∧ (s.tenant x).gen.frozen = some f ∧ (s.tenant x).gen.opened = true ∧ chip ∈ s.genChips x ∧ chip ∉ (s.tenant x).gen.cuts ∧
      (chip = s.dev.chip → s.cutDone x f = true))
    fun s t => let h := (s.tenant x).gen
      t.cores = (if chip = s.dev.chip then (s.noticeFrozen x f).cores else s.cores) ∧
      GenBecomes x s { t with cores := s.cores } fun g => g.cuts = chip :: h.cuts ∧ g.frozen = some f ∧ g.current = h.current ∧ g.durable = h.durable ∧
        g.history = if ∀ k ∈ s.genChips x, k ∈ chip :: h.cuts then h.history.map (fun r => if r.gen = f then { r with phase := .draining } else r)
          else h.history) ∧
  (∀ x obj grain u f, Happens (.undertowCopy x obj grain true)
    (fun s => DeviceRuns s ∧ MemoryCanonical s ∧ s.draining x = some f ∧ ((undrainedGrains s x).find? fun u => u.obj == obj && u.grain == grain) = some u ∧
      (∀ v ∈ undrainedGrains s x, State.grainStack v.phys = State.grainStack u.phys → State.drainsBefore v u = false) ∧
      SMap.wf 0 s.hbm.lower = true ∧ ∀ a, s.hbm.lowerNext ≤ a → SMap.get 0 s.hbm.lower a = 0)
    fun s t => GenBecomes x s t (fun g => g.frozen = (s.tenant x).gen.frozen ∧ g.current = (s.tenant x).gen.current ∧
        g.copied = (s.tenant x).gen.copied ++ [(obj, grain, s.hbm.lowerNext, s.hbm.poisoned.any fun e => e.1 / 1024 == u.phys && e.2)]) ∧
      t.hbm.lowerNext = s.hbm.lowerNext + 65536 ∧
      ∀ a, SMap.get 0 t.hbm.lower a = if s.hbm.lowerNext ≤ a ∧ a < s.hbm.lowerNext + 65536 then s.hbmByte (u.phys * 65536 + (a - s.hbm.lowerNext))
        else SMap.get 0 s.hbm.lower a) ∧
  (∀ x f, Happens (.generationDurable x)
    (fun s => DeviceRuns s ∧ s.draining x = some f ∧ undrainedGrains s x = [])
    fun s t => GenBecomes x s t fun g => g.frozen = none ∧ g.durable = f ∧ g.current = (s.tenant x).gen.current ∧ g.images = [] ∧
      g.history.map GenRec.gen = (s.tenant x).gen.history.map GenRec.gen ∧ ∀ r ∈ g.history, r.gen = f → r.phase = .durable) ∧
  (∀ x f, Happens (.generationAbort x 0x02)
    (fun s => DeviceRuns s ∧ (s.tenant x).gen.opened = true ∧ (s.tenant x).gen.frozen = some f)
    fun s t => GenBecomes x s t (fun g => g.frozen = none ∧ g.durable = (s.tenant x).gen.durable ∧ g.current = (s.tenant x).gen.current ∧
        g.history = (s.tenant x).gen.history.map fun r => if r.gen = f then { r with phase := .aborted 0x02 } else r) ∧
      ∀ w ∈ t.hbm.waits, w.tenant ≠ x) ∧
  ∀ k w f, Happens (.reserveStallExpiry k)
    (fun s => DeviceRuns s ∧ (s.hbm.waits.find? fun w => w.stack == k && ((s.tenant w.tenant).gen.frozen).isSome) = some w ∧
      (s.tenant w.tenant).gen.frozen = some f)
    fun s t => GenBecomes w.tenant s t (fun g => g.frozen = none ∧ g.durable = (s.tenant w.tenant).gen.durable ∧
        g.current = (if (s.tenant w.tenant).gen.opened = true then (s.tenant w.tenant).gen.current else f + 1)) ∧
      ∀ y ∈ t.hbm.waits, y.tenant ≠ w.tenant

/-- The matrix, stream and transpose engines and the board (R61, R62, R74, R265 to R285, R318, R345, R443 to R445): tasks as they run. -/
def Obligations.EngineTasks : Prop :=
  (∀ n seq e, Happens (.mldstTask n seq) (fun s => MatrixStarts s n seq 0x01 e ∧ (s.coreAt n).eng.shadow.borrowed = false ∧ e.post.ext 0 ≤ 128)
    fun s t => let c := s.coreAt n; let p := e.post; let g := (t.coreAt n).eng
      TaskDone n seq s t ∧ g.active = c.eng.active ∧ g.selector = c.eng.selector ∧ g.rows = c.eng.rows ∧ g.acc = c.eng.acc ∧
      g.shadow.ty = some p.tb ∧ g.shadow.mx = p.mx ∧ g.shadow.np = p.ext 1 ∧ g.shadow.nc = p.ext 0 ∧ g.shadow.loaded = true ∧
      ∀ i < p.ext 1, ∀ j < p.ext 0, SMap.get 0 g.shadow.cells (128 * i + j) =
        field (c.prow (e.rrow (walkRow p 0 (i / 2)))) (colBit p 0 + 2048 * (i % 2) + 16 * j) 16) ∧
  (∀ n seq e, Happens (.mldstTask n seq) (fun s => MatrixStarts s n seq 0x01 e ∧ (s.coreAt n).eng.shadow.borrowed = true ∧ e.inSection = false ∧ e.origin = none)
    fun s t => OnlyWindow n s t ∧ TaskIs n seq t (·.fault = some ⟨0x04, 0, 0⟩) ∧ (t.coreAt n).eng.plane0 = (s.coreAt n).eng.plane0 ∧
      (t.coreAt n).eng.plane1 = (s.coreAt n).eng.plane1) ∧
  (∀ n seq e, Happens (.mswapTask n seq) (fun s => MatrixStarts s n seq 0x02 e ∧ loadsPending (s.coreAt n) = false)
    fun s t => TaskDone n seq s t ∧ (t.coreAt n).eng.selector = !(s.coreAt n).eng.selector ∧ (t.coreAt n).eng.plane0 = (s.coreAt n).eng.plane0 ∧
      (t.coreAt n).eng.plane1 = (s.coreAt n).eng.plane1 ∧ (t.coreAt n).eng.acc = (s.coreAt n).eng.acc) ∧
  (∀ n seq e, Happens (.mzeroTask n seq) (fun s => MatrixStarts s n seq 0x03 e)
    fun s t => let b := tileBox e.post 0
      TaskDone n seq s t ∧ (∀ k, SMap.get 0 (t.coreAt n).eng.acc k = if b.holds k then 0 else SMap.get 0 (s.coreAt n).eng.acc k) ∧
      (∀ k < 8, k ≠ b.tile → (t.coreAt n).intMode k = (s.coreAt n).intMode k) ∧ (b.tile < 8 → (t.coreAt n).intMode b.tile = (e.post.td == .i64)) ∧
      (t.coreAt n).eng.rows = (s.coreAt n).eng.rows) ∧
  (∀ n seq e, Happens (.mzeroTask n seq)
    (fun s => CoreRuns s n ∧ s.mayStart n seq 0x03 = some e ∧ e.prog.redo = 0 ∧ e.wtr = [] ∧ e.post.tileStart = false ∧
      consumesBad e none (s.coreAt n) = false ∧ e.post.gwEn = true ∧ e.prog.guard = none ∧ s.tagFree n = true ∧ Readable s (s.tenantOf n) (Cap.obj (e.post.cap 6)) e.post.gwOff 4 ∧
      natOfBytes (readBytes s (Cap.obj (e.post.cap 6)) e.post.gwOff 4) = 0)
    fun s t => TaskDone n seq s t ∧ (t.coreAt n).eng.acc = (s.coreAt n).eng.acc ∧ (t.coreAt n).eng.modes = (s.coreAt n).eng.modes) ∧
  (∀ n seq e grp kn b, Happens (.mstreamTask n seq)
    (fun s => MatrixStarts s n seq 0x04 e ∧ grp = (groupOf e.post.tb).getD 1 ∧ kn = ceilDiv (e.post.ext 0) grp * grp ∧ b = tileBox e.post 1 ∧
      (s.coreAt n).eng.active.ty = some e.post.tb ∧ (s.coreAt n).eng.active.mx = e.post.mx ∧ e.post.ext 0 ≤ (s.coreAt n).eng.active.np * grp ∧
      b.colCnt ≤ (s.coreAt n).eng.active.nc ∧ (s.coreAt n).intMode b.tile = (e.post.ta == .i8 || e.post.ta == .n8) ∧ b.colLo + b.colCnt ≤ 128 ∧
      SMap.wf 0 (s.coreAt n).eng.acc = true)
    fun s t => let c := s.coreAt n; let p := e.post
      TaskDone n seq s t ∧ (t.coreAt n).eng.rows = c.eng.rows ∧
      (∀ m < p.ext 1, ∀ j < b.colCnt, SMap.get 0 (t.coreAt n).eng.acc (accKey b.tile (b.rowLo + m) b.colLo + j) =
        (passEntry p (rowSide p (c.prow (e.rrow (walkRow p 0 m))) (if p.mx then c.prow (e.rrow (walkRow p 2 m)) else 0) kn)
          (planeSide c.eng.active p.tb grp kn j) grp (p.ext 0) (p.ta == .i8 || p.ta == .n8)
          (SMap.get 0 c.eng.acc (accKey b.tile (b.rowLo + m) b.colLo + j))).1) ∧
      ∀ k, (∀ m < p.ext 1, ∀ j < b.colCnt, k ≠ accKey b.tile (b.rowLo + m) b.colLo + j) →
        SMap.get 0 (t.coreAt n).eng.acc k = SMap.get 0 c.eng.acc k) ∧
  (∀ n seq e b, Happens (.mdrainTask n seq)
    (fun s => MatrixStarts s n seq 0x05 e ∧ e.post.epiEn = false ∧ e.post.rnd = .rne ∧ e.post.box 1 = some b ∧ b.bndEn = false ∧
      colBit e.post 1 + e.post.td.width * e.post.ext 0 ≤ 4096 ∧ RowsApart (fun m => e.wrow (walkRow e.post 1 m)) (e.post.ext 1))
    fun s t => let c := s.coreAt n; let p := e.post; let w := p.td.width; let tb := tileBox p 0
      TaskDone n seq s t ∧ (t.coreAt n).eng.acc = c.eng.acc ∧ ∀ m < p.ext 1, ∀ j < p.ext 0,
        nfield ((t.coreAt n).prow (e.wrow (walkRow p 1 m))) (colBit p 1 + w * j) w =
          (roundElem p.td .rne (let v := SMap.get 0 c.eng.acc (accKey tb.tile (tb.rowLo + m) tb.colLo + j)
            if c.intMode tb.tile then FVal.ofInt v.toInt else Fmt.a56.value v.toNat) 0).bits % 2 ^ w) ∧
  (∀ n seq e ws, Happens (.mepiTask n seq)
    (fun s => MatrixStarts s n seq 0x06 e ∧ Epi.validAll ws = true ∧
      ws = (List.range (e.post.ext 0)).map fun i => field ((s.coreAt n).prow (e.rrow (walkRow e.post 0 0))) (colBit e.post 0 + 32 * i) 32)
    fun s t => TaskDone n seq s t ∧ (t.coreAt n).eng.rows = (s.coreAt n).eng.rows ∧
      (∀ k, SMap.get [] (t.coreAt n).eng.drainStore k = if e.post.subop = 0 ∧ k = e.post.epiSlot then ws else SMap.get [] (s.coreAt n).eng.drainStore k) ∧
      ∀ k, SMap.get [] (t.coreAt n).eng.streamStore k = if e.post.subop ≠ 0 ∧ k = e.post.epiSlot then ws else SMap.get [] (s.coreAt n).eng.streamStore k) ∧
  (∀ n seq e, Happens (.mepiTask n seq)
    (fun s => MatrixStarts s n seq 0x06 e ∧ e.inSection = false ∧ e.origin = none ∧ Epi.validAll ((List.range (e.post.ext 0)).map fun i =>
      field ((s.coreAt n).prow (e.rrow (walkRow e.post 0 0))) (colBit e.post 0 + 32 * i) 32) = false)
    fun s t => OnlyWindow n s t ∧ TaskIs n seq t (·.fault = some ⟨0x04, 0, 1⟩) ∧ (t.coreAt n).eng.drainStore = (s.coreAt n).eng.drainStore ∧
      (t.coreAt n).eng.streamStore = (s.coreAt n).eng.streamStore) ∧
  (∀ n seq e, Happens (.tstartTask n seq)
    (fun s => TaskStarts s n seq 0x3C e ∧ e.post.engine = 0 ∧ e.post.tileStart = true ∧ e.post.box 0 = none ∧ consumesBad e none (s.coreAt n) = false ∧
      (s.coreAt n).eng.segment.started.any (·.seq == seq) = false)
    fun s t => let g := (t.coreAt n).eng
      TaskDone n seq s t ∧ g.segment.num = (s.coreAt n).eng.segment.num + 1 ∧ g.segment.retained = true ∧ g.segment.replays = 0 ∧
      g.segment.started.map Entry.seq = [seq] ∧ g.segWrites = [] ∧ g.checkpoint = none ∧ g.plane0.loaded = false ∧ g.plane1.loaded = false ∧
      g.plane0.cells = (s.coreAt n).eng.plane0.cells ∧ g.plane1.cells = (s.coreAt n).eng.plane1.cells ∧ g.acc = (s.coreAt n).eng.acc) ∧
  (∀ n seq e b, Happens (.smapTask n seq)
    (fun s => TaskStarts s n seq 0x10 e ∧ e.readsBad none (s.coreAt n) = false ∧ e.post.epiEn = false ∧ e.post.rnd = .rne ∧ e.post.box 2 = some b ∧
      b.bndEn = false ∧ colBit e.post 2 + e.post.td.width * e.post.ext 0 ≤ 4096 ∧ RowsApart (fun m => e.wrow (walkRow e.post 2 m)) (e.post.ext 1) ∧
      ∀ i j, i < e.post.ext 1 → j < e.post.ext 1 → e.rrow (walkRow e.post 0 i) = e.wrow (walkRow e.post 2 j) → i = j)
    fun s t => let p := e.post
      TaskDone n seq s t ∧ ∀ m < p.ext 1, ∀ j < p.ext 0,
        nfield ((t.coreAt n).prow (e.wrow (walkRow p 2 m))) (colBit p 2 + p.td.width * j) p.td.width =
          (roundElem p.td .rne (Fmt.f32.value (Fmt.f32.round .rne
            (p.ta.value (slotElem p 0 p.ta.width j ((s.coreAt n).prow (e.rrow (walkRow p 0 m))))) 0).bits) 0).bits % 2 ^ p.td.width) ∧
  (∀ n seq e b, Happens (.sredTask n seq)
    (fun s => TaskStarts s n seq 0x11 e ∧ e.readsBad none (s.coreAt n) = false ∧ e.post.subop / 8 = 0 ∧ e.post.box 1 = some b ∧ b.space = .sp ∧
      1 ≤ b.colCnt ∧ b.colLo + b.colCnt ≤ 32)
    fun s t => let p := e.post; let op := p.subop % 8
      let run := (sredRows e (s.coreAt n) op (List.range (p.ext 1)) []
        (roundElem p.td .rne (resStart (op == 3)) 0).bits (taskGens p)).2.1
      TaskDone n seq s t ∧ ∀ i < p.td.width / 8,
        rowByte (t.coreAt n) (e.wrow (State.boxByte b i / 512)) (State.boxByte b i % 512) = BitVec.ofNat 8 (run >>> (8 * i))) ∧
  (∀ n seq e, Happens (.xposeTask n seq)
    (fun s => TaskStarts s n seq 0x18 e ∧ e.readsBad none (s.coreAt n) = false ∧ colBit e.post 1 + e.post.ta.width * e.post.ext 1 ≤ 4096 ∧
      RowsApart (fun j => e.wrow (walkRow e.post 1 j)) (e.post.ext 0))
    fun s t => let p := e.post; let w := p.ta.width
      TaskDone n seq s t ∧ ∀ j < p.ext 0, ∀ i < p.ext 1,
        nfield ((t.coreAt n).prow (e.wrow (walkRow p 1 j))) (colBit p 1 + w * i) w = slotElem p 0 w j ((s.coreAt n).prow (e.rrow (walkRow p 0 i)))) ∧
  (∀ n seq e, Happens (.ringpopTask n seq)
    (fun s => CoreRuns s n ∧ (s.coreAt n).entry seq = some e ∧ e.post.kind = 0x30 ∧ entryReady (s.coreAt n) e true = true)
    (EntryBecomes n seq fun x => { x with state := .completed })) ∧
  (∀ n seq e, Happens (.ringpushTask n seq)
    (fun s => CoreRuns s n ∧ (s.coreAt n).entry seq = some e ∧ e.post.kind = 0x31 ∧ entryReady (s.coreAt n) e true = true)
    (EntryBecomes n seq fun x => { x with state := .completed })) ∧
  (∀ n e q, Happens (.rollbackEvent n)
    (fun s => CoreRuns s n ∧ (SMap.get [] (s.coreAt n).eng.queues 0).head? = some q ∧ (s.coreAt n).entry q = some e ∧ e.state = .executing ∧
      e.fault = none ∧ e.prog.guard ≠ some 0 ∧ .engine .matrix ∉ (s.coreAt n).frozen ∧ discardedTiles e = [] ∧ e.post.kind ≠ 0x05 ∧ e.prog.fin = false ∧
      replayable (s.coreAt n) [] = true ∧ (s.coreAt n).eng.segment.replays = 0 ∧ (s.coreAt n).eng.segment.started = [] ∧
      consumesBad e e.prog.clamp { s.coreAt n with eng := { (s.coreAt n).eng with selector := (s.coreAt n).eng.segment.selector } } = false)
    fun s t => TaskDone n q s t ∧ (t.coreAt n).eng.selector = (s.coreAt n).eng.segment.selector ∧ (t.coreAt n).eng.segment.replays = 1 ∧
      (t.coreAt n).eng.acc = (s.coreAt n).eng.acc ∧ (t.coreAt n).eng.rows = (s.coreAt n).eng.rows) ∧
  (∀ n e q, Happens (.rollbackEvent n)
    (fun s => CoreRuns s n ∧ (SMap.get [] (s.coreAt n).eng.queues 0).head? = some q ∧ (s.coreAt n).entry q = some e ∧ e.state = .executing ∧
      e.fault = none ∧ e.prog.guard ≠ some 0 ∧ .engine .matrix ∉ (s.coreAt n).frozen ∧ (s.coreAt n).eng.segment.retained = false ∧ e.inSection = false ∧ e.origin = none)
    fun s t => OnlyWindow n s t ∧ TaskIs n q t (·.fault = some ⟨0x12, 0, 0⟩) ∧ (t.coreAt n).eng.segment.replays = 0 ∧
      ∀ k ∈ discardedTiles e, ∀ w ∈ (s.coreAt n).eng.segWrites, w.box.tile = k → ∀ a ∈ w.box.keys,
        SMap.get 0 (t.coreAt n).eng.acc a = if (s.coreAt n).intMode k then 0x80000000000000 else 0x7FF00000000000) ∧
  (∀ n seq e, Happens (.softErrorReplay n seq)
    (fun s => CoreRuns s n ∧ (s.coreAt n).entry seq = some e ∧ e.state = .executing ∧ e.fault = none ∧ (e.post.engine = 1 ∨ e.post.engine = 2) ∧
      e.post.isSubscr = false ∧ e.prog.guard ≠ some 0 ∧ e.prog.redo = 0 ∧ e.disjoint = true)
    fun s t => OnlyWindow n s t ∧ Counts (s.chargedFn n 2) 2 s { t with cores := s.cores } ∧ (t.coreAt n).eng = (s.coreAt n).eng ∧
      TaskIs n seq t fun x => x = { e with state := .queued, prog := { Progress.fresh with redo := 1, guard := e.prog.guard } }) ∧
  (∀ n seq e, Happens (.softErrorReplay n seq) (fun s => (s.coreAt n).entry seq = some e ∧ e.prog.guard = some 0) fun s t => t = s) ∧
  ∀ n seq e, Happens (.softErrorReplay n seq)
    (fun s => CoreRuns s n ∧ (s.coreAt n).entry seq = some e ∧ e.state = .executing ∧ e.fault = none ∧ (e.post.engine = 1 ∨ e.post.engine = 2) ∧
      e.post.isSubscr = false ∧ e.prog.guard ≠ some 0 ∧ (e.prog.redo ≠ 0 ∨ e.disjoint = false) ∧ e.inSection = false ∧ e.origin = none)
    fun s t => OnlyWindow n s t ∧ TaskIs n seq t (·.fault = some ⟨0x12, 0, 0⟩)

/-- The copy engine and the tide engines (R326 to R343): a copy as it starts, its chunks and requests, and the items of rings. -/
def Obligations.CopiesAndRings : Prop :=
  (∀ n seq e, Happens (.copyTask n seq)
    (fun s => TaskStarts s n seq 0x20 e ∧ e.post.hasRef 9 = false ∧ e.post.hasRef 10 = false)
    fun s t => OnlyWindow n s t ∧ (t.coreAt n).eng.rows = (s.coreAt n).eng.rows ∧ TaskIs n seq t fun x => x.state = .executing ∧
      x.prog.begun = true ∧ x.fault = none ∧ (x.prog.fin = true ↔ nfield (e.post.word 8) 0 48 = 0 ∨ e.prog.fin = true)) ∧
  (∀ n seq e w r, Happens (.gatherTask n seq)
    (fun s => TaskStarts s n seq 0x21 e ∧ s.tagFree n = true ∧ e.post.hasRef 9 = true ∧ e.post.refLayout 9 = true ∧ e.post.hasRef 10 = false ∧
      Readable s (s.tenantOf n) (Cap.obj (e.post.cap 7)) (e.post.refOff 9) 64 ∧ r = readBytes s (Cap.obj (e.post.cap 7)) (e.post.refOff 9) 64 ∧
      copyWalk e.post [r, []] none = .ok w ∧ e.prog.fin = false)
    fun s t => OnlyWindow n s t ∧ (t.coreAt n).eng.rows = (s.coreAt n).eng.rows ∧ TaskIs n seq t fun x => x.state = .executing ∧
      x.prog.begun = true ∧ x.prog.recs = [r, []] ∧ x.fault = none ∧ x.prog.fin = decide (w.total = 0)) ∧
  (∀ n seq e w r, Happens (.scatterTask n seq)
    (fun s => TaskStarts s n seq 0x22 e ∧ s.tagFree n = true ∧ e.post.hasRef 9 = false ∧ e.post.refLayout 10 = true ∧ e.post.hasRef 10 = true ∧
      Readable s (s.tenantOf n) (Cap.obj (e.post.cap 8)) (e.post.refOff 10) 64 ∧ r = readBytes s (Cap.obj (e.post.cap 8)) (e.post.refOff 10) 64 ∧
      copyWalk e.post [[], r] none = .ok w ∧ e.prog.fin = false)
    fun s t => OnlyWindow n s t ∧ (t.coreAt n).eng.rows = (s.coreAt n).eng.rows ∧ TaskIs n seq t fun x => x.state = .executing ∧
      x.prog.begun = true ∧ x.prog.recs = [[], r] ∧ x.fault = none ∧ x.prog.fin = decide (w.total = 0)) ∧
  (∀ n seq e k r, Happens (.subscrTask n seq)
    (fun s => CoreRuns s n ∧ s.mayStart n seq 0x23 = some e ∧ e.post.gwEn = false ∧ k = nfield (e.post.word 8) 0 4 ∧ (s.coreAt n).ring k = some r ∧
      r.mode = 2 ∧ e.post.box 0 = none)
    fun s t => OnlyWindow n s t ∧ (t.coreAt n).ring k = some { r with started := true, nest := [] } ∧
      (∀ j, j ≠ k → (t.coreAt n).ring j = (s.coreAt n).ring j) ∧ (TaskIs n seq t fun x => x.state = .executing ∧ x.prog.begun = true ∧ x.fault = none) ∧
      seq ∉ SMap.get [] (t.coreAt n).eng.queues (3 + e.post.channel)) ∧
  (∀ n seq e k r bs x, Happens (.subscrTask n seq)
    (fun s => CoreRuns s n ∧ s.mayStart n seq 0x23 = some e ∧ e.post.gwEn = false ∧ k = nfield (e.post.word 8) 0 4 ∧ (s.coreAt n).ring k = some r ∧
      s.tagFree n = true ∧ r.mode ≠ 2 ∧ (∃ b, e.post.box 0 = some b) ∧ (s.obj (Cap.obj (e.post.cap 0))).map Obj.route = some .local ∧ e.post.hasRef 9 = true ∧
      e.post.refLayout 9 = false ∧ Readable s (s.tenantOf n) (Cap.obj (e.post.cap 7)) (e.post.refOff 9) 128 ∧
      bs = readBytes s (Cap.obj (e.post.cap 7)) (e.post.refOff 9) 128 ∧ Nest.parse bs = some x ∧ State.nestFits r (x.clamp none) = true)
    fun s t => OnlyWindow n s t ∧ (t.coreAt n).ring k = some { r with started := true, nest := bs } ∧
      TaskIs n seq t fun x => x.state = .executing ∧ x.prog.begun = true ∧ x.fault = none) ∧
  (∀ n chan e w a d len idx m, Happens (.copyChunk n chan)
    (fun s => CoreRuns s n ∧ s.channelTask n chan = some (e, w) ∧ e.prog.lim ≤ e.prog.at' ∧ e.prog.at' < w.total ∧
      State.chanReqs (s.coreAt n) chan = [] ∧ (s.coreAt n).stopping = false ∧ s.copyStep n e w e.prog.idx e.prog.at' = .move a d len idx s ∧ 0 < len ∧
      s.onlyPad e = false ∧ m = min len (min (extentBytes - a % extentBytes) (extentBytes - d % extentBytes)) ∧
      s.sideCheck n e (copySlots e.post).1 a m = .proceed ∧ s.sideCheck n e (copySlots e.post).2 d m = .proceed)
    fun s t => OnlyWindow n s t ∧ (t.coreAt n).eng.rows = (s.coreAt n).eng.rows ∧
      TaskIs n e.seq t fun x => x.prog.at' = e.prog.at' ∧ e.prog.at' < x.prog.lim ∧ x.prog.lim ≤ e.prog.at' + 65536 ∧
        ∃ k, x.prog.plan.head? = some ⟨e.prog.at', a, d, k⟩ ∧ 0 < k) ∧
  (∀ n chan e w a d len idx m x, Happens (.copyChunk n chan)
    (fun s => CoreRuns s n ∧ s.channelTask n chan = some (e, w) ∧ e.prog.lim ≤ e.prog.at' ∧ State.chanReqs (s.coreAt n) chan = [] ∧
      (s.coreAt n).stopping = false ∧ s.copyStep n e w e.prog.idx e.prog.at' = .move a d len idx s ∧ s.onlyPad e = false ∧
      m = min len (min (extentBytes - a % extentBytes) (extentBytes - d % extentBytes)) ∧
      s.sideCheck n e (copySlots e.post).1 a m = .proceed ∧ s.sideCheck n e (copySlots e.post).2 d m = .pageFault x) fun s t => t = s) ∧
  (∀ n chan e w, Happens (.copyChunk n chan)
    (fun s => CoreRuns s n ∧ s.channelTask n chan = some (e, w) ∧ e.prog.lim ≤ e.prog.at' ∧ State.chanReqs (s.coreAt n) chan = [] ∧
      (s.coreAt n).stopping = false ∧ e.prog.at' < w.total ∧ e.readsBad none (s.coreAt n) = false ∧ s.copyStep n e w e.prog.idx e.prog.at' = .overrun ∧
      e.inSection = false ∧ e.origin = none)
    fun s t => OnlyWindow n s t ∧ TaskIs n e.seq t (·.fault = some ⟨0x05, 0, BitVec.ofNat 64 e.prog.at'⟩)) ∧
  (∀ n chan e w k q i b, Happens (.copyRequestIssue n chan)
    (fun s => CoreRuns s n ∧ s.requestReady n chan = some (e, w, k) ∧ s.tagFree n = true ∧ (∀ x < 4, x ≠ chan → s.requestReady n x = none) ∧
      (e.prog.plan.find? fun r => decide (r.walk ≤ k) && decide (k < r.walk + r.len)) = some q ∧ i = k - q.walk ∧
      e.post.box (copySlots e.post).1 = some b ∧
      (s.sideOf b (e.post.cap (copySlots e.post).1) = .sp ∨ ∃ o, s.sideOf b (e.post.cap (copySlots e.post).1) = .mem o))
    fun s t => OnlyWindow n s t ∧ (t.coreAt n).eng.rows = (s.coreAt n).eng.rows ∧ ∃ r, (t.coreAt n).eng.copyReqs = (s.coreAt n).eng.copyReqs ++ [r] ∧
      (t.coreAt n).eng.copyTurn = chan ∧ r.chan = chan ∧ r.walk = k ∧ r.src = q.src + i ∧ r.dst = q.dst + i ∧
      r.len = State.wholeRead e (q.src + i) (q.dst + i) (min (q.len - i) (min (64 - (q.src + i) % 64) (64 - (q.dst + i) % 64))) ∧ r.flow = none ∧ r.data = none ∧ r.answered = false ∧ r.tag < 4032 ∧ r.tag ∉ (s.coreAt n).eng.copyReqs.map CopyReq.tag) ∧
  (∀ n chan e w r bx by' o o', Happens (.requestResponse n chan)
    (fun s => OldestRequest s n chan e w r ∧ e.post.box (copySlots e.post).1 = some bx ∧ e.post.box (copySlots e.post).2 = some by' ∧
      s.sideOf bx (e.post.cap (copySlots e.post).1) = .mem o ∧ s.sideOf by' (e.post.cap (copySlots e.post).2) = .mem o' ∧
      Readable s (s.tenantOf n) o r.src r.len ∧ Writable s (s.tenantOf n) o' r.dst r.len)
    fun s t => RequestDone n e w r s t ∧ readBytes t o' r.dst r.len = readBytes s o r.src r.len ∧ SparesBytes s t o' r.dst r.len) ∧
  (∀ n chan e w r bx by' o, Happens (.requestResponse n chan)
    (fun s => OldestRequest s n chan e w r ∧ e.post.box (copySlots e.post).1 = some bx ∧ e.post.box (copySlots e.post).2 = some by' ∧
      s.sideOf bx (e.post.cap (copySlots e.post).1) = .mem o ∧ s.sideOf by' (e.post.cap (copySlots e.post).2) = .sp ∧
      Readable s (s.tenantOf n) o r.src r.len ∧ r.dst % 512 + r.len ≤ 512)
    fun s t => RequestDone n e w r s t ∧ t.hbm = s.hbm ∧ ∀ i < r.len, rowByte (t.coreAt n) (e.wrow (r.dst / 512)) (r.dst % 512 + i) = s.byteAt o (r.src + i)) ∧
  (∀ n (k : Fin 16) r e off lo hi pad, Happens (.tideFillItem n k)
    (fun s => RingItem s n k.val true r e off lo hi pad ∧ Readable s (s.tenantOf n) (Cap.obj (e.post.cap 0)) off (hi - lo) ∧ Injective (s.coreAt n).phys)
    fun s t => OnlyWindow n s t ∧ (t.coreAt n).ring k.val = some { r with tide := r.tide + 1 } ∧
      ∀ i < hi - lo, (t.coreAt n).spByte (pad + i) = s.byteAt (Cap.obj (e.post.cap 0)) (off + i)) ∧
  ∀ n (k : Fin 16) r e off lo hi pad, Happens (.tideDrainItem n k)
    (fun s => RingItem s n k.val false r e off lo hi pad ∧ Writable s (s.tenantOf n) (Cap.obj (e.post.cap 0)) off (hi - lo))
    fun s t => (∀ m, m ≠ n → t.coreAt m = s.coreAt m) ∧ (t.coreAt n).eng.rows = (s.coreAt n).eng.rows ∧ (t.coreAt n).regs = (s.coreAt n).regs ∧
      (t.coreAt n).ring k.val = some { r with tide := r.tide + 1 } ∧
      readBytes t (Cap.obj (e.post.cap 0)) off (hi - lo) = (s.coreAt n).spBytes pad (hi - lo) ∧
      SparesBytes s t (Cap.obj (e.post.cap 0)) off (hi - lo)

/-- The fabric (R397 to R406), collective steps (R414 to R420, R500), members (R409, R410) and the switches (R423).
What a flow does at its end, and the lines and slots it uses, are the model's readings (log 48, 49, 50). -/
def Obligations.FabricEvents : Prop :=
  (∀ x lid phys far, Happens (.peerRemap x lid phys far)
    (fun s => FirmwareRuns s ∧ (s.peer x lid).valid = true ∧ (s.tenant x).gen.frozen = none ∧ ∀ o ∈ s.fab.flowsOut, ∀ u ∈ o.unacked, ¬ (u.tenant = x ∧ u.lid = lid))
    fun s t => t.cores = s.cores ∧ t.hbm = s.hbm ∧ ∀ l, t.peer x l = if l = lid then ⟨true, false, far, phys, (s.peer x lid).epoch + 1⟩ else s.peer x l) ∧
  (∀ x lid phys far, Happens (.peerRemap x lid phys far)
    (fun s => FirmwareRuns s ∧ (s.peer x lid).valid = true ∧ (s.tenant x).gen.frozen = none ∧
      ∃ o ∈ s.fab.flowsOut, o.held = false ∧ ∃ u ∈ o.unacked, u.tenant = x ∧ u.lid = lid)
    fun s t => t.cores = s.cores ∧ t.hbm = s.hbm ∧ t.fab = s.fab ∧
      ∀ l, t.peer x l = if l = lid then { s.peer x lid with drain := true } else s.peer x l) ∧
  (∀ m cap x off k marked task, (∀ i ∈ [Instr.flowMessageDelivery m, .remoteAccess m], Happens i
    (fun s => NewMessage s m ∧ m.body = .access cap x off (.read k) marked task ∧ Cap.has cap 6 = true ∧ Readable s x (Cap.obj cap) off k)
    fun s t => t.hbm.mem = s.hbm.mem ∧ t.cores = s.cores ∧ ∃ v, t.fab.replies = s.fab.replies ++ [⟨m.flow, m.seq, 0, readBytes s (Cap.obj cap) off k, v, 0⟩])) ∧
  (∀ m cap x off bs marked task, (∀ i ∈ [Instr.flowMessageDelivery m, .remoteAccess m], Happens i
    (fun s => NewMessage s m ∧ m.body = .access cap x off (.write bs) marked task ∧ Cap.has cap 6 = true ∧ Writable s x (Cap.obj cap) off bs.length)
    fun s t => readBytes t (Cap.obj cap) off bs.length = bs ∧ SparesBytes s t (Cap.obj cap) off bs.length ∧ t.cores = s.cores ∧
      t.fab.replies.map (fun r => (r.flow, r.seq, r.reason, r.fault)) = s.fab.replies.map (fun r => (r.flow, r.seq, r.reason, r.fault)) ++ [(m.flow, m.seq, 0, 0)])) ∧
  (∀ n f seq u home p, Happens (.flowAck n f seq) (fun s => Awaits s n f seq u ∧ u.msg.body = .post home p ∧ s.fab.control = [])
    fun s t => t.hbm = s.hbm ∧ t.unacked f seq = none ∧ (∀ g, g ≠ f → t.flowOut g = s.flowOut g) ∧ ∀ m, t.coreAt m = if m = s.ownerAt n u then
      { s.coreAt m with outPosts := (s.coreAt m).outPosts.filter fun o => o.sent != some (f, seq) } else s.coreAt m) ∧
  (∀ n f seq u r, Happens (.flowRefusal n f seq r) (fun s => Awaits s n f seq u ∧ r ∈ [1, 2, 3#4] ∧
      ∀ home y l, u.msg.body = .line home y l → s.lineGone (s.ownerAt n u) (BitVec.ofNat 32 u.party) (u.lid, home) = false)
    fun s t => t.hbm = s.hbm ∧ t.cores = s.cores ∧ t.unacked f seq = some { u with hold := r } ∧ ∀ g, g ≠ f → t.flowOut g = s.flowOut g) ∧
  (∀ n f seq u o, Happens (.flowRetry n f seq) (fun s => Awaits s n f seq u ∧ (u.hold = 1 ∨ u.hold = 2 ∨ (u.hold = 3 ∧ s.ungrouped u = true)) ∧ s.flowOut f = some o ∧ o.held = false)
    fun s t => t.hbm = s.hbm ∧ t.cores = s.cores ∧ t.unacked f seq = some { u with hold := 0 } ∧ u.msg ∈ t.fab.net) ∧
  (∀ n f o, Happens (.flowEnd n f)
    (fun s => CoreRuns s n ∧ s.fwRuns = true ∧ s.fab.control = [] ∧ f.srcChip = s.dev.chip ∧ f.srcCore = n ∧ s.flowOut f = some o ∧ o.held = true ∧ o.unacked = [])
    fun s t => t.hbm = s.hbm ∧ t.cores = s.cores ∧ t.flowOut f = none ∧ ∀ g, g ≠ f → t.flowOut g = s.flowOut g) ∧
  (∀ n f o u k a cap x off op marked, Happens (.flowEnd n f)
    (fun s => CoreRuns s n ∧ s.fwRuns = true ∧ s.fab.control = [] ∧ f.srcChip = s.dev.chip ∧ f.srcCore = n ∧ s.flowOut f = some o ∧ o.held = true ∧ o.unacked = [u] ∧
      u.msg.body = .access cap x off op marked false ∧ u.isTask = false ∧ s.ownerAt n u = n ∧ u.party = k ∧ (s.coreAt n).accOp k = some a ∧
      a.kind ≠ .fence ∧ a.phase = .sent ∧ (s.coreAt n).wait ≠ .sigwait k ∧ ∀ q ∈ s.fab.asks, q.msg ≠ (u.msg.flow, u.msg.seq))
    fun s t => t.flowOut f = none ∧ OpBecomes n k none s t ∧ ∃ tr, (t.coreAt n).asyncTraps = (s.coreAt n).asyncTraps ++ [tr] ∧ tr.cause = 0x0C ∧
      tr.reason = 0x02 ∧ tr.info = BitVec.ofNat 64 u.lid) ∧
  (∀ n o f, Happens (.postrSend n)
    (fun s => CoreRuns s n ∧ (s.coreAt n).outPosts = [o] ∧ o.sent = none ∧ (s.coreAt n).settledBefore o.after = true ∧
      f = s.flowTo n o.msg.tenant o.lid 0 o.ordered ∧ (s.peer o.msg.tenant o.lid).valid = true ∧ (s.peer o.msg.tenant o.lid).drain = false ∧ s.flowOut f = none)
    fun s t => CoreBecomes n { s.coreAt n with outPosts := [{ o with sent := some (f, 0) }] } s { t with fab := s.fab } ∧
      t.fab.net = s.fab.net ++ [⟨f, 0, s.homeCore n, (s.coreAt n).stamp, .post o.core o.msg⟩] ∧ ∃ y, t.unacked f 0 = some y ∧ y.hold = 0) ∧
  (∀ n seq e x, Happens (.collTask n seq)
    (fun s => CoreRuns s n ∧ s.fab.flowsOut = [] ∧ s.fab.chunks = [] ∧ s.openStep n seq = some x ∧ (s.coreAt n).entry seq = some e ∧ e.post.kind = 0x28 ∧
      e.state = .executing ∧ e.fault = none ∧ e.origin = none ∧ x.endsSent = true ∧ x.closes = true ∧ x.dropped = false ∧ bit (e.post.word 7) 32 = false)
    fun s t => EntryBecomes n seq (fun y => { y with state := .completed }) s { t with fab := s.fab } ∧ t.openStep n seq = none ∧
      (n, x.group, x.step, x.version.num) ∈ t.fab.closed) ∧
  (∀ n seq e x, Happens (.collTask n seq)
    (fun s => CoreRuns s n ∧ s.fab.flowsOut = [] ∧ s.openStep n seq = some x ∧ (s.coreAt n).entry seq = some e ∧ e.post.kind = 0x28 ∧
      e.state = .executing ∧ e.fault = none ∧ (s.coreAt n).stopping = false ∧ .engine .walker ∉ (s.coreAt n).frozen ∧
      x.version.stateOf x.own = .withdrawn ∧ x.atOnce = false ∧ x.unacked ≠ [])
    fun s t => t.hbm = s.hbm ∧ (∀ m, m ≠ n → t.coreAt m = s.coreAt m) ∧ t.fab.net = s.fab.net ∧
      t.openStep n seq = some { x with atOnce := true, endsSent := true } ∧ seq ∉ SMap.get [] (t.coreAt n).eng.queues 7) ∧
  (∀ n seq e x y b, Happens (.collTask n seq)
    (fun s => CoreRuns s n ∧ s.fab.flowsOut = [] ∧ s.mayStart n seq 0x28 = some e ∧ e.state = .queued ∧ e.post.gwEn = false ∧ e.prog.fin = false ∧
      e.post.hasRef 9 = true ∧ e.post.refLayout 9 = false ∧ Readable s (s.tenantOf n) (Cap.obj (e.post.cap 7)) (e.post.refOff 9) 128 ∧
      Nest.parse (readBytes s (Cap.obj (e.post.cap 7)) (e.post.refOff 9) 128) = some y ∧ State.collNestOk e.post y = true ∧ y.transfers = 1 ∧ 1 ≤ y.len ∧
      y.len ≤ 248 ∧ s.openStep n seq = some x ∧ x.walkAt = 0 ∧ x.endsSent = false ∧ x.dropped = false ∧ x.own = 0 ∧ x.version.members.length = 1 ∧
      x.atOnce = false ∧ x.version.stateOf 0 ≠ .withdrawn ∧ s.tagFree n = true ∧ x.settles = [⟨0, none, [], [], false⟩] ∧ x.sent = [] ∧ x.unacked = [] ∧ e.post.box 0 = some b ∧
      s.sideOf b (e.post.cap 0) = .sp ∧ y.src + y.len ≤ b.size)
    fun s t => t.hbm = s.hbm ∧ (∀ m, m ≠ n → t.coreAt m = s.coreAt m) ∧ (t.coreAt n).eng.rows = (s.coreAt n).eng.rows ∧
      (TaskIs n seq t fun z => z.state = .executing ∧ z.prog.begun = true ∧ z.fault = none) ∧
      (∃ z, t.openStep n seq = some z ∧ z.endsSent = true ∧ z.settles = [⟨0, some 1, [], [], false⟩]) ∧
      ∃ l, t.fab.chunks = s.fab.chunks ++ [⟨n, l, none, false⟩] ∧ l.sender = 0 ∧ l.step = x.step ∧ l.group = x.group ∧ l.version = x.version.num ∧
        l.toOff = y.dst ∧ Line.num l = 0 ∧ Line.isEnd l = false ∧ l.payload = (List.range y.len).map fun i => e.spRead (s.coreAt n) (State.boxByte b (y.src + i))) ∧
  (∀ n l, Happens (.collLineArrival n l)
    (fun s => LineComes s n l (s.collVersion (s.tenantOf n) l.group) ∧ Line.isEnd l = false ∧ s.lineStep n l = none ∧ s.stepClosed n l = false ∧
      s.earlyStale n l = false ∧ s.fab.chunks = [] ∧ 2 ≤ nfield (s.coreAt n).board.cwcfg (8 * l.chan.val) 7)
    fun s t => t.hbm = s.hbm ∧ t.fab = { s.fab with chunks := [⟨n, l, none, true⟩] } ∧ ∀ m, m ≠ n → t.coreAt m = s.coreAt m) ∧
  (∀ n l x, Happens (.collEndLine n l)
    (fun s => LineComes s n l (some x.version) ∧ Line.isEnd l = true ∧ s.lineStep n l = some x ∧ State.staleLine x l = false ∧ StepStays s n x.seq x)
    fun s t => t.hbm = s.hbm ∧ CoreBecomes n ((s.coreAt n).raiseStamp l.stamp) s { t with fab := s.fab } ∧
      t.openStep n x.seq = some (x.onSettle l.sender fun z => { z with count := some (Line.count l) })) ∧
  (∀ n seq e x y k b, Happens (.collLineApply n seq)
    (fun s => CoreRuns s n ∧ StepStays s n seq x ∧ x.core = n ∧ x.seq = seq ∧ (s.coreAt n).entry seq = some e ∧ e.fault = none ∧ s.fab.chunks = [k] ∧
      k.core = n ∧ k.msg = none ∧ k.line.group = x.group ∧ k.line.step = x.step ∧ k.line.version = x.version.num ∧
      x.settle k.line.sender = some y ∧ y.timedOut = false ∧ State.appliesNow x k.line = true ∧ s.lineWindowed n x k.line = false ∧
      e.post.box 1 = some b ∧ s.sideOf b (e.post.cap 1) = .sp ∧ nfield (e.post.word 7) 20 4 = 0 ∧ k.line.toOff + k.line.payload.length ≤ b.size ∧
      1 ≤ b.colCnt ∧ b.colLo + b.colCnt ≤ 32 ∧ b.space = .sp ∧ Injective e.wrow)
    fun s t => t.hbm = s.hbm ∧ (∀ m, m ≠ n → t.coreAt m = s.coreAt m) ∧ (t.coreAt n).regs = (s.coreAt n).regs ∧ t.fab.chunks = [] ∧
      (∃ z, t.openStep n seq = some z ∧ ∃ v, z.settle k.line.sender = some v ∧ v.applied = y.applied ++ [Line.num k.line]) ∧
      ∀ i < k.line.payload.length, some (rowByte (t.coreAt n) (e.wrow (State.boxByte b (k.line.toOff + i) / 512)) (State.boxByte b (k.line.toOff + i) % 512)) =
        k.line.payload[i]?) ∧
  (∀ n seq x, Happens (.stepTimerExpiry n seq)
    (fun s => CoreRuns s n ∧ StepStays s n seq x ∧ x.version.timeout ≠ 0 ∧ x.timerRuns = true)
    fun s t => t.hbm = s.hbm ∧ t.cores = s.cores ∧ t.openStep n seq = some { x with
      settles := x.settles.map fun z => if x.settled z = true then z else { z with timedOut := true }, unacked := [], stale := true }) ∧
  (∀ x g ver a w rest, Happens (.membershipInstall x g ver)
    (fun s => DeviceRuns s ∧ s.collGroup x g = some a ∧ a.waiting = w :: rest ∧ w.version.num = ver ∧ s.mayInstall x g a = true ∧ w.msg = none ∧
      a.asked = [] ∧ ∀ st ∈ w.version.states, st ≠ .withdrawn)
    fun s t => t.hbm = s.hbm ∧ t.cores = s.cores ∧ t.fab = s.fab ∧
      t.collGroup x g = some { a with installed := (w.version :: a.installed).take 2, waiting := rest }) ∧
  (∀ x g m, MarksMember (.absentPendingNotice x g m) x g m .absentPending fun _ => True) ∧
  (∀ x g m, MarksMember (.presentNotice x g m) x g m .present fun _ => True) ∧
  (∀ x g m, MarksMember (.withdrawnNotice x g m) x g m .withdrawn fun s => s.fab.flowsOut = [] ∧ ∀ y ∈ s.fab.steps, ¬ (y.tenant = x ∧ y.group = g)) ∧
  (∀ k c w, Happens (.switchContribution k c)
    (fun s => DeviceRuns s ∧ k.coll = none ∧ s.slotWindow k = some w ∧ nfield w.w1 8 28 * 4096 ≤ k.off ∧
      k.off + State.slotBytes k ≤ (nfield w.w1 36 28 + 1) * 4096 ∧ 512 ≤ c.member ∧
      ∀ y, s.switchSlot k = some y → ∀ d ∈ y.got, ¬ (d.member = c.member ∧ d.line = c.line))
    fun s t => t = { s with fab := { s.fab with switches := t.fab.switches } } ∧ (∀ j, j ≠ k → t.switchSlot j = s.switchSlot j) ∧
      ∃ y, t.switchSlot k = some y ∧ y.window = w ∧ y.got = ((s.switchSlot k).map SwitchSlot.got).getD [] ++ [c]) ∧
  (∀ k y w, Happens (.switchRedDelivery k)
    (fun s => DeviceRuns s ∧ k.coll = none ∧ s.switchSlot k = some y ∧ y.window = w ∧ State.windowHome w = s.dev.chip ∧ k.op ≠ .cas2 ∧
      (∀ c ∈ y.got, 512 ≤ c.member) ∧ Writable s k.tenant (State.windowObj w) k.off (rmwWidth k.op k.t / 8))
    fun s t => t.cores = s.cores ∧ t.switchSlot k = none ∧ SparesBytes s t (State.windowObj w) k.off (rmwWidth k.op k.t / 8) ∧
      readBytes t (State.windowObj w) k.off (rmwWidth k.op k.t / 8) =
        toBytes (BitVec.ofNat 128 (State.mergeInto k (natOfBytes (readBytes s (State.windowObj w) k.off (rmwWidth k.op k.t / 8)))
          (y.got.map fun c => c.val.toNat))) (rmwWidth k.op k.t / 8)) ∧
  ∀ k y, Happens (.switchLeaseExpiry k)
    (fun s => DeviceRuns s ∧ s.switchSlot k = some y ∧ ∀ c ∈ y.got, 512 ≤ c.member)
    fun s t => t = { s with fab := { s.fab with switches := t.fab.switches } } ∧ t.switchSlot k = none ∧ ∀ j, j ≠ k → t.switchSlot j = s.switchSlot j
end

