-- ==== Sys2Proof/Laws/SMap.lean ====
section
/-!
SUPPORT. Laws of the container: what a changed map reads as, and that every operation keeps the canonical form.
-/

namespace Sys2Proof.SMap

variable {α : Type} {d : α}

/-! ### Reading what was put -/

@[simp] theorem get_nil (n : Nat) : get d [] n = d := rfl

theorem get_cons (k : Nat) (v : α) (r : SMap α) (n : Nat) : get d ((k, v) :: r) n = if n = k then v else get d r n := rfl

theorem get_drop (m : SMap α) (n k : Nat) : get d (drop m n) k = if k = n then d else get d m k := by
  induction m with
  | nil => simp [drop]
  | cons e r ih =>
    obtain ⟨a, v⟩ := e
    by_cases h : n = a
    · subst h; simp only [drop, if_pos, ih, get]; split <;> simp_all
    · simp only [drop, if_neg h, get, ih]; split <;> split <;> simp_all

theorem get_place (m : SMap α) (n k : Nat) (v : α) (hk : k ≠ n) : get d (place m n v) k = get d m k := by
  induction m with
  | nil => simp [place, get, hk]
  | cons e r ih =>
    obtain ⟨a, w⟩ := e
    simp only [place]
    split <;> simp [get, hk, ih]

theorem get_place_drop (m : SMap α) (n : Nat) (v : α) : get d (place (drop m n) n v) n = v := by
  induction m with
  | nil => simp [drop, place, get]
  | cons e r ih =>
    obtain ⟨a, w⟩ := e
    by_cases h : n = a
    · subst h; simpa [drop] using ih
    · simp only [drop, if_neg h, place]; split <;> simp [get, h, ih]

/-- What a map reads as once a key has been put. -/
@[simp] theorem get_put [DecidableEq α] (m : SMap α) (n k : Nat) (v : α) : get d (put d m n v) k = if k = n then v else get d m k := by
  unfold put
  split
  · rename_i h; subst h; simp [get_drop]
  · by_cases h : k = n
    · subst h; simp [get_place_drop]
    · rw [get_place _ _ _ _ h, get_drop, if_neg h, if_neg h]

theorem drop_place (m : SMap α) (n : Nat) (v : α) : drop (place m n v) n = drop m n := by
  induction m with
  | nil => simp [place, drop]
  | cons e r ih =>
    obtain ⟨k, w⟩ := e
    simp only [place]
    split
    · simp [drop]
    · by_cases h : n = k <;> simp [drop, h, ih] <;> simpa [h] using ih

theorem drop_drop (m : SMap α) (n : Nat) : drop (drop m n) n = drop m n := by
  induction m with
  | nil => rfl
  | cons e r ih =>
    obtain ⟨k, w⟩ := e
    by_cases h : n = k
    · subst h; simpa [drop] using ih
    · simp [drop, h, ih]

/-- The later of two values put at a key stands. -/
@[simp] theorem put_put [DecidableEq α] (m : SMap α) (n : Nat) (v w : α) : put d (put d m n v) n w = put d m n w := by
  have : drop (put d m n v) n = drop m n := by unfold put; split <;> simp [drop_place, drop_drop]
  by_cases hw : w = d
  · rw [put, if_pos hw, this, put, if_pos hw]
  · rw [put, if_neg hw, this, put, if_neg hw]

theorem get_eq_of_not_mem {m : SMap α} {n : Nat} (h : ∀ e ∈ m, e.1 ≠ n) : get d m n = d := by
  induction m with
  | nil => rfl
  | cons e r ih => rw [get_cons, if_neg (Ne.symm (h e (by simp))), ih fun x hx => h x (by simp [hx])]

/-! ### Canonical form -/

/-- Canonical form in words: keys above the bound and rising, no entry the default. -/
theorem wfFrom_iff [DecidableEq α] {lo : Option Nat} {m : SMap α} :
    wfFrom d lo m = true ↔ (∀ e ∈ m, ∀ a, lo = some a → a < e.1) ∧ (∀ e ∈ m, e.2 ≠ d) ∧ m.Pairwise fun x y => x.1 < y.1 := by
  induction m generalizing lo with
  | nil => simp [wfFrom]
  | cons e r ih =>
    obtain ⟨k, v⟩ := e
    simp only [wfFrom, Bool.and_eq_true, decide_eq_true_eq, ih, List.mem_cons, forall_eq_or_imp, List.pairwise_cons, Option.some.injEq,
      forall_eq']
    cases lo <;> simp <;> grind

theorem wf_iff [DecidableEq α] {m : SMap α} : wf d m = true ↔ (∀ e ∈ m, e.2 ≠ d) ∧ m.Pairwise fun x y => x.1 < y.1 := by
  simp [wf, wfFrom_iff]

/-- Leaving entries out keeps the canonical form. -/
theorem wf_filter [DecidableEq α] {m : SMap α} (p : Nat × α → Bool) (h : wf d m = true) : wf d (m.filter p) = true := by
  rw [wf_iff] at h ⊢
  exact ⟨fun e he => h.1 e (List.mem_filter.1 he).1, h.2.filter p⟩

theorem wf_without [DecidableEq α] {m : SMap α} (p : Nat → Bool) (h : wf d m = true) : wf d (without m p) = true := wf_filter _ h

theorem drop_eq_filter (m : SMap α) (n : Nat) : drop m n = m.filter fun e => decide (e.1 ≠ n) := by
  induction m with
  | nil => rfl
  | cons e r ih =>
    obtain ⟨k, v⟩ := e
    by_cases h : n = k
    · subst h; simp [drop, ih]
    · simp [drop, h, ih, Ne.symm h]

theorem mem_place {m : SMap α} {n : Nat} {v : α} {e : Nat × α} : e ∈ place m n v ↔ e = (n, v) ∨ e ∈ m := by
  induction m with
  | nil => simp [place]
  | cons x r ih =>
    simp only [place]
    split
    · simp
    · simp only [List.mem_cons, ih]; grind

/-- Putting a key keeps the canonical form. -/
theorem wf_put [DecidableEq α] {m : SMap α} (n : Nat) (v : α) (h : wf d m = true) : wf d (put d m n v) = true := by
  unfold put
  have hd : wf d (drop m n) = true := by rw [drop_eq_filter]; exact wf_filter _ h
  split
  · exact hd
  · rename_i hv
    have hn : ∀ e ∈ drop m n, e.1 ≠ n := fun e he => by rw [drop_eq_filter] at he; simpa using (List.mem_filter.1 he).2
    rw [wf_iff] at hd ⊢
    refine ⟨fun e he => (mem_place.1 he).elim (fun h => h ▸ hv) (hd.1 e), ?_⟩
    revert hn
    generalize drop m n = r at hd ⊢
    intro hn
    induction r with
    | nil => simp [place]
    | cons x r ih =>
      obtain ⟨h1, h2⟩ := List.pairwise_cons.1 hd.2
      simp only [place]
      split
      · rename_i hlt
        exact List.pairwise_cons.2 ⟨fun y hy => (List.mem_cons.1 hy).elim (fun h => h ▸ hlt) fun h => Nat.lt_trans hlt (h1 y h), hd.2⟩
      · rename_i hlt
        have := hn x (by simp)
        exact List.pairwise_cons.2 ⟨fun y hy => (mem_place.1 hy).elim (fun h => h ▸ by simp only; omega) (h1 y),
          ih ⟨fun e he => hd.1 e (by simp [he]), h2⟩ fun e he => hn e (by simp [he])⟩

/-- Entries given in rising order. -/
abbrev Rising (es : List (Nat × α)) : Prop := es.Pairwise fun x y => x.1 < y.1

theorem wf_ofRising [DecidableEq α] {es : List (Nat × α)} (h : Rising es) : wf d (ofRising d es) = true :=
  wf_iff.2 ⟨fun e he => by simpa using (List.mem_filter.1 he).2, List.Pairwise.filter _ h⟩

theorem mem_ofRising [DecidableEq α] {es : List (Nat × α)} {e : Nat × α} : e ∈ ofRising d es ↔ e ∈ es ∧ e.2 ≠ d := by
  simp [ofRising, List.mem_filter]

theorem mem_takeWhile {p : Nat × α → Bool} {es : List (Nat × α)} {e : Nat × α} (h : e ∈ es.takeWhile p) : e ∈ es ∧ p e = true := by
  induction es with
  | nil => simp at h
  | cons x r ih =>
    rw [List.takeWhile_cons] at h
    split at h
    · rename_i hx
      rcases List.mem_cons.1 h with rfl | h
      · exact ⟨by simp, hx⟩
      · exact ⟨by simp [(ih h).1], (ih h).2⟩
    · simp at h

/-- A merged map holds entries of either side, none the default. -/
theorem mem_merge [DecidableEq α] {m : SMap α} {es : List (Nat × α)} {e : Nat × α} (h : e ∈ merge d m es) : e ∈ m ∨ e ∈ es ∧ e.2 ≠ d := by
  induction m generalizing es with
  | nil => exact .inr (mem_ofRising.1 h)
  | cons x r ih =>
    obtain ⟨k, v⟩ := x
    have hsplit := List.takeWhile_append_dropWhile (p := fun e : Nat × α => decide (e.1 < k)) (l := es)
    have left : ∀ f ∈ es.takeWhile (fun e => decide (e.1 < k)), f ∈ es := fun f hf => (mem_takeWhile hf).1
    simp only [merge] at h
    split at h
    · rcases List.mem_append.1 h with h | h
      · exact .inr ⟨left e (mem_ofRising.1 h).1, (mem_ofRising.1 h).2⟩
      · exact .inl h
    · rename_i y ys hd
      rw [hd] at hsplit
      have right : ∀ f ∈ y :: ys, f ∈ es := fun f hf => by rw [← hsplit]; simp at hf ⊢; grind
      split at h
      · rcases List.mem_append.1 h with h | h
        · rcases List.mem_append.1 (mem_ofRising.1 h).1 with hb | hb
          · exact .inr ⟨left e hb, (mem_ofRising.1 h).2⟩
          · exact .inr ⟨right e (by simp at hb; simp [hb]), (mem_ofRising.1 h).2⟩
        · rcases ih h with h | h
          · exact .inl (by simp [h])
          · exact .inr ⟨right e (by simp [h.1]), h.2⟩
      · rcases List.mem_append.1 h with h | h
        · exact .inr ⟨left e (mem_ofRising.1 h).1, (mem_ofRising.1 h).2⟩
        · rcases List.mem_cons.1 h with rfl | h
          · exact .inl (by simp)
          · rcases ih h with h | h
            · exact .inl (by simp [h])
            · exact .inr ⟨right e h.1, h.2⟩

/-- How rising entries split at a key. -/
theorem split_rising {k : Nat} {es : List (Nat × α)} (h : Rising es) :
    (∀ e ∈ es.takeWhile fun e => decide (e.1 < k), e.1 < k) ∧ Rising (es.takeWhile fun e => decide (e.1 < k)) ∧
    (∀ e ∈ es.dropWhile fun e => decide (e.1 < k), k ≤ e.1) ∧ Rising (es.dropWhile fun e => decide (e.1 < k)) := by
  refine ⟨fun e he => by simpa using (mem_takeWhile he).2, h.sublist (List.takeWhile_sublist _), ?_, h.sublist (List.dropWhile_sublist _)⟩
  induction es with
  | nil => simp
  | cons x r ih =>
    obtain ⟨h1, h2⟩ := List.pairwise_cons.1 h
    intro e he
    rw [List.dropWhile_cons] at he
    split at he
    · exact ih h2 e he
    · rename_i hx
      have hx : k ≤ x.1 := by simpa using hx
      rcases List.mem_cons.1 he with rfl | he
      · exact hx
      · exact Nat.le_of_lt (Nat.lt_of_le_of_lt hx (h1 e he))

/-- Putting rising entries over a map keeps the canonical form. -/
theorem wf_merge [DecidableEq α] {m : SMap α} {es : List (Nat × α)} (h : wf d m = true) (he : Rising es) : wf d (merge d m es) = true := by
  have hne : ∀ e ∈ merge d m es, e.2 ≠ d := fun e hm => (mem_merge hm).elim (fun hm => (wf_iff.1 h).1 e hm) fun hm => hm.2
  refine wf_iff.2 ⟨hne, ?_⟩
  clear hne
  induction m generalizing es with
  | nil => exact (wf_iff.1 (wf_ofRising (d := d) he)).2
  | cons x r ih =>
    obtain ⟨k, v⟩ := x
    obtain ⟨hv, hp⟩ := wf_iff.1 h
    obtain ⟨h1, h2⟩ := List.pairwise_cons.1 hp
    have hr : wf d r = true := wf_iff.2 ⟨fun e he => hv e (by simp [he]), h2⟩
    obtain ⟨ha, hb, hc, hd'⟩ := split_rising (k := k) he
    have hof := (wf_iff.1 (wf_ofRising (d := d) hb)).2
    simp only [merge]
    split
    · exact List.pairwise_append.2 ⟨hof, hp, fun a haa b hbb => Nat.lt_of_lt_of_le (ha a (mem_ofRising.1 haa).1)
        ((List.mem_cons.1 hbb).elim (fun h => h ▸ Nat.le_refl _) fun h => Nat.le_of_lt (h1 b h))⟩
    · rename_i y ys hd
      rw [hd] at hc hd'
      obtain ⟨hy1, hy2⟩ := List.pairwise_cons.1 hd'
      split
      · rename_i hk
        refine List.pairwise_append.2 ⟨(wf_iff.1 (wf_ofRising (d := d) ?_)).2, ih hr hy2, ?_⟩
        · exact List.pairwise_append.2 ⟨hb, by simp, fun a haa b hbb => by simp at hbb; subst hbb; rw [hk]; exact ha a haa⟩
        · intro a haa b hbb
          have hle : a.1 ≤ k := by
            rcases List.mem_append.1 (mem_ofRising.1 haa).1 with h | h
            · exact Nat.le_of_lt (ha a h)
            · simp at h; subst h; exact Nat.le_of_eq hk
          refine Nat.lt_of_le_of_lt hle ?_
          rcases mem_merge hbb with h | h
          · exact h1 b h
          · rw [← hk]; exact hy1 b h.1
      · rename_i hk
        have hky : k < y.1 := by have := hc y (by simp); omega
        have hall : ∀ b ∈ merge d r (y :: ys), k < b.1 := fun b hb => by
          rcases mem_merge hb with h | h
          · exact h1 b h
          · rcases List.mem_cons.1 h.1 with rfl | h'
            · exact hky
            · exact Nat.lt_trans hky (hy1 b h')
        refine List.pairwise_append.2 ⟨hof, List.pairwise_cons.2 ⟨hall, ih hr hd'⟩, ?_⟩
        intro a haa b hbb
        refine Nat.lt_of_lt_of_le (ha a (mem_ofRising.1 haa).1) ?_
        rcases List.mem_cons.1 hbb with rfl | h
        · exact Nat.le_refl _
        · exact Nat.le_of_lt (hall b h)

theorem any_key_iff {es : List (Nat × α)} {n : Nat} : (es.any fun e => e.1 == n) = true ↔ ∃ e ∈ es, e.1 = n := by simp

theorem rising_run (n : Nat) (vs : List α) : Rising (vs.zipIdx.map fun x => (n + x.2, x.1)) := by
  rw [Rising, List.pairwise_iff_getElem]
  intro i j hi hj hij
  simp
  omega

/-- A run of values put keeps the canonical form. -/
theorem wf_putList [DecidableEq α] {m : SMap α} (n : Nat) (vs : List α) (h : wf d m = true) : wf d (putList d m n vs) = true :=
  wf_merge h (rising_run n vs)

/-! ### Reading a merged map -/

theorem get_of_mem {m : SMap α} (h : m.Pairwise fun x y => x.1 < y.1) {n : Nat} {v : α} (hm : (n, v) ∈ m) : get d m n = v := by
  induction m with
  | nil => simp at hm
  | cons e r ih =>
    obtain ⟨k, w⟩ := e
    obtain ⟨h1, h2⟩ := List.pairwise_cons.1 h
    rw [get_cons]
    rcases List.mem_cons.1 hm with he | hr
    · simp at he; simp [he]
    · rw [if_neg (Nat.ne_of_gt (h1 _ hr)), ih h2 hr]

/-- The entries of a merged map. -/
theorem mem_merge_iff [DecidableEq α] {m : SMap α} {es : List (Nat × α)} (h : wf d m = true) (he : Rising es) (e : Nat × α) :
    e ∈ merge d m es ↔ e.2 ≠ d ∧ (e ∈ es ∨ e ∈ m ∧ ∀ f ∈ es, f.1 ≠ e.1) := by
  induction m generalizing es with
  | nil => simp [merge, mem_ofRising]; grind
  | cons x r ih =>
    obtain ⟨k, v⟩ := x
    obtain ⟨hv, hp⟩ := wf_iff.1 h
    obtain ⟨h1, h2⟩ := List.pairwise_cons.1 hp
    have hr : wf d r = true := wf_iff.2 ⟨fun e he => hv e (by simp [he]), h2⟩
    obtain ⟨ha, hb, hc, hd'⟩ := split_rising (k := k) he
    have hes := (List.takeWhile_append_dropWhile (p := fun e : Nat × α => decide (e.1 < k)) (l := es))
    have hkv := hv (k, v) (by simp)
    have hvr : ∀ f ∈ r, f.2 ≠ d := fun f hf => hv f (by simp [hf])
    simp only [merge]
    split
    · rename_i hd
      rw [hd] at hes
      rw [List.mem_append, mem_ofRising, ← hes]
      simp only [List.append_nil, List.mem_cons] at *
      grind
    · rename_i y ys hd
      rw [hd] at hes hc hd'
      obtain ⟨hy1, hy2⟩ := List.pairwise_cons.1 hd'
      split
      · rename_i hk
        rw [List.mem_append, mem_ofRising, ih hr hy2, ← hes]
        simp only [List.mem_append, List.mem_cons] at *
        grind
      · rename_i hk
        rw [List.mem_append, mem_ofRising, List.mem_cons, ih hr hd', ← hes]
        simp only [List.mem_append, List.mem_cons] at *
        grind

/-- What a map reads as once rising entries have been put over it. -/
theorem get_merge [DecidableEq α] {m : SMap α} {es : List (Nat × α)} (h : wf d m = true) (he : Rising es) (n : Nat) :
    get d (merge d m es) n = if es.any (fun e => e.1 == n) then get d es n else get d m n := by
  have hw := (wf_iff.1 (wf_merge h he)).2
  split
  · rename_i hn
    obtain ⟨⟨k, v⟩, hm, hk⟩ := any_key_iff.1 hn
    simp only at hk
    subst hk
    rw [get_of_mem he hm]
    by_cases hv : v = d
    · subst hv
      refine get_eq_of_not_mem fun f hf hfk => ?_
      have := (mem_merge_iff h he f).1 hf
      rcases this.2 with h' | h'
      · have := get_of_mem (d := v) he hm
        have h2 := get_of_mem (d := v) he (n := k) (v := f.2) (by rw [← hfk]; exact h')
        grind
      · exact h'.2 _ hm hfk.symm
    · exact get_of_mem hw ((mem_merge_iff h he _).2 ⟨hv, .inl hm⟩)
  · rename_i hn
    have hn : ∀ f ∈ es, f.1 ≠ n := fun f hf hk => hn (any_key_iff.2 ⟨f, hf, hk⟩)
    by_cases hm : ∃ v, (n, v) ∈ m
    · obtain ⟨v, hm⟩ := hm
      rw [get_of_mem (wf_iff.1 h).2 hm]
      exact get_of_mem hw ((mem_merge_iff h he _).2 ⟨(wf_iff.1 h).1 _ hm, .inr ⟨hm, hn⟩⟩)
    · have hm : ∀ f ∈ m, f.1 ≠ n := fun f hf hk => hm ⟨f.2, by rw [← hk]; exact hf⟩
      rw [get_eq_of_not_mem hm]
      refine get_eq_of_not_mem fun f hf hk => ?_
      rcases ((mem_merge_iff h he f).1 hf).2 with h' | h'
      · exact hn f h' hk
      · exact hm f h'.1 hk

theorem get_run (n : Nat) (vs : List α) (k : Nat) :
    get d (vs.zipIdx.map fun x => (n + x.2, x.1)) k = if n ≤ k ∧ k < n + vs.length then (vs[k - n]?).getD d else d := by
  split
  · rename_i h
    have hk : k - n < vs.length := by omega
    rw [List.getElem?_eq_getElem hk]
    refine get_of_mem (rising_run n vs) (List.mem_map.2 ⟨(vs[k - n], k - n), ?_, by simp; omega⟩)
    rw [List.mem_zipIdx_iff_getElem?]
    simp [List.getElem?_eq_getElem hk]
  · rename_i h
    refine get_eq_of_not_mem fun e he hk => h ?_
    obtain ⟨x, hx, rfl⟩ := List.mem_map.1 he
    have := List.snd_lt_of_mem_zipIdx hx
    simp at hk this ⊢
    omega

/-- What a map reads as once a run of values has been put. -/
theorem get_putList [DecidableEq α] {m : SMap α} (n : Nat) (vs : List α) (k : Nat) (h : wf d m = true) :
    get d (putList d m n vs) k = if n ≤ k ∧ k < n + vs.length then (vs[k - n]?).getD d else get d m k := by
  unfold putList
  rw [get_merge h (rising_run n vs), get_run]
  by_cases hk : n ≤ k ∧ k < n + vs.length
  · have : (vs.zipIdx.map fun x => (n + x.2, x.1)).any (fun e => e.1 == k) = true := by
      rw [any_key_iff]
      exact ⟨(n + (k - n), vs[k - n]'(by omega)), List.mem_map.2 ⟨(vs[k - n]'(by omega), k - n), by
        rw [List.mem_zipIdx_iff_getElem?]; simp [List.getElem?_eq_getElem (show k - n < vs.length by omega)], rfl⟩, by simp; omega⟩
    rw [if_pos this, if_pos hk, if_pos hk]
  · have : ¬ (vs.zipIdx.map fun x => (n + x.2, x.1)).any (fun e => e.1 == k) = true := by
      rw [any_key_iff]
      rintro ⟨e, he, hek⟩
      obtain ⟨x, hx, rfl⟩ := List.mem_map.1 he
      have := List.snd_lt_of_mem_zipIdx hx
      simp at hek this
      omega
    rw [if_neg this, if_neg hk]

theorem get_filter (m : SMap α) (p : Nat × α → Bool) (n : Nat) (h : ∀ e ∈ m, e.1 = n → p e = true) : get d (m.filter p) n = get d m n := by
  induction m with
  | nil => rfl
  | cons e r ih =>
    obtain ⟨k, v⟩ := e
    have ih := ih fun e he => h e (by simp [he])
    rw [List.filter_cons]
    split
    · simp [get_cons, ih]
    · rename_i hp
      rw [get_cons, if_neg (fun hn => hp (h (k, v) (by simp) hn.symm)), ih]

/-- A run of values read. -/
@[simp] theorem getList_length (m : SMap α) (n len : Nat) : (getList d m n len).length = len := by simp [getList]

theorem getList_get (m : SMap α) (n len i : Nat) (h : i < len) : (getList d m n len)[i]? = some (get d m (n + i)) := by
  simp only [getList, window]
  rw [List.getElem?_map, List.getElem?_range h, Option.map_some, get_filter]
  intro e _ he
  simp
  omega

end Sys2Proof.SMap
end

