-- ==== Sys2Proof/Laws/State.lean ====
section
/-!
SUPPORT. What the named updates of the state leave in each field, and what the register operations read back.
-/

namespace Sys2Proof.Machine

/-! ### One core changed -/

namespace State

@[simp] theorem coreAt_setCore (s : State) (n k : Nat) (c : Core) : (s.setCore n c).coreAt k = if k = n then c else s.coreAt k := by
  simp [coreAt, setCore]
@[simp] theorem setCore_inputs (s : State) (n : Nat) (c : Core) : (s.setCore n c).inputs = s.inputs := rfl
@[simp] theorem setCore_cur (s : State) (n : Nat) (c : Core) : (s.setCore n c).cur = s.cur := rfl
@[simp] theorem setCore_freeCtr (s : State) (n : Nat) (c : Core) : (s.setCore n c).freeCtr = s.freeCtr := rfl
@[simp] theorem setCore_dev (s : State) (n : Nat) (c : Core) : (s.setCore n c).dev = s.dev := rfl
@[simp] theorem setCore_host (s : State) (n : Nat) (c : Core) : (s.setCore n c).host = s.host := rfl
@[simp] theorem setCore_hbm (s : State) (n : Nat) (c : Core) : (s.setCore n c).hbm = s.hbm := rfl
@[simp] theorem setCore_sched (s : State) (n : Nat) (c : Core) : (s.setCore n c).sched = s.sched := rfl
@[simp] theorem setCore_fab (s : State) (n : Nat) (c : Core) : (s.setCore n c).fab = s.fab := rfl

@[simp] theorem coreAt_onCore (s : State) (n k : Nat) (f : Core → Core) :
    (s.onCore n f).coreAt k = if k = n then f (s.coreAt n) else s.coreAt k := by simp [onCore]
@[simp] theorem onCore_inputs (s : State) (n : Nat) (f : Core → Core) : (s.onCore n f).inputs = s.inputs := rfl
@[simp] theorem onCore_cur (s : State) (n : Nat) (f : Core → Core) : (s.onCore n f).cur = s.cur := rfl
@[simp] theorem onCore_freeCtr (s : State) (n : Nat) (f : Core → Core) : (s.onCore n f).freeCtr = s.freeCtr := rfl
@[simp] theorem onCore_dev (s : State) (n : Nat) (f : Core → Core) : (s.onCore n f).dev = s.dev := rfl
@[simp] theorem onCore_host (s : State) (n : Nat) (f : Core → Core) : (s.onCore n f).host = s.host := rfl
@[simp] theorem onCore_hbm (s : State) (n : Nat) (f : Core → Core) : (s.onCore n f).hbm = s.hbm := rfl
@[simp] theorem onCore_sched (s : State) (n : Nat) (f : Core → Core) : (s.onCore n f).sched = s.sched := rfl
@[simp] theorem onCore_fab (s : State) (n : Nat) (f : Core → Core) : (s.onCore n f).fab = s.fab := rfl

@[simp] theorem core_on (s : State) (f : Core → Core) : (s.on f).core = f s.core := by simp [on, core]
theorem coreAt_on (s : State) (n : Nat) (f : Core → Core) : (s.on f).coreAt n = if n = s.cur then f s.core else s.coreAt n := by
  simp [on, core]
@[simp] theorem on_inputs (s : State) (f : Core → Core) : (s.on f).inputs = s.inputs := rfl
@[simp] theorem on_cur (s : State) (f : Core → Core) : (s.on f).cur = s.cur := rfl
@[simp] theorem on_freeCtr (s : State) (f : Core → Core) : (s.on f).freeCtr = s.freeCtr := rfl
@[simp] theorem on_dev (s : State) (f : Core → Core) : (s.on f).dev = s.dev := rfl
@[simp] theorem on_host (s : State) (f : Core → Core) : (s.on f).host = s.host := rfl
@[simp] theorem on_hbm (s : State) (f : Core → Core) : (s.on f).hbm = s.hbm := rfl
@[simp] theorem on_sched (s : State) (f : Core → Core) : (s.on f).sched = s.sched := rfl
@[simp] theorem on_fab (s : State) (f : Core → Core) : (s.on f).fab = s.fab := rfl

/-- Two changes of one core are one. -/
theorem setCore_setCore (s : State) (n : Nat) (c d : Core) : (s.setCore n c).setCore n d = s.setCore n d := by simp [setCore]
theorem on_on (s : State) (f g : Core → Core) : (s.on f).on g = s.on fun c => g (f c) := by
  simp [on, onCore, setCore_setCore]

/-- Device memory reads from `hbm` alone. -/
theorem byteAt_congr {s t : State} (h : t.hbm = s.hbm) (o a : Nat) : t.byteAt o a = s.byteAt o a := by
  simp only [byteAt, heldByte, physAddr, physGrain, State.obj, hbmByte, h]

@[simp] theorem byteAt_on (s : State) (f : Core → Core) (o a : Nat) : (s.on f).byteAt o a = s.byteAt o a := byteAt_congr rfl o a
@[simp] theorem byteAt_onCore (s : State) (n : Nat) (f : Core → Core) (o a : Nat) : (s.onCore n f).byteAt o a = s.byteAt o a :=
  byteAt_congr rfl o a

/-! ### The tables of the scheduler and of memory -/

@[simp] theorem tenant_setTenant (s : State) (t k : Nat) (v : Tenant) : (s.setTenant t v).tenant k = if k = t then v else s.tenant k := by
  simp [tenant, setTenant]
@[simp] theorem setTenant_cores (s : State) (t : Nat) (v : Tenant) : (s.setTenant t v).cores = s.cores := rfl
@[simp] theorem setTenant_hbm (s : State) (t : Nat) (v : Tenant) : (s.setTenant t v).hbm = s.hbm := rfl
@[simp] theorem setTenant_dev (s : State) (t : Nat) (v : Tenant) : (s.setTenant t v).dev = s.dev := rfl

@[simp] theorem obj_setObj (s : State) (o k : Nat) (v : Option Obj) : (s.setObj o v).obj k = if k = o then v else s.obj k := by
  simp [obj, setObj]
@[simp] theorem setObj_cores (s : State) (o : Nat) (v : Option Obj) : (s.setObj o v).cores = s.cores := rfl
@[simp] theorem setObj_mem (s : State) (o : Nat) (v : Option Obj) : (s.setObj o v).hbm.mem = s.hbm.mem := rfl
@[simp] theorem setObj_dev (s : State) (o : Nat) (v : Option Obj) : (s.setObj o v).dev = s.dev := rfl

@[simp] theorem launch_setLaunch (s : State) (l k : Nat) (v : Option Launch) :
    (s.setLaunch l v).launch k = if k = l then v else s.launch k := by simp [launch, setLaunch]
@[simp] theorem setLaunch_cores (s : State) (l : Nat) (v : Option Launch) : (s.setLaunch l v).cores = s.cores := rfl
@[simp] theorem setLaunch_hbm (s : State) (l : Nat) (v : Option Launch) : (s.setLaunch l v).hbm = s.hbm := rfl
@[simp] theorem setLaunch_dev (s : State) (l : Nat) (v : Option Launch) : (s.setLaunch l v).dev = s.dev := rfl

@[simp] theorem team_setTeam (s : State) (t k : Nat) (v : Option Team) : (s.setTeam t v).team k = if k = t then v else s.team k := by
  simp [team, setTeam]
@[simp] theorem setTeam_cores (s : State) (t : Nat) (v : Option Team) : (s.setTeam t v).cores = s.cores := rfl
@[simp] theorem setTeam_hbm (s : State) (t : Nat) (v : Option Team) : (s.setTeam t v).hbm = s.hbm := rfl
@[simp] theorem setTeam_dev (s : State) (t : Nat) (v : Option Team) : (s.setTeam t v).dev = s.dev := rfl

@[simp] theorem partition_setPartition (s : State) (d k : Nat) (v : Partition) :
    (s.setPartition d v).partition k = if k = d then v else s.partition k := by simp [partition, setPartition]
@[simp] theorem setPartition_cores (s : State) (d : Nat) (v : Partition) : (s.setPartition d v).cores = s.cores := rfl
@[simp] theorem setPartition_hbm (s : State) (d : Nat) (v : Partition) : (s.setPartition d v).hbm = s.hbm := rfl

@[simp] theorem hostFn_setFn (s : State) (f k : Nat) (v : HostFn) : (s.setFn f v).hostFn k = if k = f then v else s.hostFn k := by
  simp [hostFn, setFn]
@[simp] theorem setFn_cores (s : State) (f : Nat) (v : HostFn) : (s.setFn f v).cores = s.cores := rfl
@[simp] theorem setFn_hbm (s : State) (f : Nat) (v : HostFn) : (s.setFn f v).hbm = s.hbm := rfl
@[simp] theorem setFn_dev (s : State) (f : Nat) (v : HostFn) : (s.setFn f v).dev = s.dev := rfl
@[simp] theorem setFn_sched (s : State) (f : Nat) (v : HostFn) : (s.setFn f v).sched = s.sched := rfl

@[simp] theorem countFn_cores (s : State) (f i : Nat) : (s.countFn f i).cores = s.cores := rfl
@[simp] theorem countFn_hbm (s : State) (f i : Nat) : (s.countFn f i).hbm = s.hbm := rfl
@[simp] theorem countFn_dev (s : State) (f i : Nat) : (s.countFn f i).dev = s.dev := rfl

@[simp] theorem draw_cores (s : State) : s.draw.2.cores = s.cores := rfl
@[simp] theorem draw_hbm (s : State) : s.draw.2.hbm = s.hbm := rfl

/-! ### What other chips owe (R362, R402), and the scheduler cores (R131, R135) -/

@[simp] theorem dropAsks_inputs (s : State) (n party : Nat) (role : AskRole) : (s.dropAsks n party role).inputs = s.inputs := rfl
@[simp] theorem dropAsks_cur (s : State) (n party : Nat) (role : AskRole) : (s.dropAsks n party role).cur = s.cur := rfl
@[simp] theorem dropAsks_freeCtr (s : State) (n party : Nat) (role : AskRole) : (s.dropAsks n party role).freeCtr = s.freeCtr := rfl
@[simp] theorem dropAsks_dev (s : State) (n party : Nat) (role : AskRole) : (s.dropAsks n party role).dev = s.dev := rfl
@[simp] theorem dropAsks_host (s : State) (n party : Nat) (role : AskRole) : (s.dropAsks n party role).host = s.host := rfl
@[simp] theorem dropAsks_hbm (s : State) (n party : Nat) (role : AskRole) : (s.dropAsks n party role).hbm = s.hbm := rfl
@[simp] theorem dropAsks_sched (s : State) (n party : Nat) (role : AskRole) : (s.dropAsks n party role).sched = s.sched := rfl
@[simp] theorem dropAsks_cores (s : State) (n party : Nat) (role : AskRole) : (s.dropAsks n party role).cores = s.cores := rfl
@[simp] theorem takeAsk_inputs (s : State) (obj off : Nat) (op : RemOp) : (s.takeAsk obj off op).inputs = s.inputs := rfl
@[simp] theorem takeAsk_cur (s : State) (obj off : Nat) (op : RemOp) : (s.takeAsk obj off op).cur = s.cur := rfl
@[simp] theorem takeAsk_freeCtr (s : State) (obj off : Nat) (op : RemOp) : (s.takeAsk obj off op).freeCtr = s.freeCtr := rfl
@[simp] theorem takeAsk_dev (s : State) (obj off : Nat) (op : RemOp) : (s.takeAsk obj off op).dev = s.dev := rfl
@[simp] theorem takeAsk_host (s : State) (obj off : Nat) (op : RemOp) : (s.takeAsk obj off op).host = s.host := rfl
@[simp] theorem takeAsk_hbm (s : State) (obj off : Nat) (op : RemOp) : (s.takeAsk obj off op).hbm = s.hbm := rfl
@[simp] theorem takeAsk_sched (s : State) (obj off : Nat) (op : RemOp) : (s.takeAsk obj off op).sched = s.sched := rfl
@[simp] theorem takeAsk_cores (s : State) (obj off : Nat) (op : RemOp) : (s.takeAsk obj off op).cores = s.cores := rfl
@[simp] theorem answerAsk_inputs (s : State) (f : FlowId) (seq : BitVec 32) (cause : BitVec 8) (data : Bytes) : (s.answerAsk f seq cause data).inputs = s.inputs := rfl
@[simp] theorem answerAsk_cur (s : State) (f : FlowId) (seq : BitVec 32) (cause : BitVec 8) (data : Bytes) : (s.answerAsk f seq cause data).cur = s.cur := rfl
@[simp] theorem answerAsk_freeCtr (s : State) (f : FlowId) (seq : BitVec 32) (cause : BitVec 8) (data : Bytes) : (s.answerAsk f seq cause data).freeCtr = s.freeCtr := rfl
@[simp] theorem answerAsk_dev (s : State) (f : FlowId) (seq : BitVec 32) (cause : BitVec 8) (data : Bytes) : (s.answerAsk f seq cause data).dev = s.dev := rfl
@[simp] theorem answerAsk_host (s : State) (f : FlowId) (seq : BitVec 32) (cause : BitVec 8) (data : Bytes) : (s.answerAsk f seq cause data).host = s.host := rfl
@[simp] theorem answerAsk_hbm (s : State) (f : FlowId) (seq : BitVec 32) (cause : BitVec 8) (data : Bytes) : (s.answerAsk f seq cause data).hbm = s.hbm := rfl
@[simp] theorem answerAsk_sched (s : State) (f : FlowId) (seq : BitVec 32) (cause : BitVec 8) (data : Bytes) : (s.answerAsk f seq cause data).sched = s.sched := rfl
@[simp] theorem answerAsk_cores (s : State) (f : FlowId) (seq : BitVec 32) (cause : BitVec 8) (data : Bytes) : (s.answerAsk f seq cause data).cores = s.cores := rfl
@[simp] theorem orphanFar_inputs (s : State) (n : Nat) : (s.orphanFar n).inputs = s.inputs := rfl
@[simp] theorem orphanFar_cur (s : State) (n : Nat) : (s.orphanFar n).cur = s.cur := rfl
@[simp] theorem orphanFar_freeCtr (s : State) (n : Nat) : (s.orphanFar n).freeCtr = s.freeCtr := rfl
@[simp] theorem orphanFar_dev (s : State) (n : Nat) : (s.orphanFar n).dev = s.dev := rfl
@[simp] theorem orphanFar_host (s : State) (n : Nat) : (s.orphanFar n).host = s.host := rfl
@[simp] theorem orphanFar_hbm (s : State) (n : Nat) : (s.orphanFar n).hbm = s.hbm := rfl
@[simp] theorem orphanFar_sched (s : State) (n : Nat) : (s.orphanFar n).sched = s.sched := rfl
@[simp] theorem orphanFar_cores (s : State) (n : Nat) : (s.orphanFar n).cores = s.cores := rfl
@[simp] theorem leaveFar_inputs (s : State) (n : Nat) (seq : BitVec 32) : (s.leaveFar n seq).inputs = s.inputs := rfl
@[simp] theorem leaveFar_cur (s : State) (n : Nat) (seq : BitVec 32) : (s.leaveFar n seq).cur = s.cur := rfl
@[simp] theorem leaveFar_freeCtr (s : State) (n : Nat) (seq : BitVec 32) : (s.leaveFar n seq).freeCtr = s.freeCtr := rfl
@[simp] theorem leaveFar_dev (s : State) (n : Nat) (seq : BitVec 32) : (s.leaveFar n seq).dev = s.dev := rfl
@[simp] theorem leaveFar_host (s : State) (n : Nat) (seq : BitVec 32) : (s.leaveFar n seq).host = s.host := rfl
@[simp] theorem leaveFar_hbm (s : State) (n : Nat) (seq : BitVec 32) : (s.leaveFar n seq).hbm = s.hbm := rfl
@[simp] theorem leaveFar_sched (s : State) (n : Nat) (seq : BitVec 32) : (s.leaveFar n seq).sched = s.sched := rfl
@[simp] theorem leaveFar_cores (s : State) (n : Nat) (seq : BitVec 32) : (s.leaveFar n seq).cores = s.cores := rfl
@[simp] theorem setFlowOut_inputs (s : State) (o : FlowOut) : (s.setFlowOut o).inputs = s.inputs := rfl
@[simp] theorem setFlowOut_cur (s : State) (o : FlowOut) : (s.setFlowOut o).cur = s.cur := rfl
@[simp] theorem setFlowOut_freeCtr (s : State) (o : FlowOut) : (s.setFlowOut o).freeCtr = s.freeCtr := rfl
@[simp] theorem setFlowOut_dev (s : State) (o : FlowOut) : (s.setFlowOut o).dev = s.dev := rfl
@[simp] theorem setFlowOut_host (s : State) (o : FlowOut) : (s.setFlowOut o).host = s.host := rfl
@[simp] theorem setFlowOut_hbm (s : State) (o : FlowOut) : (s.setFlowOut o).hbm = s.hbm := rfl
@[simp] theorem setFlowOut_sched (s : State) (o : FlowOut) : (s.setFlowOut o).sched = s.sched := rfl
@[simp] theorem setFlowOut_cores (s : State) (o : FlowOut) : (s.setFlowOut o).cores = s.cores := rfl
@[simp] theorem startMonitor_inputs (s : State) : s.startMonitor.inputs = s.inputs := by simp only [startMonitor]
@[simp] theorem startMonitor_cur (s : State) : s.startMonitor.cur = s.cur := by simp only [startMonitor]
@[simp] theorem startMonitor_freeCtr (s : State) : s.startMonitor.freeCtr = s.freeCtr := by simp only [startMonitor]
@[simp] theorem startMonitor_host (s : State) : s.startMonitor.host = s.host := by simp only [startMonitor]
@[simp] theorem startMonitor_hbm (s : State) : s.startMonitor.hbm = s.hbm := by simp only [startMonitor]
@[simp] theorem startMonitor_sched (s : State) : s.startMonitor.sched = s.sched := by simp only [startMonitor]
@[simp] theorem startMonitor_cores (s : State) : s.startMonitor.cores = s.cores := by simp only [startMonitor]
@[simp] theorem startMonitor_fab (s : State) : s.startMonitor.fab = s.fab := by simp only [startMonitor]
@[simp] theorem setPluginPmp_inputs (s : State) (t : Nat) : (s.setPluginPmp t).inputs = s.inputs := by simp only [setPluginPmp]
@[simp] theorem setPluginPmp_cur (s : State) (t : Nat) : (s.setPluginPmp t).cur = s.cur := by simp only [setPluginPmp]
@[simp] theorem setPluginPmp_freeCtr (s : State) (t : Nat) : (s.setPluginPmp t).freeCtr = s.freeCtr := by simp only [setPluginPmp]
@[simp] theorem setPluginPmp_host (s : State) (t : Nat) : (s.setPluginPmp t).host = s.host := by simp only [setPluginPmp]
@[simp] theorem setPluginPmp_hbm (s : State) (t : Nat) : (s.setPluginPmp t).hbm = s.hbm := by simp only [setPluginPmp]
@[simp] theorem setPluginPmp_sched (s : State) (t : Nat) : (s.setPluginPmp t).sched = s.sched := by simp only [setPluginPmp]
@[simp] theorem setPluginPmp_cores (s : State) (t : Nat) : (s.setPluginPmp t).cores = s.cores := by simp only [setPluginPmp]
@[simp] theorem setPluginPmp_fab (s : State) (t : Nat) : (s.setPluginPmp t).fab = s.fab := by simp only [setPluginPmp]

/-! ### Bytes of device memory -/

@[simp] theorem setHbmBytes_cores (s : State) (a : Nat) (bs : List Byte) : (s.setHbmBytes a bs).cores = s.cores := rfl
@[simp] theorem setHbmBytes_objs (s : State) (a : Nat) (bs : List Byte) : (s.setHbmBytes a bs).hbm.objs = s.hbm.objs := rfl

/-- What a byte reads as once a run of bytes has been written. -/
theorem hbmByte_setHbmBytes (s : State) (a k : Nat) (bs : List Byte) (h : Memory.wf s.hbm.mem = true) :
    (s.setHbmBytes a bs).hbmByte k = if a ≤ k ∧ k < a + bs.length then (bs[k - a]?).getD 0 else s.hbmByte k :=
  SMap.get_putList a bs k h

/-- Writing bytes keeps the canonical form. -/
theorem wf_setHbmBytes (s : State) (a : Nat) (bs : List Byte) (h : Memory.wf s.hbm.mem = true) : Memory.wf (s.setHbmBytes a bs).hbm.mem = true :=
  SMap.wf_putList a bs h

end State

/-! ### Registers -/

namespace Core

/-! Each write changes one register file. -/

theorem ws_eq (c : Core) (d : SReg) (v : Word) : c.ws d v = { c with regs := { c.regs with s := (c.ws d v).regs.s } } := by
  unfold ws; split <;> rfl
theorem wp_eq (c : Core) (d : PReg) (v : Bool) : c.wp d v = { c with regs := { c.regs with p := (c.wp d v).regs.p } } := by
  unfold wp; split <;> rfl
theorem wm_eq (c : Core) (d : MReg) (v : Mask) : c.wm d v = { c with regs := { c.regs with m := (c.wm d v).regs.m } } := by
  unfold wm; split <;> rfl
theorem wc_eq (c : Core) (d : CReg) (v : Cap) : c.wc d v = { c with regs := { c.regs with c := (c.wc d v).regs.c } } := rfl
theorem wg_eq (c : Core) (d : GReg) (v : Word) : c.wg d v = { c with regs := { c.regs with g := (c.wg d v).regs.g } } := rfl
theorem wb_eq (c : Core) (d : BReg) (v : BitVec 48) : c.wb d v = { c with regs := { c.regs with b := (c.wb d v).regs.b } } := rfl

/-! What each register file reads as after a write to another, and the rest of the core. -/

@[simp] theorem rp_ws (c : Core) (d : SReg) (v : Word) (r : PReg) : (c.ws d v).rp r = c.rp r := by rw [ws_eq]; rfl
@[simp] theorem rm_ws (c : Core) (d : SReg) (v : Word) (r : MReg) : (c.ws d v).rm r = c.rm r := by rw [ws_eq]; rfl
@[simp] theorem rc_ws (c : Core) (d : SReg) (v : Word) (r : CReg) : (c.ws d v).rc r = c.rc r := by rw [ws_eq]; rfl
@[simp] theorem rg_ws (c : Core) (d : SReg) (v : Word) (r : GReg) : (c.ws d v).rg r = c.rg r := by rw [ws_eq]; rfl
@[simp] theorem rb_ws (c : Core) (d : SReg) (v : Word) (r : BReg) : (c.ws d v).rb r = c.rb r := by rw [ws_eq]; rfl
@[simp] theorem rv_ws (c : Core) (d : SReg) (v : Word) (r : VReg) : (c.ws d v).rv r = c.rv r := by rw [ws_eq]; rfl
@[simp] theorem ws_sp (c : Core) (d : SReg) (v : Word) : (c.ws d v).sp = c.sp := by rw [ws_eq]
@[simp] theorem ws_eng (c : Core) (d : SReg) (v : Word) : (c.ws d v).eng = c.eng := by rw [ws_eq]
@[simp] theorem ws_board (c : Core) (d : SReg) (v : Word) : (c.ws d v).board = c.board := by rw [ws_eq]
@[simp] theorem ws_acc (c : Core) (d : SReg) (v : Word) : (c.ws d v).acc = c.acc := by rw [ws_eq]
@[simp] theorem ws_grp (c : Core) (d : SReg) (v : Word) : (c.ws d v).grp = c.grp := by rw [ws_eq]
@[simp] theorem ws_pc (c : Core) (d : SReg) (v : Word) : (c.ws d v).pc = c.pc := by rw [ws_eq]
@[simp] theorem ws_groups (c : Core) (d : SReg) (v : Word) : (c.ws d v).groups = c.groups := by rw [ws_eq]
@[simp] theorem ws_run (c : Core) (d : SReg) (v : Word) : (c.ws d v).run = c.run := by rw [ws_eq]
@[simp] theorem ws_wait (c : Core) (d : SReg) (v : Word) : (c.ws d v).wait = c.wait := by rw [ws_eq]
@[simp] theorem ws_reds (c : Core) (d : SReg) (v : Word) : (c.ws d v).reds = c.reds := by rw [ws_eq]
@[simp] theorem ws_team (c : Core) (d : SReg) (v : Word) : (c.ws d v).team = c.team := by rw [ws_eq]
@[simp] theorem ws_code (c : Core) (d : SReg) (v : Word) : (c.ws d v).code = c.code := by rw [ws_eq]
@[simp] theorem rs_wp (c : Core) (d : PReg) (v : Bool) (r : SReg) : (c.wp d v).rs r = c.rs r := by rw [wp_eq]; rfl
@[simp] theorem rm_wp (c : Core) (d : PReg) (v : Bool) (r : MReg) : (c.wp d v).rm r = c.rm r := by rw [wp_eq]; rfl
@[simp] theorem rc_wp (c : Core) (d : PReg) (v : Bool) (r : CReg) : (c.wp d v).rc r = c.rc r := by rw [wp_eq]; rfl
@[simp] theorem rg_wp (c : Core) (d : PReg) (v : Bool) (r : GReg) : (c.wp d v).rg r = c.rg r := by rw [wp_eq]; rfl
@[simp] theorem rb_wp (c : Core) (d : PReg) (v : Bool) (r : BReg) : (c.wp d v).rb r = c.rb r := by rw [wp_eq]; rfl
@[simp] theorem rv_wp (c : Core) (d : PReg) (v : Bool) (r : VReg) : (c.wp d v).rv r = c.rv r := by rw [wp_eq]; rfl
@[simp] theorem wp_sp (c : Core) (d : PReg) (v : Bool) : (c.wp d v).sp = c.sp := by rw [wp_eq]
@[simp] theorem wp_eng (c : Core) (d : PReg) (v : Bool) : (c.wp d v).eng = c.eng := by rw [wp_eq]
@[simp] theorem wp_board (c : Core) (d : PReg) (v : Bool) : (c.wp d v).board = c.board := by rw [wp_eq]
@[simp] theorem wp_acc (c : Core) (d : PReg) (v : Bool) : (c.wp d v).acc = c.acc := by rw [wp_eq]
@[simp] theorem wp_grp (c : Core) (d : PReg) (v : Bool) : (c.wp d v).grp = c.grp := by rw [wp_eq]
@[simp] theorem wp_pc (c : Core) (d : PReg) (v : Bool) : (c.wp d v).pc = c.pc := by rw [wp_eq]
@[simp] theorem wp_groups (c : Core) (d : PReg) (v : Bool) : (c.wp d v).groups = c.groups := by rw [wp_eq]
@[simp] theorem wp_run (c : Core) (d : PReg) (v : Bool) : (c.wp d v).run = c.run := by rw [wp_eq]
@[simp] theorem wp_wait (c : Core) (d : PReg) (v : Bool) : (c.wp d v).wait = c.wait := by rw [wp_eq]
@[simp] theorem wp_reds (c : Core) (d : PReg) (v : Bool) : (c.wp d v).reds = c.reds := by rw [wp_eq]
@[simp] theorem wp_team (c : Core) (d : PReg) (v : Bool) : (c.wp d v).team = c.team := by rw [wp_eq]
@[simp] theorem wp_code (c : Core) (d : PReg) (v : Bool) : (c.wp d v).code = c.code := by rw [wp_eq]
@[simp] theorem rs_wm (c : Core) (d : MReg) (v : Mask) (r : SReg) : (c.wm d v).rs r = c.rs r := by rw [wm_eq]; rfl
@[simp] theorem rp_wm (c : Core) (d : MReg) (v : Mask) (r : PReg) : (c.wm d v).rp r = c.rp r := by rw [wm_eq]; rfl
@[simp] theorem rc_wm (c : Core) (d : MReg) (v : Mask) (r : CReg) : (c.wm d v).rc r = c.rc r := by rw [wm_eq]; rfl
@[simp] theorem rg_wm (c : Core) (d : MReg) (v : Mask) (r : GReg) : (c.wm d v).rg r = c.rg r := by rw [wm_eq]; rfl
@[simp] theorem rb_wm (c : Core) (d : MReg) (v : Mask) (r : BReg) : (c.wm d v).rb r = c.rb r := by rw [wm_eq]; rfl
@[simp] theorem rv_wm (c : Core) (d : MReg) (v : Mask) (r : VReg) : (c.wm d v).rv r = c.rv r := by rw [wm_eq]; rfl
@[simp] theorem wm_sp (c : Core) (d : MReg) (v : Mask) : (c.wm d v).sp = c.sp := by rw [wm_eq]
@[simp] theorem wm_eng (c : Core) (d : MReg) (v : Mask) : (c.wm d v).eng = c.eng := by rw [wm_eq]
@[simp] theorem wm_board (c : Core) (d : MReg) (v : Mask) : (c.wm d v).board = c.board := by rw [wm_eq]
@[simp] theorem wm_acc (c : Core) (d : MReg) (v : Mask) : (c.wm d v).acc = c.acc := by rw [wm_eq]
@[simp] theorem wm_grp (c : Core) (d : MReg) (v : Mask) : (c.wm d v).grp = c.grp := by rw [wm_eq]
@[simp] theorem wm_pc (c : Core) (d : MReg) (v : Mask) : (c.wm d v).pc = c.pc := by rw [wm_eq]
@[simp] theorem wm_groups (c : Core) (d : MReg) (v : Mask) : (c.wm d v).groups = c.groups := by rw [wm_eq]
@[simp] theorem wm_run (c : Core) (d : MReg) (v : Mask) : (c.wm d v).run = c.run := by rw [wm_eq]
@[simp] theorem wm_wait (c : Core) (d : MReg) (v : Mask) : (c.wm d v).wait = c.wait := by rw [wm_eq]
@[simp] theorem wm_reds (c : Core) (d : MReg) (v : Mask) : (c.wm d v).reds = c.reds := by rw [wm_eq]
@[simp] theorem wm_team (c : Core) (d : MReg) (v : Mask) : (c.wm d v).team = c.team := by rw [wm_eq]
@[simp] theorem wm_code (c : Core) (d : MReg) (v : Mask) : (c.wm d v).code = c.code := by rw [wm_eq]
@[simp] theorem rs_wc (c : Core) (d : CReg) (v : Cap) (r : SReg) : (c.wc d v).rs r = c.rs r := by rw [wc_eq]; rfl
@[simp] theorem rp_wc (c : Core) (d : CReg) (v : Cap) (r : PReg) : (c.wc d v).rp r = c.rp r := by rw [wc_eq]; rfl
@[simp] theorem rm_wc (c : Core) (d : CReg) (v : Cap) (r : MReg) : (c.wc d v).rm r = c.rm r := by rw [wc_eq]; rfl
@[simp] theorem rg_wc (c : Core) (d : CReg) (v : Cap) (r : GReg) : (c.wc d v).rg r = c.rg r := by rw [wc_eq]; rfl
@[simp] theorem rb_wc (c : Core) (d : CReg) (v : Cap) (r : BReg) : (c.wc d v).rb r = c.rb r := by rw [wc_eq]; rfl
@[simp] theorem rv_wc (c : Core) (d : CReg) (v : Cap) (r : VReg) : (c.wc d v).rv r = c.rv r := by rw [wc_eq]; rfl
@[simp] theorem wc_sp (c : Core) (d : CReg) (v : Cap) : (c.wc d v).sp = c.sp := by rw [wc_eq]
@[simp] theorem wc_eng (c : Core) (d : CReg) (v : Cap) : (c.wc d v).eng = c.eng := by rw [wc_eq]
@[simp] theorem wc_board (c : Core) (d : CReg) (v : Cap) : (c.wc d v).board = c.board := by rw [wc_eq]
@[simp] theorem wc_acc (c : Core) (d : CReg) (v : Cap) : (c.wc d v).acc = c.acc := by rw [wc_eq]
@[simp] theorem wc_grp (c : Core) (d : CReg) (v : Cap) : (c.wc d v).grp = c.grp := by rw [wc_eq]
@[simp] theorem wc_pc (c : Core) (d : CReg) (v : Cap) : (c.wc d v).pc = c.pc := by rw [wc_eq]
@[simp] theorem wc_groups (c : Core) (d : CReg) (v : Cap) : (c.wc d v).groups = c.groups := by rw [wc_eq]
@[simp] theorem wc_run (c : Core) (d : CReg) (v : Cap) : (c.wc d v).run = c.run := by rw [wc_eq]
@[simp] theorem wc_wait (c : Core) (d : CReg) (v : Cap) : (c.wc d v).wait = c.wait := by rw [wc_eq]
@[simp] theorem wc_reds (c : Core) (d : CReg) (v : Cap) : (c.wc d v).reds = c.reds := by rw [wc_eq]
@[simp] theorem wc_team (c : Core) (d : CReg) (v : Cap) : (c.wc d v).team = c.team := by rw [wc_eq]
@[simp] theorem wc_code (c : Core) (d : CReg) (v : Cap) : (c.wc d v).code = c.code := by rw [wc_eq]
@[simp] theorem rs_wg (c : Core) (d : GReg) (v : Word) (r : SReg) : (c.wg d v).rs r = c.rs r := by rw [wg_eq]; rfl
@[simp] theorem rp_wg (c : Core) (d : GReg) (v : Word) (r : PReg) : (c.wg d v).rp r = c.rp r := by rw [wg_eq]; rfl
@[simp] theorem rm_wg (c : Core) (d : GReg) (v : Word) (r : MReg) : (c.wg d v).rm r = c.rm r := by rw [wg_eq]; rfl
@[simp] theorem rc_wg (c : Core) (d : GReg) (v : Word) (r : CReg) : (c.wg d v).rc r = c.rc r := by rw [wg_eq]; rfl
@[simp] theorem rb_wg (c : Core) (d : GReg) (v : Word) (r : BReg) : (c.wg d v).rb r = c.rb r := by rw [wg_eq]; rfl
@[simp] theorem rv_wg (c : Core) (d : GReg) (v : Word) (r : VReg) : (c.wg d v).rv r = c.rv r := by rw [wg_eq]; rfl
@[simp] theorem wg_sp (c : Core) (d : GReg) (v : Word) : (c.wg d v).sp = c.sp := by rw [wg_eq]
@[simp] theorem wg_eng (c : Core) (d : GReg) (v : Word) : (c.wg d v).eng = c.eng := by rw [wg_eq]
@[simp] theorem wg_board (c : Core) (d : GReg) (v : Word) : (c.wg d v).board = c.board := by rw [wg_eq]
@[simp] theorem wg_acc (c : Core) (d : GReg) (v : Word) : (c.wg d v).acc = c.acc := by rw [wg_eq]
@[simp] theorem wg_grp (c : Core) (d : GReg) (v : Word) : (c.wg d v).grp = c.grp := by rw [wg_eq]
@[simp] theorem wg_pc (c : Core) (d : GReg) (v : Word) : (c.wg d v).pc = c.pc := by rw [wg_eq]
@[simp] theorem wg_groups (c : Core) (d : GReg) (v : Word) : (c.wg d v).groups = c.groups := by rw [wg_eq]
@[simp] theorem wg_run (c : Core) (d : GReg) (v : Word) : (c.wg d v).run = c.run := by rw [wg_eq]
@[simp] theorem wg_wait (c : Core) (d : GReg) (v : Word) : (c.wg d v).wait = c.wait := by rw [wg_eq]
@[simp] theorem wg_reds (c : Core) (d : GReg) (v : Word) : (c.wg d v).reds = c.reds := by rw [wg_eq]
@[simp] theorem wg_team (c : Core) (d : GReg) (v : Word) : (c.wg d v).team = c.team := by rw [wg_eq]
@[simp] theorem wg_code (c : Core) (d : GReg) (v : Word) : (c.wg d v).code = c.code := by rw [wg_eq]
@[simp] theorem rs_wb (c : Core) (d : BReg) (v : BitVec 48) (r : SReg) : (c.wb d v).rs r = c.rs r := by rw [wb_eq]; rfl
@[simp] theorem rp_wb (c : Core) (d : BReg) (v : BitVec 48) (r : PReg) : (c.wb d v).rp r = c.rp r := by rw [wb_eq]; rfl
@[simp] theorem rm_wb (c : Core) (d : BReg) (v : BitVec 48) (r : MReg) : (c.wb d v).rm r = c.rm r := by rw [wb_eq]; rfl
@[simp] theorem rc_wb (c : Core) (d : BReg) (v : BitVec 48) (r : CReg) : (c.wb d v).rc r = c.rc r := by rw [wb_eq]; rfl
@[simp] theorem rg_wb (c : Core) (d : BReg) (v : BitVec 48) (r : GReg) : (c.wb d v).rg r = c.rg r := by rw [wb_eq]; rfl
@[simp] theorem rv_wb (c : Core) (d : BReg) (v : BitVec 48) (r : VReg) : (c.wb d v).rv r = c.rv r := by rw [wb_eq]; rfl
@[simp] theorem wb_sp (c : Core) (d : BReg) (v : BitVec 48) : (c.wb d v).sp = c.sp := by rw [wb_eq]
@[simp] theorem wb_eng (c : Core) (d : BReg) (v : BitVec 48) : (c.wb d v).eng = c.eng := by rw [wb_eq]
@[simp] theorem wb_board (c : Core) (d : BReg) (v : BitVec 48) : (c.wb d v).board = c.board := by rw [wb_eq]
@[simp] theorem wb_acc (c : Core) (d : BReg) (v : BitVec 48) : (c.wb d v).acc = c.acc := by rw [wb_eq]
@[simp] theorem wb_grp (c : Core) (d : BReg) (v : BitVec 48) : (c.wb d v).grp = c.grp := by rw [wb_eq]
@[simp] theorem wb_pc (c : Core) (d : BReg) (v : BitVec 48) : (c.wb d v).pc = c.pc := by rw [wb_eq]
@[simp] theorem wb_groups (c : Core) (d : BReg) (v : BitVec 48) : (c.wb d v).groups = c.groups := by rw [wb_eq]
@[simp] theorem wb_run (c : Core) (d : BReg) (v : BitVec 48) : (c.wb d v).run = c.run := by rw [wb_eq]
@[simp] theorem wb_wait (c : Core) (d : BReg) (v : BitVec 48) : (c.wb d v).wait = c.wait := by rw [wb_eq]
@[simp] theorem wb_reds (c : Core) (d : BReg) (v : BitVec 48) : (c.wb d v).reds = c.reds := by rw [wb_eq]
@[simp] theorem wb_team (c : Core) (d : BReg) (v : BitVec 48) : (c.wb d v).team = c.team := by rw [wb_eq]
@[simp] theorem wb_code (c : Core) (d : BReg) (v : BitVec 48) : (c.wb d v).code = c.code := by rw [wb_eq]

/-! What a register reads as after a write to its own file (R162). -/

@[simp] theorem rs_ws (c : Core) (d r : SReg) (v : Word) : (c.ws d v).rs r = if r = d then (if d.val = 0 then 0 else v) else c.rs r := by
  unfold ws rs
  by_cases hr : r = d
  · subst hr; by_cases h : r.val = 0 <;> simp only [h, if_true, if_false, SMap.get_put]
  · have : ¬ r.val = d.val := fun e => hr (Fin.ext e)
    by_cases h : d.val = 0 <;> simp only [h, hr, this, if_true, if_false, SMap.get_put]

theorem getLsbD_setBit {n : Nat} (p : BitVec n) (i k : Nat) (v : Bool) (h : k < n) :
    (Bits.setBit p i v).getLsbD k = if k = i then v else p.getLsbD k := by
  have one : ∀ j : Nat, (BitVec.allOnes 1).getLsbD j = decide (j = 0) := by intro j; simp
  have val : ∀ j : Nat, (BitVec.ofBool v).getLsbD j = (decide (j = 0) && v) := by intro j; cases v <;> cases j <;> simp
  simp only [Bits.setBit, Bits.setField, BitVec.getLsbD_or, BitVec.getLsbD_and, BitVec.getLsbD_not, BitVec.getLsbD_shiftLeft,
    BitVec.getLsbD_setWidth, one, val, h]
  by_cases hk : k = i
  · subst hk; simp [h, show 0 < n by omega]
  · rw [if_neg hk]
    by_cases hl : k < i
    · simp [hl]
    · have : k - i ≠ 0 := by omega
      simp [this]

@[simp] theorem rp_wp (c : Core) (d r : PReg) (v : Bool) : (c.wp d v).rp r = if r = d then (if d.val = 0 then true else v) else c.rp r := by
  unfold wp rp
  by_cases hr : r = d
  · subst hr; by_cases h : r.val = 0 <;> simp only [h, if_true, if_false, getLsbD_setBit _ _ _ _ r.isLt]
  · have : ¬ r.val = d.val := fun e => hr (Fin.ext e)
    by_cases h : d.val = 0 <;> simp only [h, hr, this, if_true, if_false, getLsbD_setBit _ _ _ _ r.isLt]

@[simp] theorem rm_wm (c : Core) (d r : MReg) (v : Mask) :
    (c.wm d v).rm r = if r = d then (if d.val = 0 then BitVec.allOnes 512 else v) else c.rm r := by
  unfold wm rm
  by_cases hr : r = d
  · subst hr; by_cases h : r.val = 0 <;> simp only [h, if_true, if_false, SMap.get_put]
  · have : ¬ r.val = d.val := fun e => hr (Fin.ext e)
    by_cases h : d.val = 0 <;> simp only [h, hr, this, if_true, if_false, SMap.get_put]

@[simp] theorem rc_wc (c : Core) (d r : CReg) (v : Cap) : (c.wc d v).rc r = if r = d then v else c.rc r := by
  simp only [wc, rc, SMap.get_put, Fin.ext_iff]
@[simp] theorem rg_wg (c : Core) (d r : GReg) (v : Word) : (c.wg d v).rg r = if r = d then v else c.rg r := by
  simp only [wg, rg, SMap.get_put, Fin.ext_iff]
@[simp] theorem rb_wb (c : Core) (d r : BReg) (v : BitVec 48) : (c.wb d v).rb r = if r = d then v else c.rb r := by
  simp only [wb, rb, SMap.get_put, Fin.ext_iff]

@[simp] theorem rs_raise (c : Core) (f : FFlags) (r : SReg) : (c.raise f).rs r = c.rs r := rfl
@[simp] theorem rp_raise (c : Core) (f : FFlags) (r : PReg) : (c.raise f).rp r = c.rp r := rfl
@[simp] theorem rm_raise (c : Core) (f : FFlags) (r : MReg) : (c.raise f).rm r = c.rm r := rfl
@[simp] theorem rc_raise (c : Core) (f : FFlags) (r : CReg) : (c.raise f).rc r = c.rc r := rfl
@[simp] theorem rg_raise (c : Core) (f : FFlags) (r : GReg) : (c.raise f).rg r = c.rg r := rfl
@[simp] theorem rb_raise (c : Core) (f : FFlags) (r : BReg) : (c.raise f).rb r = c.rb r := rfl
@[simp] theorem rv_raise (c : Core) (f : FFlags) (r : VReg) : (c.raise f).rv r = c.rv r := rfl
@[simp] theorem raise_sp (c : Core) (f : FFlags) : (c.raise f).sp = c.sp := rfl
@[simp] theorem raise_eng (c : Core) (f : FFlags) : (c.raise f).eng = c.eng := rfl
@[simp] theorem raise_board (c : Core) (f : FFlags) : (c.raise f).board = c.board := rfl
@[simp] theorem raise_acc (c : Core) (f : FFlags) : (c.raise f).acc = c.acc := rfl
@[simp] theorem raise_pc (c : Core) (f : FFlags) : (c.raise f).pc = c.pc := rfl
@[simp] theorem raise_groups (c : Core) (f : FFlags) : (c.raise f).groups = c.groups := rfl
@[simp] theorem raise_run (c : Core) (f : FFlags) : (c.raise f).run = c.run := rfl
@[simp] theorem raise_wait (c : Core) (f : FFlags) : (c.raise f).wait = c.wait := rfl
@[simp] theorem raise_reds (c : Core) (f : FFlags) : (c.raise f).reds = c.reds := rfl
@[simp] theorem raise_team (c : Core) (f : FFlags) : (c.raise f).team = c.team := rfl
@[simp] theorem raise_code (c : Core) (f : FFlags) : (c.raise f).code = c.code := rfl
@[simp] theorem raise_regs (c : Core) (f : FFlags) : (c.raise f).regs = c.regs := rfl
@[simp] theorem noteMb_regs (c : Core) (i : Nat) : (c.noteMb i).regs = c.regs := rfl
@[simp] theorem noteMb_sp (c : Core) (i : Nat) : (c.noteMb i).sp = c.sp := rfl
@[simp] theorem noteMb_eng (c : Core) (i : Nat) : (c.noteMb i).eng = c.eng := rfl
@[simp] theorem noteMb_board (c : Core) (i : Nat) : (c.noteMb i).board = c.board := rfl
@[simp] theorem noteMb_acc (c : Core) (i : Nat) : (c.noteMb i).acc = c.acc := rfl
@[simp] theorem noteMb_reds (c : Core) (i : Nat) : (c.noteMb i).reds = c.reds := rfl
@[simp] theorem noteMb_grp (c : Core) (i : Nat) : (c.noteMb i).grp = c.grp := rfl
@[simp] theorem noteMb_pc (c : Core) (i : Nat) : (c.noteMb i).pc = c.pc := rfl
@[simp] theorem noteMb_groups (c : Core) (i : Nat) : (c.noteMb i).groups = c.groups := rfl
@[simp] theorem noteMb_run (c : Core) (i : Nat) : (c.noteMb i).run = c.run := rfl
@[simp] theorem noteMb_wait (c : Core) (i : Nat) : (c.noteMb i).wait = c.wait := rfl
@[simp] theorem noteMb_team (c : Core) (i : Nat) : (c.noteMb i).team = c.team := rfl
@[simp] theorem noteMb_code (c : Core) (i : Nat) : (c.noteMb i).code = c.code := rfl
@[simp] theorem refuseRecord_regs (c : Core) (p : Posted) (remote : Bool) (t : Trap) : (c.refuseRecord p remote t).regs = c.regs := rfl
@[simp] theorem refuseRecord_sp (c : Core) (p : Posted) (remote : Bool) (t : Trap) : (c.refuseRecord p remote t).sp = c.sp := rfl
@[simp] theorem refuseRecord_eng (c : Core) (p : Posted) (remote : Bool) (t : Trap) : (c.refuseRecord p remote t).eng = c.eng := rfl
@[simp] theorem refuseRecord_board (c : Core) (p : Posted) (remote : Bool) (t : Trap) : (c.refuseRecord p remote t).board = c.board := rfl
@[simp] theorem refuseRecord_acc (c : Core) (p : Posted) (remote : Bool) (t : Trap) : (c.refuseRecord p remote t).acc = c.acc := rfl
@[simp] theorem refuseRecord_reds (c : Core) (p : Posted) (remote : Bool) (t : Trap) : (c.refuseRecord p remote t).reds = c.reds := rfl
@[simp] theorem refuseRecord_grp (c : Core) (p : Posted) (remote : Bool) (t : Trap) : (c.refuseRecord p remote t).grp = c.grp := rfl
@[simp] theorem refuseRecord_pc (c : Core) (p : Posted) (remote : Bool) (t : Trap) : (c.refuseRecord p remote t).pc = c.pc := rfl
@[simp] theorem refuseRecord_groups (c : Core) (p : Posted) (remote : Bool) (t : Trap) : (c.refuseRecord p remote t).groups = c.groups := rfl
@[simp] theorem refuseRecord_run (c : Core) (p : Posted) (remote : Bool) (t : Trap) : (c.refuseRecord p remote t).run = c.run := rfl
@[simp] theorem refuseRecord_wait (c : Core) (p : Posted) (remote : Bool) (t : Trap) : (c.refuseRecord p remote t).wait = c.wait := rfl
@[simp] theorem refuseRecord_team (c : Core) (p : Posted) (remote : Bool) (t : Trap) : (c.refuseRecord p remote t).team = c.team := rfl
@[simp] theorem refuseRecord_code (c : Core) (p : Posted) (remote : Bool) (t : Trap) : (c.refuseRecord p remote t).code = c.code := rfl

end Core

end Sys2Proof.Machine
end

