-- ==== Sys2Proof/Laws/Issue.lean ====
section
/-!
SUPPORT. What issuing an instruction as a group of its own does: it takes effect, the group ends, and the end of a group writes the
program counter, the loop levels, `%bpend`, the link register and what the group collected, and nothing else.
-/

namespace Sys2Proof.Machine

open Sys2Proof.Bits

/-! ### A group that takes effect -/

/-- Nothing holds an operation that may issue. -/
theorem beforeIssue_of_mayIssue {o : Op} {s : State} (h : MayIssue o s) : beforeIssue [needs o s] (needs o s).words s = none := by
  simp only [beforeIssue, h.delay, h.loop, h.ready]; rfl

/-- An instruction that may issue and whose operation takes effect completes. -/
theorem issueAlone_ok {o : Op} {op : State → OpRes} {s s1 : State} (h : MayIssue o s) (hop : op (begun o s) = .ok s1) :
    issueAlone o op s = .next (finished o s s1) := by
  have e : op (s.on fun c => c.begin' ((needs o s).cls == .Y)) = .ok s1 := hop
  have b := beforeIssue_of_mayIssue h
  simp only [needs] at e b
  simp only [issueAlone, b, Option.getD_none, e, settle, finished, needs]

/-- An instruction that may issue and whose operation traps takes the trap: with no effect, or after it where the delivery says so. -/
theorem issueAlone_trap {o : Op} {op : State → OpRes} {s s1 : State} {t : Trap} (h : MayIssue o s) (hop : op (begun o s) = .trap t s1) :
    issueAlone o op s = .next (if t.delivery = .after then (finished o s s1).raiseTrap (finished o s s1).cur t else s1.raiseTrap s1.cur t) := by
  have e : op (s.on fun c => c.begin' ((needs o s).cls == .Y)) = .trap t s1 := hop
  have b := beforeIssue_of_mayIssue h
  simp only [needs] at e b
  simp only [issueAlone, b, Option.getD_none, e, settle, finished, needs]
  split <;> rfl

/-- An instruction that may issue and whose operation waits leaves the program counter where it is. -/
theorem issueAlone_stall {o : Op} {op : State → OpRes} {s s1 : State} (h : MayIssue o s) (hop : op (begun o s) = .stall s1) :
    issueAlone o op s = .next (s1.on Core.dropGroup) := by
  have e : op (s.on fun c => c.begin' ((needs o s).cls == .Y)) = .stall s1 := hop
  have b := beforeIssue_of_mayIssue h
  simp only [needs] at e b
  simp only [issueAlone, b, Option.getD_none, e, settle]

namespace Core

/-! ### How a group begins -/

/-- The beginning of a group touches what the group collects, and the buffered reductions of a class Y operation. -/
theorem begin'_eq (c : Core) (y : Bool) : c.begin' y = { c with grp := (c.begin' y).grp, reds := (c.begin' y).reds } := by
  unfold begin'; cases y <;> rfl

@[simp] theorem begin'_regs (c : Core) (y : Bool) : (c.begin' y).regs = c.regs := by rw [begin'_eq]
@[simp] theorem begin'_sp (c : Core) (y : Bool) : (c.begin' y).sp = c.sp := by rw [begin'_eq]
@[simp] theorem begin'_eng (c : Core) (y : Bool) : (c.begin' y).eng = c.eng := by rw [begin'_eq]
@[simp] theorem begin'_board (c : Core) (y : Bool) : (c.begin' y).board = c.board := by rw [begin'_eq]
@[simp] theorem begin'_acc (c : Core) (y : Bool) : (c.begin' y).acc = c.acc := by rw [begin'_eq]
@[simp] theorem begin'_pc (c : Core) (y : Bool) : (c.begin' y).pc = c.pc := by rw [begin'_eq]
@[simp] theorem begin'_rs (c : Core) (y : Bool) (r : SReg) : (c.begin' y).rs r = c.rs r := by rw [begin'_eq]; rfl
@[simp] theorem begin'_rp (c : Core) (y : Bool) (r : PReg) : (c.begin' y).rp r = c.rp r := by rw [begin'_eq]; rfl
@[simp] theorem begin'_rm (c : Core) (y : Bool) (r : MReg) : (c.begin' y).rm r = c.rm r := by rw [begin'_eq]; rfl
@[simp] theorem begin'_rc (c : Core) (y : Bool) (r : CReg) : (c.begin' y).rc r = c.rc r := by rw [begin'_eq]; rfl
@[simp] theorem begin'_rg (c : Core) (y : Bool) (r : GReg) : (c.begin' y).rg r = c.rg r := by rw [begin'_eq]; rfl
@[simp] theorem begin'_rb (c : Core) (y : Bool) (r : BReg) : (c.begin' y).rb r = c.rb r := by rw [begin'_eq]; rfl
@[simp] theorem begin'_rv (c : Core) (y : Bool) (r : VReg) : (c.begin' y).rv r = c.rv r := by rw [begin'_eq]; rfl
@[simp] theorem begin'_flags (c : Core) (y : Bool) : (c.begin' y).grp.flags = 0 := by unfold begin'; cases y <;> rfl
@[simp] theorem begin'_setFlags (c : Core) (y : Bool) : (c.begin' y).grp.setFlags = none := by unfold begin'; cases y <;> rfl
@[simp] theorem begin'_seed (c : Core) (y : Bool) : (c.begin' y).grp.seed = none := by unfold begin'; cases y <;> rfl
@[simp] theorem begin'_clrAflags (c : Core) (y : Bool) : (c.begin' y).grp.clrAflags = 0 := by unfold begin'; cases y <;> rfl
@[simp] theorem begin'_jump (c : Core) (y : Bool) : (c.begin' y).grp.jump = none := by unfold begin'; cases y <;> rfl
@[simp] theorem begin'_branched (c : Core) (y : Bool) : (c.begin' y).grp.branched = false := by unfold begin'; cases y <;> rfl
@[simp] theorem begin'_readSpecial (c : Core) (y : Bool) (n k : Nat) : readSpecial n (c.begin' y) k = readSpecial n c k := by
  rw [begin'_eq]; rfl

/-! ### How a group ends -/

/-- The core with the group's end applied, where `ls`, `bp` and `next` are the loop levels, `%bpend` and the program counter that
follow, and `b` the branch registers. -/
def ended (c : Core) (ls : List Loop) (bp : Word) (next : BitVec 48) (b : SMap (BitVec 48)) : Core :=
  { c.commitGroup with
    groups := c.groups + 1, pc := next
    sp := { c.commitGroup.sp with loops := ls, bpend := bp }
    regs := { c.regs with b := b } }

/-- A pending `CALL` writes a branch register as the group ends (R213). -/
def linking (c : Core) : Bool := c.pend == 1 && bit c.sp.bpend 60

/-- A field keeps its bits when a higher one is replaced. -/
theorem nfield_setField_below {n : Nat} (v : BitVec n) (lo w hi k : Nat) (x : BitVec k) (h : lo + w ≤ hi) :
    nfield (setField v hi k x) lo w = nfield v lo w := by
  refine Nat.eq_of_testBit_eq fun i => ?_
  simp only [nfield, Nat.testBit_mod_two_pow, Nat.testBit_shiftRight, BitVec.testBit_toNat]
  by_cases hi' : i < w
  · simp only [setField, BitVec.getLsbD_or, BitVec.getLsbD_and, BitVec.getLsbD_not, BitVec.getLsbD_shiftLeft, hi', decide_true,
      Bool.true_and, show lo + i < hi by omega]
    by_cases hn : lo + i < n
    · simp [hn]
    · simp [hn, BitVec.getLsbD_of_ge v (lo + i) (by omega)]
  · simp [hi']

/-- All that the end of a group can do (R170, R173, R213, R217). -/
theorem endGroup_shape (w : Nat) (c : Core) :
    ∃ ls bp next b, c.endGroup w = c.ended ls bp next b ∧
      (b = c.regs.b ∨ ∃ v, b = SMap.put 0 c.regs.b (nfield (setField c.sp.bpend 62 2 (BitVec.ofNat 2 (c.pend - 1))) 57 3 % 8) v ∧
        c.pend - 1 = 0 ∧ c.pend ≠ 0 ∧ bit (setField c.sp.bpend 62 2 (BitVec.ofNat 2 (c.pend - 1))) 60 = true) := by
  unfold endGroup
  dsimp only
  split
  · exact ⟨_, _, _, _, rfl, .inl rfl⟩
  · split
    · exact ⟨_, _, _, _, rfl, .inl rfl⟩
    · rename_i hp
      split
      · exact ⟨_, _, _, _, rfl, .inl rfl⟩
      · rename_i hk
        split
        · rename_i hl
          refine ⟨_, _, _, _, rfl, .inr ⟨_, rfl, ?_, ?_, hl⟩⟩
          · exact Decidable.not_not.1 hk
          · simp at hp; exact hp.2
        · exact ⟨_, _, _, _, rfl, .inl rfl⟩

/-- The program counter after a group that names no successor itself: the loop hardware decides, and a taken transfer whose last
delay group this was (R170, R173, R217). -/
theorem endGroup_pc (w : Nat) (c : Core) (h1 : c.grp.jump = none) (h3 : c.grp.branched = false) :
    (c.endGroup w).pc =
      (let next := (loopEnd (c.pc + BitVec.ofNat 48 (8 * (w - 1))) (c.pc + BitVec.ofNat 48 (8 * w)) 4 c.sp.loops).2
       let b := setField c.sp.bpend 62 2 (BitVec.ofNat 2 (c.pend - 1))
       if c.pend = 0 then next else if c.pend - 1 ≠ 0 then next else if bit b 61 then field b 0 48 else next) := by
  unfold endGroup
  dsimp only
  split
  · rename_i h; rw [h1] at h; cases h
  · split
    · rename_i h
      have : c.pend = 0 := by simp [h3] at h; exact h
      rw [if_pos this]; rfl
    · rename_i h
      have : c.pend ≠ 0 := by simp [h3] at h; exact h
      rw [if_neg this]
      split
      · rename_i hk; rw [if_pos (show c.pend - 1 ≠ 0 from hk)]; rfl
      · rename_i hk
        rw [if_neg (show ¬ c.pend - 1 ≠ 0 from hk)]
        show (if _ then _ else _) = _
        split
        · rename_i ht; exact (if_pos ht).symm
        · rename_i ht; refine Eq.trans ?_ (if_neg ht).symm; split <;> rfl

/-- It follows from the program counter, the loop levels and `%bpend` alone. -/
theorem endGroup_pc_congr (w : Nat) (c d : Core) (hp : d.pc = c.pc) (hl : d.sp.loops = c.sp.loops) (hb : d.sp.bpend = c.sp.bpend)
    (h1 : c.grp.jump = none) (h2 : d.grp.jump = none) (h3 : c.grp.branched = false) (h4 : d.grp.branched = false) :
    (d.endGroup w).pc = (c.endGroup w).pc := by
  rw [endGroup_pc w c h1 h3, endGroup_pc w d h2 h4]
  unfold pend
  rw [hp, hl, hb]

/-! ### Frames -/

/-- What an operation leaves alone in its core, up to the end of its group. -/
structure Leaves (w : Writes) (n : Nat) (c d : Core) : Prop where
  scalars : ∀ r : SReg, r.val ∉ w.s → d.rs r = c.rs r
  predicates : ∀ r : PReg, r.val ∉ w.p → d.rp r = c.rp r
  masks : ∀ r : MReg, r.val ∉ w.m → d.rm r = c.rm r
  caps : ∀ r : CReg, r.val ∉ w.c → d.rc r = c.rc r
  regions : ∀ r : GReg, r.val ∉ w.g → d.rg r = c.rg r
  branches : ∀ r : BReg, r.val ∉ w.b → d.rb r = c.rb r
  vectors : ∀ r : VReg, w.v ≠ some r.val → (w.v.isSome = true → r.val < 608) → d.rv r = c.rv r
  specials : ∀ k, k ∉ unframed → k ∉ w.special → readSpecial n d k = readSpecial n c k
  fflags : d.sp.fflags = c.sp.fflags
  flags : d.grp.flags = w.flags
  setFlags : d.grp.setFlags = w.setFlags
  seed : w.draws = false ∨ 5 ∉ w.special → d.grp.seed = none
  cleared : 4 ∉ w.special → d.grp.clrAflags = 0
  generators : w.draws = false → d.sp.gens = c.sp.gens
  rowMap : d.eng.rowMap = c.eng.rowMap
  scratchpad : ∀ p k, (∀ a, w.sp.1 ≤ a → a < w.sp.1 + w.sp.2 → ¬ (p = c.phys (a / 512) ∧ k = a % 512)) → k < 512 →
    rowByte d p k = rowByte c p k
  accumulators : d.eng.acc = c.eng.acc
  window : w.window = false → d.board = c.board
  queue : w.queue = false → d.acc = c.acc

/-- The end of a group leaves the registers alone but for the link register of a pending `CALL`. -/
theorem endGroup_branches (w : Nat) (c : Core) (r : BReg)
    (h : (c.pend == 1 && bit c.sp.bpend 60 && nfield c.sp.bpend 57 3 % 8 == r.val) = false) : (c.endGroup w).rb r = c.rb r := by
  obtain ⟨ls, bp, next, b, e, hb⟩ := endGroup_shape w c
  rw [e]
  rcases hb with rfl | ⟨v, rfl, hk, hz, hl⟩
  · rfl
  · show SMap.get 0 (SMap.put 0 c.regs.b _ v) r.val = SMap.get 0 c.regs.b r.val
    rw [SMap.get_put, nfield_setField_below _ _ _ _ _ _ (by decide)]
    have hp : c.pend = 1 := by omega
    have h60 : bit c.sp.bpend 60 = true := by
      rw [← hl]
      simp [bit, setField]
    simp only [hp, h60, beq_self_eq_true, Bool.true_and, beq_eq_false_iff_ne] at h
    rw [if_neg (fun e => h e.symm)]

/-- A group that names its successor, or records a transfer, or in which none is pending, writes no link register. -/
theorem endGroup_branches_of (w : Nat) (c : Core) (r : BReg) (h : c.grp.jump.isSome ∨ c.grp.branched = true ∨ c.pend = 0) :
    (c.endGroup w).rb r = c.rb r := by
  unfold endGroup
  dsimp only
  split
  · rfl
  · rename_i hj
    split
    · rfl
    · rename_i hn
      exfalso
      have hj' : c.grp.jump = none := hj
      have hn' : ¬ (c.grp.branched || c.pend == 0) = true := hn
      rcases h with h | h | h <;> simp_all

end Core

/-- An instruction has its frame where its operation answers a state in which only its core and what no frame lists have changed,
and leaves alone in its core all but what it writes. `hb`: the end of the group writes no branch register but a pending link. -/
theorem issueAlone_keeps {o : Op} {s s1 : State} {w : Writes} (hcur : s1.cur = s.cur) (hmem : ∀ o a, s1.byteAt o a = s.byteAt o a)
    (hothers : w.team = false → ∀ n, n ≠ s.cur → s1.coreAt n = s.coreAt n) (hl : Core.Leaves w s.cur s.core s1.core)
    (hb : ∀ r, linkDue s r = false → (s1.core.endGroup (needs o s).words).rb r = s1.core.rb r) : Keeps w s (finished o s s1) := by
  · obtain ⟨ls, bp, next, b, e, -⟩ := Core.endGroup_shape (needs o s).words s1.core
    have core : (finished o s s1).core = s1.core.endGroup (needs o s).words := by simp [finished]
    refine
      { scalars := fun r hr => ?_, predicates := fun r hr => ?_, masks := fun r hr => ?_, caps := fun r hr => ?_, regions := fun r hr => ?_
        branches := fun r hr hd => ?_, vectors := fun r h1 h2 => ?_, specials := fun k h1 h2 => ?_, flags := ?_, generators := fun hw => ?_
        rowMap := ?_, scratchpad := fun p k ha hk => ?_, accumulators := ?_, window := fun hw => ?_, queue := fun hw => ?_, memory := fun o a => ?_
        others := fun hw n hn => ?_ }
    · rw [core, e]; exact hl.scalars r hr
    · rw [core, e]; exact hl.predicates r hr
    · rw [core, e]; exact hl.masks r hr
    · rw [core, e]; exact hl.caps r hr
    · rw [core, e]; exact hl.regions r hr
    · rw [core, hb r hd]; exact hl.branches r hr
    · rw [core, e]; exact hl.vectors r h1 h2
    · rw [core, e, ← hl.specials k h1 h2]
      simp only [unframed, List.mem_cons, List.not_mem_nil, or_false, not_or] at h1
      by_cases h5 : k = 5
      · subst h5
        have hs : s1.core.commitGroup.sp.rngl = s1.core.sp.rngl := by simp [Core.commitGroup, hl.seed (.inr h2)]
        simp [readSpecial, Core.ended, hs]
      by_cases h4 : k = 4
      · subst h4
        have hs : s1.core.commitGroup.sp.aflags = s1.core.sp.aflags := by simp only [Core.commitGroup, hl.cleared h2]; exact BitVec.and_allOnes
        simp [readSpecial, Core.ended, hs]
      · simp only [readSpecial, Core.ended, h4, h5, h1, if_false]
        by_cases hk : k < 0x18
        · by_cases hk' : k < 0x14
          · simp only [hk', if_true]; rfl
          · omega
        · simp only [hk, if_false]; rfl
    · rw [core, e]; show s1.core.commitGroup.sp.fflags = _; simp [Core.commitGroup, hl.setFlags, hl.flags, hl.fflags]
    · rw [core, e, ← hl.generators hw]; show s1.core.commitGroup.sp.gens = _; simp [Core.commitGroup, hl.seed (.inl hw)]
    · rw [core, e]; exact hl.rowMap
    · rw [core, e]; exact hl.scratchpad p k ha hk
    · rw [core, e]; exact hl.accumulators
    · rw [core, e]; exact hl.window hw
    · rw [core, e]; exact hl.queue hw
    · rw [finished, State.byteAt_on]; exact hmem o a
    · rw [finished, State.coreAt_on, if_neg (by rw [hcur]; exact hn)]; exact hothers hw n hn

/-- What an operation that names no next group leaves of the control state. -/
structure Core.Straight (c d : Core) : Prop where
  jump : d.grp.jump = none
  branched : d.grp.branched = false
  pc : d.pc = c.pc
  loops : d.sp.loops = c.sp.loops
  bpend : d.sp.bpend = c.sp.bpend

/-- An instruction completes with its frame and goes on at the next group, where its operation answers a state in which only its
core and what no frame lists have changed, leaves alone in its core all but what it writes, and names no next group. -/
theorem issueAlone_completes {o : Op} {op : State → OpRes} {s s1 : State} {w : Writes} (h : MayIssue o s) (hop : op (begun o s) = .ok s1)
    (hcur : s1.cur = s.cur) (hmem : ∀ o a, s1.byteAt o a = s.byteAt o a)
    (hothers : w.team = false → ∀ n, n ≠ s.cur → s1.coreAt n = s.coreAt n)
    (hl : Core.Leaves w s.cur s.core s1.core) (hs : Core.Straight s.core s1.core) :
    issueAlone o op s = .next (finished o s s1) ∧ Keeps w s (finished o s s1) ∧ (finished o s s1).core.pc = nextPc s (needs o s).words := by
  refine ⟨issueAlone_ok h hop, issueAlone_keeps hcur hmem hothers hl fun r hd => Core.endGroup_branches _ _ _ ?_, ?_⟩
  · rw [Core.pend, hs.bpend]; exact hd
  · simp only [finished, State.core_on, nextPc]
    exact Core.endGroup_pc_congr _ _ _ hs.pc hs.loops hs.bpend rfl hs.jump rfl hs.branched

/-- The same where the operation names the next group, or records a transfer: no link register is written as the group ends. -/
theorem issueAlone_finishes {o : Op} {op : State → OpRes} {s s1 : State} {w : Writes} (h : MayIssue o s) (hop : op (begun o s) = .ok s1)
    (hcur : s1.cur = s.cur) (hmem : ∀ o a, s1.byteAt o a = s.byteAt o a)
    (hothers : w.team = false → ∀ n, n ≠ s.cur → s1.coreAt n = s.coreAt n)
    (hl : Core.Leaves w s.cur s.core s1.core) (hj : s1.core.grp.jump.isSome ∨ s1.core.grp.branched = true ∨ s1.core.pend = 0) :
    issueAlone o op s = .next (finished o s s1) ∧ Keeps w s (finished o s s1) := by
  refine ⟨issueAlone_ok h hop, issueAlone_keeps hcur hmem hothers hl fun r _ => ?_⟩
  exact Core.endGroup_branches_of _ _ r hj

end Sys2Proof.Machine
end

