-- ==== Sys2Proof/Laws/Complete.lean ====
section
/-!
SUPPORT. Instructions that only write registers complete with their frames: one law for each kind of destination.
-/

namespace Sys2Proof.Machine

open Sys2Proof.Bits

namespace Core

/-- Where nothing is raised, nothing changes. -/
theorem raise_zero (c : Core) : c.raise 0 = c := by simp [raise]

/-- A group that has begun leaves its own core alone, before it does anything. -/
theorem leaves_begin' (c : Core) (y : Bool) (n : Nat) : Leaves {} n c (c.begin' y) where
  scalars _ _ := begin'_rs ..
  predicates _ _ := begin'_rp ..
  masks _ _ := begin'_rm ..
  caps _ _ := begin'_rc ..
  regions _ _ := begin'_rg ..
  branches _ _ := begin'_rb ..
  vectors _ _ _ := begin'_rv ..
  specials _ _ _ := begin'_readSpecial ..
  fflags := by simp
  flags := by simp
  setFlags := by simp
  seed _ := by simp
  cleared _ := by simp
  generators _ := by simp
  rowMap := by simp
  scratchpad p k _ _ := by rw [begin'_eq]; rfl
  accumulators := by simp
  window _ := by simp
  queue _ := by simp

/-- A special register reads from the special registers and the completed counts. -/
theorem readSpecial_congr {c d : Core} (h1 : d.sp = c.sp) (h2 : d.eng = c.eng) (n k : Nat) : readSpecial n d k = readSpecial n c k := by
  simp only [readSpecial, h1, h2, mb, bnd]

theorem rowByte_congr {c d : Core} (h2 : d.eng = c.eng) (p k : Nat) : rowByte d p k = rowByte c p k := by
  simp only [rowByte, prow, h2]

theorem spByte_congr {c d : Core} (h2 : d.eng = c.eng) (a : Nat) : d.spByte a = c.spByte a := by
  simp only [spByte, row, prow, phys, h2]

/-- A scalar result, with the flags it raises. -/
theorem leaves_ws {c b : Core} {n : Nat} (h : Leaves {} n c b) (d : SReg) (v : Word) (f : FFlags) :
    Leaves { s := [d.val], flags := f } n c ((b.ws d v).raise f) where
  scalars r hr := by
    have hne : ¬ r = d := fun e => hr (by simp [e])
    simp [hne, h.scalars r (by simp)]
  predicates r _ := by simp [h.predicates r (by simp)]
  masks r _ := by simp [h.masks r (by simp)]
  caps r _ := by simp [h.caps r (by simp)]
  regions r _ := by simp [h.regions r (by simp)]
  branches r _ := by simp [h.branches r (by simp)]
  vectors r _ _ := by simp [h.vectors r (by simp) (by simp)]
  specials k h1 _ := by rw [← h.specials k h1 (by simp)]; exact readSpecial_congr (by simp) (by simp) n k
  fflags := by simp [h.fflags]
  flags := by simp [raise, h.flags]
  setFlags := by simp [raise, h.setFlags]
  seed _ := by simp [raise, h.seed]
  cleared _ := by simp [raise, h.cleared]
  generators _ := by simp [h.generators rfl]
  rowMap := by simp [h.rowMap]
  scratchpad p k _ hk := by rw [← h.scratchpad p k (by simp) hk]; exact rowByte_congr (by simp) p k
  accumulators := by simp [h.accumulators]
  window _ := by simp [h.window rfl]
  queue _ := by simp [h.queue rfl]

/-- A predicate result. -/
theorem leaves_wp {c b : Core} {n : Nat} (h : Leaves {} n c b) (d : PReg) (v : Bool) :
    Leaves { p := [d.val] } n c (b.wp d v) where
  scalars r _ := by simp [h.scalars r (by simp)]
  predicates r hr := by
    have hne : ¬ r = d := fun e => hr (by simp [e])
    simp [hne, h.predicates r (by simp)]
  masks r _ := by simp [h.masks r (by simp)]
  caps r _ := by simp [h.caps r (by simp)]
  regions r _ := by simp [h.regions r (by simp)]
  branches r _ := by simp [h.branches r (by simp)]
  vectors r _ _ := by simp [h.vectors r (by simp) (by simp)]
  specials k h1 _ := by rw [← h.specials k h1 (by simp)]; exact readSpecial_congr (by simp) (by simp) n k
  fflags := by simp [h.fflags]
  flags := by simp [h.flags]
  setFlags := by simp [h.setFlags]
  seed _ := by simp [h.seed]
  cleared _ := by simp [h.cleared]
  generators _ := by simp [h.generators rfl]
  rowMap := by simp [h.rowMap]
  scratchpad p k _ hk := by rw [← h.scratchpad p k (by simp) hk]; exact rowByte_congr (by simp) p k
  accumulators := by simp [h.accumulators]
  window _ := by simp [h.window rfl]
  queue _ := by simp [h.queue rfl]

/-- A mask result. -/
theorem leaves_wm {c b : Core} {n : Nat} (h : Leaves {} n c b) (d : MReg) (v : Mask) :
    Leaves { m := [d.val] } n c (b.wm d v) where
  scalars r _ := by simp [h.scalars r (by simp)]
  predicates r _ := by simp [h.predicates r (by simp)]
  masks r hr := by
    have hne : ¬ r = d := fun e => hr (by simp [e])
    simp [hne, h.masks r (by simp)]
  caps r _ := by simp [h.caps r (by simp)]
  regions r _ := by simp [h.regions r (by simp)]
  branches r _ := by simp [h.branches r (by simp)]
  vectors r _ _ := by simp [h.vectors r (by simp) (by simp)]
  specials k h1 _ := by rw [← h.specials k h1 (by simp)]; exact readSpecial_congr (by simp) (by simp) n k
  fflags := by simp [h.fflags]
  flags := by simp [h.flags]
  setFlags := by simp [h.setFlags]
  seed _ := by simp [h.seed]
  cleared _ := by simp [h.cleared]
  generators _ := by simp [h.generators rfl]
  rowMap := by simp [h.rowMap]
  scratchpad p k _ hk := by rw [← h.scratchpad p k (by simp) hk]; exact rowByte_congr (by simp) p k
  accumulators := by simp [h.accumulators]
  window _ := by simp [h.window rfl]
  queue _ := by simp [h.queue rfl]

/-- A capability result. -/
theorem leaves_wc {c b : Core} {n : Nat} (h : Leaves {} n c b) (d : CReg) (v : Cap) :
    Leaves { c := [d.val] } n c (b.wc d v) where
  scalars r _ := by simp [h.scalars r (by simp)]
  predicates r _ := by simp [h.predicates r (by simp)]
  masks r _ := by simp [h.masks r (by simp)]
  caps r hr := by
    have hne : ¬ r = d := fun e => hr (by simp [e])
    simp [hne, h.caps r (by simp)]
  regions r _ := by simp [h.regions r (by simp)]
  branches r _ := by simp [h.branches r (by simp)]
  vectors r _ _ := by simp [h.vectors r (by simp) (by simp)]
  specials k h1 _ := by rw [← h.specials k h1 (by simp)]; exact readSpecial_congr (by simp) (by simp) n k
  fflags := by simp [h.fflags]
  flags := by simp [h.flags]
  setFlags := by simp [h.setFlags]
  seed _ := by simp [h.seed]
  cleared _ := by simp [h.cleared]
  generators _ := by simp [h.generators rfl]
  rowMap := by simp [h.rowMap]
  scratchpad p k _ hk := by rw [← h.scratchpad p k (by simp) hk]; exact rowByte_congr (by simp) p k
  accumulators := by simp [h.accumulators]
  window _ := by simp [h.window rfl]
  queue _ := by simp [h.queue rfl]

/-- A region result. -/
theorem leaves_wg {c b : Core} {n : Nat} (h : Leaves {} n c b) (d : GReg) (v : Word) :
    Leaves { g := [d.val] } n c (b.wg d v) where
  scalars r _ := by simp [h.scalars r (by simp)]
  predicates r _ := by simp [h.predicates r (by simp)]
  masks r _ := by simp [h.masks r (by simp)]
  caps r _ := by simp [h.caps r (by simp)]
  regions r hr := by
    have hne : ¬ r = d := fun e => hr (by simp [e])
    simp [hne, h.regions r (by simp)]
  branches r _ := by simp [h.branches r (by simp)]
  vectors r _ _ := by simp [h.vectors r (by simp) (by simp)]
  specials k h1 _ := by rw [← h.specials k h1 (by simp)]; exact readSpecial_congr (by simp) (by simp) n k
  fflags := by simp [h.fflags]
  flags := by simp [h.flags]
  setFlags := by simp [h.setFlags]
  seed _ := by simp [h.seed]
  cleared _ := by simp [h.cleared]
  generators _ := by simp [h.generators rfl]
  rowMap := by simp [h.rowMap]
  scratchpad p k _ hk := by rw [← h.scratchpad p k (by simp) hk]; exact rowByte_congr (by simp) p k
  accumulators := by simp [h.accumulators]
  window _ := by simp [h.window rfl]
  queue _ := by simp [h.queue rfl]

/-- A branch register result. -/
theorem leaves_wb {c b : Core} {n : Nat} (h : Leaves {} n c b) (d : BReg) (v : BitVec 48) :
    Leaves { b := [d.val] } n c (b.wb d v) where
  scalars r _ := by simp [h.scalars r (by simp)]
  predicates r _ := by simp [h.predicates r (by simp)]
  masks r _ := by simp [h.masks r (by simp)]
  caps r _ := by simp [h.caps r (by simp)]
  regions r _ := by simp [h.regions r (by simp)]
  branches r hr := by
    have hne : ¬ r = d := fun e => hr (by simp [e])
    simp [hne, h.branches r (by simp)]
  vectors r _ _ := by simp [h.vectors r (by simp) (by simp)]
  specials k h1 _ := by rw [← h.specials k h1 (by simp)]; exact readSpecial_congr (by simp) (by simp) n k
  fflags := by simp [h.fflags]
  flags := by simp [h.flags]
  setFlags := by simp [h.setFlags]
  seed _ := by simp [h.seed]
  cleared _ := by simp [h.cleared]
  generators _ := by simp [h.generators rfl]
  rowMap := by simp [h.rowMap]
  scratchpad p k _ hk := by rw [← h.scratchpad p k (by simp) hk]; exact rowByte_congr (by simp) p k
  accumulators := by simp [h.accumulators]
  window _ := by simp [h.window rfl]
  queue _ := by simp [h.queue rfl]

end Core

/-- Any instruction completes whose operation takes effect with its frame. -/
theorem completes_of {i : Instr} {o : Op} {op : State → OpRes} {w : State → Writes} {post : State → State → Prop} {when : State → Prop}
    (hx : ∀ s, exec i s = issueAlone o op s)
    (h : ∀ s, MayIssue o s → when s → ∃ s1, op (begun o s) = .ok s1 ∧ s1.cur = s.cur ∧ (∀ o a, s1.byteAt o a = s.byteAt o a) ∧
      ((w s).team = false → ∀ n, n ≠ s.cur → s1.coreAt n = s.coreAt n) ∧ Core.Leaves (w s) s.cur s.core s1.core ∧
      Core.Straight s.core s1.core ∧ post s (finished o s s1)) :
    Completes i o w post when := by
  intro s hm hw
  obtain ⟨s1, h1, h2, h3, h4, h5, h6, h7⟩ := h s hm hw
  obtain ⟨a, b, c⟩ := issueAlone_completes hm h1 h2 h3 h4 h5 h6
  exact ⟨_, (hx s).trans a, h7, b, c⟩

/-- A scalar result. -/
theorem setsScalar_of {i : Instr} {o : Op} {op : State → OpRes} {d : SReg} {v : Core → Word} {fl : Core → FFlags}
    (hx : ∀ s, exec i s = issueAlone o op s) (hop : ∀ s, op s = onReg s fun c => (c.ws d (v c)).raise (fl c))
    (hv : ∀ c y, v (c.begin' y) = v c) (hf : ∀ c y, fl (c.begin' y) = fl c) : SetsScalar i o d v fl := by
  intro s h _
  have l : Core.Leaves { s := [d.val], flags := fl s.core } s.cur s.core ((begun o s).on fun c => (c.ws d (v c)).raise (fl c)).core := by
    simp only [State.core_on, begun, hv, hf]
    exact Core.leaves_ws (Core.leaves_begin' _ _ _) d _ _
  obtain ⟨h1, h2, h3⟩ := issueAlone_completes h (hop _) rfl (fun _ _ => State.byteAt_congr rfl _ _) (fun _ n hn => by simp [begun, State.coreAt_on, hn]) l
    (by constructor <;> simp [begun, Core.raise])
  refine ⟨_, (hx s).trans h1, ?_, h2, h3⟩
  obtain ⟨ls, bp, next, b, e, -⟩ := Core.endGroup_shape (needs o s).words (((begun o s).core.ws d (v (begun o s).core)).raise (fl (begun o s).core))
  simp only [finished, State.core_on, e]
  show (((begun o s).core.ws d (v (begun o s).core)).raise _).rs d = _
  simp [begun, hv]

/-- A scalar result that raises nothing. -/
theorem setsScalar_quiet {i : Instr} {o : Op} {op : State → OpRes} {d : SReg} {v : Core → Word}
    (hx : ∀ s, exec i s = issueAlone o op s) (hop : ∀ s, op s = onReg s fun c => c.ws d (v c))
    (hv : ∀ c y, v (c.begin' y) = v c) : SetsScalar i o d v :=
  setsScalar_of hx (fun s => by rw [hop]; simp only [Core.raise_zero]) hv fun _ _ => rfl

/-- A predicate result. -/
theorem setsPredicate_of {i : Instr} {o : Op} {op : State → OpRes} {d : PReg} {v : Core → Bool}
    (hx : ∀ s, exec i s = issueAlone o op s) (hop : ∀ s, op (begun o s) = onReg (begun o s) fun c => c.wp d (v c))
    (hv : ∀ c y, v (c.begin' y) = v c) : SetsPredicate i o d v := by
  intro s h hw
  have l : Core.Leaves { p := [d.val] } s.cur s.core ((begun o s).on fun c => c.wp d (v c)).core := by
    simp only [State.core_on, begun, hv]
    exact Core.leaves_wp (Core.leaves_begin' _ _ _) d _
  obtain ⟨h1, h2, h3⟩ := issueAlone_completes h (hop _) rfl (fun _ _ => State.byteAt_congr rfl _ _) (fun _ n hn => by simp [begun, State.coreAt_on, hn]) l
    (by constructor <;> simp [begun])
  refine ⟨_, (hx s).trans h1, ?_, h2, h3⟩
  obtain ⟨ls, bp, next, b, e, -⟩ := Core.endGroup_shape (needs o s).words ((begun o s).core.wp d (v (begun o s).core))
  simp only [finished, State.core_on, e]
  show ((begun o s).core.wp d (v (begun o s).core)).rp d = _
  simp [begun, hv]

/-- A mask result. -/
theorem setsMask_of {i : Instr} {o : Op} {op : State → OpRes} {d : MReg} {v : Core → Mask} {when : State → Prop}
    (hx : ∀ s, exec i s = issueAlone o op s) (hop : ∀ s, when s → op (begun o s) = onReg (begun o s) fun c => c.wm d (v c))
    (hv : ∀ c y, v (c.begin' y) = v c) : SetsMask i o d v when := by
  intro s h hw
  have l : Core.Leaves { m := [d.val] } s.cur s.core ((begun o s).on fun c => c.wm d (v c)).core := by
    simp only [State.core_on, begun, hv]
    exact Core.leaves_wm (Core.leaves_begin' _ _ _) d _
  obtain ⟨h1, h2, h3⟩ := issueAlone_completes h (hop _ hw) rfl (fun _ _ => State.byteAt_congr rfl _ _) (fun _ n hn => by simp [begun, State.coreAt_on, hn]) l
    (by constructor <;> simp [begun])
  refine ⟨_, (hx s).trans h1, ?_, h2, h3⟩
  obtain ⟨ls, bp, next, b, e, -⟩ := Core.endGroup_shape (needs o s).words ((begun o s).core.wm d (v (begun o s).core))
  simp only [finished, State.core_on, e]
  show ((begun o s).core.wm d (v (begun o s).core)).rm d = _
  simp [begun, hv]

end Sys2Proof.Machine
end

