-- ==== Sys2Proof/Laws/Access.lean ====
section
/-!
SUPPORT. Loads, stores and read-modify-writes: the checks that are made as they issue, and their entry into the access unit.
-/

namespace Sys2Proof.Machine

/-- The core as the group begins. -/
theorem begun_core (o s) : (begun o s).core = s.core.begin' ((needs o s).cls == .Y) := by simp [begun]

/-- An operation that joins the access unit changes the unit, the numbering and the combining buffer alone. -/
theorem enqueue_eq (c : Core) (o : AccOp) : c.enqueue o = { c with acc := c.acc ++ [o], nextOp := c.nextOp + 1, reds := (c.enqueue o).reds } := by
  unfold Core.enqueue Core.flushShared Core.flushReds; split <;> rfl

/-- An access that passes its checks goes to the access unit and changes nothing else. -/
theorem passesAccess_of {i : Instr} {o : Op} {a : Core → Access} {wh}
    (hx : ∀ s, exec i s = issueAlone o (fun s => issueAccess (a s.core) s) s) (ha : ∀ c y, a (c.begin' y) = a c) : PassesAccess i o a wh := by
  refine completes_of hx fun s hm hw => ?_
  obtain ⟨⟨h1, h2, h3, h4⟩, ⟨h5, h6⟩, -⟩ := hw
  have e : a (begun o s).core = a s.core := by rw [begun_core, ha]
  refine ⟨(begun o s).on fun k => k.enqueue ((a s.core).op k), ?_, rfl, fun _ _ => State.byteAt_congr rfl _ _, fun _ n hn => by simp [begun, State.coreAt_on, hn], ?_, ?_, ?_⟩
  · show issueAccess _ _ = _
    unfold issueAccess
    have f : accessFault (a s.core) = none := by
      unfold accessFault
      rw [if_neg (by simp [h1]), if_neg]
      simp only [Bool.not_eq_true', Bool.not_eq_false, Bool.and_eq_true, List.all_eq_true, bne_iff_ne]
      exact ⟨⟨h2, h3⟩, h4⟩
    rw [e, f]
    dsimp only
    rw [if_neg]; rfl
    simp [h5, h6]
  · have l := Core.leaves_begin' s.core ((needs o s).cls == .Y) s.cur
    simp only [State.core_on, begun_core]
    rw [enqueue_eq]
    exact { l with queue := fun h => by simp at h, flags := l.flags, setFlags := l.setFlags, branches := l.branches }
  · simp only [State.core_on, begun_core]
    rw [enqueue_eq]
    constructor <;> simp
  · obtain ⟨ls, bp, next, b, e', -⟩ := Core.endGroup_shape (needs o s).words ((begun o s).core.enqueue ((a s.core).op (begun o s).core))
    simp only [finished, State.core_on, e']
    show ((begun o s).core.enqueue ((a s.core).op (begun o s).core)).acc = _
    rw [enqueue_eq, begun_core, Core.begin'_acc]
    dsimp only
    congr 2
    rw [Core.begin'_eq]
    simp only [Access.op, queued, Core.begin']
    cases (needs o s).cls == .Y <;> rfl

/-- The checks of R209 are made in their order, before anything happens. -/
theorem checks_of {i : Instr} {o : Op} {a : Core → Access}
    (hx : ∀ s, exec i s = issueAlone o (fun s => issueAccess (a s.core) s) s) (ha : ∀ c y, a (c.begin' y) = a c) : Checks i o a := by
  intro s hm
  have e : a (begun o s).core = a s.core := by rw [begun_core, ha]
  refine ⟨fun h => ?_, fun h h' => ?_⟩
  · have f : accessFault (a s.core) = some (Trap.precise 0x06 0 (BitVec.ofInt 64 (a s.core).addr)) := by
      unfold accessFault; rw [if_pos h]; rfl
    rw [hx, issueAlone_trap hm (t := Trap.precise 0x06 0 (BitVec.ofInt 64 (a s.core).addr)) (s1 := begun o s)]
    · rfl
    · unfold issueAccess; rw [e, f]
  · have f : accessFault (a s.core) = some (Trap.precise 0x02 0 (BitVec.ofInt 64 (a s.core).addr)) := by
      unfold accessFault; rw [if_neg (by simp [h]), if_pos]; rfl
      simp only [Permitted, h, true_and] at h'
      simp only [Bool.not_eq_true']
      rw [← Bool.not_eq_true]
      simpa only [Bool.and_eq_true, List.all_eq_true, bne_iff_ne, and_assoc] using h'
    rw [hx, issueAlone_trap hm (t := Trap.precise 0x02 0 (BitVec.ofInt 64 (a s.core).addr)) (s1 := begun o s)]
    · rfl
    · unfold issueAccess; rw [e, f]

end Sys2Proof.Machine
end

