-- ==== Sys2Proof/Laws/Events.lean ====
section
/-!
SUPPORT. Device events: where they run (R4, R437, R517), and a queue of a function changed (R105).
-/

namespace Sys2Proof.Machine

/-- A device event runs where the device is not frozen. -/
theorem atDevice_of {f : State → State} {s : State} (h : DeviceRuns s) : atDevice f s = .next (f s) := by
  unfold DeviceRuns at h; simp [atDevice, h]

/-- An event of the scheduler runs where firmware does. -/
theorem atScheduler_of {f : State → State} {s : State} (h : FirmwareRuns s) : atScheduler f s = .next (f s) := by
  obtain ⟨h1, h2⟩ := h; unfold atScheduler; rw [atDevice_of h1]; simp only [byFirmware, State.fwRuns, h2.1, bne_iff_ne.2 h2.2]; rfl

/-- An event of a core runs where its clocks do. -/
theorem atCore_of {n : Nat} {f : State → State} {s : State} (h : CoreRuns s n) : atCore n f s = .next (f s) := by
  unfold CoreRuns at h; simp [atCore, isCore, h.1, h.2]

/-- A queue changed: nothing else is. -/
theorem onQueue_becomes (s : State) (fn q : Nat) (k : HostQueue) (f : HostQueue → HostQueue) (h : s.queueAt fn q = some k) :
   QueueBecomes fn q (f k) s (s.onQueue fn q f) := by
  refine ⟨?_, ?_, ?_, ?_⟩
  · simp [OnlyHost, State.onQueue, h, State.setFn]
  · simp [State.onQueue, State.queueAt] at h ⊢
    simp [h]
  · intro g hg; simp [State.onQueue, h, hg]
  · intro r hr; simp [State.onQueue, State.queueAt] at h ⊢; simp [h, hr]

end Sys2Proof.Machine
end

