-- ==== Sys2Proof/Laws/Vector.lean ====
section
/-!
SUPPORT. Vector results: the elements of a row, the sweep over them with the lanes' generators (R55, R229), and the push onto the
last-result file (R235).
-/

namespace Sys2Proof.Machine

open Sys2Proof.Bits

/-! ### Rows from elements -/

/-- An element of a list packed in widths. -/
theorem natOfElems_get (w : Nat) (xs : List Nat) (i : Nat) : (natOfElems w xs >>> (w * i)) % 2 ^ w = (xs[i]?).getD 0 % 2 ^ w := by
  induction xs generalizing i with
  | nil => simp [natOfElems]
  | cons x r ih =>
    have h2 : 0 < 2 ^ w := Nat.two_pow_pos w
    simp only [natOfElems, Nat.shiftLeft_eq]
    cases i with
    | zero => simp
    | succ i =>
      have : (x % 2 ^ w + natOfElems w r * 2 ^ w) >>> (w * (i + 1)) = natOfElems w r >>> (w * i) := by
        rw [Nat.mul_succ, Nat.add_comm (w * i) w, Nat.shiftRight_add, Nat.shiftRight_eq_div_pow _ w, Nat.add_mul_div_right _ _ h2,
          Nat.div_eq_of_lt (Nat.mod_lt _ h2), Nat.zero_add]
      rw [this, ih]
      simp

/-- An element of a row made of elements. -/
theorem elem_rowOfElems (w : Nat) (xs : List Nat) (i : Nat) (h : i < 4096 / w) :
    elem (rowOfElems w xs) w i = (xs[i]?).getD 0 % 2 ^ w := by
  have hw : w * i + w ≤ 4096 := by
    have h1 : w * (i + 1) ≤ w * (4096 / w) := Nat.mul_le_mul_left w h
    exact Nat.le_trans h1 (Nat.mul_div_le 4096 w)
  rw [← natOfElems_get w xs i]
  simp only [elem, rowOfElems, BitVec.toNat_ofNat]
  refine Nat.eq_of_testBit_eq fun j => ?_
  simp only [Nat.testBit_mod_two_pow, Nat.testBit_shiftRight]
  by_cases hj : j < w
  · simp [hj, show w * i + j < 4096 by omega]
  · simp [hj]

/-! ### The sweep -/

/-- All that a sweep over the first `n` elements comes to. -/
theorem sweep_upto (w : Nat) (on : Nat → Bool) (old : Nat → Nat) (f : Nat → BitVec 32 → Rounded) (gens : List (BitVec 32)) (n : Nat) :
    let a := (List.range n).foldl (Sweep.next w on old f) ⟨[], 0, gens⟩
    a.done.length = n ∧
    (∀ i < n, a.done.reverse[i]? = some (if on i then (f i (laneGen w on f gens (w * i / 32) i)).bits else old i)) ∧
    a.flags = (List.range n).foldl (fun fl i => if on i then fl ||| (f i (laneGen w on f gens (w * i / 32) i)).flags else fl) 0 ∧
    a.gens.length = gens.length ∧ ∀ l, (a.gens[l]?).getD 1 = laneGen w on f gens l n := by
  induction n with
  | zero => refine ⟨rfl, fun i h => absurd h (Nat.not_lt_zero i), rfl, rfl, fun l => rfl⟩
  | succ n ih =>
    obtain ⟨h1, h2, h3, h4, h5⟩ := ih
    dsimp only
    simp only [List.range_succ, List.foldl_append, List.foldl_cons, List.foldl_nil]
    generalize ha : (List.range n).foldl (Sweep.next w on old f) ⟨[], 0, gens⟩ = a at *
    by_cases ho : on n = true
    · have e : Sweep.next w on old f a n = ⟨(f n (laneGen w on f gens (w * n / 32) n)).bits :: a.done,
          a.flags ||| (f n (laneGen w on f gens (w * n / 32) n)).flags, a.gens.set (w * n / 32) (f n (laneGen w on f gens (w * n / 32) n)).gen⟩ := by
        unfold Sweep.next
        rw [if_pos ho]
        dsimp only [laneOf]
        rw [h5]
        split
        · rename_i hg
          congr 1
          rw [hg, ← h5]
          apply List.ext_getElem?
          intro k
          rw [List.getElem?_set]
          split
          · rename_i hk
            subst hk
            split
            · rename_i hl; rw [List.getElem?_eq_getElem hl]; rfl
            · rename_i hl; rw [List.getElem?_eq_none (by omega)]
          · rfl
        · rfl
      rw [e]
      refine ⟨by simp [h1], fun i hi => ?_, by rw [h3]; simp [ho], by simp [h4], fun l => ?_⟩
      · rw [List.reverse_cons]
        by_cases hin : i < n
        · rw [List.getElem?_append_left (by simp [h1, hin])]; exact h2 i hin
        · have : i = n := by omega
          subst this
          rw [List.getElem?_append_right (by simp [h1])]
          simp [h1, ho]
      · simp only [laneGen, ho, true_and]
        rw [List.getElem?_set]
        by_cases hl : w * n / 32 = l
        · subst hl
          by_cases hg : w * n / 32 < gens.length
          · simp [hg, h4]
          · rw [if_pos rfl, if_neg (by rw [h4]; exact hg), if_neg (by simp [hg]), ← h5, List.getElem?_eq_none (by omega)]
        · simp only [hl, if_false, false_and]; exact h5 l
    · have e : Sweep.next w on old f a n = { a with done := old n :: a.done } := by unfold Sweep.next; rw [if_neg ho]
      rw [e]
      refine ⟨by simp [h1], fun i hi => ?_, by rw [h3]; simp [ho], h4, fun l => ?_⟩
      · rw [List.reverse_cons]
        by_cases hin : i < n
        · rw [List.getElem?_append_left (by simp [h1, hin])]; exact h2 i hin
        · have : i = n := by omega
          subst this
          rw [List.getElem?_append_right (by simp [h1])]
          simp [h1, ho]
      · simp only [laneGen, ho, Bool.false_eq_true, false_and, and_false, if_false]; exact h5 l

/-! ### The last-result file -/

/-- The entries of a file that a push keeps, and those that it moves on. -/
def movedFile {α : Type} (m : SMap α) : SMap α :=
  (m.filter fun e => decide (e.1 < 608)) ++ m.filterMap fun e => if 608 ≤ e.1 ∧ e.1 < 639 then some (e.1 + 1, e.2) else none

theorem get_filterMap_moved {α : Type} (d : α) (m : SMap α) (q p : Nat) (hp : 608 ≤ p) (hq : q = p + 1) (h : q < 640) :
    SMap.get d (m.filterMap fun e => if 608 ≤ e.1 ∧ e.1 < 639 then some (e.1 + 1, e.2) else none) q = SMap.get d m p := by
  induction m with
  | nil => rfl
  | cons e m ih =>
    obtain ⟨k, v⟩ := e
    subst hq
    by_cases hk : 608 ≤ k ∧ k < 639
    · simp only [List.filterMap_cons, if_pos hk, SMap.get_cons, ih]
      by_cases e : p = k <;> simp [e]
    · simp only [List.filterMap_cons, if_neg hk, SMap.get_cons, ih]
      rw [if_neg (by omega)]

theorem get_low_append {α : Type} (d : α) (m t : SMap α) (q : Nat) (h : q < 608) (ht : SMap.get d t q = d) :
    SMap.get d ((m.filter fun e => decide (e.1 < 608)) ++ t) q = SMap.get d m q := by
  induction m with
  | nil => exact ht
  | cons e m ih =>
    obtain ⟨k, v⟩ := e
    by_cases hk : k < 608
    · simp only [List.filter_cons, hk, decide_true, if_true, List.cons_append, SMap.get_cons, ih]
    · simp only [List.filter_cons, hk, decide_false, Bool.false_eq_true, if_false, SMap.get_cons, ih]
      rw [if_neg (by omega)]

theorem get_high_append {α : Type} (d : α) (m t : SMap α) (q : Nat) (h : 608 ≤ q) :
    SMap.get d ((m.filter fun e => decide (e.1 < 608)) ++ t) q = SMap.get d t q := by
  induction m with
  | nil => rfl
  | cons e m ih =>
    obtain ⟨k, v⟩ := e
    by_cases hk : k < 608
    · simp only [List.filter_cons, hk, decide_true, if_true, List.cons_append, SMap.get_cons, ih]
      rw [if_neg (by omega)]
    · simp only [List.filter_cons, hk, decide_false, Bool.false_eq_true, if_false, ih]

/-- A low name reads as before. -/
theorem get_moved_low {α : Type} (d : α) (m : SMap α) (q : Nat) (h : q < 608) : SMap.get d (movedFile m) q = SMap.get d m q := by
  refine get_low_append d m _ q h (SMap.get_eq_of_not_mem fun e he => ?_)
  obtain ⟨x, -, hx⟩ := List.mem_filterMap.1 he
  split at hx
  · cases hx; dsimp only; omega
  · cases hx

/-- A result reads one place further on. -/
theorem get_moved_old {α : Type} (d : α) (m : SMap α) (q p : Nat) (hp : 608 ≤ p) (hq : q = p + 1) (h : q < 640) :
    SMap.get d (movedFile m) q = SMap.get d m p := by
  rw [movedFile, get_high_append d m _ q (by omega), get_filterMap_moved d m q p hp hq h]

namespace Core

theorem push_eq (c : Core) (r : Row) : c.push r = { c with regs := { c.regs with v := SMap.put 0 (movedFile c.regs.v) 608 r } } := rfl

/-- A push leaves the registers below the file alone. -/
theorem rv_push_low (c : Core) (r : Row) (q : VReg) (h : q.val < 608) : (c.push r).rv q = c.rv q := by
  rw [push_eq]
  simp only [rv, SMap.get_put, if_neg (show ¬ q.val = 608 by omega)]
  exact get_moved_low _ _ _ h

/-- The newest result. -/
theorem rv_push_new (c : Core) (r : Row) (q : VReg) (h : q.val = 608) : (c.push r).rv q = r := by
  simp [rv, push_eq, h]

/-- An older result moves on by one. -/
theorem rv_push_old (c : Core) (r : Row) (q p : VReg) (h : 608 ≤ p.val) (hq : q.val = p.val + 1) : (c.push r).rv q = c.rv p := by
  rw [push_eq]
  simp only [rv, SMap.get_put, if_neg (show ¬ q.val = 608 by omega)]
  exact get_moved_old _ _ _ _ h hq q.isLt

/-- A vector register written and read by number. -/
theorem rv_wvAt (c : Core) (n : Nat) (r : Row) (q : VReg) : (c.wvAt n r).rv q = if q.val = n then r else c.rv q := by
  simp [rv, wvAt]

/-- A vector result, all registers. -/
theorem rv_wv (c : Core) (d q : VReg) (r : Row) (h : q.val < 608) : (c.wv d r).rv q = if q.val = d.val then r else c.rv q := by
  rw [wv, rv_push_low _ _ _ h, rv_wvAt]

/-- A vector result leaves the core but for its vector registers. -/
theorem wv_eq (c : Core) (d : VReg) (r : Row) : c.wv d r = { c with regs := { c.regs with v := (c.wv d r).regs.v } } := rfl

/-- A vector result, with generators and flags. -/
theorem leaves_wv {c b : Core} {n : Nat} (h : Leaves {} n c b) (d : VReg) (r : Row) (gens : List (BitVec 32)) (f : FFlags) :
    Leaves { v := some d.val, flags := f, draws := true } n c ((b.wv d r).drew gens f) where
  scalars q _ := h.scalars q (by simp)
  predicates q _ := h.predicates q (by simp)
  masks q _ := h.masks q (by simp)
  caps q _ := h.caps q (by simp)
  regions q _ := h.regions q (by simp)
  branches q _ := h.branches q (by simp)
  vectors q h1 h2 := by
    show (b.wv d r).rv q = c.rv q
    have hlt : q.val < 608 := h2 rfl
    have hd : ¬ q.val = d.val := fun e => h1 (by simp [e])
    rw [rv_wv _ _ _ _ hlt, if_neg hd]
    exact h.vectors q (by simp) (by simp)
  specials k h1 _ := by
    rw [← h.specials k h1 (by simp)]
    rfl
  fflags := h.fflags
  flags := by simp [drew, raise, wv, push, wvAt, h.flags]
  setFlags := h.setFlags
  seed _ := h.seed (.inl rfl)
  cleared := h.cleared
  generators h' := by simp at h'
  rowMap := h.rowMap
  scratchpad p k _ hk := h.scratchpad p k (by simp) hk
  accumulators := h.accumulators
  window _ := h.window rfl
  queue _ := h.queue rfl

end Core

/-- What the core holds after a vector result and the end of its group. -/
theorem Core.ended_wv (w : Nat) (b : Core) (d : VReg) (r : Row) (gens : List (BitVec 32)) (f : FFlags) (hs : b.grp.seed = none) :
    (∀ q, (((b.wv d r).drew gens f).endGroup w).rv q = (b.wv d r).rv q) ∧ (((b.wv d r).drew gens f).endGroup w).sp.gens = gens := by
  obtain ⟨ls, bp, next, bb, e, -⟩ := Core.endGroup_shape w ((b.wv d r).drew gens f)
  rw [e]
  refine ⟨fun q => rfl, ?_⟩
  have hg : ((b.wv d r).drew gens f).grp.seed = none := hs
  simp only [Core.ended, Core.commitGroup, hg]
  rfl

/-- A vector destination element by element. -/
theorem setsElems_of {i : Instr} {o : Op} {op : State → OpRes} {w : Nat} {d : VReg} {on : Core → Nat → Bool}
    {f : Core → Nat → BitVec 32 → Rounded} {when : State → Prop}
    (hx : ∀ s, exec i s = issueAlone o op s) (hop : ∀ s, when s → op (begun o s) = writeElems w d on f (begun o s))
    (hon : ∀ c y, on (c.begin' y) = on c) (hf : ∀ c y, f (c.begin' y) = f c) : SetsElems i o w d on f when := by
  refine completes_of hx fun s hm hw => ?_
  obtain ⟨hd, hw⟩ := hw
  have b : (begun o s).core = s.core.begin' ((needs o s).cls == .Y) := by simp [begun]
  have l := Core.leaves_begin' s.core ((needs o s).cls == .Y) s.cur
  rw [← b] at l
  have hs : (begun o s).core.grp.seed = none := by rw [b]; simp
  obtain ⟨h1, h2, h3, h4, h5⟩ := sweep_upto w (on s.core) (elem (s.core.rv d) w) (f s.core) s.core.sp.gens (4096 / w)
  have e : sweep w (on (begun o s).core) (elem ((begun o s).core.rv d) w) (f (begun o s).core) (begun o s).core.sp.gens
      = (List.range (4096 / w)).foldl (Sweep.next w (on s.core) (elem (s.core.rv d) w) (f s.core)) ⟨[], 0, s.core.sp.gens⟩ := by
    rw [b, hon, hf]; simp [sweep]
  generalize (List.range (4096 / w)).foldl (Sweep.next w (on s.core) (elem (s.core.rv d) w) (f s.core)) ⟨[], 0, s.core.sp.gens⟩ = a at *
  have hop' := hop s hw
  have hres : writeElems w d on f (begun o s) = .ok ((begun o s).on fun c => (c.wv d (rowOfElems w a.done.reverse)).drew a.gens a.flags) := by
    have : ∀ g h : Core → Core, g (begun o s).core = h (begun o s).core → OpRes.ok ((begun o s).on g) = OpRes.ok ((begun o s).on h) := by
      intro g h e; show OpRes.ok ((begun o s).setCore _ (g (begun o s).core)) = OpRes.ok ((begun o s).setCore _ (h (begun o s).core)); rw [e]
    exact this _ _ (by dsimp only; rw [e])
  rw [hres] at hop'
  refine ⟨_, hop', rfl, fun _ _ => State.byteAt_congr rfl _ _, fun _ n hn => by simp [begun, State.coreAt_on, hn], ?_, ?_, ?_⟩
  · simp only [State.core_on]
    have hfl : a.flags = laneFlags w (on s.core) (f s.core) s.core.sp.gens := h3
    rw [← hfl]
    exact Core.leaves_wv l d _ a.gens a.flags
  · simp only [State.core_on, b]
    constructor <;> simp [Core.drew, Core.raise, Core.wv, Core.push, Core.wvAt]
  · obtain ⟨hrv, hgens⟩ := Core.ended_wv (needs o s).words (begun o s).core d (rowOfElems w a.done.reverse) a.gens a.flags hs
    simp only [finished, State.core_on]
    refine ⟨fun k hk => ?_, fun r hr => ?_, fun r q hq hr => ?_, by rw [hgens]; exact h4, fun l hl => ?_⟩
    · rw [hrv, Core.rv_wv _ _ _ _ hd, if_pos rfl, elem_rowOfElems _ _ _ hk, h2 k hk]
      by_cases ho : on s.core k = true
      · simp [ho]
      · simp [ho, elem]
    · rw [hrv, hrv, Core.rv_wv _ _ _ _ hd, if_pos rfl, Core.wv, Core.rv_push_new _ _ _ hr]
    · rw [hrv, Core.wv, Core.rv_push_old _ _ _ _ hq hr, Core.rv_wvAt, if_neg (by omega), b]; simp
    · rw [hgens, List.getElem?_eq_getElem (by omega), ← h5 l, List.getElem?_eq_getElem (by omega)]
      rfl

end Sys2Proof.Machine
end

