-- ==== Sys2Proof/Laws/Forms.lean ====
section
/-!
SUPPORT. What a form of instruction does, from what its operation does: scalar results (R182), lane operations under masks and under
`%vt` (R233), and traps.
-/

namespace Sys2Proof.Machine

open Sys2Proof.Bits

/-- What a scalar operation of two registers writes. -/
theorem setsScalar_binary {i : Instr} {o : Op} {d a b : SReg} {f : Word → Word → Word} {v : Core → Word}
    (hx : ∀ s, exec i s = issueAlone o (binary f d a b) s) (hv : ∀ c : Core, v c = f (c.rs a) (c.rs b)) : SetsScalar i o d v := by
  obtain rfl : v = fun c => f (c.rs a) (c.rs b) := funext hv
  exact setsScalar_quiet hx (fun _ => rfl) (fun _ _ => by simp)

/-- What a scalar operation of one register writes. -/
theorem setsScalar_unary {i : Instr} {o : Op} {d a : SReg} {f : Word → Word} {v : Core → Word}
    (hx : ∀ s, exec i s = issueAlone o (unary f d a) s) (hv : ∀ c : Core, v c = f (c.rs a)) : SetsScalar i o d v := by
  obtain rfl : v = fun c => f (c.rs a) := funext hv
  exact setsScalar_quiet hx (fun _ => rfl) (fun _ _ => by simp)

/-- A result stated bit by bit, from one stated as a word. -/
theorem setsBits_of_scalar {i : Instr} {o : Op} {d : SReg} {v : Core → Word} {f : Core → Nat → Bool} (h : SetsScalar i o d v)
    (hb : ∀ c k, k < 64 → (v c).getLsbD k = f c k) : SetsBits i o d f := by
  intro s hm hw
  obtain ⟨t, h1, h2, h3, h4⟩ := h s hm hw
  refine ⟨t, h1, fun k hk => ?_, h3, h4⟩
  rw [h2]; split
  · simp
  · exact hb _ _ hk

/-- A sweep depends on its lanes alone. -/
theorem sweep_congr (w : Nat) (on on' : Nat → Bool) (old : Nat → Nat) (f f' : Nat → BitVec 32 → Rounded) (gens : List (BitVec 32))
    (h1 : ∀ k < 4096 / w, on' k = on k) (h2 : ∀ k < 4096 / w, on k = true → f' k = f k) : sweep w on' old f' gens = sweep w on old f gens := by
  unfold sweep
  have : ∀ (l : List Nat) a, (∀ k ∈ l, k < 4096 / w) → l.foldl (Sweep.next w on' old f') a = l.foldl (Sweep.next w on old f) a := by
    intro l; induction l with
    | nil => intros; rfl
    | cons k l ih =>
      intro a h
      have hk := h k (by simp)
      have e : Sweep.next w on' old f' a k = Sweep.next w on old f a k := by
        unfold Sweep.next; rw [h1 k hk]
        by_cases ho : on k = true
        · rw [h2 k hk ho]
        · simp [ho]
      simp only [List.foldl_cons, e]
      exact ih _ fun x hx => h x (List.mem_cons_of_mem _ hx)
  exact this _ _ fun k hk => List.mem_range.1 hk

/-- So does what it writes. -/
theorem writeElems_congr (w : Nat) (d : VReg) (on on' : Core → Nat → Bool) (f f' : Core → Nat → BitVec 32 → Rounded) (s : State)
    (h1 : ∀ c, ∀ k < 4096 / w, on' c k = on c k) (h2 : ∀ c, ∀ k < 4096 / w, on c k = true → f' c k = f c k) :
    writeElems w d on' f' s = writeElems w d on f s := by
  unfold writeElems
  congr 1; funext c
  dsimp only
  rw [sweep_congr w _ _ _ _ _ _ (h1 c) (h2 c)]

/-- All elements are enabled by the first mask. -/
theorem enabled_m0 (c : Core) (w k : Nat) (h : k < 4096 / w) : enabled (c.rm 0) w k = true := by
  have : w * k / 8 < 512 := by
    have h1 : w * (k + 1) ≤ w * (4096 / w) := Nat.mul_le_mul_left w h
    have h2 := Nat.mul_div_le 4096 w
    have : 0 < w := by
      rcases Nat.eq_zero_or_pos w with e | e
      · subst e; simp at h
      · exact e
    have : w * (k+1) = w * k + w := by rw [Nat.mul_succ]
    omega
  show (BitVec.allOnes 512).getLsbD _ = true
  rw [BitVec.getLsbD_allOnes]; simpa using this

/-- What an operation that sweeps a row writes. -/
theorem setsElems_congr {i : Instr} {o : Op} {op : State → OpRes} {w : Nat} {d : VReg} {on on' : Core → Nat → Bool}
    {f f' : Core → Nat → BitVec 32 → Rounded} {when : State → Prop}
    (hx : ∀ s, exec i s = issueAlone o op s) (hop : ∀ s, when s → op (begun o s) = writeElems w d on' f' (begun o s))
    (h1 : ∀ c, ∀ k < 4096 / w, on' c k = on c k) (h2 : ∀ c, ∀ k < 4096 / w, on c k = true → f' c k = f c k)
    (hon : ∀ c y, on (c.begin' y) = on c) (hf : ∀ c y, f (c.begin' y) = f c) : SetsElems i o w d on f when :=
  setsElems_of hx (fun s hs => (hop s hs).trans (writeElems_congr w d on on' f f' _ h1 h2)) hon hf

/-- An operation that traps. -/
theorem traps_of {i : Instr} {o : Op} {op : State → OpRes} {t : State → Trap} {when : State → Prop} (hx : ∀ s, exec i s = issueAlone o op s)
    (hop : ∀ s, when s → op (begun o s) = .trap (t s) (begun o s)) (ht : ∀ s, (t s).delivery ≠ .after) : Traps i o t when := by
  intro s hm hw
  rw [hx, issueAlone_trap hm (hop s hw), if_neg (ht s)]; rfl

/-! `%vt` is as before when an operation begins. -/

theorem vtTy_begin' (c : Core) (y) : vtTy (c.begin' y) = vtTy c := by simp [vtTy]
theorem vtRnd_begin' (c : Core) (y) : vtRnd (c.begin' y) = vtRnd c := by simp [vtRnd]
theorem vtCty_begin' (c : Core) (y) : vtCty (c.begin' y) = vtCty c := by simp [vtCty]
theorem slotTypeOk_begin' (c : Core) (y p) : slotTypeOk (c.begin' y) p = slotTypeOk c p := by
  cases p <;> simp [slotTypeOk, vtTy, vtCty]
theorem begin'_wordPc0 (c : Core) (y) : (c.begin' y).wordPc (c.begin' y).grp.word = c.pc := by
  unfold Core.begin'; cases y <;> simp [Core.wordPc, GroupAcc.empty, Core.flushReds]

/-- The masked form and the slot form of a lane operation. -/
theorem laneForms_of {i i' : Instr} {o : SoloOp} {p : SlotOp} {t : Ty} {r : Rnd} {d : VReg} {m : MReg} {f : Core → Nat → BitVec 32 → Rounded}
   {op : State → OpRes} {go : Ty → Rnd → State → OpRes}
   (hx : ∀ s, exec i s = issueAlone (.solo o) op s) (hop : ∀ s, op s = writeElems t.width d (fun c => enabled (c.rm m) t.width) f s)
   (hx' : ∀ s, exec i' s = issueAlone (.slot p) (underVt p go) s)
   (hgo : ∀ s, slotTypeOk s.core p = true → go t r s = writeElems t.width d (fun c => enabled (c.rm 0) t.width) f s)
   (hf : ∀ c y, f (c.begin' y) = f c) : LaneForms i o i' p t r d m f := by
  refine ⟨setsElems_of hx (fun s _ => hop _) (by intros; funext k; simp [enabledBy]) hf, ?_, ?_⟩
  · refine setsElems_congr (on' := fun c => enabled (c.rm 0) t.width) (f' := f) hx' (fun s hs => ?_) (fun c k hk => enabled_m0 c _ k hk) (fun _ _ _ _ => rfl) (fun _ _ => rfl) hf
    obtain ⟨h1, h2, h3⟩ := hs
    have hb : (begun (.slot p) s).core = s.core.begin' ((needs (.slot p) s).cls == .Y) := by simp [begun]
    unfold underVt
    dsimp only
    rw [hb, slotTypeOk_begin', h3, if_pos rfl, vtTy_begin', vtRnd_begin', h1, h2]
    exact hgo _ (by rw [hb, slotTypeOk_begin', h3])
  · refine traps_of hx' (fun s hs => ?_) (fun _ => by simp [Trap.precise, Trap.of])
    have hb : (begun (.slot p) s).core = s.core.begin' ((needs (.slot p) s).cls == .Y) := by simp [begun]
    unfold underVt
    dsimp only
    rw [hb, slotTypeOk_begin', hs, begin'_wordPc0]
    simp [illegalTrap]
    unfold Core.begin'; cases ((needs (.slot p) s).cls == .Y) <;> rfl
end Sys2Proof.Machine
end

