-- ==== Sys2Proof/Laws/Matrix.lean ====
section
/-!
SUPPORT. What a task consumes under a clamp (R74, R271): never more than without one.
-/

namespace Sys2Proof.Machine

open Sys2Proof.Bits

/-- A clamp lets a task walk no more rows than its record names. -/
theorem clampRows_le (p : Posted) (k : Option Nat) : clampRows p k ≤ clampRows p none := by
  cases k
  · exact Nat.le_refl _
  · exact Nat.min_le_left _ _

theorem ceilDiv_mono {a b : Nat} (n : Nat) (h : a ≤ b) : ceilDiv a n ≤ ceilDiv b n := Nat.div_le_div_right (by omega)

/-- The rows that a task consumes under a clamp are among those that it consumes without one. -/
theorem Entry.consumed_clamp (e : Entry) (k : Option Nat) (c : Core) {r : Nat} (h : r ∈ e.consumed k c) : r ∈ e.consumed none c := by
  have hn := clampRows_le e.post k
  have up : ∀ q a b, a ≤ b → r ∈ (if (e.post.box q).isSome then (List.range a).map (walkRow e.post q) else []) →
      r ∈ (if (e.post.box q).isSome then (List.range b).map (walkRow e.post q) else []) := by
    intro q a b hab hr
    split at hr
    · next hq => rw [if_pos hq]; obtain ⟨x, hx, rfl⟩ := List.mem_map.1 hr; exact List.mem_map.2 ⟨x, by simp at hx ⊢; omega, rfl⟩
    · simp at hr
  have vec : ∀ q, r ∈ (match e.post.box q with
      | some b => if clampRows e.post k = 0 then [] else ((taskProgram e.post c).flatMap Epi.cvs).map (b.rowLo + ·)
      | none => ([] : List Nat)) → r ∈ (match e.post.box q with
      | some b => if clampRows e.post none = 0 then [] else ((taskProgram e.post c).flatMap Epi.cvs).map (b.rowLo + ·)
      | none => ([] : List Nat)) := by
    intro q hr
    cases hb : e.post.box q with
    | none => simp [hb] at hr
    | some b =>
      simp only [hb] at hr ⊢
      split at hr
      · simp at hr
      · next h0 => rw [if_neg (by omega)]; exact hr
  have mx : ∀ (q a b : Nat), a ≤ b →
      r ∈ (if e.post.mx then (if (e.post.box q).isSome then (List.range a).map (walkRow e.post q) else []) else []) →
      r ∈ (if e.post.mx then (if (e.post.box q).isSome then (List.range b).map (walkRow e.post q) else []) else []) := by
    intro q a b hab hr
    split at hr
    · next hm => rw [if_pos hm]; exact up q a b hab hr
    · simp at hr
  unfold Entry.consumed at h ⊢
  dsimp only at h ⊢
  split at h
  all_goals first
    | exact h
    | exact up _ _ _ hn h
    | exact vec _ h
    | skip
  · rcases List.mem_append.1 h with h | h
    · exact List.mem_append.2 (.inl (up _ _ _ (ceilDiv_mono _ hn) h))
    · exact List.mem_append.2 (.inr (mx _ _ _ (ceilDiv_mono _ (Nat.div_le_div_right (Nat.mul_le_mul_right _ hn))) h))
  · rcases List.mem_append.1 h with h | h
    · exact List.mem_append.2 (.inl (up _ _ _ hn h))
    · exact List.mem_append.2 (.inr (mx _ _ _ hn h))
  · rcases List.mem_append.1 h with h | h
    · rcases List.mem_append.1 h with h | h
      · exact List.mem_append.2 (.inl (List.mem_append.2 (.inl (up _ _ _ hn h))))
      · exact List.mem_append.2 (.inl (List.mem_append.2 (.inr (up _ _ _ hn h))))
    · exact List.mem_append.2 (.inr (vec _ h))

/-- A task that reads no bad row reads none under a clamp. -/
theorem Entry.readsBad_clamp {e : Entry} {c : Core} (k : Option Nat) (h : e.readsBad none c = false) : e.readsBad k c = false := by
  simp only [Entry.readsBad, List.any_eq_false] at h ⊢
  exact fun r hr => h r (e.consumed_clamp k c hr)

/-- A matrix record that consumes no bad word consumes none under a clamp. -/
theorem consumesBad_clamp {e : Entry} {c : Core} (k : Option Nat) (h : consumesBad e none c = false) : consumesBad e k c = false := by
  have hn := clampRows_le e.post k
  simp only [consumesBad, Bool.or_eq_false_iff, List.any_eq_false] at h ⊢
  refine ⟨Entry.readsBad_clamp k h.1, fun x hx => ?_⟩
  have := h.2 x hx
  match x with
  | .row _ => exact this
  | .tile t i j =>
    by_cases h4 : e.post.kind = 0x04
    · simp only [takesEntries, if_pos h4, TileBox.holds, Bool.and_eq_true, decide_eq_true_eq, beq_iff_eq] at this ⊢
      omega
    · by_cases h5 : e.post.kind = 0x05
      · simp only [takesEntries, if_neg h4, if_pos h5, TileBox.holds, Bool.and_eq_true, decide_eq_true_eq, beq_iff_eq] at this ⊢
        omega
      · simp [takesEntries, h4, h5]
  | .plane p q =>
    simp only [takesCell, Bool.and_eq_true, bne_iff_ne, ne_eq] at this ⊢
    rintro ⟨a, ⟨⟨b, c'⟩, d⟩, g⟩
    exact this ⟨a, ⟨⟨b, by omega⟩, d⟩, g⟩

end Sys2Proof.Machine
end

