-- ==== Sys2Proof/Laws/PerInstr.lean ====
section
/-!
SUPPORT. One lemma per instruction: the fields that its encoding is packed from fit their widths and fill the word, so that taking
the word apart gives them back.
-/

namespace Sys2Proof.Laws.Fits

open Sys2Proof Sys2Proof.Machine

/-- Values that fit widths, field by field. -/
def Fields : List Nat → List Nat → Prop
  | [], [] => True
  | w :: ws, v :: vs => v < 2 ^ w ∧ Fields ws vs
  | _, _ => False

/-- The bits of a format that hold its fields, and those that hold its opcode (R158). -/
def room : Decode.Shape → Nat × Nat
  | .solo | .double => (48, 8)
  | .scalarSlot => (15, 5)
  | .vectorSlot => (30, 6)

/-- What the encoding of an operand list needs: every value fits its field, the fields fill the word, and the opcode and the
extension word fit theirs. -/
def Whole (o : Decode.Operands) : Prop :=
  Fields o.widths o.vals ∧ o.widths.sum = (room o.shape).1 ∧ o.op < 2 ^ (room o.shape).2 ∧ o.ext < 2 ^ 64

/-- The fields of an instruction fit the word that holds it. -/
def Statement (i : Instr) : Prop := i.wellFormed = true → match Decode.operands i with | none => True | some o => Whole o

theorem lit {a b : Nat} (h : Nat.blt a b = true) : a < b := Nat.le_of_ble_eq_true h
theorem z {w : Nat} : 0 < 2 ^ w := Nat.two_pow_pos w
theorem fin_lt {n w : Nat} (h : n ≤ 2 ^ w) (a : Fin n) : a.val < 2 ^ w := Nat.lt_of_lt_of_le a.isLt h
theorem vreg_lt (a : VReg) : a.val < 2 ^ 10 := fin_lt (by decide) a
theorem bool_lt (b : Bool) : b.toNat < 2 ^ 1 := by cases b <;> decide
theorem nb_lt (nb : NB) : Decode.nbCode nb < 2 ^ 5 := match nb with
  | none => z
  | some p => Nat.add_lt_add_left p.isLt 16
theorem ext_lt {n : Nat} (x : BitVec n) (h : n ≤ 64 := by decide) : x.toNat < 2 ^ 64 :=
  Nat.lt_of_lt_of_le x.isLt (Nat.pow_le_pow_right (by decide) h)
theorem ty_lt4 (t : Ty) : t.code < 2 ^ 4 := by cases t <;> decide
theorem rnd_lt3 (r : Rnd) : r.code < 2 ^ 3 := by cases r <;> decide
theorem ord_lt2 (o : Ord) : o.code < 2 ^ 2 := by cases o <;> decide
theorem scope_lt3 (s : Scope) : s.code < 2 ^ 3 := by cases s <;> decide
theorem iCond_lt4 (k : ICond) : k.code < 2 ^ 4 := by cases k <;> decide
theorem fCond_lt4 (k : FCond) : k.code < 2 ^ 4 := by cases k <;> decide
theorem vCond_lt4 (k : VCond) : k.code < 2 ^ 4 := by cases k <;> decide

theorem coldReset : Statement (.coldReset) := fun _ => trivial
theorem partitionReset (die : Nat) : Statement (.partitionReset die) := fun _ => trivial
theorem flrVf (fn : Nat) : Statement (.flrVf fn) := fun _ => trivial
theorem flrPf : Statement (.flrPf) := fun _ => trivial
theorem pcieLinkTraining : Statement (.pcieLinkTraining) := fun _ => trivial
theorem jedomPortTraining (port : Nat) (chip : BitVec 10) (peerPort : BitVec 5) (lanes : BitVec 4) : Statement (.jedomPortTraining port chip peerPort lanes) := fun _ => trivial
theorem jedomCrcRetrain (port : Nat) (errs : Nat) : Statement (.jedomCrcRetrain port errs) := fun _ => trivial
theorem cxlLinkTraining (up : Bool) : Statement (.cxlLinkTraining up) := fun _ => trivial
theorem ethernetLinkTraining (up : BitVec 8) : Statement (.ethernetLinkTraining up) := fun _ => trivial
theorem linkRetransmission : Statement (.linkRetransmission) := fun _ => trivial
theorem fwlockLock (v : Word) : Statement (.fwlockLock v) := fun _ => trivial
theorem bar2Access (fn : Nat) (q : Nat) (off : Nat) (acc : HostAcc) : Statement (.bar2Access fn q off acc) := fun _ => trivial
theorem hqDoorbell (fn : Nat) (q : Nat) (v : BitVec 32) : Statement (.hqDoorbell fn q v) := fun _ => trivial
theorem queueEnable (fn : Nat) (q : Nat) (v : Word) : Statement (.queueEnable fn q v) := fun _ => trivial
theorem queueDisable (fn : Nat) (q : Nat) (v : Word) : Statement (.queueDisable fn q v) := fun _ => trivial
theorem queueResume (fn : Nat) (q : Nat) : Statement (.queueResume fn q) := fun _ => trivial
theorem attestationRequest (fn : Nat) : Statement (.attestationRequest fn) := fun _ => trivial
theorem attestationReportReady (fn : Nat) : Statement (.attestationReportReady fn) := fun _ => trivial
theorem spdmRequest (nonce : Bytes) : Statement (.spdmRequest nonce) := fun _ => trivial
theorem errorCounterRead (fn : Nat) : Statement (.errorCounterRead fn) := fun _ => trivial
theorem counterSnapshotReady (fn : Nat) : Statement (.counterSnapshotReady fn) := fun _ => trivial
theorem registerWrite (reg : HostReg) (v : Word) : Statement (.registerWrite reg v) := fun _ => trivial
theorem recordSealRead (fn : Nat) (q : Nat) : Statement (.recordSealRead fn q) := fun _ => trivial
theorem sealRefetch (fn : Nat) (q : Nat) : Statement (.sealRefetch fn q) := fun _ => trivial
theorem noopRecord (fn : Nat) (q : Nat) (idx : BitVec 32) : Statement (.noopRecord fn q idx) := fun _ => trivial
theorem kernelRecord (fn : Nat) (q : Nat) (idx : BitVec 32) : Statement (.kernelRecord fn q idx) := fun _ => trivial
theorem waitRefSatisfied (launch : Nat) : Statement (.waitRefSatisfied launch) := fun _ => trivial
theorem collectiveStepRecord (fn : Nat) (q : Nat) (idx : BitVec 32) : Statement (.collectiveStepRecord fn q idx) := fun _ => trivial
theorem signalAddRecord (fn : Nat) (q : Nat) (idx : BitVec 32) : Statement (.signalAddRecord fn q idx) := fun _ => trivial
theorem signalSetRecord (fn : Nat) (q : Nat) (idx : BitVec 32) : Statement (.signalSetRecord fn q idx) := fun _ => trivial
theorem signalWaitRecord (fn : Nat) (q : Nat) : Statement (.signalWaitRecord fn q) := fun _ => trivial
theorem signalWaitSatisfied (fn : Nat) (q : Nat) : Statement (.signalWaitSatisfied fn q) := fun _ => trivial
theorem signalWaitTimeout (fn : Nat) (q : Nat) : Statement (.signalWaitTimeout fn q) := fun _ => trivial
theorem membershipReplaceRecord (fn : Nat) (q : Nat) (idx : BitVec 32) : Statement (.membershipReplaceRecord fn q idx) := fun _ => trivial
theorem membershipWithdrawRecord (fn : Nat) (q : Nat) (idx : BitVec 32) : Statement (.membershipWithdrawRecord fn q idx) := fun _ => trivial
theorem membershipAddRecord (fn : Nat) (q : Nat) (idx : BitVec 32) : Statement (.membershipAddRecord fn q idx) := fun _ => trivial
theorem snapshotRecord (fn : Nat) (q : Nat) (idx : BitVec 32) : Statement (.snapshotRecord fn q idx) := fun _ => trivial
theorem snapshotQueryRecord (fn : Nat) (q : Nat) (idx : BitVec 32) : Statement (.snapshotQueryRecord fn q idx) := fun _ => trivial
theorem createObject (fn : Nat) (q : Nat) (idx : BitVec 32) : Statement (.createObject fn q idx) := fun _ => trivial
theorem destroyObject (fn : Nat) (q : Nat) (idx : BitVec 32) : Statement (.destroyObject fn q idx) := fun _ => trivial
theorem writeCapabilityEntry (fn : Nat) (q : Nat) (idx : BitVec 32) : Statement (.writeCapabilityEntry fn q idx) := fun _ => trivial
theorem copyHostToObject (fn : Nat) (q : Nat) (idx : BitVec 32) : Statement (.copyHostToObject fn q idx) := fun _ => trivial
theorem copyObjectToHost (fn : Nat) (q : Nat) (idx : BitVec 32) : Statement (.copyObjectToHost fn q idx) := fun _ => trivial
theorem readRegister (fn : Nat) (q : Nat) (idx : BitVec 32) : Statement (.readRegister fn q idx) := fun _ => trivial
theorem writePartitionAssignment (fn : Nat) (q : Nat) (idx : BitVec 32) : Statement (.writePartitionAssignment fn q idx) := fun _ => trivial
theorem writePlacementWeight (fn : Nat) (q : Nat) (idx : BitVec 32) : Statement (.writePlacementWeight fn q idx) := fun _ => trivial
theorem writeSbcfg (fn : Nat) (q : Nat) (idx : BitVec 32) : Statement (.writeSbcfg fn q idx) := fun _ => trivial
theorem writeCwcfg (fn : Nat) (q : Nat) (idx : BitVec 32) : Statement (.writeCwcfg fn q idx) := fun _ => trivial
theorem writeSncfg (fn : Nat) (q : Nat) (idx : BitVec 32) : Statement (.writeSncfg fn q idx) := fun _ => trivial
theorem writeIslcfg (fn : Nat) (q : Nat) (idx : BitVec 32) : Statement (.writeIslcfg fn q idx) := fun _ => trivial
theorem writePwrcap (fn : Nat) (q : Nat) (idx : BitVec 32) : Statement (.writePwrcap fn q idx) := fun _ => trivial
theorem debugEnable (fn : Nat) (q : Nat) (idx : BitVec 32) : Statement (.debugEnable fn q idx) := fun _ => trivial
theorem debugFreezePartition (fn : Nat) (q : Nat) (idx : BitVec 32) : Statement (.debugFreezePartition fn q idx) := fun _ => trivial
theorem debugFreezeDevice (fn : Nat) (q : Nat) (idx : BitVec 32) : Statement (.debugFreezeDevice fn q idx) := fun _ => trivial
theorem debugThaw (fn : Nat) (q : Nat) (idx : BitVec 32) : Statement (.debugThaw fn q idx) := fun _ => trivial
theorem scanShift (part : Nat) (bits : Nat) : Statement (.scanShift part bits) := fun _ => trivial
theorem debugRelease (core : Nat) : Statement (.debugRelease core) := fun _ => trivial
theorem provisionFunction (fn : Nat) (q : Nat) (idx : BitVec 32) : Statement (.provisionFunction fn q idx) := fun _ => trivial
theorem unprovisionFunction (fn : Nat) (q : Nat) (idx : BitVec 32) : Statement (.unprovisionFunction fn q idx) := fun _ => trivial
theorem writePeerMapEntry (fn : Nat) (q : Nat) (idx : BitVec 32) : Statement (.writePeerMapEntry fn q idx) := fun _ => trivial
theorem writeReductionWindow (fn : Nat) (q : Nat) (idx : BitVec 32) : Statement (.writeReductionWindow fn q idx) := fun _ => trivial
theorem loadPolicyPlugin (fn : Nat) (q : Nat) (idx : BitVec 32) : Statement (.loadPolicyPlugin fn q idx) := fun _ => trivial
theorem recordCompletion (fn : Nat) (q : Nat) (idx : BitVec 32) : Statement (.recordCompletion fn q idx) := fun _ => trivial
theorem launchComplete (launch : Nat) : Statement (.launchComplete launch) := fun _ => trivial
theorem sliceTurn (part : Nat) : Statement (.sliceTurn part) := fun _ => trivial
theorem pluginCall (tenant : Nat) (dies : Dies) : Statement (.pluginCall tenant dies) := fun _ => trivial
theorem pluginBudgetExpiry (tenant : Nat) : Statement (.pluginBudgetExpiry tenant) := fun _ => trivial
theorem pluginFault (tenant : Nat) : Statement (.pluginFault tenant) := fun _ => trivial
theorem schedulerPmpFault (core : Nat) : Statement (.schedulerPmpFault core) := fun _ => trivial
theorem placementDecision : Statement (.placementDecision) := fun _ => trivial
theorem rotationIntervalExpiry (team : Nat) : Statement (.rotationIntervalExpiry team) := fun _ => trivial
theorem teamPlace (team : Nat) : Statement (.teamPlace team) := fun _ => trivial
theorem teamEnd (team : Nat) : Statement (.teamEnd team) := fun _ => trivial
theorem forcedPreemptionTimeout (team : Nat) : Statement (.forcedPreemptionTimeout team) := fun _ => trivial
theorem saveComplete (team : Nat) : Statement (.saveComplete team) := fun _ => trivial
theorem teamResume (team : Nat) : Statement (.teamResume team) := fun _ => trivial
theorem groupIssue (core : Nat) : Statement (.groupIssue core) := fun _ => trivial
theorem icacheLineFill (core : Nat) (line : Nat) : Statement (.icacheLineFill core line) := fun _ => trivial
theorem loadReturn (core : Nat) (k : Nat) : Statement (.loadReturn core k) := fun _ => trivial
theorem memoryRequestSend (core : Nat) (k : Nat) : Statement (.memoryRequestSend core k) := fun _ => trivial
theorem routeLookup (core : Nat) (obj : Nat) : Statement (.routeLookup core obj) := fun _ => trivial
theorem extentTableWalk (chan : Nat) (obj : Nat) (ext : Nat) : Statement (.extentTableWalk chan obj ext) := fun _ => trivial
theorem extentInvalidate (obj : Nat) (ext : Nat) : Statement (.extentInvalidate obj ext) := fun _ => trivial
theorem memoryPortRequest (core : Nat) (k : Nat) : Statement (.memoryPortRequest core k) := fun _ => trivial
theorem pageFaultService (obj : Nat) (ext : Nat) : Statement (.pageFaultService obj ext) := fun _ => trivial
theorem reserveStallExpiry (stack : Nat) : Statement (.reserveStallExpiry stack) := fun _ => trivial
theorem extentMigration (obj : Nat) (ext : Nat) (stack : Nat) : Statement (.extentMigration obj ext stack) := fun _ => trivial
theorem migrationCopyComplete (obj : Nat) (ext : Nat) : Statement (.migrationCopyComplete obj ext) := fun _ => trivial
theorem frameRetirement (frame : Nat) (bad : Blocks) : Statement (.frameRetirement frame bad) := fun _ => trivial
theorem memoryScrub (block : Nat) (err : EccErr) : Statement (.memoryScrub block err) := fun _ => trivial
theorem rowSweep (core : Nat) (row : Nat) (err : EccErr) : Statement (.rowSweep core row err) := fun _ => trivial
theorem directoryInsert (core : Nat) (p : DirParty) : Statement (.directoryInsert core p) := fun _ => trivial
theorem entrySettled (core : Nat) (seq : BitVec 32) : Statement (.entrySettled core seq) := fun _ => trivial
theorem releaseAgeExpiry (core : Nat) (seq : BitVec 32) : Statement (.releaseAgeExpiry core seq) := fun _ => trivial
theorem taskRelease (core : Nat) (q : Queue) : Statement (.taskRelease core q) := fun _ => trivial
theorem taskComplete (core : Nat) (seq : BitVec 32) : Statement (.taskComplete core seq) := fun _ => trivial
theorem taskRetire (core : Nat) (seq : BitVec 32) : Statement (.taskRetire core seq) := fun _ => trivial
theorem unitEvaluation (core : Nat) (seq : BitVec 32) : Statement (.unitEvaluation core seq) := fun _ => trivial
theorem remotePostArrival (core : Nat) (msg : PostMsg) : Statement (.remotePostArrival core msg) := fun _ => trivial
theorem stallReport (core : Nat) : Statement (.stallReport core) := fun _ => trivial
theorem mldstTask (core : Nat) (seq : BitVec 32) : Statement (.mldstTask core seq) := fun _ => trivial
theorem mswapTask (core : Nat) (seq : BitVec 32) : Statement (.mswapTask core seq) := fun _ => trivial
theorem mzeroTask (core : Nat) (seq : BitVec 32) : Statement (.mzeroTask core seq) := fun _ => trivial
theorem mstreamTask (core : Nat) (seq : BitVec 32) : Statement (.mstreamTask core seq) := fun _ => trivial
theorem mdrainTask (core : Nat) (seq : BitVec 32) : Statement (.mdrainTask core seq) := fun _ => trivial
theorem mepiTask (core : Nat) (seq : BitVec 32) : Statement (.mepiTask core seq) := fun _ => trivial
theorem smapTask (core : Nat) (seq : BitVec 32) : Statement (.smapTask core seq) := fun _ => trivial
theorem sredTask (core : Nat) (seq : BitVec 32) : Statement (.sredTask core seq) := fun _ => trivial
theorem xposeTask (core : Nat) (seq : BitVec 32) : Statement (.xposeTask core seq) := fun _ => trivial
theorem tstartTask (core : Nat) (seq : BitVec 32) : Statement (.tstartTask core seq) := fun _ => trivial
theorem copyTask (core : Nat) (seq : BitVec 32) : Statement (.copyTask core seq) := fun _ => trivial
theorem gatherTask (core : Nat) (seq : BitVec 32) : Statement (.gatherTask core seq) := fun _ => trivial
theorem scatterTask (core : Nat) (seq : BitVec 32) : Statement (.scatterTask core seq) := fun _ => trivial
theorem subscrTask (core : Nat) (seq : BitVec 32) : Statement (.subscrTask core seq) := fun _ => trivial
theorem collTask (core : Nat) (seq : BitVec 32) : Statement (.collTask core seq) := fun _ => trivial
theorem ringpopTask (core : Nat) (seq : BitVec 32) : Statement (.ringpopTask core seq) := fun _ => trivial
theorem ringpushTask (core : Nat) (seq : BitVec 32) : Statement (.ringpushTask core seq) := fun _ => trivial
theorem engineFault (core : Nat) (seq : BitVec 32) (cause : TaskFault) : Statement (.engineFault core seq cause) := fun _ => trivial
theorem rollbackEvent (core : Nat) : Statement (.rollbackEvent core) := fun _ => trivial
theorem softErrorReplay (core : Nat) (seq : BitVec 32) : Statement (.softErrorReplay core seq) := fun _ => trivial
theorem copyChunk (core : Nat) (chan : Nat) : Statement (.copyChunk core chan) := fun _ => trivial
theorem copyRequestIssue (core : Nat) (chan : Nat) : Statement (.copyRequestIssue core chan) := fun _ => trivial
theorem requestResponse (core : Nat) (chan : Nat) : Statement (.requestResponse core chan) := fun _ => trivial
theorem tideFillItem (core : Nat) (ring : Fin 16) : Statement (.tideFillItem core ring) := fun _ => trivial
theorem tideDrainItem (core : Nat) (ring : Fin 16) : Statement (.tideDrainItem core ring) := fun _ => trivial
theorem redFlushAge (core : Nat) (k : Nat) : Statement (.redFlushAge core k) := fun _ => trivial
theorem sigwaitPoll (core : Nat) : Statement (.sigwaitPoll core) := fun _ => trivial
theorem rvRegister (core : Nat) (pt : Nat) : Statement (.rvRegister core pt) := fun _ => trivial
theorem syscReturn (core : Nat) : Statement (.syscReturn core) := fun _ => trivial
theorem wfeWake (core : Nat) : Statement (.wfeWake core) := fun _ => trivial
theorem peerRemap (tenant : Nat) (lid : Nat) (phys : BitVec 10) (far : Bool) : Statement (.peerRemap tenant lid phys far) := fun _ => trivial
theorem flowMessageDelivery (msg : FlowMsg) : Statement (.flowMessageDelivery msg) := fun _ => trivial
theorem remoteAccess (msg : FlowMsg) : Statement (.remoteAccess msg) := fun _ => trivial
theorem flowAck (core : Nat) (flow : FlowId) (seq : BitVec 32) : Statement (.flowAck core flow seq) := fun _ => trivial
theorem flowRefusal (core : Nat) (flow : FlowId) (seq : BitVec 32) (reason : BitVec 4) : Statement (.flowRefusal core flow seq reason) := fun _ => trivial
theorem flowRetry (core : Nat) (flow : FlowId) (seq : BitVec 32) : Statement (.flowRetry core flow seq) := fun _ => trivial
theorem flowEnd (core : Nat) (flow : FlowId) : Statement (.flowEnd core flow) := fun _ => trivial
theorem postrSend (core : Nat) : Statement (.postrSend core) := fun _ => trivial
theorem collLineArrival (core : Nat) (ln : Line) : Statement (.collLineArrival core ln) := fun _ => trivial
theorem collLineApply (core : Nat) (seq : BitVec 32) : Statement (.collLineApply core seq) := fun _ => trivial
theorem collEndLine (core : Nat) (ln : Line) : Statement (.collEndLine core ln) := fun _ => trivial
theorem stepTimerExpiry (core : Nat) (seq : BitVec 32) : Statement (.stepTimerExpiry core seq) := fun _ => trivial
theorem membershipInstall (tenant : Nat) (group : Nat) (ver : BitVec 32) : Statement (.membershipInstall tenant group ver) := fun _ => trivial
theorem absentPendingNotice (tenant : Nat) (group : Nat) (member : Nat) : Statement (.absentPendingNotice tenant group member) := fun _ => trivial
theorem presentNotice (tenant : Nat) (group : Nat) (member : Nat) : Statement (.presentNotice tenant group member) := fun _ => trivial
theorem withdrawnNotice (tenant : Nat) (group : Nat) (member : Nat) : Statement (.withdrawnNotice tenant group member) := fun _ => trivial
theorem switchContribution (slot : SwitchKey) (c : Contribution) : Statement (.switchContribution slot c) := fun _ => trivial
theorem switchRedDelivery (slot : SwitchKey) : Statement (.switchRedDelivery slot) := fun _ => trivial
theorem switchLeaseExpiry (slot : SwitchKey) : Statement (.switchLeaseExpiry slot) := fun _ => trivial
theorem trapEntry (core : Nat) : Statement (.trapEntry core) := fun _ => trivial
theorem launchAbort (core : Nat) : Statement (.launchAbort core) := fun _ => trivial
theorem masterFreeze (core : Nat) (master : Master) : Statement (.masterFreeze core master) := fun _ => trivial
theorem freezeService (core : Nat) (master : Master) : Statement (.freezeService core master) := fun _ => trivial
theorem chipGenerationSet (tenant : Nat) (chip : Nat) (gen : Word) : Statement (.chipGenerationSet tenant chip gen) := fun _ => trivial
theorem cutNotice (core : Nat) (gen : Word) : Statement (.cutNotice core gen) := fun _ => trivial
theorem chipCutComplete (tenant : Nat) (chip : Nat) : Statement (.chipCutComplete tenant chip) := fun _ => trivial
theorem undertowCopy (tenant : Nat) (obj : Nat) (grain : Nat) (ok : Bool) : Statement (.undertowCopy tenant obj grain ok) := fun _ => trivial
theorem generationDurable (tenant : Nat) : Statement (.generationDurable tenant) := fun _ => trivial
theorem generationAbort (tenant : Nat) (reason : BitVec 8) : Statement (.generationAbort tenant reason) := fun _ => trivial
theorem islandFrequencySwitch (island : Nat) : Statement (.islandFrequencySwitch island) := fun _ => trivial
theorem powerCapEnforce (watts : Nat) (island : Nat) : Statement (.powerCapEnforce watts island) := fun _ => trivial
theorem thermalThrottle (die : Nat) (tempC : Int) : Statement (.thermalThrottle die tempC) := fun _ => trivial
theorem thermalRecovery (die : Nat) (tempC : Int) : Statement (.thermalRecovery die tempC) := fun _ => trivial
theorem retentionEntry (core : Nat) : Statement (.retentionEntry core) := fun _ => trivial
theorem retentionExit (core : Nat) (corrected : Nat) (bad : EngWords) : Statement (.retentionExit core corrected bad) := fun _ => trivial
theorem add (d : SReg) (a : SReg) (b : SReg) : Statement (.add d a b) := fun _ => ⟨⟨z, z, Fin.isLt _, Fin.isLt _, Fin.isLt _, trivial⟩, rfl, lit rfl, z⟩
theorem sub (d : SReg) (a : SReg) (b : SReg) : Statement (.sub d a b) := fun _ => ⟨⟨z, z, Fin.isLt _, Fin.isLt _, Fin.isLt _, trivial⟩, rfl, lit rfl, z⟩
theorem mul (d : SReg) (a : SReg) (b : SReg) : Statement (.mul d a b) := fun _ => ⟨⟨z, z, Fin.isLt _, Fin.isLt _, Fin.isLt _, trivial⟩, rfl, lit rfl, z⟩
theorem mulh (d : SReg) (a : SReg) (b : SReg) : Statement (.mulh d a b) := fun _ => ⟨⟨z, z, Fin.isLt _, Fin.isLt _, Fin.isLt _, trivial⟩, rfl, lit rfl, z⟩
theorem mulhu (d : SReg) (a : SReg) (b : SReg) : Statement (.mulhu d a b) := fun _ => ⟨⟨z, z, Fin.isLt _, Fin.isLt _, Fin.isLt _, trivial⟩, rfl, lit rfl, z⟩
theorem div (d : SReg) (a : SReg) (b : SReg) : Statement (.div d a b) := fun _ => ⟨⟨z, z, Fin.isLt _, Fin.isLt _, Fin.isLt _, trivial⟩, rfl, lit rfl, z⟩
theorem divu (d : SReg) (a : SReg) (b : SReg) : Statement (.divu d a b) := fun _ => ⟨⟨z, z, Fin.isLt _, Fin.isLt _, Fin.isLt _, trivial⟩, rfl, lit rfl, z⟩
theorem rem (d : SReg) (a : SReg) (b : SReg) : Statement (.rem d a b) := fun _ => ⟨⟨z, z, Fin.isLt _, Fin.isLt _, Fin.isLt _, trivial⟩, rfl, lit rfl, z⟩
theorem remu (d : SReg) (a : SReg) (b : SReg) : Statement (.remu d a b) := fun _ => ⟨⟨z, z, Fin.isLt _, Fin.isLt _, Fin.isLt _, trivial⟩, rfl, lit rfl, z⟩
theorem and (d : SReg) (a : SReg) (b : SReg) : Statement (.and d a b) := fun _ => ⟨⟨z, z, Fin.isLt _, Fin.isLt _, Fin.isLt _, trivial⟩, rfl, lit rfl, z⟩
theorem or (d : SReg) (a : SReg) (b : SReg) : Statement (.or d a b) := fun _ => ⟨⟨z, z, Fin.isLt _, Fin.isLt _, Fin.isLt _, trivial⟩, rfl, lit rfl, z⟩
theorem xor (d : SReg) (a : SReg) (b : SReg) : Statement (.xor d a b) := fun _ => ⟨⟨z, z, Fin.isLt _, Fin.isLt _, Fin.isLt _, trivial⟩, rfl, lit rfl, z⟩
theorem andn (d : SReg) (a : SReg) (b : SReg) : Statement (.andn d a b) := fun _ => ⟨⟨z, z, Fin.isLt _, Fin.isLt _, Fin.isLt _, trivial⟩, rfl, lit rfl, z⟩
theorem shl (d : SReg) (a : SReg) (b : SReg) : Statement (.shl d a b) := fun _ => ⟨⟨z, z, Fin.isLt _, Fin.isLt _, Fin.isLt _, trivial⟩, rfl, lit rfl, z⟩
theorem shr (d : SReg) (a : SReg) (b : SReg) : Statement (.shr d a b) := fun _ => ⟨⟨z, z, Fin.isLt _, Fin.isLt _, Fin.isLt _, trivial⟩, rfl, lit rfl, z⟩
theorem sra (d : SReg) (a : SReg) (b : SReg) : Statement (.sra d a b) := fun _ => ⟨⟨z, z, Fin.isLt _, Fin.isLt _, Fin.isLt _, trivial⟩, rfl, lit rfl, z⟩
theorem rol (d : SReg) (a : SReg) (b : SReg) : Statement (.rol d a b) := fun _ => ⟨⟨z, z, Fin.isLt _, Fin.isLt _, Fin.isLt _, trivial⟩, rfl, lit rfl, z⟩
theorem ror (d : SReg) (a : SReg) (b : SReg) : Statement (.ror d a b) := fun _ => ⟨⟨z, z, Fin.isLt _, Fin.isLt _, Fin.isLt _, trivial⟩, rfl, lit rfl, z⟩
theorem min (d : SReg) (a : SReg) (b : SReg) : Statement (.min d a b) := fun _ => ⟨⟨z, z, Fin.isLt _, Fin.isLt _, Fin.isLt _, trivial⟩, rfl, lit rfl, z⟩
theorem max (d : SReg) (a : SReg) (b : SReg) : Statement (.max d a b) := fun _ => ⟨⟨z, z, Fin.isLt _, Fin.isLt _, Fin.isLt _, trivial⟩, rfl, lit rfl, z⟩
theorem minu (d : SReg) (a : SReg) (b : SReg) : Statement (.minu d a b) := fun _ => ⟨⟨z, z, Fin.isLt _, Fin.isLt _, Fin.isLt _, trivial⟩, rfl, lit rfl, z⟩
theorem maxu (d : SReg) (a : SReg) (b : SReg) : Statement (.maxu d a b) := fun _ => ⟨⟨z, z, Fin.isLt _, Fin.isLt _, Fin.isLt _, trivial⟩, rfl, lit rfl, z⟩
theorem adds (d : SReg) (a : SReg) (b : SReg) : Statement (.adds d a b) := fun _ => ⟨⟨z, z, Fin.isLt _, Fin.isLt _, Fin.isLt _, trivial⟩, rfl, lit rfl, z⟩
theorem subs (d : SReg) (a : SReg) (b : SReg) : Statement (.subs d a b) := fun _ => ⟨⟨z, z, Fin.isLt _, Fin.isLt _, Fin.isLt _, trivial⟩, rfl, lit rfl, z⟩
theorem addi (d : SReg) (a : SReg) (imm : BitVec 32) : Statement (.addi d a imm) := fun _ => ⟨⟨BitVec.isLt _, z, Fin.isLt _, Fin.isLt _, trivial⟩, rfl, lit rfl, z⟩
theorem andi (d : SReg) (a : SReg) (imm : BitVec 32) : Statement (.andi d a imm) := fun _ => ⟨⟨BitVec.isLt _, z, Fin.isLt _, Fin.isLt _, trivial⟩, rfl, lit rfl, z⟩
theorem ori (d : SReg) (a : SReg) (imm : BitVec 32) : Statement (.ori d a imm) := fun _ => ⟨⟨BitVec.isLt _, z, Fin.isLt _, Fin.isLt _, trivial⟩, rfl, lit rfl, z⟩
theorem xori (d : SReg) (a : SReg) (imm : BitVec 32) : Statement (.xori d a imm) := fun _ => ⟨⟨BitVec.isLt _, z, Fin.isLt _, Fin.isLt _, trivial⟩, rfl, lit rfl, z⟩
theorem shli (d : SReg) (a : SReg) (imm : BitVec 32) : Statement (.shli d a imm) := fun _ => ⟨⟨BitVec.isLt _, z, Fin.isLt _, Fin.isLt _, trivial⟩, rfl, lit rfl, z⟩
theorem shri (d : SReg) (a : SReg) (imm : BitVec 32) : Statement (.shri d a imm) := fun _ => ⟨⟨BitVec.isLt _, z, Fin.isLt _, Fin.isLt _, trivial⟩, rfl, lit rfl, z⟩
theorem srai (d : SReg) (a : SReg) (imm : BitVec 32) : Statement (.srai d a imm) := fun _ => ⟨⟨BitVec.isLt _, z, Fin.isLt _, Fin.isLt _, trivial⟩, rfl, lit rfl, z⟩
theorem rori (d : SReg) (a : SReg) (imm : BitVec 32) : Statement (.rori d a imm) := fun _ => ⟨⟨BitVec.isLt _, z, Fin.isLt _, Fin.isLt _, trivial⟩, rfl, lit rfl, z⟩
theorem clz (d : SReg) (a : SReg) : Statement (.clz d a) := fun _ => ⟨⟨z, z, z, Fin.isLt _, Fin.isLt _, trivial⟩, rfl, lit rfl, z⟩
theorem ctz (d : SReg) (a : SReg) : Statement (.ctz d a) := fun _ => ⟨⟨z, z, z, Fin.isLt _, Fin.isLt _, trivial⟩, rfl, lit rfl, z⟩
theorem popc (d : SReg) (a : SReg) : Statement (.popc d a) := fun _ => ⟨⟨z, z, z, Fin.isLt _, Fin.isLt _, trivial⟩, rfl, lit rfl, z⟩
theorem brev (d : SReg) (a : SReg) : Statement (.brev d a) := fun _ => ⟨⟨z, z, z, Fin.isLt _, Fin.isLt _, trivial⟩, rfl, lit rfl, z⟩
theorem bswap (d : SReg) (a : SReg) : Statement (.bswap d a) := fun _ => ⟨⟨z, z, z, Fin.isLt _, Fin.isLt _, trivial⟩, rfl, lit rfl, z⟩
theorem bilv2 (d : SReg) (a : SReg) (b : SReg) : Statement (.bilv2 d a b) := fun _ => ⟨⟨z, z, Fin.isLt _, Fin.isLt _, Fin.isLt _, trivial⟩, rfl, lit rfl, z⟩
theorem bilv3 (d : SReg) (a : SReg) (b : SReg) (c : SReg) : Statement (.bilv3 d a b c) := fun _ => ⟨⟨z, Fin.isLt _, Fin.isLt _, Fin.isLt _, Fin.isLt _, trivial⟩, rfl, lit rfl, z⟩
theorem bdil2 (d : SReg) (a : SReg) (k : BitVec 2) : Statement (.bdil2 d a k) := fun _ => ⟨⟨BitVec.isLt _, z, z, z, Fin.isLt _, Fin.isLt _, trivial⟩, rfl, lit rfl, z⟩
theorem bdil3 (d : SReg) (a : SReg) (k : BitVec 2) : Statement (.bdil3 d a k) := fun _ => ⟨⟨BitVec.isLt _, z, z, z, Fin.isLt _, Fin.isLt _, trivial⟩, rfl, lit rfl, z⟩
theorem ext (d : SReg) (a : SReg) (pos : BitVec 6) (len : BitVec 7) : Statement (.ext d a pos len) := fun _ => ⟨⟨BitVec.isLt _, BitVec.isLt _, z, z, z, Fin.isLt _, Fin.isLt _, trivial⟩, rfl, lit rfl, z⟩
theorem extz (d : SReg) (a : SReg) (pos : BitVec 6) (len : BitVec 7) : Statement (.extz d a pos len) := fun _ => ⟨⟨BitVec.isLt _, BitVec.isLt _, z, z, z, Fin.isLt _, Fin.isLt _, trivial⟩, rfl, lit rfl, z⟩
theorem ins (d : SReg) (a : SReg) (pos : BitVec 6) (len : BitVec 7) : Statement (.ins d a pos len) := fun _ => ⟨⟨BitVec.isLt _, BitVec.isLt _, z, z, z, Fin.isLt _, Fin.isLt _, trivial⟩, rfl, lit rfl, z⟩
theorem sel (d : SReg) (a : SReg) (b : SReg) (p : PReg) : Statement (.sel d a b p) := fun _ => ⟨⟨z, fin_lt (by decide) _, Fin.isLt _, Fin.isLt _, Fin.isLt _, trivial⟩, rfl, lit rfl, z⟩
theorem fadd (t : Ty) (r : Rnd) (d : SReg) (a : SReg) (b : SReg) : Statement (.fadd t r d a b) := fun _ => ⟨⟨ty_lt4 _, z, rnd_lt3 _, z, z, Fin.isLt _, Fin.isLt _, Fin.isLt _, trivial⟩, rfl, lit rfl, z⟩
theorem fsub (t : Ty) (r : Rnd) (d : SReg) (a : SReg) (b : SReg) : Statement (.fsub t r d a b) := fun _ => ⟨⟨ty_lt4 _, z, rnd_lt3 _, z, z, Fin.isLt _, Fin.isLt _, Fin.isLt _, trivial⟩, rfl, lit rfl, z⟩
theorem fmul (t : Ty) (r : Rnd) (d : SReg) (a : SReg) (b : SReg) : Statement (.fmul t r d a b) := fun _ => ⟨⟨ty_lt4 _, z, rnd_lt3 _, z, z, Fin.isLt _, Fin.isLt _, Fin.isLt _, trivial⟩, rfl, lit rfl, z⟩
theorem fdiv (t : Ty) (r : Rnd) (d : SReg) (a : SReg) (b : SReg) : Statement (.fdiv t r d a b) := fun _ => ⟨⟨ty_lt4 _, z, rnd_lt3 _, z, z, Fin.isLt _, Fin.isLt _, Fin.isLt _, trivial⟩, rfl, lit rfl, z⟩
theorem fsqrt (t : Ty) (r : Rnd) (d : SReg) (a : SReg) : Statement (.fsqrt t r d a) := fun _ => ⟨⟨ty_lt4 _, z, rnd_lt3 _, z, z, z, Fin.isLt _, Fin.isLt _, trivial⟩, rfl, lit rfl, z⟩
theorem fma (t : Ty) (r : Rnd) (d : SReg) (a : SReg) (b : SReg) (c : SReg) : Statement (.fma t r d a b c) := fun _ => ⟨⟨ty_lt4 _, z, rnd_lt3 _, z, Fin.isLt _, Fin.isLt _, Fin.isLt _, Fin.isLt _, trivial⟩, rfl, lit rfl, z⟩
theorem fmin (t : Ty) (d : SReg) (a : SReg) (b : SReg) : Statement (.fmin t d a b) := fun _ => ⟨⟨ty_lt4 _, z, z, z, z, Fin.isLt _, Fin.isLt _, Fin.isLt _, trivial⟩, rfl, lit rfl, z⟩
theorem fmax (t : Ty) (d : SReg) (a : SReg) (b : SReg) : Statement (.fmax t d a b) := fun _ => ⟨⟨ty_lt4 _, z, z, z, z, Fin.isLt _, Fin.isLt _, Fin.isLt _, trivial⟩, rfl, lit rfl, z⟩
theorem fcvt (td : Ty) (ta : Ty) (r : Rnd) (d : SReg) (a : SReg) : Statement (.fcvt td ta r d a) := fun _ => ⟨⟨ty_lt4 _, ty_lt4 _, rnd_lt3 _, z, z, z, Fin.isLt _, Fin.isLt _, trivial⟩, rfl, lit rfl, z⟩
theorem fcvti (td : Ty) (ta : Ty) (r : Rnd) (d : SReg) (a : SReg) : Statement (.fcvti td ta r d a) := fun _ => ⟨⟨ty_lt4 _, ty_lt4 _, rnd_lt3 _, z, z, z, Fin.isLt _, Fin.isLt _, trivial⟩, rfl, lit rfl, z⟩
theorem icvtf (td : Ty) (ta : Ty) (r : Rnd) (d : SReg) (a : SReg) : Statement (.icvtf td ta r d a) := fun _ => ⟨⟨ty_lt4 _, ty_lt4 _, rnd_lt3 _, z, z, z, Fin.isLt _, Fin.isLt _, trivial⟩, rfl, lit rfl, z⟩
theorem fclass (t : Ty) (d : SReg) (a : SReg) : Statement (.fclass t d a) := fun _ => ⟨⟨ty_lt4 _, z, z, z, z, z, Fin.isLt _, Fin.isLt _, trivial⟩, rfl, lit rfl, z⟩
theorem fcmp (c : FCond) (t : Ty) (p : PReg) (a : SReg) (b : SReg) : Statement (.fcmp c t p a b) := fun _ => ⟨⟨ty_lt4 _, z, z, fCond_lt4 _, z, z, Fin.isLt _, Fin.isLt _, fin_lt (by decide) _, trivial⟩, rfl, lit rfl, z⟩
theorem cmp (c : ICond) (p : PReg) (a : SReg) (b : SReg) : Statement (.cmp c p a b) := fun _ => ⟨⟨iCond_lt4 _, z, z, Fin.isLt _, Fin.isLt _, fin_lt (by decide) _, trivial⟩, rfl, lit rfl, z⟩
theorem cmpi (c : ICond) (p : PReg) (a : SReg) (imm : BitVec 32) : Statement (.cmpi c p a imm) := fun _ => ⟨⟨BitVec.isLt _, iCond_lt4 _, z, Fin.isLt _, fin_lt (by decide) _, trivial⟩, rfl, lit rfl, z⟩
theorem pand (d : PReg) (a : PReg) (b : PReg) : Statement (.pand d a b) := fun _ => ⟨⟨z, z, fin_lt (by decide) _, fin_lt (by decide) _, fin_lt (by decide) _, trivial⟩, rfl, lit rfl, z⟩
theorem por (d : PReg) (a : PReg) (b : PReg) : Statement (.por d a b) := fun _ => ⟨⟨z, z, fin_lt (by decide) _, fin_lt (by decide) _, fin_lt (by decide) _, trivial⟩, rfl, lit rfl, z⟩
theorem pxor (d : PReg) (a : PReg) (b : PReg) : Statement (.pxor d a b) := fun _ => ⟨⟨z, z, fin_lt (by decide) _, fin_lt (by decide) _, fin_lt (by decide) _, trivial⟩, rfl, lit rfl, z⟩
theorem pandn (d : PReg) (a : PReg) (b : PReg) : Statement (.pandn d a b) := fun _ => ⟨⟨z, z, fin_lt (by decide) _, fin_lt (by decide) _, fin_lt (by decide) _, trivial⟩, rfl, lit rfl, z⟩
theorem mfp (d : SReg) : Statement (.mfp d) := fun _ => ⟨⟨z, z, z, z, Fin.isLt _, trivial⟩, rfl, lit rfl, z⟩
theorem mtp (a : SReg) (b : SReg) : Statement (.mtp a b) := fun _ => ⟨⟨z, z, Fin.isLt _, Fin.isLt _, z, trivial⟩, rfl, lit rfl, z⟩
theorem mfs (d : SReg) (sr : BitVec 12) : Statement (.mfs d sr) := fun _ => ⟨⟨z, BitVec.isLt _, Fin.isLt _, trivial⟩, rfl, lit rfl, z⟩
theorem mts (sr : BitVec 12) (a : SReg) : Statement (.mts sr a) := fun _ => ⟨⟨z, BitVec.isLt _, Fin.isLt _, trivial⟩, rfl, lit rfl, z⟩
theorem cld (d : CReg) (a : SReg) (idx : BitVec 12) : Statement (.cld d a idx) := fun _ => ⟨⟨BitVec.isLt _, z, z, z, Fin.isLt _, fin_lt (by decide) _, trivial⟩, rfl, lit rfl, z⟩
theorem cder (d : CReg) (a : CReg) (b : SReg) (c : SReg) (mask : BitVec 8) : Statement (.cder d a b c mask) := fun _ => ⟨⟨BitVec.isLt _, z, Fin.isLt _, Fin.isLt _, fin_lt (by decide) _, fin_lt (by decide) _, trivial⟩, rfl, lit rfl, z⟩
theorem crst (d : CReg) (a : CReg) (mask : BitVec 8) : Statement (.crst d a mask) := fun _ => ⟨⟨BitVec.isLt _, z, z, z, fin_lt (by decide) _, fin_lt (by decide) _, trivial⟩, rfl, lit rfl, z⟩
theorem cnull (d : CReg) : Statement (.cnull d) := fun _ => ⟨⟨z, z, z, z, fin_lt (by decide) _, trivial⟩, rfl, lit rfl, z⟩
theorem ld (t : Ty) (o : Ord) (sc : Scope) (d : SReg) (c : CReg) (a : SReg) (off : BitVec 20) : Statement (.ld t o sc d c a off) := fun _ => ⟨⟨BitVec.isLt _, scope_lt3 _, ord_lt2 _, ty_lt4 _, z, Fin.isLt _, Fin.isLt _, Fin.isLt _, trivial⟩, rfl, lit rfl, z⟩
theorem st (t : Ty) (o : Ord) (sc : Scope) (c : CReg) (a : SReg) (off : BitVec 20) (d : SReg) : Statement (.st t o sc c a off d) := fun _ => ⟨⟨BitVec.isLt _, scope_lt3 _, ord_lt2 _, ty_lt4 _, z, Fin.isLt _, Fin.isLt _, Fin.isLt _, trivial⟩, rfl, lit rfl, z⟩
theorem ldx (t : Ty) (d : SReg) (a : SReg) (b : SReg) (off : BitVec 20) : Statement (.ldx t d a b off) := fun _ => ⟨⟨BitVec.isLt _, z, z, ty_lt4 _, Fin.isLt _, Fin.isLt _, z, Fin.isLt _, trivial⟩, rfl, lit rfl, z⟩
theorem stx (t : Ty) (a : SReg) (b : SReg) (off : BitVec 20) (d : SReg) : Statement (.stx t a b off d) := fun _ => ⟨⟨BitVec.isLt _, z, z, ty_lt4 _, Fin.isLt _, Fin.isLt _, z, Fin.isLt _, trivial⟩, rfl, lit rfl, z⟩
theorem prept (b : BReg) (off : BitVec 40) : Statement (.prept b off) := fun _ => ⟨⟨BitVec.isLt _, z, z, Fin.isLt _, trivial⟩, rfl, lit rfl, z⟩
theorem br (b : BReg) (hint : Bool) : Statement (.br b hint) := fun _ => ⟨⟨z, z, bool_lt _, Fin.isLt _, trivial⟩, rfl, lit rfl, z⟩
theorem call (b : BReg) (l : BReg) (hint : Bool) : Statement (.call b l hint) := fun _ => ⟨⟨z, Fin.isLt _, z, bool_lt _, Fin.isLt _, trivial⟩, rfl, lit rfl, z⟩
theorem ret (b : BReg) : Statement (.ret b) := fun _ => ⟨⟨z, z, z, Fin.isLt _, trivial⟩, rfl, lit rfl, z⟩
theorem loop (a : SReg) (off : BitVec 20) : Statement (.loop a off) := fun _ => ⟨⟨BitVec.isLt _, z, Fin.isLt _, trivial⟩, rfl, lit rfl, z⟩
theorem loopm (mb : Fin 16) (off : BitVec 20) : Statement (.loopm mb off) := fun _ => ⟨⟨BitVec.isLt _, z, z, Fin.isLt _, trivial⟩, rfl, lit rfl, z⟩
theorem loopmK (mb : Fin 16) (off : BitVec 20) : Statement (.loopmK mb off) := fun _ => ⟨⟨BitVec.isLt _, z, lit rfl, Fin.isLt _, trivial⟩, rfl, lit rfl, z⟩
theorem trap (x : BitVec 16) : Statement (.trap x) := fun _ => ⟨⟨BitVec.isLt _, z, trivial⟩, rfl, lit rfl, z⟩
theorem eret : Statement (.eret) := fun _ => ⟨⟨z, trivial⟩, rfl, lit rfl, z⟩
theorem sysc (x : BitVec 16) : Statement (.sysc x) := fun _ => ⟨⟨BitVec.isLt _, z, trivial⟩, rfl, lit rfl, z⟩
theorem safept (map : BitVec 12) : Statement (.safept map) := fun _ => ⟨⟨BitVec.isLt _, z, trivial⟩, rfl, lit rfl, z⟩
theorem wfe (x : BitVec 16) : Statement (.wfe x) := fun _ => ⟨⟨BitVec.isLt _, z, trivial⟩, rfl, lit rfl, z⟩
theorem brk (x : BitVec 16) : Statement (.brk x) := fun _ => ⟨⟨BitVec.isLt _, z, trivial⟩, rfl, lit rfl, z⟩
theorem halt : Statement (.halt) := fun _ => ⟨⟨z, trivial⟩, rfl, lit rfl, z⟩
theorem rvinit (pt : BitVec 5) (a : SReg) : Statement (.rvinit pt a) := fun _ => ⟨⟨BitVec.isLt _, z, z, Fin.isLt _, z, z, trivial⟩, rfl, lit rfl, z⟩
theorem rvarrive (pt : BitVec 5) (em : BitVec 6) (d : SReg) : Statement (.rvarrive pt em d) := fun _ => ⟨⟨BitVec.isLt _, BitVec.isLt _, Fin.isLt _, z, z, z, trivial⟩, rfl, lit rfl, z⟩
theorem rvwait (pt : BitVec 5) (a : SReg) (d : SReg) : Statement (.rvwait pt a d) := fun _ => ⟨⟨BitVec.isLt _, z, Fin.isLt _, Fin.isLt _, z, z, trivial⟩, rfl, lit rfl, z⟩
theorem rvarw (pt : BitVec 5) (em : BitVec 6) (d : SReg) : Statement (.rvarw pt em d) := fun _ => ⟨⟨BitVec.isLt _, BitVec.isLt _, Fin.isLt _, z, z, z, trivial⟩, rfl, lit rfl, z⟩
theorem rvleave (pt : BitVec 5) : Statement (.rvleave pt) := fun _ => ⟨⟨BitVec.isLt _, z, z, z, z, z, trivial⟩, rfl, lit rfl, z⟩
theorem rvleaveAll : Statement (.rvleaveAll) := fun _ => ⟨⟨z, z, z, z, lit rfl, z, trivial⟩, rfl, lit rfl, z⟩
theorem sigadd (t : Ty) (o : Ord) (sc : Scope) (d : SReg) (c : CReg) (a : SReg) (b : SReg) (off : BitVec 20) : Statement (.sigadd t o sc d c a b off) := fun _ => ⟨⟨BitVec.isLt _, scope_lt3 _, ord_lt2 _, ty_lt4 _, Fin.isLt _, Fin.isLt _, Fin.isLt _, Fin.isLt _, trivial⟩, rfl, lit rfl, z⟩
theorem sigset (t : Ty) (o : Ord) (sc : Scope) (d : SReg) (c : CReg) (a : SReg) (b : SReg) (off : BitVec 20) : Statement (.sigset t o sc d c a b off) := fun _ => ⟨⟨BitVec.isLt _, scope_lt3 _, ord_lt2 _, ty_lt4 _, Fin.isLt _, Fin.isLt _, Fin.isLt _, Fin.isLt _, trivial⟩, rfl, lit rfl, z⟩
theorem sigwait (t : Ty) (o : Ord) (sc : Scope) (d : SReg) (c : CReg) (a : SReg) (b : SReg) (off : BitVec 20) : Statement (.sigwait t o sc d c a b off) := fun _ => ⟨⟨BitVec.isLt _, scope_lt3 _, ord_lt2 _, ty_lt4 _, Fin.isLt _, Fin.isLt _, Fin.isLt _, Fin.isLt _, trivial⟩, rfl, lit rfl, z⟩
theorem amoAdd (t : Ty) (o : Ord) (sc : Scope) (d : SReg) (c : CReg) (a : SReg) (b : SReg) (off : BitVec 16) : Statement (.amoAdd t o sc d c a b off) := fun _ => ⟨⟨BitVec.isLt _, z, scope_lt3 _, ord_lt2 _, ty_lt4 _, Fin.isLt _, Fin.isLt _, Fin.isLt _, Fin.isLt _, trivial⟩, rfl, lit rfl, z⟩
theorem amoMin (t : Ty) (o : Ord) (sc : Scope) (d : SReg) (c : CReg) (a : SReg) (b : SReg) (off : BitVec 16) : Statement (.amoMin t o sc d c a b off) := fun _ => ⟨⟨BitVec.isLt _, lit rfl, scope_lt3 _, ord_lt2 _, ty_lt4 _, Fin.isLt _, Fin.isLt _, Fin.isLt _, Fin.isLt _, trivial⟩, rfl, lit rfl, z⟩
theorem amoMax (t : Ty) (o : Ord) (sc : Scope) (d : SReg) (c : CReg) (a : SReg) (b : SReg) (off : BitVec 16) : Statement (.amoMax t o sc d c a b off) := fun _ => ⟨⟨BitVec.isLt _, lit rfl, scope_lt3 _, ord_lt2 _, ty_lt4 _, Fin.isLt _, Fin.isLt _, Fin.isLt _, Fin.isLt _, trivial⟩, rfl, lit rfl, z⟩
theorem amoAnd (t : Ty) (o : Ord) (sc : Scope) (d : SReg) (c : CReg) (a : SReg) (b : SReg) (off : BitVec 16) : Statement (.amoAnd t o sc d c a b off) := fun _ => ⟨⟨BitVec.isLt _, lit rfl, scope_lt3 _, ord_lt2 _, ty_lt4 _, Fin.isLt _, Fin.isLt _, Fin.isLt _, Fin.isLt _, trivial⟩, rfl, lit rfl, z⟩
theorem amoOr (t : Ty) (o : Ord) (sc : Scope) (d : SReg) (c : CReg) (a : SReg) (b : SReg) (off : BitVec 16) : Statement (.amoOr t o sc d c a b off) := fun _ => ⟨⟨BitVec.isLt _, lit rfl, scope_lt3 _, ord_lt2 _, ty_lt4 _, Fin.isLt _, Fin.isLt _, Fin.isLt _, Fin.isLt _, trivial⟩, rfl, lit rfl, z⟩
theorem amoXor (t : Ty) (o : Ord) (sc : Scope) (d : SReg) (c : CReg) (a : SReg) (b : SReg) (off : BitVec 16) : Statement (.amoXor t o sc d c a b off) := fun _ => ⟨⟨BitVec.isLt _, lit rfl, scope_lt3 _, ord_lt2 _, ty_lt4 _, Fin.isLt _, Fin.isLt _, Fin.isLt _, Fin.isLt _, trivial⟩, rfl, lit rfl, z⟩
theorem amoXchg (t : Ty) (o : Ord) (sc : Scope) (d : SReg) (c : CReg) (a : SReg) (b : SReg) (off : BitVec 16) : Statement (.amoXchg t o sc d c a b off) := fun _ => ⟨⟨BitVec.isLt _, lit rfl, scope_lt3 _, ord_lt2 _, ty_lt4 _, Fin.isLt _, Fin.isLt _, Fin.isLt _, Fin.isLt _, trivial⟩, rfl, lit rfl, z⟩
theorem amoCas (t : Ty) (o : Ord) (sc : Scope) (d : SReg) (c : CReg) (a : SReg) (b : SReg) (off : BitVec 16) : Statement (.amoCas t o sc d c a b off) := fun _ => ⟨⟨BitVec.isLt _, lit rfl, scope_lt3 _, ord_lt2 _, ty_lt4 _, Fin.isLt _, Fin.isLt _, Fin.isLt _, Fin.isLt _, trivial⟩, rfl, lit rfl, z⟩
theorem amoCas2 (t : Ty) (o : Ord) (sc : Scope) (d : SReg) (c : CReg) (a : SReg) (b : SReg) (off : BitVec 16) : Statement (.amoCas2 t o sc d c a b off) := fun _ => ⟨⟨BitVec.isLt _, lit rfl, scope_lt3 _, ord_lt2 _, ty_lt4 _, Fin.isLt _, Fin.isLt _, Fin.isLt _, Fin.isLt _, trivial⟩, rfl, lit rfl, z⟩
theorem redAdd (t : Ty) (o : Ord) (sc : Scope) (c : CReg) (a : SReg) (b : SReg) (off : BitVec 16) : Statement (.redAdd t o sc c a b off) := fun _ => ⟨⟨BitVec.isLt _, z, scope_lt3 _, ord_lt2 _, ty_lt4 _, Fin.isLt _, Fin.isLt _, Fin.isLt _, z, trivial⟩, rfl, lit rfl, z⟩
theorem redMin (t : Ty) (o : Ord) (sc : Scope) (c : CReg) (a : SReg) (b : SReg) (off : BitVec 16) : Statement (.redMin t o sc c a b off) := fun _ => ⟨⟨BitVec.isLt _, lit rfl, scope_lt3 _, ord_lt2 _, ty_lt4 _, Fin.isLt _, Fin.isLt _, Fin.isLt _, z, trivial⟩, rfl, lit rfl, z⟩
theorem redMax (t : Ty) (o : Ord) (sc : Scope) (c : CReg) (a : SReg) (b : SReg) (off : BitVec 16) : Statement (.redMax t o sc c a b off) := fun _ => ⟨⟨BitVec.isLt _, lit rfl, scope_lt3 _, ord_lt2 _, ty_lt4 _, Fin.isLt _, Fin.isLt _, Fin.isLt _, z, trivial⟩, rfl, lit rfl, z⟩
theorem redAnd (t : Ty) (o : Ord) (sc : Scope) (c : CReg) (a : SReg) (b : SReg) (off : BitVec 16) : Statement (.redAnd t o sc c a b off) := fun _ => ⟨⟨BitVec.isLt _, lit rfl, scope_lt3 _, ord_lt2 _, ty_lt4 _, Fin.isLt _, Fin.isLt _, Fin.isLt _, z, trivial⟩, rfl, lit rfl, z⟩
theorem redOr (t : Ty) (o : Ord) (sc : Scope) (c : CReg) (a : SReg) (b : SReg) (off : BitVec 16) : Statement (.redOr t o sc c a b off) := fun _ => ⟨⟨BitVec.isLt _, lit rfl, scope_lt3 _, ord_lt2 _, ty_lt4 _, Fin.isLt _, Fin.isLt _, Fin.isLt _, z, trivial⟩, rfl, lit rfl, z⟩
theorem redXor (t : Ty) (o : Ord) (sc : Scope) (c : CReg) (a : SReg) (b : SReg) (off : BitVec 16) : Statement (.redXor t o sc c a b off) := fun _ => ⟨⟨BitVec.isLt _, lit rfl, scope_lt3 _, ord_lt2 _, ty_lt4 _, Fin.isLt _, Fin.isLt _, Fin.isLt _, z, trivial⟩, rfl, lit rfl, z⟩
theorem fence (o : Ord) (sc : Scope) : Statement (.fence o sc) := fun _ => ⟨⟨scope_lt3 _, ord_lt2 _, z, trivial⟩, rfl, lit rfl, z⟩
theorem snap (d : SReg) (c : CReg) (p : PReg) : Statement (.snap d c p) := fun _ => ⟨⟨z, z, Fin.isLt _, Fin.isLt _, Fin.isLt _, trivial⟩, rfl, lit rfl, z⟩
theorem snapNw (d : SReg) (c : CReg) (p : PReg) : Statement (.snapNw d c p) := fun _ => ⟨⟨z, lit rfl, Fin.isLt _, Fin.isLt _, Fin.isLt _, trivial⟩, rfl, lit rfl, z⟩
theorem snapq (d : SReg) (c : CReg) (a : SReg) : Statement (.snapq d c a) := fun _ => ⟨⟨z, Fin.isLt _, Fin.isLt _, Fin.isLt _, trivial⟩, rfl, lit rfl, z⟩
theorem vadd (t : Ty) (r : Rnd) (d : VReg) (a : VReg) (b : VReg) (m : MReg) : Statement (.vadd t r d a b m) := fun _ => ⟨⟨z, z, rnd_lt3 _, ty_lt4 _, Fin.isLt _, vreg_lt _, vreg_lt _, vreg_lt _, trivial⟩, rfl, lit rfl, z⟩
theorem vadds (t : Ty) (d : VReg) (a : VReg) (b : VReg) (m : MReg) : Statement (.vadds t d a b m) := fun _ => ⟨⟨lit rfl, z, z, ty_lt4 _, Fin.isLt _, vreg_lt _, vreg_lt _, vreg_lt _, trivial⟩, rfl, lit rfl, z⟩
theorem vsub (t : Ty) (r : Rnd) (d : VReg) (a : VReg) (b : VReg) (m : MReg) : Statement (.vsub t r d a b m) := fun _ => ⟨⟨z, z, rnd_lt3 _, ty_lt4 _, Fin.isLt _, vreg_lt _, vreg_lt _, vreg_lt _, trivial⟩, rfl, lit rfl, z⟩
theorem vsubs (t : Ty) (d : VReg) (a : VReg) (b : VReg) (m : MReg) : Statement (.vsubs t d a b m) := fun _ => ⟨⟨lit rfl, z, z, ty_lt4 _, Fin.isLt _, vreg_lt _, vreg_lt _, vreg_lt _, trivial⟩, rfl, lit rfl, z⟩
theorem vmul (t : Ty) (r : Rnd) (d : VReg) (a : VReg) (b : VReg) (m : MReg) : Statement (.vmul t r d a b m) := fun _ => ⟨⟨z, rnd_lt3 _, ty_lt4 _, Fin.isLt _, vreg_lt _, vreg_lt _, vreg_lt _, trivial⟩, rfl, lit rfl, z⟩
theorem vfma (t : Ty) (r : Rnd) (d : VReg) (a : VReg) (b : VReg) (m : MReg) : Statement (.vfma t r d a b m) := fun _ => ⟨⟨z, rnd_lt3 _, ty_lt4 _, Fin.isLt _, vreg_lt _, vreg_lt _, vreg_lt _, trivial⟩, rfl, lit rfl, z⟩
theorem vfms (t : Ty) (r : Rnd) (d : VReg) (a : VReg) (b : VReg) (m : MReg) : Statement (.vfms t r d a b m) := fun _ => ⟨⟨z, rnd_lt3 _, ty_lt4 _, Fin.isLt _, vreg_lt _, vreg_lt _, vreg_lt _, trivial⟩, rfl, lit rfl, z⟩
theorem vmin (t : Ty) (d : VReg) (a : VReg) (b : VReg) (m : MReg) : Statement (.vmin t d a b m) := fun _ => ⟨⟨z, z, ty_lt4 _, Fin.isLt _, vreg_lt _, vreg_lt _, vreg_lt _, trivial⟩, rfl, lit rfl, z⟩
theorem vmax (t : Ty) (d : VReg) (a : VReg) (b : VReg) (m : MReg) : Statement (.vmax t d a b m) := fun _ => ⟨⟨z, z, ty_lt4 _, Fin.isLt _, vreg_lt _, vreg_lt _, vreg_lt _, trivial⟩, rfl, lit rfl, z⟩
theorem vabs (t : Ty) (d : VReg) (a : VReg) (m : MReg) : Statement (.vabs t d a m) := fun _ => ⟨⟨z, z, ty_lt4 _, Fin.isLt _, z, vreg_lt _, vreg_lt _, trivial⟩, rfl, lit rfl, z⟩
theorem vneg (t : Ty) (d : VReg) (a : VReg) (m : MReg) : Statement (.vneg t d a m) := fun _ => ⟨⟨z, z, ty_lt4 _, Fin.isLt _, z, vreg_lt _, vreg_lt _, trivial⟩, rfl, lit rfl, z⟩
theorem vand (t : Ty) (d : VReg) (a : VReg) (b : VReg) (m : MReg) : Statement (.vand t d a b m) := fun _ => ⟨⟨z, z, ty_lt4 _, Fin.isLt _, vreg_lt _, vreg_lt _, vreg_lt _, trivial⟩, rfl, lit rfl, z⟩
theorem vor (t : Ty) (d : VReg) (a : VReg) (b : VReg) (m : MReg) : Statement (.vor t d a b m) := fun _ => ⟨⟨z, z, ty_lt4 _, Fin.isLt _, vreg_lt _, vreg_lt _, vreg_lt _, trivial⟩, rfl, lit rfl, z⟩
theorem vxor (t : Ty) (d : VReg) (a : VReg) (b : VReg) (m : MReg) : Statement (.vxor t d a b m) := fun _ => ⟨⟨z, z, ty_lt4 _, Fin.isLt _, vreg_lt _, vreg_lt _, vreg_lt _, trivial⟩, rfl, lit rfl, z⟩
theorem vandn (t : Ty) (d : VReg) (a : VReg) (b : VReg) (m : MReg) : Statement (.vandn t d a b m) := fun _ => ⟨⟨z, z, ty_lt4 _, Fin.isLt _, vreg_lt _, vreg_lt _, vreg_lt _, trivial⟩, rfl, lit rfl, z⟩
theorem vshl (t : Ty) (d : VReg) (a : VReg) (b : VReg) (m : MReg) : Statement (.vshl t d a b m) := fun _ => ⟨⟨z, z, ty_lt4 _, Fin.isLt _, vreg_lt _, vreg_lt _, vreg_lt _, trivial⟩, rfl, lit rfl, z⟩
theorem vshr (t : Ty) (d : VReg) (a : VReg) (b : VReg) (m : MReg) : Statement (.vshr t d a b m) := fun _ => ⟨⟨z, z, ty_lt4 _, Fin.isLt _, vreg_lt _, vreg_lt _, vreg_lt _, trivial⟩, rfl, lit rfl, z⟩
theorem vsra (t : Ty) (d : VReg) (a : VReg) (b : VReg) (m : MReg) : Statement (.vsra t d a b m) := fun _ => ⟨⟨z, z, ty_lt4 _, Fin.isLt _, vreg_lt _, vreg_lt _, vreg_lt _, trivial⟩, rfl, lit rfl, z⟩
theorem vcmp (c : VCond) (t : Ty) (d : MReg) (a : VReg) (b : VReg) (m : MReg) : Statement (.vcmp c t d a b m) := fun _ => ⟨⟨vCond_lt4 _, z, z, ty_lt4 _, Fin.isLt _, vreg_lt _, vreg_lt _, Fin.isLt _, z, trivial⟩, rfl, lit rfl, z⟩
theorem vsel (t : Ty) (d : VReg) (a : VReg) (b : VReg) (m : MReg) : Statement (.vsel t d a b m) := fun _ => ⟨⟨z, z, ty_lt4 _, Fin.isLt _, vreg_lt _, vreg_lt _, vreg_lt _, trivial⟩, rfl, lit rfl, z⟩
theorem vcvt (td : Ty) (ts : Ty) (r : Rnd) (d : VReg) (a : VReg) (b : VReg) (k : BitVec 3) (m : MReg) : Statement (.vcvt td ts r d a b k m) := fun _ => ⟨⟨ty_lt4 _, BitVec.isLt _, rnd_lt3 _, ty_lt4 _, Fin.isLt _, vreg_lt _, vreg_lt _, vreg_lt _, trivial⟩, rfl, lit rfl, z⟩
theorem vpk4 (ts : Ty) (r : Rnd) (d : VReg) (a : VReg) (b : VReg) (k : BitVec 3) (m : MReg) : Statement (.vpk4 ts r d a b k m) := fun _ => ⟨⟨z, BitVec.isLt _, rnd_lt3 _, ty_lt4 _, Fin.isLt _, vreg_lt _, vreg_lt _, vreg_lt _, trivial⟩, rfl, lit rfl, z⟩
theorem vupk4 (td : Ty) (r : Rnd) (d : VReg) (a : VReg) (k : BitVec 3) (m : MReg) : Statement (.vupk4 td r d a k m) := fun _ => ⟨⟨z, BitVec.isLt _, rnd_lt3 _, ty_lt4 _, Fin.isLt _, z, vreg_lt _, vreg_lt _, trivial⟩, rfl, lit rfl, z⟩
theorem vrcp (t : Ty) (r : Rnd) (d : VReg) (a : VReg) (m : MReg) : Statement (.vrcp t r d a m) := fun _ => ⟨⟨z, rnd_lt3 _, ty_lt4 _, Fin.isLt _, z, vreg_lt _, vreg_lt _, trivial⟩, rfl, lit rfl, z⟩
theorem vrsq (t : Ty) (r : Rnd) (d : VReg) (a : VReg) (m : MReg) : Statement (.vrsq t r d a m) := fun _ => ⟨⟨z, rnd_lt3 _, ty_lt4 _, Fin.isLt _, z, vreg_lt _, vreg_lt _, trivial⟩, rfl, lit rfl, z⟩
theorem vexp2 (t : Ty) (r : Rnd) (d : VReg) (a : VReg) (m : MReg) : Statement (.vexp2 t r d a m) := fun _ => ⟨⟨z, rnd_lt3 _, ty_lt4 _, Fin.isLt _, z, vreg_lt _, vreg_lt _, trivial⟩, rfl, lit rfl, z⟩
theorem vlog2 (t : Ty) (r : Rnd) (d : VReg) (a : VReg) (m : MReg) : Statement (.vlog2 t r d a m) := fun _ => ⟨⟨z, rnd_lt3 _, ty_lt4 _, Fin.isLt _, z, vreg_lt _, vreg_lt _, trivial⟩, rfl, lit rfl, z⟩
theorem vsin (t : Ty) (r : Rnd) (d : VReg) (a : VReg) (m : MReg) : Statement (.vsin t r d a m) := fun _ => ⟨⟨z, rnd_lt3 _, ty_lt4 _, Fin.isLt _, z, vreg_lt _, vreg_lt _, trivial⟩, rfl, lit rfl, z⟩
theorem vtlu (t : Ty) (r : Rnd) (d : VReg) (a : VReg) (o : VReg) (m : MReg) : Statement (.vtlu t r d a o m) := fun _ => ⟨⟨z, rnd_lt3 _, ty_lt4 _, Fin.isLt _, vreg_lt _, vreg_lt _, vreg_lt _, trivial⟩, rfl, lit rfl, z⟩
theorem vrint (t : Ty) (r : Rnd) (d : VReg) (a : VReg) (m : MReg) : Statement (.vrint t r d a m) := fun _ => ⟨⟨z, rnd_lt3 _, ty_lt4 _, Fin.isLt _, z, vreg_lt _, vreg_lt _, trivial⟩, rfl, lit rfl, z⟩
theorem vsett (t : Ty) (r : Rnd) (ct : Ty) (e : BitVec 5) : Statement (.vsett t r ct e) := fun _ => ⟨⟨BitVec.isLt _, z, rnd_lt3 _, ty_lt4 _, z, ty_lt4 _, z, z, z, trivial⟩, rfl, lit rfl, z⟩
theorem vbcst (t : Ty) (d : VReg) (a : SReg) (m : MReg) : Statement (.vbcst t d a m) := fun _ => ⟨⟨z, z, ty_lt4 _, Fin.isLt _, z, Fin.isLt _, z, vreg_lt _, trivial⟩, rfl, lit rfl, z⟩
theorem vext (t : Ty) (d : SReg) (a : VReg) (b : SReg) : Statement (.vext t d a b) := fun _ => ⟨⟨z, z, ty_lt4 _, z, Fin.isLt _, z, vreg_lt _, Fin.isLt _, z, trivial⟩, rfl, lit rfl, z⟩
theorem vins (t : Ty) (d : VReg) (a : SReg) (b : SReg) : Statement (.vins t d a b) := fun _ => ⟨⟨z, z, ty_lt4 _, z, Fin.isLt _, z, Fin.isLt _, z, vreg_lt _, trivial⟩, rfl, lit rfl, z⟩
theorem vperm (t : Ty) (d : VReg) (a : VReg) (b : VReg) (m : MReg) : Statement (.vperm t d a b m) := fun _ => ⟨⟨z, z, ty_lt4 _, Fin.isLt _, vreg_lt _, vreg_lt _, vreg_lt _, trivial⟩, rfl, lit rfl, z⟩
theorem vsldu (t : Ty) (d : VReg) (a : VReg) (b : VReg) (k : BitVec 7) (m : MReg) : Statement (.vsldu t d a b k m) := fun _ => ⟨⟨BitVec.isLt _, z, ty_lt4 _, Fin.isLt _, vreg_lt _, vreg_lt _, vreg_lt _, trivial⟩, rfl, lit rfl, z⟩
theorem vsldd (t : Ty) (d : VReg) (a : VReg) (b : VReg) (k : BitVec 7) (m : MReg) : Statement (.vsldd t d a b k m) := fun _ => ⟨⟨BitVec.isLt _, z, ty_lt4 _, Fin.isLt _, vreg_lt _, vreg_lt _, vreg_lt _, trivial⟩, rfl, lit rfl, z⟩
theorem vcmpr (t : Ty) (d : VReg) (a : VReg) (m : MReg) : Statement (.vcmpr t d a m) := fun _ => ⟨⟨z, z, ty_lt4 _, Fin.isLt _, z, vreg_lt _, vreg_lt _, trivial⟩, rfl, lit rfl, z⟩
theorem vxpnd (t : Ty) (d : VReg) (a : VReg) (m : MReg) : Statement (.vxpnd t d a m) := fun _ => ⟨⟨z, z, ty_lt4 _, Fin.isLt _, z, vreg_lt _, vreg_lt _, trivial⟩, rfl, lit rfl, z⟩
theorem viota (t : Ty) (d : VReg) (m : MReg) : Statement (.viota t d m) := fun _ => ⟨⟨z, z, ty_lt4 _, Fin.isLt _, z, z, vreg_lt _, trivial⟩, rfl, lit rfl, z⟩
theorem vredSum (t : Ty) (d : SReg) (a : VReg) (m : MReg) : Statement (.vredSum t d a m) := fun _ => ⟨⟨z, z, z, ty_lt4 _, Fin.isLt _, z, vreg_lt _, Fin.isLt _, z, trivial⟩, rfl, lit rfl, z⟩
theorem vredMin (t : Ty) (d : SReg) (a : VReg) (m : MReg) : Statement (.vredMin t d a m) := fun _ => ⟨⟨lit rfl, z, z, ty_lt4 _, Fin.isLt _, z, vreg_lt _, Fin.isLt _, z, trivial⟩, rfl, lit rfl, z⟩
theorem vredMax (t : Ty) (d : SReg) (a : VReg) (m : MReg) : Statement (.vredMax t d a m) := fun _ => ⟨⟨lit rfl, z, z, ty_lt4 _, Fin.isLt _, z, vreg_lt _, Fin.isLt _, z, trivial⟩, rfl, lit rfl, z⟩
theorem vredAnd (t : Ty) (d : SReg) (a : VReg) (m : MReg) : Statement (.vredAnd t d a m) := fun _ => ⟨⟨lit rfl, z, z, ty_lt4 _, Fin.isLt _, z, vreg_lt _, Fin.isLt _, z, trivial⟩, rfl, lit rfl, z⟩
theorem vredOr (t : Ty) (d : SReg) (a : VReg) (m : MReg) : Statement (.vredOr t d a m) := fun _ => ⟨⟨lit rfl, z, z, ty_lt4 _, Fin.isLt _, z, vreg_lt _, Fin.isLt _, z, trivial⟩, rfl, lit rfl, z⟩
theorem vredXor (t : Ty) (d : SReg) (a : VReg) (m : MReg) : Statement (.vredXor t d a m) := fun _ => ⟨⟨lit rfl, z, z, ty_lt4 _, Fin.isLt _, z, vreg_lt _, Fin.isLt _, z, trivial⟩, rfl, lit rfl, z⟩
theorem vredSums (t : Ty) (d : SReg) (a : VReg) (m : MReg) : Statement (.vredSums t d a m) := fun _ => ⟨⟨lit rfl, z, z, ty_lt4 _, Fin.isLt _, z, vreg_lt _, Fin.isLt _, z, trivial⟩, rfl, lit rfl, z⟩
theorem vany (t : Ty) (d : PReg) (a : MReg) (m : MReg) : Statement (.vany t d a m) := fun _ => ⟨⟨z, z, ty_lt4 _, Fin.isLt _, z, Fin.isLt _, z, Fin.isLt _, z, trivial⟩, rfl, lit rfl, z⟩
theorem vall (t : Ty) (d : PReg) (a : MReg) (m : MReg) : Statement (.vall t d a m) := fun _ => ⟨⟨z, z, ty_lt4 _, Fin.isLt _, z, Fin.isLt _, z, Fin.isLt _, z, trivial⟩, rfl, lit rfl, z⟩
theorem vmpop (t : Ty) (d : SReg) (a : MReg) (m : MReg) : Statement (.vmpop t d a m) := fun _ => ⟨⟨z, z, ty_lt4 _, Fin.isLt _, z, Fin.isLt _, z, Fin.isLt _, z, trivial⟩, rfl, lit rfl, z⟩
theorem mlogAnd (d : MReg) (a : MReg) (b : MReg) : Statement (.mlogAnd d a b) := fun _ => ⟨⟨z, z, z, z, z, Fin.isLt _, z, Fin.isLt _, z, Fin.isLt _, z, trivial⟩, rfl, lit rfl, z⟩
theorem mlogOr (d : MReg) (a : MReg) (b : MReg) : Statement (.mlogOr d a b) := fun _ => ⟨⟨lit rfl, z, z, z, z, Fin.isLt _, z, Fin.isLt _, z, Fin.isLt _, z, trivial⟩, rfl, lit rfl, z⟩
theorem mlogXor (d : MReg) (a : MReg) (b : MReg) : Statement (.mlogXor d a b) := fun _ => ⟨⟨lit rfl, z, z, z, z, Fin.isLt _, z, Fin.isLt _, z, Fin.isLt _, z, trivial⟩, rfl, lit rfl, z⟩
theorem mlogAndn (d : MReg) (a : MReg) (b : MReg) : Statement (.mlogAndn d a b) := fun _ => ⟨⟨lit rfl, z, z, z, z, Fin.isLt _, z, Fin.isLt _, z, Fin.isLt _, z, trivial⟩, rfl, lit rfl, z⟩
theorem mlogNot (d : MReg) (a : MReg) : Statement (.mlogNot d a) := fun _ => ⟨⟨lit rfl, z, z, z, z, z, z, Fin.isLt _, z, Fin.isLt _, z, trivial⟩, rfl, lit rfl, z⟩
theorem vld (t : Ty) (d : VReg) (a : SReg) (off : BitVec 20) (m : MReg) : Statement (.vld t d a off m) := fun _ => ⟨⟨BitVec.isLt _, z, z, ty_lt4 _, Fin.isLt _, Fin.isLt _, vreg_lt _, trivial⟩, rfl, lit rfl, z⟩
theorem vst (t : Ty) (a : SReg) (off : BitVec 20) (v : VReg) (m : MReg) : Statement (.vst t a off v m) := fun _ => ⟨⟨BitVec.isLt _, z, z, ty_lt4 _, Fin.isLt _, Fin.isLt _, vreg_lt _, trivial⟩, rfl, lit rfl, z⟩
theorem vstB (t : Ty) (a : SReg) (off : BitVec 20) (v : VReg) (m : MReg) (k : Fin 16) : Statement (.vstB t a off v m k) := fun _ => ⟨⟨BitVec.isLt _, Fin.isLt _, lit rfl, ty_lt4 _, Fin.isLt _, Fin.isLt _, vreg_lt _, trivial⟩, rfl, lit rfl, z⟩
theorem mldst (nb : NB) (ga : GReg) (gb : GReg) (sx : SReg) (sy : SReg) (st0 : Step) (st1 : Step) (ts : Bool) (stage : BitVec 3) : Statement (.mldst nb ga gb sx sy st0 st1 ts stage) := fun _ => ⟨⟨BitVec.isLt _, BitVec.isLt _, z, BitVec.isLt _, bool_lt _, z, Fin.isLt _, Fin.isLt _, z, Fin.isLt _, Fin.isLt _, nb_lt _, trivial⟩, rfl, lit rfl, z⟩
theorem mswap (nb : NB) (ts : Bool) (stage : BitVec 3) : Statement (.mswap nb ts stage) := fun _ => ⟨⟨z, z, z, BitVec.isLt _, bool_lt _, z, z, z, z, z, z, nb_lt _, trivial⟩, rfl, lit rfl, z⟩
theorem mzero (nb : NB) (ga : GReg) (sy : SReg) (ts : Bool) (stage : BitVec 3) : Statement (.mzero nb ga sy ts stage) := fun _ => ⟨⟨z, z, z, BitVec.isLt _, bool_lt _, z, Fin.isLt _, z, z, z, Fin.isLt _, nb_lt _, trivial⟩, rfl, lit rfl, z⟩
theorem mstream (nb : NB) (ga : GReg) (gb : GReg) (gc : GReg) (sx : SReg) (sy : SReg) (st0 : Step) (st2 : Step) (ts : Bool) (stage : BitVec 3) : Statement (.mstream nb ga gb gc sx sy st0 st2 ts stage) := fun _ => ⟨⟨BitVec.isLt _, z, BitVec.isLt _, BitVec.isLt _, bool_lt _, z, Fin.isLt _, Fin.isLt _, Fin.isLt _, Fin.isLt _, Fin.isLt _, nb_lt _, trivial⟩, rfl, lit rfl, z⟩
theorem mdrain (nb : NB) (ga : GReg) (gb : GReg) (gc : GReg) (sx : SReg) (sy : SReg) (st1 : Step) (ts : Bool) (stage : BitVec 3) : Statement (.mdrain nb ga gb gc sx sy st1 ts stage) := fun _ => ⟨⟨z, BitVec.isLt _, z, BitVec.isLt _, bool_lt _, z, Fin.isLt _, Fin.isLt _, Fin.isLt _, Fin.isLt _, Fin.isLt _, nb_lt _, trivial⟩, rfl, lit rfl, z⟩
theorem mepi (nb : NB) (ga : GReg) (sx : SReg) (sy : SReg) (ts : Bool) (stage : BitVec 3) : Statement (.mepi nb ga sx sy ts stage) := fun _ => ⟨⟨z, z, z, BitVec.isLt _, bool_lt _, z, Fin.isLt _, Fin.isLt _, z, z, Fin.isLt _, nb_lt _, trivial⟩, rfl, lit rfl, z⟩
theorem smap (nb : NB) (ga : GReg) (gb : GReg) (gc : GReg) (gx : GReg) (sx : SReg) (sy : SReg) (st0 : Step) (st1 : Step) (st2 : Step) (stage : BitVec 3) : Statement (.smap nb ga gb gc gx sx sy st0 st1 st2 stage) := fun _ => ⟨⟨BitVec.isLt _, BitVec.isLt _, BitVec.isLt _, BitVec.isLt _, z, Fin.isLt _, Fin.isLt _, Fin.isLt _, Fin.isLt _, Fin.isLt _, Fin.isLt _, nb_lt _, trivial⟩, rfl, lit rfl, z⟩
theorem sred (nb : NB) (ga : GReg) (gb : GReg) (sx : SReg) (sy : SReg) (st0 : Step) (stage : BitVec 3) : Statement (.sred nb ga gb sx sy st0 stage) := fun _ => ⟨⟨BitVec.isLt _, z, z, BitVec.isLt _, z, z, Fin.isLt _, Fin.isLt _, z, Fin.isLt _, Fin.isLt _, nb_lt _, trivial⟩, rfl, lit rfl, z⟩
theorem xpose (nb : NB) (ga : GReg) (gb : GReg) (sx : SReg) (sy : SReg) (st0 : Step) (st1 : Step) (stage : BitVec 3) : Statement (.xpose nb ga gb sx sy st0 st1 stage) := fun _ => ⟨⟨BitVec.isLt _, BitVec.isLt _, z, BitVec.isLt _, z, z, Fin.isLt _, Fin.isLt _, z, Fin.isLt _, Fin.isLt _, nb_lt _, trivial⟩, rfl, lit rfl, z⟩
theorem copy (nb : NB) (ga : GReg) (gb : GReg) (sx : SReg) (sy : SReg) (sz : SReg) (sw : SReg) (ord : Bool) (stage : BitVec 3) : Statement (.copy nb ga gb sx sy sz sw ord stage) := fun _ => ⟨⟨z, bool_lt _, BitVec.isLt _, Fin.isLt _, Fin.isLt _, Fin.isLt _, Fin.isLt _, z, Fin.isLt _, Fin.isLt _, nb_lt _, trivial⟩, rfl, lit rfl, z⟩
theorem gather (nb : NB) (ga : GReg) (gb : GReg) (gc : GReg) (sx : SReg) (sy : SReg) (sz : SReg) (sw : SReg) (ord : Bool) (stage : BitVec 3) : Statement (.gather nb ga gb gc sx sy sz sw ord stage) := fun _ => ⟨⟨z, bool_lt _, BitVec.isLt _, Fin.isLt _, Fin.isLt _, Fin.isLt _, Fin.isLt _, Fin.isLt _, Fin.isLt _, Fin.isLt _, nb_lt _, trivial⟩, rfl, lit rfl, z⟩
theorem scatter (nb : NB) (ga : GReg) (gb : GReg) (gc : GReg) (sx : SReg) (sy : SReg) (sz : SReg) (sw : SReg) (ord : Bool) (stage : BitVec 3) : Statement (.scatter nb ga gb gc sx sy sz sw ord stage) := fun _ => ⟨⟨z, bool_lt _, BitVec.isLt _, Fin.isLt _, Fin.isLt _, Fin.isLt _, Fin.isLt _, Fin.isLt _, Fin.isLt _, Fin.isLt _, nb_lt _, trivial⟩, rfl, lit rfl, z⟩
theorem subscr (nb : NB) (ga : GReg) (gb : GReg) (sx : SReg) (sy : SReg) (sz : SReg) (stage : BitVec 3) : Statement (.subscr nb ga gb sx sy sz stage) := fun _ => ⟨⟨z, z, BitVec.isLt _, z, Fin.isLt _, Fin.isLt _, Fin.isLt _, z, Fin.isLt _, Fin.isLt _, nb_lt _, trivial⟩, rfl, lit rfl, z⟩
theorem ringpop (nb : NB) (ga : GReg) (sx : SReg) (stage : BitVec 3) : Statement (.ringpop nb ga sx stage) := fun _ => ⟨⟨z, z, BitVec.isLt _, z, z, z, Fin.isLt _, z, z, Fin.isLt _, nb_lt _, trivial⟩, rfl, lit rfl, z⟩
theorem ringpush (nb : NB) (ga : GReg) (sx : SReg) (stage : BitVec 3) : Statement (.ringpush nb ga sx stage) := fun _ => ⟨⟨z, z, BitVec.isLt _, z, z, z, Fin.isLt _, z, z, Fin.isLt _, nb_lt _, trivial⟩, rfl, lit rfl, z⟩
theorem coll (nb : NB) (ga : GReg) (gb : GReg) (sx : SReg) (sy : SReg) (sz : SReg) (ord : Bool) (stage : BitVec 3) : Statement (.coll nb ga gb sx sy sz ord stage) := fun _ => ⟨⟨z, bool_lt _, BitVec.isLt _, z, Fin.isLt _, Fin.isLt _, Fin.isLt _, z, Fin.isLt _, Fin.isLt _, nb_lt _, trivial⟩, rfl, lit rfl, z⟩
theorem postm (nb : NB) (ga : GReg) (sx : SReg) (sy : SReg) : Statement (.postm nb ga sx sy) := fun _ => ⟨⟨z, Fin.isLt _, Fin.isLt _, z, z, Fin.isLt _, nb_lt _, trivial⟩, rfl, lit rfl, z⟩
theorem postr (nb : NB) (ga : GReg) (sx : SReg) (sy : SReg) (sr : SReg) (ord : Bool) : Statement (.postr nb ga sx sy sr ord) := fun _ => ⟨⟨z, bool_lt _, z, z, Fin.isLt _, Fin.isLt _, Fin.isLt _, z, z, Fin.isLt _, nb_lt _, trivial⟩, rfl, lit rfl, z⟩
theorem bundle : Statement (.bundle) := fun _ => ⟨⟨z, z, z, z, z, z, z, trivial⟩, rfl, lit rfl, z⟩
theorem bend : Statement (.bend) := fun _ => ⟨⟨z, z, z, z, z, z, z, trivial⟩, rfl, lit rfl, z⟩
theorem guard (nb : NB) (k : Fin 16) (ga : GReg) (gb : GReg) (gc : GReg) (gd : GReg) (ge : GReg) (gf : GReg) : Statement (.guard nb k ga gb gc gd ge gf) := fun _ => ⟨⟨z, Fin.isLt _, Fin.isLt _, Fin.isLt _, z, fin_lt (by decide) _, Fin.isLt _, Fin.isLt _, Fin.isLt _, nb_lt _, trivial⟩, rfl, lit rfl, z⟩
theorem gcheck : Statement (.gcheck) := fun _ => ⟨⟨z, z, z, z, z, z, z, trivial⟩, rfl, lit rfl, z⟩
theorem gexact : Statement (.gexact) := fun _ => ⟨⟨z, z, z, z, z, z, z, trivial⟩, rfl, lit rfl, z⟩
theorem gend : Statement (.gend) := fun _ => ⟨⟨z, z, z, z, z, z, z, trivial⟩, rfl, lit rfl, z⟩
theorem tstart (nb : NB) (ga : GReg) : Statement (.tstart nb ga) := fun _ => ⟨⟨z, z, z, z, z, Fin.isLt _, nb_lt _, trivial⟩, rfl, lit rfl, z⟩
theorem rgld (o : Ord) (sc : Scope) (d : GReg) (c : CReg) (a : SReg) (b : SReg) (off : BitVec 20) : Statement (.rgld o sc d c a b off) := fun _ => ⟨⟨BitVec.isLt _, scope_lt3 _, ord_lt2 _, z, Fin.isLt _, Fin.isLt _, Fin.isLt _, Fin.isLt _, trivial⟩, rfl, lit rfl, z⟩
theorem twait (em : BitVec 6) : Statement (.twait em) := fun _ => ⟨⟨BitVec.isLt _, z, trivial⟩, rfl, lit rfl, z⟩
theorem li (d : SReg) (x : Word) : Statement (.li d x) := fun _ => ⟨⟨z, z, z, Fin.isLt _, trivial⟩, rfl, lit rfl, BitVec.isLt _⟩
theorem addl (d : SReg) (a : SReg) (x : Word) : Statement (.addl d a x) := fun _ => ⟨⟨z, z, Fin.isLt _, Fin.isLt _, trivial⟩, rfl, lit rfl, BitVec.isLt _⟩
theorem andl (d : SReg) (a : SReg) (x : Word) : Statement (.andl d a x) := fun _ => ⟨⟨z, z, Fin.isLt _, Fin.isLt _, trivial⟩, rfl, lit rfl, BitVec.isLt _⟩
theorem orl (d : SReg) (a : SReg) (x : Word) : Statement (.orl d a x) := fun _ => ⟨⟨z, z, Fin.isLt _, Fin.isLt _, trivial⟩, rfl, lit rfl, BitVec.isLt _⟩
theorem xorl (d : SReg) (a : SReg) (x : Word) : Statement (.xorl d a x) := fun _ => ⟨⟨z, z, Fin.isLt _, Fin.isLt _, trivial⟩, rfl, lit rfl, BitVec.isLt _⟩
theorem cmpl (c : ICond) (p : PReg) (a : SReg) (x : Word) : Statement (.cmpl c p a x) := fun _ => ⟨⟨z, iCond_lt4 _, z, Fin.isLt _, fin_lt (by decide) _, trivial⟩, rfl, lit rfl, BitVec.isLt _⟩
theorem ldl (t : Ty) (o : Ord) (sc : Scope) (d : SReg) (c : CReg) (a : SReg) (x : BitVec 48) : Statement (.ldl t o sc d c a x) := fun _ => ⟨⟨z, scope_lt3 _, ord_lt2 _, ty_lt4 _, z, Fin.isLt _, Fin.isLt _, Fin.isLt _, trivial⟩, rfl, lit rfl, ext_lt _⟩
theorem stl (t : Ty) (o : Ord) (sc : Scope) (c : CReg) (a : SReg) (x : BitVec 48) (d : SReg) : Statement (.stl t o sc c a x d) := fun _ => ⟨⟨z, scope_lt3 _, ord_lt2 _, ty_lt4 _, z, Fin.isLt _, Fin.isLt _, Fin.isLt _, trivial⟩, rfl, lit rfl, ext_lt _⟩
theorem rgset (d : GReg) (x : Word) : Statement (.rgset d x) := fun _ => ⟨⟨z, z, z, z, Fin.isLt _, trivial⟩, rfl, lit rfl, BitVec.isLt _⟩
theorem vli (d : VReg) (x : Word) : Statement (.vli d x) := fun _ => ⟨⟨z, z, z, z, z, z, vreg_lt _, trivial⟩, rfl, lit rfl, BitVec.isLt _⟩
theorem snop : Statement (.snop) := fun _ => ⟨⟨z, z, z, trivial⟩, rfl, lit rfl, z⟩
theorem addSlot (d : SReg) (a : SReg) (b : SReg) : Statement (.addSlot d a b) := fun _ => ⟨⟨Fin.isLt _, Fin.isLt _, Fin.isLt _, trivial⟩, rfl, lit rfl, z⟩
theorem subSlot (d : SReg) (a : SReg) (b : SReg) : Statement (.subSlot d a b) := fun _ => ⟨⟨Fin.isLt _, Fin.isLt _, Fin.isLt _, trivial⟩, rfl, lit rfl, z⟩
theorem andSlot (d : SReg) (a : SReg) (b : SReg) : Statement (.andSlot d a b) := fun _ => ⟨⟨Fin.isLt _, Fin.isLt _, Fin.isLt _, trivial⟩, rfl, lit rfl, z⟩
theorem orSlot (d : SReg) (a : SReg) (b : SReg) : Statement (.orSlot d a b) := fun _ => ⟨⟨Fin.isLt _, Fin.isLt _, Fin.isLt _, trivial⟩, rfl, lit rfl, z⟩
theorem xorSlot (d : SReg) (a : SReg) (b : SReg) : Statement (.xorSlot d a b) := fun _ => ⟨⟨Fin.isLt _, Fin.isLt _, Fin.isLt _, trivial⟩, rfl, lit rfl, z⟩
theorem andnSlot (d : SReg) (a : SReg) (b : SReg) : Statement (.andnSlot d a b) := fun _ => ⟨⟨Fin.isLt _, Fin.isLt _, Fin.isLt _, trivial⟩, rfl, lit rfl, z⟩
theorem shlSlot (d : SReg) (a : SReg) (b : SReg) : Statement (.shlSlot d a b) := fun _ => ⟨⟨Fin.isLt _, Fin.isLt _, Fin.isLt _, trivial⟩, rfl, lit rfl, z⟩
theorem shrSlot (d : SReg) (a : SReg) (b : SReg) : Statement (.shrSlot d a b) := fun _ => ⟨⟨Fin.isLt _, Fin.isLt _, Fin.isLt _, trivial⟩, rfl, lit rfl, z⟩
theorem sraSlot (d : SReg) (a : SReg) (b : SReg) : Statement (.sraSlot d a b) := fun _ => ⟨⟨Fin.isLt _, Fin.isLt _, Fin.isLt _, trivial⟩, rfl, lit rfl, z⟩
theorem minSlot (d : SReg) (a : SReg) (b : SReg) : Statement (.minSlot d a b) := fun _ => ⟨⟨Fin.isLt _, Fin.isLt _, Fin.isLt _, trivial⟩, rfl, lit rfl, z⟩
theorem maxSlot (d : SReg) (a : SReg) (b : SReg) : Statement (.maxSlot d a b) := fun _ => ⟨⟨Fin.isLt _, Fin.isLt _, Fin.isLt _, trivial⟩, rfl, lit rfl, z⟩
theorem minuSlot (d : SReg) (a : SReg) (b : SReg) : Statement (.minuSlot d a b) := fun _ => ⟨⟨Fin.isLt _, Fin.isLt _, Fin.isLt _, trivial⟩, rfl, lit rfl, z⟩
theorem maxuSlot (d : SReg) (a : SReg) (b : SReg) : Statement (.maxuSlot d a b) := fun _ => ⟨⟨Fin.isLt _, Fin.isLt _, Fin.isLt _, trivial⟩, rfl, lit rfl, z⟩
theorem mulSlot (d : SReg) (a : SReg) (b : SReg) : Statement (.mulSlot d a b) := fun _ => ⟨⟨Fin.isLt _, Fin.isLt _, Fin.isLt _, trivial⟩, rfl, lit rfl, z⟩
theorem addiSlot (d : SReg) (a : SReg) (imm : BitVec 5) : Statement (.addiSlot d a imm) := fun _ => ⟨⟨BitVec.isLt _, Fin.isLt _, Fin.isLt _, trivial⟩, rfl, lit rfl, z⟩
theorem shliSlot (d : SReg) (a : SReg) (imm : BitVec 5) : Statement (.shliSlot d a imm) := fun _ => ⟨⟨BitVec.isLt _, Fin.isLt _, Fin.isLt _, trivial⟩, rfl, lit rfl, z⟩
theorem shriSlot (d : SReg) (a : SReg) (imm : BitVec 5) : Statement (.shriSlot d a imm) := fun _ => ⟨⟨BitVec.isLt _, Fin.isLt _, Fin.isLt _, trivial⟩, rfl, lit rfl, z⟩
theorem sraiSlot (d : SReg) (a : SReg) (imm : BitVec 5) : Statement (.sraiSlot d a imm) := fun _ => ⟨⟨BitVec.isLt _, Fin.isLt _, Fin.isLt _, trivial⟩, rfl, lit rfl, z⟩
theorem cmpEqSlot (p : PReg) (a : SReg) (b : SReg) : Statement (.cmpEqSlot p a b) := fun _ => ⟨⟨Fin.isLt _, Fin.isLt _, fin_lt (by decide) _, trivial⟩, rfl, lit rfl, z⟩
theorem cmpNeSlot (p : PReg) (a : SReg) (b : SReg) : Statement (.cmpNeSlot p a b) := fun _ => ⟨⟨Fin.isLt _, Fin.isLt _, fin_lt (by decide) _, trivial⟩, rfl, lit rfl, z⟩
theorem cmpLtSlot (p : PReg) (a : SReg) (b : SReg) : Statement (.cmpLtSlot p a b) := fun _ => ⟨⟨Fin.isLt _, Fin.isLt _, fin_lt (by decide) _, trivial⟩, rfl, lit rfl, z⟩
theorem cmpLtuSlot (p : PReg) (a : SReg) (b : SReg) : Statement (.cmpLtuSlot p a b) := fun _ => ⟨⟨Fin.isLt _, Fin.isLt _, fin_lt (by decide) _, trivial⟩, rfl, lit rfl, z⟩
theorem cmpGeSlot (p : PReg) (a : SReg) (b : SReg) : Statement (.cmpGeSlot p a b) := fun _ => ⟨⟨Fin.isLt _, Fin.isLt _, fin_lt (by decide) _, trivial⟩, rfl, lit rfl, z⟩
theorem cmpGeuSlot (p : PReg) (a : SReg) (b : SReg) : Statement (.cmpGeuSlot p a b) := fun _ => ⟨⟨Fin.isLt _, Fin.isLt _, fin_lt (by decide) _, trivial⟩, rfl, lit rfl, z⟩
theorem cmpiEqSlot (p : PReg) (a : SReg) (imm : BitVec 5) : Statement (.cmpiEqSlot p a imm) := fun _ => ⟨⟨BitVec.isLt _, Fin.isLt _, fin_lt (by decide) _, trivial⟩, rfl, lit rfl, z⟩
theorem pandSlot (d : PReg) (a : PReg) (b : PReg) : Statement (.pandSlot d a b) := fun _ => ⟨⟨fin_lt (by decide) _, fin_lt (by decide) _, fin_lt (by decide) _, trivial⟩, rfl, lit rfl, z⟩
theorem porSlot (d : PReg) (a : PReg) (b : PReg) : Statement (.porSlot d a b) := fun _ => ⟨⟨fin_lt (by decide) _, fin_lt (by decide) _, fin_lt (by decide) _, trivial⟩, rfl, lit rfl, z⟩
theorem pxorSlot (d : PReg) (a : PReg) (b : PReg) : Statement (.pxorSlot d a b) := fun _ => ⟨⟨fin_lt (by decide) _, fin_lt (by decide) _, fin_lt (by decide) _, trivial⟩, rfl, lit rfl, z⟩
theorem pandnSlot (d : PReg) (a : PReg) (b : PReg) : Statement (.pandnSlot d a b) := fun _ => ⟨⟨fin_lt (by decide) _, fin_lt (by decide) _, fin_lt (by decide) _, trivial⟩, rfl, lit rfl, z⟩
theorem vnop : Statement (.vnop) := fun _ => ⟨⟨z, z, z, trivial⟩, rfl, lit rfl, z⟩
theorem vmov (d : VReg) (a : VReg) : Statement (.vmov d a) := fun _ => ⟨⟨z, vreg_lt _, vreg_lt _, trivial⟩, rfl, lit rfl, z⟩
theorem vaddSlot (d : VReg) (a : VReg) (b : VReg) : Statement (.vaddSlot d a b) := fun _ => ⟨⟨vreg_lt _, vreg_lt _, vreg_lt _, trivial⟩, rfl, lit rfl, z⟩
theorem vsubSlot (d : VReg) (a : VReg) (b : VReg) : Statement (.vsubSlot d a b) := fun _ => ⟨⟨vreg_lt _, vreg_lt _, vreg_lt _, trivial⟩, rfl, lit rfl, z⟩
theorem vmulSlot (d : VReg) (a : VReg) (b : VReg) : Statement (.vmulSlot d a b) := fun _ => ⟨⟨vreg_lt _, vreg_lt _, vreg_lt _, trivial⟩, rfl, lit rfl, z⟩
theorem vfmaSlot (d : VReg) (a : VReg) (b : VReg) : Statement (.vfmaSlot d a b) := fun _ => ⟨⟨vreg_lt _, vreg_lt _, vreg_lt _, trivial⟩, rfl, lit rfl, z⟩
theorem vfmsSlot (d : VReg) (a : VReg) (b : VReg) : Statement (.vfmsSlot d a b) := fun _ => ⟨⟨vreg_lt _, vreg_lt _, vreg_lt _, trivial⟩, rfl, lit rfl, z⟩
theorem vminSlot (d : VReg) (a : VReg) (b : VReg) : Statement (.vminSlot d a b) := fun _ => ⟨⟨vreg_lt _, vreg_lt _, vreg_lt _, trivial⟩, rfl, lit rfl, z⟩
theorem vmaxSlot (d : VReg) (a : VReg) (b : VReg) : Statement (.vmaxSlot d a b) := fun _ => ⟨⟨vreg_lt _, vreg_lt _, vreg_lt _, trivial⟩, rfl, lit rfl, z⟩
theorem vabsSlot (d : VReg) (a : VReg) : Statement (.vabsSlot d a) := fun _ => ⟨⟨z, vreg_lt _, vreg_lt _, trivial⟩, rfl, lit rfl, z⟩
theorem vnegSlot (d : VReg) (a : VReg) : Statement (.vnegSlot d a) := fun _ => ⟨⟨z, vreg_lt _, vreg_lt _, trivial⟩, rfl, lit rfl, z⟩
theorem vandSlot (d : VReg) (a : VReg) (b : VReg) : Statement (.vandSlot d a b) := fun _ => ⟨⟨vreg_lt _, vreg_lt _, vreg_lt _, trivial⟩, rfl, lit rfl, z⟩
theorem vorSlot (d : VReg) (a : VReg) (b : VReg) : Statement (.vorSlot d a b) := fun _ => ⟨⟨vreg_lt _, vreg_lt _, vreg_lt _, trivial⟩, rfl, lit rfl, z⟩
theorem vxorSlot (d : VReg) (a : VReg) (b : VReg) : Statement (.vxorSlot d a b) := fun _ => ⟨⟨vreg_lt _, vreg_lt _, vreg_lt _, trivial⟩, rfl, lit rfl, z⟩
theorem vandnSlot (d : VReg) (a : VReg) (b : VReg) : Statement (.vandnSlot d a b) := fun _ => ⟨⟨vreg_lt _, vreg_lt _, vreg_lt _, trivial⟩, rfl, lit rfl, z⟩
theorem vshlSlot (d : VReg) (a : VReg) (b : VReg) : Statement (.vshlSlot d a b) := fun _ => ⟨⟨vreg_lt _, vreg_lt _, vreg_lt _, trivial⟩, rfl, lit rfl, z⟩
theorem vshrSlot (d : VReg) (a : VReg) (b : VReg) : Statement (.vshrSlot d a b) := fun _ => ⟨⟨vreg_lt _, vreg_lt _, vreg_lt _, trivial⟩, rfl, lit rfl, z⟩
theorem vsraSlot (d : VReg) (a : VReg) (b : VReg) : Statement (.vsraSlot d a b) := fun _ => ⟨⟨vreg_lt _, vreg_lt _, vreg_lt _, trivial⟩, rfl, lit rfl, z⟩
theorem vrcpSlot (d : VReg) (a : VReg) : Statement (.vrcpSlot d a) := fun _ => ⟨⟨z, vreg_lt _, vreg_lt _, trivial⟩, rfl, lit rfl, z⟩
theorem vrsqSlot (d : VReg) (a : VReg) : Statement (.vrsqSlot d a) := fun _ => ⟨⟨z, vreg_lt _, vreg_lt _, trivial⟩, rfl, lit rfl, z⟩
theorem vexp2Slot (d : VReg) (a : VReg) : Statement (.vexp2Slot d a) := fun _ => ⟨⟨z, vreg_lt _, vreg_lt _, trivial⟩, rfl, lit rfl, z⟩
theorem vlog2Slot (d : VReg) (a : VReg) : Statement (.vlog2Slot d a) := fun _ => ⟨⟨z, vreg_lt _, vreg_lt _, trivial⟩, rfl, lit rfl, z⟩
theorem vsinSlot (d : VReg) (a : VReg) : Statement (.vsinSlot d a) := fun _ => ⟨⟨z, vreg_lt _, vreg_lt _, trivial⟩, rfl, lit rfl, z⟩
theorem vrintSlot (d : VReg) (a : VReg) : Statement (.vrintSlot d a) := fun _ => ⟨⟨z, vreg_lt _, vreg_lt _, trivial⟩, rfl, lit rfl, z⟩
theorem vcmpEqSlot (d : MReg) (a : VReg) (b : VReg) : Statement (.vcmpEqSlot d a b) := fun _ => ⟨⟨vreg_lt _, vreg_lt _, Fin.isLt _, z, trivial⟩, rfl, lit rfl, z⟩
theorem vcmpNeSlot (d : MReg) (a : VReg) (b : VReg) : Statement (.vcmpNeSlot d a b) := fun _ => ⟨⟨vreg_lt _, vreg_lt _, Fin.isLt _, z, trivial⟩, rfl, lit rfl, z⟩
theorem vcmpLtSlot (d : MReg) (a : VReg) (b : VReg) : Statement (.vcmpLtSlot d a b) := fun _ => ⟨⟨vreg_lt _, vreg_lt _, Fin.isLt _, z, trivial⟩, rfl, lit rfl, z⟩
theorem vcmpLeSlot (d : MReg) (a : VReg) (b : VReg) : Statement (.vcmpLeSlot d a b) := fun _ => ⟨⟨vreg_lt _, vreg_lt _, Fin.isLt _, z, trivial⟩, rfl, lit rfl, z⟩
theorem vslduSlot (d : VReg) (a : VReg) (b : VReg) : Statement (.vslduSlot d a b) := fun _ => ⟨⟨vreg_lt _, vreg_lt _, vreg_lt _, trivial⟩, rfl, lit rfl, z⟩
theorem vslddSlot (d : VReg) (a : VReg) (b : VReg) : Statement (.vslddSlot d a b) := fun _ => ⟨⟨vreg_lt _, vreg_lt _, vreg_lt _, trivial⟩, rfl, lit rfl, z⟩
theorem vpermSlot (d : VReg) (a : VReg) (b : VReg) : Statement (.vpermSlot d a b) := fun _ => ⟨⟨vreg_lt _, vreg_lt _, vreg_lt _, trivial⟩, rfl, lit rfl, z⟩
theorem vtluSlot (d : VReg) (a : VReg) (b : VReg) : Statement (.vtluSlot d a b) := fun _ => ⟨⟨vreg_lt _, vreg_lt _, vreg_lt _, trivial⟩, rfl, lit rfl, z⟩
theorem vcvtSlot (d : VReg) (a : VReg) (b : VReg) : Statement (.vcvtSlot d a b) := fun _ => ⟨⟨vreg_lt _, vreg_lt _, vreg_lt _, trivial⟩, rfl, lit rfl, z⟩
theorem vaddsSlot (d : VReg) (a : VReg) (b : VReg) : Statement (.vaddsSlot d a b) := fun _ => ⟨⟨vreg_lt _, vreg_lt _, vreg_lt _, trivial⟩, rfl, lit rfl, z⟩
theorem vsubsSlot (d : VReg) (a : VReg) (b : VReg) : Statement (.vsubsSlot d a b) := fun _ => ⟨⟨vreg_lt _, vreg_lt _, vreg_lt _, trivial⟩, rfl, lit rfl, z⟩
theorem bar4Write (off : Nat) (data : Bytes) : Statement (.bar4Write off data) := fun _ => trivial
theorem pcieCompletionTimeout (p : HostParty) : Statement (.pcieCompletionTimeout p) := fun _ => trivial

end Sys2Proof.Laws.Fits
end

