-- ==== Sys2Proof/Tests/Slice0.lean ====
section
/-!
SUPPORT. Tests of the model: ill-formed terms, words written out field by field from the manual's encoding tables, the manual's
worked examples, and for every claim with hypotheses a state that meets them.
-/

namespace Sys2Proof.Tests

open Sys2Proof Sys2Proof.Machine Sys2Proof.Bits

set_option Elab.async false

/-! ### Ill-formed terms: one for each check of WellFormed -/

theorem test_illformed_scalar : [Instr.shli 1 2 64, .bdil2 1 2 2, .bdil3 1 2 3, .ext 1 2 60 5, .extz 1 2 0 0, .mfs 1 0x0A, .mts 0xFFF 1].map Instr.wellFormed =
    [false, false, false, false, false, false, false] := by decide
theorem test_illformed_float : [Instr.fadd .f4 .rne 1 2 3, .fadd .f32 .rsr 1 2 3, .fmin .i32 1 2 3, .fcvti .i32 .i32 .rne 1 2, .icvtf .f32 .f32 .rne 1 2,
    .fclass .i8 1 2, .fcmp .eq .n8 1 2 3].map Instr.wellFormed = [false, false, false, false, false, false, false] := by decide
theorem test_illformed_memory : [Instr.ld .f4 .rlx .core 1 2 3 0, .ld .i32 .rel .core 1 2 3 0, .st .i32 .acq .core 2 3 0 1, .sigadd .f32 .rlx .core 1 2 3 4 0,
    .sigwait .i64 .rel .core 1 2 3 4 0, .amoAdd .i8 .rlx .core 1 2 3 4 0, .amoMin .f32 .rlx .core 1 2 3 4 0, .amoCas2 .n64 .rlx .core 2 2 3 5 0,
    .amoCas2 .i64 .rlx .core 2 2 3 4 0, .redAdd .i32 .acq .core 1 2 3 0, .fence .rlx .sys].map Instr.wellFormed =
    [false, false, false, false, false, false, false, false, false, false, false] := by decide
theorem test_illformed_control : [Instr.loop 1 0, .loopm 1 0, .rvinit 24 1, .rvleave 31, .twait 0].map Instr.wellFormed =
    [false, false, false, false, false] := by decide
theorem test_illformed_vector : [Instr.vadd .f4 .rne 1 2 3 0, .vadd .f32 .rne 608 2 3 0, .vadd .i32 .rtz 1 2 3 0, .vadds .f32 1 2 3 0, .vcmp .tst .f32 1 2 3 0,
    .vrcp .i32 .rne 1 2 0, .vtlu .f32 .rne 1 2 3 0, .vsldu .f64 1 2 3 64 0, .vredAnd .f32 1 2 0, .vcvt .i32 .i64 .rne 1 2 3 4 0, .vpk4 .i64 .rne 1 2 3 0 0,
    .vstB .a56 1 0 2 0 3, .vmov 608 1].map Instr.wellFormed =
    [false, false, false, false, false, false, false, false, false, false, false, false, false] := by decide
theorem test_illformed_rest : [Instr.mldst none 1 2 3 4 7 0 false 0, .mldst none 1 0 3 4 0 1 false 0, .shliSlot 1 2 16, .rgld .rel .core 1 2 3 4 0].map Instr.wellFormed =
    [false, false, false, false] := by decide

/-! ### Words written out from the encoding tables (R158, R159, R164, R175 to R178, R42, R43) -/

/-- A solo word: the stop bit, format 01, guard, opcode and the 48 operand bits. -/
def soloWord (op : BitVec 8) (x : BitVec 48) : Nat := (1#1 ++ 0b01#2 ++ 0b00000#5 ++ op ++ x).toNat

/-- A double word with its extension in the second word. -/
def doubleWord (op : BitVec 8) (x : BitVec 48) (e : BitVec 64) : Nat := (e ++ (1#1 ++ 0b10#2 ++ 0b00000#5 ++ op ++ x)).toNat

/-- A pair word: scalar slot and vector slot. -/
def pairWord (sop sd sa sb : BitVec 5) (vop : BitVec 6) (vd va vb : BitVec 10) : Nat :=
  (1#1 ++ 0b00#2 ++ 0b00000#5 ++ sop ++ sd ++ sa ++ sb ++ vop ++ vd ++ va ++ vb).toNat

/-- Template T3 (R164). -/
def t3 (d a b c : BitVec 5) (x : BitVec 28) : BitVec 48 := d ++ a ++ b ++ c ++ x
/-- Template TI (R164). -/
def ti (d a : BitVec 5) (x : BitVec 6) (imm : BitVec 32) : BitVec 48 := d ++ a ++ x ++ imm
/-- Template TM (R164). -/
def tm (d : BitVec 5) (cap : BitVec 4) (a b : BitVec 5) (t : BitVec 4) (o : BitVec 2) (sc : BitVec 3) (off : BitVec 20) : BitVec 48 :=
  d ++ cap ++ a ++ b ++ t ++ o ++ sc ++ off
/-- Template TL (R164). -/
def tl (vd : BitVec 10) (a : BitVec 5) (m t : BitVec 4) (chk : BitVec 1) (x : BitVec 4) (off : BitVec 20) : BitVec 48 :=
  vd ++ a ++ m ++ t ++ chk ++ x ++ off
/-- Template TV (R164). -/
def tv (vd va vb : BitVec 10) (m t : BitVec 4) (r : BitVec 3) (x : BitVec 7) : BitVec 48 := vd ++ va ++ vb ++ m ++ t ++ r ++ x
/-- Template TE (R164). -/
def te (nb : BitVec 1) (pn : BitVec 4) (ga gb gc sx sy : BitVec 5) (x : BitVec 18) : BitVec 48 := nb ++ pn ++ ga ++ gb ++ gc ++ sx ++ sy ++ x
/-- Template TB (R164). -/
def tb (b : BitVec 3) (hint : BitVec 1) (x : BitVec 4) (off : BitVec 40) : BitVec 48 := b ++ hint ++ x ++ off
/-- Template TS (R164). -/
def ts (s : BitVec 5) (sr : BitVec 12) : BitVec 48 := s ++ sr ++ 0#31

theorem test_decode_sub : decodeTableWord 64 (soloWord 0x01 (t3 3 1 2 0 0)) = some (.sub 3 1 2) := by decide +kernel
theorem test_decode_addi : decodeTableWord 64 (soloWord 0x18 (ti 9 0 0 (-3))) = some (.addi 9 0 (-3)) := by decide +kernel
theorem test_decode_ext : decodeTableWord 64 (soloWord 0x29 (t3 4 5 0 0 (0#15 ++ 7#6 ++ 12#7))) = some (.ext 4 5 7 12) := by decide +kernel
theorem test_decode_fma : decodeTableWord 64 (soloWord 0x35 (t3 1 2 3 4 (0#17 ++ 1#3 ++ 0#4 ++ 0xD#4))) = some (.fma .f32 .rtz 1 2 3 4) := by decide +kernel
theorem test_decode_cmp : decodeTableWord 64 (soloWord 0x3D (t3 5 6 7 0 (0#24 ++ 2#4))) = some (.cmp .lt 5 6 7) := by decide +kernel
theorem test_decode_pandn : decodeTableWord 64 (soloWord 0x43 (t3 1 2 3 0 0)) = some (.pandn 1 2 3) := by decide +kernel
theorem test_decode_mfs : decodeTableWord 64 (soloWord 0x46 (ts 8 0x033)) = some (.mfs 8 0x033) := by decide +kernel
theorem test_decode_cder : decodeTableWord 64 (soloWord 0x49 (t3 1 2 3 4 (0#20 ++ 0x43#8))) = some (.cder 1 2 3 4 0x43) := by decide +kernel
theorem test_decode_ld : decodeTableWord 64 (soloWord 0x4C (tm 2 3 4 0 3 1 2 (-8))) = some (.ld .i64 .acq .chip 2 3 4 (-8)) := by decide +kernel
theorem test_decode_call : decodeTableWord 64 (soloWord 0x52 (tb 1 1 (0#1 ++ 7#3) 0)) = some (.call 1 7 true) := by decide +kernel
theorem test_decode_trap : decodeTableWord 64 (soloWord 0x58 (0#32 ++ 0xBEEF#16)) = some (.trap 0xBEEF) := by decide +kernel
theorem test_decode_amo : decodeTableWord 64 (soloWord 0x68 (tm 2 1 3 4 7 3 4 (7#4 ++ 0x10#16))) = some (.amoCas .n64 .ar .sys 2 1 3 4 0x10) := by decide +kernel
theorem test_decode_red : decodeTableWord 64 (soloWord 0x69 (tm 0 1 3 4 2 2 2 (0#4 ++ 0x10#16))) = some (.redAdd .i32 .rel .chip 1 3 4 0x10) := by decide +kernel
theorem test_decode_vfms : decodeTableWord 64 (soloWord 0x74 (tv 599 10 639 3 0xB 3 0)) = some (.vfms .bf16 .rdn 599 10 639 3) := by decide +kernel
theorem test_decode_vst_b : decodeTableWord 64 (soloWord 0x9C (tl 7 1 0 0xB 1 5 512)) = some (.vstB .bf16 1 512 7 0 5) := by decide +kernel
theorem test_decode_vcvt : decodeTableWord 64 (soloWord 0x82 (tv 1 2 3 4 0xB 4 (0#3 ++ 0xD#4))) = some (.vcvt .bf16 .f32 .rsr 1 2 3 0 4) := by decide +kernel
theorem test_decode_vred : decodeTableWord 64 (soloWord 0x96 (tv 9 2 0 1 0xD 0 1)) = some (.vredMin .f32 9 2 1) := by decide +kernel
theorem test_decode_vld : decodeTableWord 64 (soloWord 0x9B (tl 7 1 2 0xE 0 0 (-512))) = some (.vld .f64 7 1 (-512) 2) := by decide +kernel
theorem test_decode_copy : decodeTableWord 64 (soloWord 0xA9 (te 1 2 3 4 0 5 6 (7#5 ++ 8#5 ++ 1#3 ++ 1#1 ++ 0#4))) = some (.copy (some 2) 3 4 5 6 7 8 true 1) := by
  decide +kernel
theorem test_decode_rvwait : decodeTableWord 64 (soloWord 0x62 (0#27 ++ 3#5 ++ 4#5 ++ 0#6 ++ 23#5)) = some (.rvwait 23 3 4) := by decide +kernel
theorem test_decode_sigadd : decodeTableWord 64 (soloWord 0x65 (tm 1 2 3 4 3 2 1 8)) = some (.sigadd .i64 .rel .team 1 2 3 4 8) := by decide +kernel
theorem test_decode_li : decodeTableWord 128 (doubleWord 0xC0 (ti 6 0 0 0) 0x0123456789ABCDEF) = some (.li 6 0x0123456789ABCDEF) := by decide +kernel
theorem test_decode_ldl : decodeTableWord 128 (doubleWord 0xC6 (tm 2 3 4 0 0 0 0 0) 0x0000FFFFFFFFFFFF) = some (.ldl .i8 .rlx .core 2 3 4 0xFFFFFFFFFFFF) := by
  decide +kernel
theorem test_decode_addi_slot : decodeTableWord 64 (pairWord 0x0F 9 0 3 0 0 0 0) = some (.addiSlot 9 0 3) := by decide +kernel
theorem test_decode_vsub_slot : decodeTableWord 64 (pairWord 0 0 0 0 2 607 1 639) = some (.vsubSlot 607 1 639) := by decide +kernel

/-- Reserved encodings are refused: format 11, an opcode without a row, a type code without one, a field that must be zero. -/
theorem test_decode_refuses :
    [(1#1 ++ 0b11#2 ++ 0#61).toNat, soloWord 0xD0 0, soloWord 0x30 (t3 1 2 3 0 0xF), soloWord 0x00 (t3 1 2 3 1 0), soloWord 0xC0 0].map (decodeTableWord 64) =
      [none, none, none, none, none] := by decide +kernel

/-! ### Worked examples of the manual -/

/-- The worked draw of R56: 1 + 2^−9 and 1 + 2^−13 from state 1. -/
theorem test_draw_low : Fmt.bf16.round .rsr (.fin false 513 (-9)) 1 = ⟨0x3F81, FFlags.nx, 0x00042021⟩ := by decide +kernel
theorem test_draw_high : Fmt.bf16.round .rsr (.fin false 8193 (-13)) 0x00042021 = ⟨0x3F80, FFlags.nx, 0x04080601⟩ := by decide +kernel

/-- A record with operand types and the MX bit. -/
def typed (w7 : Word) : Posted := ⟨[0, 0, 0, 0, 0, 0, 0, w7], []⟩

/-- The MXFP4 quad of R61: 1.0 + 17 = 18.0 in one rounding. -/
theorem test_mxfp4_quad : passEntry (typed 0x8088) ⟨[0b0111, 0b1001, 0b0011, 0], [0x81]⟩ ⟨[0b0100, 0b0110, 0b1010, 0b0101], [0x7E]⟩ 4 4 false 0x3FE00000000000 =
    (0x40640000000000, false) := by decide +kernel

/-- The order of R61: 2^50, then 1, then −2^50 leave +0 in a BF16 pass. -/
theorem test_pass_order : passEntry (typed 0x00BB) ⟨[0x4C00, 0x3F80, 0xCC00], []⟩ ⟨[0x4C00, 0x3F80, 0x4C00], []⟩ 1 3 false 0 = (0, false) := by decide +kernel

/-- The bound register of R482: hi 6.0, lo +0, BF16, clamp mode. -/
theorem test_bound_example : [0x4040, 0x40F0, 0xBE80, 0x8000, 0x7FC0].map (fun x =>
      let v := Fmt.bf16.value x
      (Bound.breaches 0x40C00000000000B1 v, if Bound.breaches 0x40C00000000000B1 v then (Bound.clamped 0x40C00000000000B1 .bf16 v).bits else x)) =
    [(false, 0x4040), (true, 0x40C0), (true, 0x0000), (false, 0x8000), (true, 0x0000)] := by decide +kernel

/-! ### The premises of the statements can be met

A statement X with premises has a theorem witness_X, or several, witness_X_part, one conjunct for each clause. Where the one premise
of a statement is that an operation may issue, `witness_completes` is its witness: the scalar families, predicate logic, bit
operations and conversions. `witness_VectorSlots` is that of the vector families, `witness_FloatsAndEncodings` that of rounding, of
the conversions between floats and integers and of the round trip of encodings, `witness_Invariants` that of the two invariants
of every step, and `witness_Guards` that of the `GUARD` clauses of BundlesAndUnits. -/

/-- A core with nothing pending: no operation in the access unit, no delay groups to come and no loop level. -/
def Quiet (s : State) : Prop := s.core.acc = [] ∧ s.core.pend = 0 ∧ s.core.inner = none

/-- Any operation may issue on a quiet core. -/
theorem mayIssue_of_quiet {s : State} (h : Quiet s) (o : Op) : MayIssue o s := by
  obtain ⟨h1, h2, h3⟩ := h
  exact ⟨by simp [Core.badDelay, h2], by simp [misplacedEnd, h3], by simp [Core.mayIssue, Core.ready, Core.acquiring, h1]⟩

/-- After reset any operation may issue: the premise of every completion that has no other. -/
theorem witness_completes (o : Op) : MayIssue o State.reset := mayIssue_of_quiet ⟨by rfl, by rfl, by rfl⟩ o

/-- Core 0 as given, in the package after reset. -/
def withCore (c : Core) : State := { State.reset with cores := [(0, c)] }

/-- A core whose thread runs. -/
def runningCore : Core := { Core.initial with run := .running, team := some 0 }

/-- A core with scalar and capability registers. -/
def regCore (s : SMap Word) (c : SMap Cap) : Core := { runningCore with regs := { Regs.initial with s := s, c := c } }

theorem quiet_withCore {c : Core} (h1 : c.acc = []) (h2 : c.pend = 0) (h3 : c.inner = none) : Quiet (withCore c) := ⟨h1, h2, h3⟩

/-- An operation and a state in which it may issue, with a further premise. -/
theorem issues_with (c : Core) (o : Op) (when : State → Prop) (h1 : c.acc = []) (h2 : c.pend = 0) (h3 : c.inner = none)
    (hw : when (withCore c)) : ∃ s, MayIssue o s ∧ when s := ⟨withCore c, mayIssue_of_quiet (quiet_withCore h1 h2 h3) o, hw⟩

theorem witness_SpecialRegisters :
    (∃ s, MayIssue (.solo (.mts 0x100 1)) s ∧ mtsWaits (begun (.solo (.mts 0x100 1)) s).core 0x100 = false) ∧
    (∃ s, MayIssue (.solo (.mts 0x14F 1)) s ∧ mtsWaits (begun (.solo (.mts 0x14F 1)) s).core 0x14F = false) := by
  exact ⟨issues_with runningCore _ _ rfl rfl rfl (by decide +kernel), issues_with runningCore _ _ rfl rfl rfl (by decide +kernel)⟩

theorem witness_Capabilities :
    (∃ s, MayIssue (.solo (.cld 4 1 0xFFF)) s ∧ (s.core.rs 1).toNat + (0xFFF : BitVec 12).toNat ≤ 4095) ∧
    (∃ s, MayIssue (.solo (.cld 4 1 0xFFF)) s ∧ 4095 < (s.core.rs 1).toNat + (0xFFF : BitVec 12).toNat) ∧
    (∃ s, MayIssue (.solo (.cder 4 5 1 2 0x81)) s ∧ Cap.has (s.core.rc 5) 7 = true ∧ Cap.base (s.core.rc 5) ≤ (s.core.rs 1).toNat ∧
      (s.core.rs 1).toNat + (s.core.rs 2).toNat ≤ Cap.base (s.core.rc 5) + Cap.len (s.core.rc 5) ∧ Cap.wf (s.core.rc 5) = true) ∧
    (∃ s, MayIssue (.solo (.cder 4 5 1 2 0x81)) s ∧ Cap.has (s.core.rc 5) 7 = true ∧
      Cap.base (s.core.rc 5) + Cap.len (s.core.rc 5) < (s.core.rs 1).toNat + (s.core.rs 2).toNat) ∧
    (∃ s, MayIssue (.solo (.crst 4 5 0x81)) s ∧ Cap.has (s.core.rc 5) 7 = true ∧ Cap.wf (s.core.rc 5) = true) ∧
    (∃ s, MayIssue (.solo (.crst 4 5 0x81)) s ∧ Cap.has (s.core.rc 5) 7 = false) :=
  ⟨issues_with runningCore _ _ rfl rfl rfl (by decide +kernel), issues_with (regCore [(1, 1)] []) _ _ rfl rfl rfl (by decide +kernel),
   issues_with (regCore [(1, 4096), (2, 4096)] [(5, Cap.make 1 0x83 4096 4096)]) _ _ rfl rfl rfl (by decide +kernel),
   issues_with (regCore [(1, 4096), (2, 4097)] [(5, Cap.make 1 0x83 4096 4096)]) _ _ rfl rfl rfl (by decide +kernel),
   issues_with (regCore [] [(5, Cap.make 1 0x83 4096 4096)]) _ _ rfl rfl rfl (by decide +kernel),
   issues_with (regCore [] [(5, Cap.make 1 0x03 4096 4096)]) _ _ rfl rfl rfl (by decide +kernel)⟩

/-- The last doubleword of a window. -/
def edgeCore : Core := regCore [(1, 8184), (2, 7)] [(5, Cap.make 1 0x97 4096 4096)]

theorem witness_DeviceMemoryAccess : let l := loadOf .i64 .acq .chip 3 (edgeCore.rc 5) 8184; let st := storeOf .i64 .rel .chip 7 (edgeCore.rc 5) 8184
    (∃ s, MayIssue (.solo (.ld .i64 .acq .chip 3 5 1 0)) s ∧ Permitted l ∧ Unhindered (.solo (.ld .i64 .acq .chip 3 5 1 0)) s 1 8184 8) ∧
    (∃ s, MayIssue (.solo (.st .i64 .rel .chip 5 1 0 2)) s ∧ Permitted st ∧ Unhindered (.solo (.st .i64 .rel .chip 5 1 0 2)) s 1 8184 8) ∧
    (loadOf .i64 .acq .chip 3 (edgeCore.rc 5) 8188).addr % (8 : Nat) ≠ 0 ∧
    ((loadOf .i64 .acq .chip 3 (edgeCore.rc 5) 8192).addr % (8 : Nat) = 0 ∧ ¬ Permitted (loadOf .i64 .acq .chip 3 (edgeCore.rc 5) 8192)) :=
  ⟨issues_with edgeCore _ _ rfl rfl rfl (by unfold Permitted Unhindered; decide +kernel), issues_with edgeCore _ _ rfl rfl rfl (by unfold Permitted Unhindered; decide +kernel),
   by decide +kernel, by unfold Permitted; decide +kernel⟩

theorem witness_ScratchpadAccess : let l : Op := .solo (.ldx .i64 3 1 0 0); let st : Op := .solo (.stx .i64 1 0 0 3)
    (∃ s, MayIssue l s ∧ LocalAddress l s 0x5FFFF8 8 false) ∧ (∃ s, MayIssue st s ∧ LocalAddress st s 0x5FFFF8 8 true) ∧
    (∃ s, MayIssue l s ∧ (s.core.rs 1).toInt % (8 : Nat) ≠ 0) ∧ ∃ s, MayIssue l s ∧ (s.core.rs 1).toInt % (8 : Nat) = 0 ∧ 0x600000 < (s.core.rs 1).toInt + (8 : Nat) :=
  ⟨issues_with runningCore _ _ rfl rfl rfl (by unfold LocalAddress; decide +kernel), issues_with runningCore _ _ rfl rfl rfl (by unfold LocalAddress; decide +kernel),
   issues_with (regCore [(1, 4)] []) _ _ rfl rfl rfl (by decide +kernel), issues_with (regCore [(1, 0x600000)] []) _ _ rfl rfl rfl (by decide +kernel)⟩

/-- A core in a loop whose last word is the one after the present. -/
def loopCore (n : Nat) : Core := { runningCore with pc := 0x1000, sp := { Specials.initial with loops := List.replicate n ⟨0xF00, 0x1008, 2⟩ } }

/-- A core with a mailbox set. -/
def mailCore : Core := { runningCore with sp := { Specials.initial with mb := [(15, 3)] } }

/-- In a one-word group the end of the innermost level is never misplaced. -/
theorem mayIssue_one {s : State} {o : Op} (h1 : s.core.acc = []) (h2 : s.core.pend = 0) (h3 : (needs o s).words = 1) : MayIssue o s :=
  ⟨by simp [Core.badDelay, h2], by simp [misplacedEnd, h3]; split <;> rfl, by simp [Core.mayIssue, Core.ready, Core.acquiring, h1]⟩

theorem witness_Transfers : (∃ s, MayIssue (.solo (.br 1 false)) s ∧ s.core.nearEnd 1 = false) ∧
    (∃ s, MayIssue (.solo (.call 1 2 false)) s ∧ s.core.nearEnd 1 = true) ∧ (∃ s, MayIssue (.solo (.prept 1 5)) s ∧ linkDue s 1 = false) :=
  ⟨issues_with runningCore _ _ rfl rfl rfl (by decide +kernel),
   ⟨withCore (loopCore 1), mayIssue_one (by rfl) (by rfl) (by rfl), by decide +kernel⟩, issues_with runningCore _ _ rfl rfl rfl (by decide +kernel)⟩

theorem witness_DelayGroups :
    let c (n : Word) : Core := { runningCore with sp := { Specials.initial with bpend := bpendOf true true 3 0x40 &&& 0x3FFFFFFFFFFFFFFF ||| n <<< 62 } }
    ((c 2).grp = GroupAcc.empty ∧ (∀ l ∈ (c 2).sp.loops, l.last ≠ (c 2).pc) ∧ (c 2).pend = 2) ∧ (c 1).pend = 1 ∧ (c 0).pend = 0 := by decide +kernel

theorem witness_Loops : let o : Op := .solo (.loop 1 4); let om : Op := .solo (.loopm 15 4); let ok : Op := .solo (.loopmK 15 4)
    (∃ s, MayIssue o s ∧ s.core.nearEnd 1 = false ∧ s.core.rs 1 = 0) ∧
    (∃ s, MayIssue o s ∧ s.core.nearEnd 1 = false ∧ s.core.rs 1 ≠ 0 ∧ s.core.sp.loops.length < 4 ∧ s.core.inner = none) ∧
    (∃ s, MayIssue om s ∧ s.core.nearEnd 1 = false ∧ s.core.mb 15 ≠ 0 ∧ s.core.sp.loops.length < 4 ∧ s.core.inner = none) ∧
    (∃ s, MayIssue ok s ∧ s.core.nearEnd 1 = false ∧ s.core.mb 15 = 0) ∧
    (∃ s, MayIssue o s ∧ s.core.nearEnd 1 = true) ∧
    (∃ s, MayIssue o s ∧ s.core.nearEnd 1 = false ∧ s.core.rs 1 ≠ 0 ∧ 4 ≤ s.core.sp.loops.length) ∧
    ∃ s, MayIssue (.solo (.loop 1 12)) s ∧ s.core.nearEnd 1 = false ∧ s.core.rs 1 ≠ 0 ∧ s.core.sp.loops.length < 4 ∧
      s.core.inner = some ⟨0xF00, 0x1008, 2⟩ ∧ (0x1008 : BitVec 48) < s.core.pc + BitVec.ofNat 48 (8 * (12 : BitVec 20).toNat) :=
  ⟨issues_with runningCore _ _ rfl rfl rfl (by decide +kernel), issues_with (regCore [(1, 1)] []) _ _ rfl rfl rfl (by decide +kernel),
   issues_with mailCore _ _ rfl rfl rfl (by decide +kernel), issues_with runningCore _ _ rfl rfl rfl (by decide +kernel),
   ⟨withCore (loopCore 1), mayIssue_one (by rfl) (by rfl) (by rfl), by decide +kernel⟩,
   ⟨withCore { loopCore 4 with pc := 0xF00, regs := { Regs.initial with s := [(1, 1)] } }, mayIssue_one (by rfl) (by rfl) (by rfl), by decide +kernel⟩,
   ⟨withCore { loopCore 1 with pc := 0xFB0, regs := { Regs.initial with s := [(1, 1)] } }, mayIssue_one (by rfl) (by rfl) (by rfl), by decide +kernel⟩⟩

theorem witness_SoftwareTraps : (∃ s, MayIssue (.solo (.trap 5)) s) ∧ (∃ s, MayIssue (.solo (.brk 5)) s ∧ bit s.dev.dbgctl (s.cur / 32) = false) ∧
    ∃ s, MayIssue (.solo (.brk 5)) s ∧ bit s.dev.dbgctl (s.cur / 32) = true :=
  ⟨⟨_, witness_completes _⟩, ⟨_, witness_completes _, by decide +kernel⟩,
   ⟨{ State.reset with dev := { State.reset.dev with dbgctl := 1 } }, mayIssue_of_quiet ⟨by rfl, by rfl, by rfl⟩ _, by decide +kernel⟩⟩

theorem witness_SystemOperations :
    (∃ s, MayIssue (.solo (.safept 0)) s ∧ s.core.preemptAsked = false ∧ s.core.preemptForced = false) ∧
    (∃ s, MayIssue (.solo (.safept 0)) s ∧ s.core.preemptAsked = true) ∧
    (∃ s, MayIssue (.solo (.wfe 0x8000)) s ∧ (0x8000 : BitVec 16).getLsbD 15 = true ∧ s.core.mb 15 ≠ 0) ∧
    (∃ s, MayIssue (.solo .halt) s ∧ s.core.contextOpen = false ∧
      (registerAll (begun (.solo .halt) s).leaveAll).core.arrivals.any (·.leave) = false) ∧
    ∃ s, MayIssue (.solo .halt) s ∧ s.core.contextOpen = true :=
  ⟨issues_with runningCore _ _ rfl rfl rfl (by decide +kernel), issues_with { runningCore with preemptAsked := true } _ _ rfl rfl rfl (by decide +kernel),
   issues_with mailCore _ _ rfl rfl rfl (by decide +kernel), issues_with runningCore _ _ rfl rfl rfl (by decide +kernel),
   issues_with { runningCore with board := { Board.initial with bundle := some ⟨0, none⟩ } } _ _ rfl rfl rfl (by decide +kernel)⟩

/-- A core as it enters its handler, from a trap with its frame in row 12287. -/
def handlerCore : Core :=
  Core.takeTrap (Trap.precise 0x10 0 7) { runningCore with pc := 0x2000, sp := { Specials.initial with evec := setField (setBit 0 63 true) 48 14 12287 } }

/-- The same with a frame that is not well formed: its program counter is misaligned. -/
def badFrameCore : Core := { handlerCore with eng := { Engines.initial with rows := [(12287, 1 <<< 64)] } }

theorem witness_ReturnFromHandler :
    (∃ s, MayIssue (.solo .eret) s ∧ s.core.inHandler = false) ∧
    (∃ s, MayIssue (.solo .eret) s ∧ s.core.frameRow ≤ 12287 ∧ (begun (.solo .eret) s).core.spBusy (.sp s.core.frameRow 1 0 32) false = false ∧
      frameOk (s.core.row s.core.frameRow) = false) ∧
    ∃ s, MayIssue (.solo .eret) s ∧ s.core.inHandler = true ∧ s.core.frameRow ≤ 12287 ∧
      (begun (.solo .eret) s).core.spBusy (.sp s.core.frameRow 1 0 32) false = false ∧ frameOk (s.core.row s.core.frameRow) = true ∧
      bit s.core.sp.ecause 18 = false ∧ bit s.core.sp.ecause 19 = false :=
  ⟨issues_with runningCore _ _ rfl rfl rfl (by decide +kernel), issues_with badFrameCore _ _ rfl rfl rfl (by decide +kernel),
   issues_with handlerCore _ _ rfl rfl rfl (by decide +kernel)⟩

/-- A core that knows the routes of objects 1 (here) and 2 (host memory). -/
def routedCore : Core := { regCore [(1, 8184), (2, 7)] [(5, Cap.make 1 0x97 4096 4096), (6, Cap.make 2 0x97 4096 4096)] with
  routeCache := [(1, some .local), (2, some (.host 0))] }

theorem witness_ReadModifyWrites :
    let a (c : CReg) : Access := rmwOf .cas .i64 .ar .core 3 (routedCore.rc c) 8184 7 0
    let o (c : CReg) : Op := .solo (.amoCas .i64 .ar .core 3 c 1 2 0)
    (∃ s, MayIssue (o 5) s ∧ Permitted (a 5) ∧ Unhindered (o 5) s (Cap.obj (a 5).cap) 8184 8 ∧ Carried s (a 5) .cas .i64 false) ∧
    (∃ s, MayIssue (o 6) s ∧ Misrouted s (a 6) .cas .i64 false 0x01) ∧
    (rmwOf .cas .i64 .ar .core 3 (routedCore.rc 5) 8188 7 0).addr % (8 : Nat) ≠ 0 ∧ ¬ Permitted (rmwOf .cas .i64 .ar .core 3 (routedCore.rc 5) 8192 7 0) :=
  ⟨issues_with routedCore _ _ rfl rfl rfl ⟨by unfold Permitted; decide +kernel, by unfold Unhindered; decide +kernel, some .local, by decide +kernel, by decide +kernel⟩,
   issues_with routedCore _ _ rfl rfl rfl ⟨by unfold Permitted; decide +kernel, some (.host 0), by decide +kernel, by decide +kernel⟩,
   by decide +kernel, by unfold Permitted; decide +kernel⟩

/-- A core with a reduction in its combining buffer. -/
def redCore : Core := { routedCore with reds := [⟨4, 4, 0, [], 0, .add, .i64, Cap.make 1 0x97 4096 4096, 8184, 8, .core, .rlx, 5, 4, true, false, false, 0⟩], nextOp := 5 }

theorem witness_BufferedReductions :
    let a (sc : Scope) (c : CReg) : Access := redOf .add .i64 .rlx sc (routedCore.rc c) 8184 7
    let o (sc : Scope) (c : CReg) : Op := .solo (.redAdd .i64 .rlx sc c 1 2 0)
    (∃ s, MayIssue (o .core 5) s ∧ Permitted (a .core 5) ∧ Carried s (a .core 5) .add .i64 true ∧
      (begun (o .core 5) s).core.overlaps (objCells 1 8184 8) = false ∧
      combinesWith s.core .add .i64 .rlx .core 1 8184 8 = some ⟨4, 4, 0, [], 0, .add, .i64, Cap.make 1 0x97 4096 4096, 8184, 8, .core, .rlx, 5, 4, true, false, false, 0⟩) ∧
    (∃ s, MayIssue (o .chip 5) s ∧ Permitted (a .chip 5) ∧ Carried s (a .chip 5) .add .i64 true ∧
      (begun (o .chip 5) s).core.overlaps (objCells 1 8184 8) = false ∧ combinesWith s.core .add .i64 .rlx .chip 1 8184 8 = none ∧
      (s.core.reds.filter fun r => !r.sent).length < 64 ∧ s.core.accHalted = false ∧
      (begun (o .chip 5) s).dirInsert ((begun (o .chip 5) s).scalarEntries s.cur s.core.nextOp (routedCore.rc 5) 8184 8 true true) ≠ .full) ∧
    ∃ s, MayIssue (o .core 6) s ∧ Misrouted s (a .core 6) .add .i64 true 0x01 :=
  ⟨issues_with redCore _ _ rfl rfl rfl ⟨by unfold Permitted; decide +kernel, ⟨some .local, by decide +kernel, by decide +kernel⟩, by decide +kernel⟩,
   issues_with redCore _ _ rfl rfl rfl ⟨by unfold Permitted; decide +kernel, ⟨some .local, by decide +kernel, by decide +kernel⟩, by decide +kernel, by decide +kernel,
     by decide +kernel, by decide +kernel, by intro h; exact absurd h (by decide +kernel)⟩,
   issues_with redCore _ _ rfl rfl rfl ⟨by unfold Permitted; decide +kernel, some (.host 0), by decide +kernel, by decide +kernel⟩⟩

/-- The corners of a timeline signal: one step below its end, and at its end. -/
theorem witness_ReadModifyWriteValues : rmwNew .sigadd .n64 (2 ^ 64 - 2) 5 0 = some (2 ^ 64 - 1) ∧ rmwNew .sigadd .n64 (2 ^ 64 - 1) 5 0 = none ∧
    rmwNew .sigadd .n64 (2 ^ 64 - 1) 0 0 = some (2 ^ 64 - 1) ∧ rmwNew .min .i32 (2 ^ 32 - 1) 0 0 = some (2 ^ 32 - 1) ∧
    rmwNew .min .n32 (2 ^ 32 - 1) 0 0 = some 0 ∧ rmwNew .sigset .n64 5 4 0 = some 5 := by decide +kernel

/-- A package whose tenant 0 stands with its generation home as given. -/
def withGen (c : Core) (g : GenHome) : State := { withCore c with sched := { State.reset.sched with tenants := [(0, { Tenant.initial with gen := g })] } }

/-- A core that may take snapshots. -/
def snapCore (w : Wait) : Core := { regCore [(1, 5)] [(4, Cap.make 1 0x10 0 4096)] with wait := w }

theorem quiet_withGen {c : Core} {g : GenHome} (h1 : c.acc = []) (h2 : c.pend = 0) (h3 : c.inner = none) : Quiet (withGen c g) := ⟨h1, h2, h3⟩

theorem witness_WaitsFencesSnapshots :
    (∃ s q, MayIssue (.solo (.sigwait .n64 .acq .sys 3 5 1 2 0)) s ∧ s.core.wait = .sigwait 9 ∧ s.core.accOp 9 = some q ∧ q.phase = .performed) ∧
    (∃ s, MayIssue (.solo (.fence .ar .sys)) s) ∧
    (∃ s, MayIssue (.solo (.twait 0x3F)) s ∧ s.core.contextOpen = false ∧ ∀ e ∈ s.core.board.entries, e.remote = false → (0x3F : BitVec 6).getLsbD e.post.engine = false) ∧
    (∃ s, MayIssue (.solo (.twait 0x3F)) s ∧ s.core.contextOpen = true) ∧
    (∃ s, MayIssue (.solo (.snap 3 4 5)) s ∧ ¬ MaySnap s 4) ∧
    (∃ s, MayIssue (.solo (.snap 3 4 5)) s ∧ MaySnap s 4 ∧ s.core.settledBefore s.core.nextOp = true ∧ s.core.wait = .snap ∧ (homeOf s).frozen = some 1 ∧
      (homeOf s).asker = .core s.cur ∧ (homeOf s).opened = true) ∧
    (∃ s, MayIssue (.solo (.snapNw 3 4 5)) s ∧ MaySnap s 4 ∧ s.core.settledBefore s.core.nextOp = true ∧ s.core.wait ≠ .snap ∧ (homeOf s).frozen = some 1 ∧
      (homeOf s).opened = true) ∧
    (∃ s, MayIssue (.solo (.snap 3 4 5)) s ∧ MaySnap s 4 ∧ s.core.settledBefore s.core.nextOp = true ∧ (homeOf s).frozen = none) ∧
    (∃ s, MayIssue (.solo (.snapq 3 4 1)) s ∧ MaySnap s 4 ∧ s.core.rs 1 = 5 ∧ (homeOf s).current.toNat < 5) ∧
    (∃ s, MayIssue (.solo (.snapq 3 4 1)) s ∧ MaySnap s 4 ∧ s.core.rs 1 = 5 ∧ (homeOf s).current = 5) ∧
    ∀ k ∈ [GenPhase.cutting, .draining, .durable, .aborted 2], ∃ s, MayIssue (.solo (.snapq 3 4 1)) s ∧ MaySnap s 4 ∧ s.core.rs 1 = 5 ∧
      (homeOf s).current = 69 ∧ (homeOf s).history.find? (fun r => r.gen == 5) = some ⟨5, k, 0⟩ := by
  refine ⟨⟨withCore { runningCore with wait := .sigwait 9, acc := [⟨9, 9, 0, 0, .wait .n64 1 3, Cap.make 1 0x97 0 4096, 0, 8, .acq, .sys, 0, 0, 0, .performed, 5⟩], nextOp := 10 },
      ⟨9, 9, 0, 0, .wait .n64 1 3, Cap.make 1 0x97 0 4096, 0, 8, .acq, .sys, 0, 0, 0, .performed, 5⟩, ⟨by decide +kernel, by decide +kernel, by decide +kernel⟩, by decide +kernel, by decide +kernel, by decide +kernel⟩,
    ⟨_, witness_completes _⟩, issues_with runningCore _ _ rfl rfl rfl (by decide +kernel),
    issues_with { runningCore with board := { Board.initial with bundle := some ⟨0, none⟩ } } _ _ rfl rfl rfl (by decide +kernel),
    issues_with runningCore _ _ rfl rfl rfl (by unfold MaySnap; decide +kernel),
    ⟨withGen (snapCore .snap) { GenHome.initial with frozen := some 1, asker := .core 0, opened := true }, mayIssue_of_quiet (quiet_withGen rfl rfl rfl) _, by unfold MaySnap; decide +kernel, by decide +kernel⟩,
    ⟨withGen (snapCore .none) { GenHome.initial with frozen := some 1, asker := .core 3, opened := true }, mayIssue_of_quiet (quiet_withGen rfl rfl rfl) _, by unfold MaySnap; decide +kernel, by decide +kernel⟩,
    ⟨withGen (snapCore .none) GenHome.initial, mayIssue_of_quiet (quiet_withGen rfl rfl rfl) _, by unfold MaySnap; decide +kernel, by decide +kernel⟩,
    ⟨withGen (snapCore .none) { GenHome.initial with current := 4 }, mayIssue_of_quiet (quiet_withGen rfl rfl rfl) _, by unfold MaySnap; decide +kernel, by decide +kernel⟩,
    ⟨withGen (snapCore .none) { GenHome.initial with current := 5 }, mayIssue_of_quiet (quiet_withGen rfl rfl rfl) _, by unfold MaySnap; decide +kernel, by decide +kernel⟩,
    fun k hk => ⟨withGen (snapCore .none) { GenHome.initial with current := 69, history := [⟨5, k, 0⟩] }, mayIssue_of_quiet (quiet_withGen rfl rfl rfl) _,
      ⟨by show Cap.obj (Cap.make 1 0x10 0 4096) ≠ 0; decide +kernel, by show Cap.has (Cap.make 1 0x10 0 4096) _ = true; decide +kernel⟩, by rfl, by rfl, by rfl⟩⟩

/-- A package with team 0 on core 0 and a rendezvous point as given, at number 23. -/
def withPoint (c : Core) (p : RvPoint) : State := { withCore c with sched := { State.reset.sched with
  teams := [(0, some ⟨0, 0, .placed, [0], [0], 0, false, [(23, p)]⟩)] } }

theorem quiet_withPoint {c : Core} {p : RvPoint} (h1 : c.acc = []) (h2 : c.pend = 0) (h3 : c.inner = none) : Quiet (withPoint c p) := ⟨h1, h2, h3⟩

/-- An arrival at point 23, or a leave. -/
def arrivalAt (leave : Bool) : Arrival := ⟨23, leave, 7, 0, [], [], 0, false⟩

theorem witness_Rendezvous :
    (∃ s, MayIssue (.solo (.rvinit 23 1)) s ∧ s.core.team = some 0 ∧ (s.team 0).isSome = true ∧ (s.point 0 23).arrived = 0) ∧
    (∃ s, MayIssue (.solo (.rvinit 23 1)) s ∧ s.core.team = some 0 ∧ (s.point 0 23).arrived ≠ 0) ∧
    (∃ s, MayIssue (.solo (.rvarrive 23 1 3)) s ∧ Member s 0 23 ∧ s.core.arrivedAt 23 (s.point 0 23).phase = false) ∧
    (∃ s, MayIssue (.solo (.rvarrive 23 1 3)) s ∧ s.core.mark = none ∧ s.core.team = some 0 ∧ (s.point 0 23).members.getLsbD s.core.rank = false) ∧
    (∃ s, MayIssue (.solo (.rvarrive 23 1 3)) s ∧ s.core.mark = none ∧ Member s 0 23 ∧ s.core.arrivedAt 23 (s.point 0 23).phase = true) ∧
    (∃ s, MayIssue (.solo (.rvwait 23 1 3)) s ∧ s.core.team = some 0 ∧ 1 ≤ ((s.point 0 23).phase - (s.core.rs 1).setWidth 32).toNat ∧
      ((s.point 0 23).phase - (s.core.rs 1).setWidth 32).toNat ≤ 2 ^ 31) ∧
    (∃ s, MayIssue (.solo (.rvarw 23 1 3)) s ∧ s.core.mark = some ⟨23, 0x80000000, s.core.pc⟩ ∧ s.core.team = some 0 ∧ ((s.point 0 23).phase - 0x80000000).toNat = 2 ^ 31) ∧
    (∃ s, MayIssue (.solo (.rvleave 23)) s ∧ Member s 0 23) ∧
    (∃ s, MayIssue (.solo (.rvleave 23)) s ∧ s.core.team = some 0 ∧ (s.point 0 23).members.getLsbD s.core.rank = false) ∧
    ∃ s, MayIssue (.solo .rvleaveAll) s ∧ s.core.team = some 0 := by
  refine ⟨⟨withPoint runningCore ⟨7, 1, 0⟩, mayIssue_of_quiet (quiet_withPoint rfl rfl rfl) _, by decide +kernel⟩,
    ⟨withPoint runningCore ⟨7, 3, 1⟩, mayIssue_of_quiet (quiet_withPoint rfl rfl rfl) _, by decide +kernel⟩,
    ⟨withPoint runningCore ⟨7, 1, 0⟩, mayIssue_of_quiet (quiet_withPoint rfl rfl rfl) _, by unfold Member; decide +kernel⟩,
    ⟨withPoint runningCore ⟨7, 2, 0⟩, mayIssue_of_quiet (quiet_withPoint rfl rfl rfl) _, by decide +kernel⟩,
    ⟨withPoint { runningCore with arrivals := [arrivalAt false] } ⟨7, 1, 0⟩, mayIssue_of_quiet (quiet_withPoint rfl rfl rfl) _, by unfold Member; decide +kernel⟩,
    ⟨withPoint (regCore [(1, 6)] []) ⟨7, 1, 0⟩, mayIssue_of_quiet (quiet_withPoint rfl rfl rfl) _, by decide +kernel⟩,
    ⟨withPoint { runningCore with mark := some ⟨23, 0x80000000, 0⟩ } ⟨0, 1, 0⟩, mayIssue_of_quiet (quiet_withPoint rfl rfl rfl) _, by decide +kernel⟩,
    ⟨withPoint runningCore ⟨7, 1, 0⟩, mayIssue_of_quiet (quiet_withPoint rfl rfl rfl) _, by unfold Member; decide +kernel⟩,
    ⟨withPoint runningCore ⟨7, 2, 0⟩, mayIssue_of_quiet (quiet_withPoint rfl rfl rfl) _, by decide +kernel⟩,
    ⟨withPoint runningCore ⟨7, 1, 0⟩, mayIssue_of_quiet (quiet_withPoint rfl rfl rfl) _, by decide +kernel⟩⟩

/-- A core with `%vt` and one vector register. -/
def vtCore (w : Word) (v : SMap Row) : Core := { runningCore with sp := { runningCore.sp with vt := w }, regs := { Regs.initial with s := [(1, 512)], v := v } }

theorem quiet_vtCore (w : Word) (v : SMap Row) : Quiet (withCore (vtCore w v)) :=
  have h : runningCore.pend = 0 := by decide +kernel
  ⟨rfl, (rfl : (vtCore w v).pend = runningCore.pend).trans h, rfl⟩

/-- Type and destination type of slot operations, RNE and no scale exponent. -/
def vtWord (t ct : Ty) : Word := BitVec.ofNat 64 (t.code + ct.code * 2 ^ 16)

/-- A slot of each class of types (R233) under a type it accepts, and under one it does not. -/
theorem witness_VectorSlots :
    (∀ x ∈ [(SlotOp.vaddSlot 607 0 608, Ty.i64, Ty.f4), (.vminSlot 607 0 608, .i8, .f4), (.vabsSlot 607 0, .i64, .f4), (.vandSlot 607 0 1, .f64, .f4),
        (.vslduSlot 607 0 1, .i8, .f4), (.vpermSlot 607 0 1, .a56, .f4), (.vshlSlot 607 0 1, .n64, .f32), (.vaddsSlot 607 0 1, .i8, .a56),
        (.vrcpSlot 607 0, .bf16, .i32), (.vrintSlot 607 0, .f32, .a56), (.vtluSlot 607 0 1, .f16, .i8)],
      (∃ s, MayIssue (.slot x.1) s ∧ vtTy s.core = x.2.1 ∧ vtRnd s.core = .rne ∧ slotTypeOk s.core x.1 = true) ∧
      ∃ s, MayIssue (.slot x.1) s ∧ slotTypeOk s.core x.1 = false) ∧
    (∃ s, MayIssue (.slot (.vcvtSlot 607 0 1)) s ∧ vtTy s.core = .bf16 ∧ vtCty s.core = .f32 ∧ vtRnd s.core = .rne ∧ cvtPair .f32 .bf16 = true) ∧
    (∃ s, MayIssue (.slot (.vcvtSlot 607 0 1)) s ∧ cvtPair (vtCty s.core) (vtTy s.core) = false) ∧
    (∃ s, MayIssue (.slot (.vcmpLtSlot 31 0 1)) s ∧ vtTy s.core = .f32 ∧ Ty.laneArith .f32 = true ∧ Ty.notF4 .f32 = true) ∧
    (∃ s, MayIssue (.slot (.vcmpLtSlot 31 0 1)) s ∧ Ty.laneArith (vtTy s.core) = false) ∧
    (127 : BitVec 7).toNat < elemCount .i32 ∧ ¬ (127 : BitVec 7).toNat < elemCount .i64 ∧ Ty.notF4 .f4 = false := by
  refine ⟨fun x hx => ⟨⟨withCore (vtCore (vtWord x.2.1 .bf16) []), mayIssue_of_quiet (quiet_vtCore _ _) _, ?_⟩,
      ⟨withCore (vtCore (vtWord x.2.2 .bf16) []), mayIssue_of_quiet (quiet_vtCore _ _) _, ?_⟩⟩,
    issues_with (vtCore (vtWord .bf16 .f32) []) _ _ rfl rfl rfl (by decide +kernel), issues_with (vtCore (vtWord .f4 .f64) []) _ _ rfl rfl rfl (by decide +kernel),
    issues_with (vtCore (vtWord .f32 .f32) []) _ _ rfl rfl rfl (by decide +kernel), issues_with (vtCore (vtWord .f4 .f4) []) _ _ rfl rfl rfl (by decide +kernel),
    by decide +kernel, by decide +kernel, by decide +kernel⟩
  · simp only [List.mem_cons, List.not_mem_nil, or_false] at hx
    rcases hx with rfl | rfl | rfl | rfl | rfl | rfl | rfl | rfl | rfl | rfl | rfl <;> exact ⟨by rfl, by rfl, by rfl⟩
  · simp only [List.mem_cons, List.not_mem_nil, or_false] at hx
    rcases hx with rfl | rfl | rfl | rfl | rfl | rfl | rfl | rfl | rfl | rfl | rfl <;> rfl

/-- A core with bound register 15: an integer format of 32 bits with bounds 0 and 0, in mode `n`, and 1 in every element of `v0`. -/
def bndCore (n : Nat) (a : Word) : Core :=
  { (vtCore 0 [(0, 1)]).setBnd 15 (BitVec.ofNat 64 (n + 2 * 16)) with regs := { Regs.initial with s := [(1, a)], v := [(0, 1)] } }

/-- The last row of the scratchpad, a row beyond it, an address that is not a row's, and an address below the scratchpad; a bound register
of another format, one that holds, and one that is breached in each mode. -/
theorem witness_VectorMemory :
    let o (off : BitVec 20) (m : MReg) : Op := .solo (.vstB .i32 1 off 0 m 15)
    let addr (c : Core) (off : BitVec 20) : Int := (c.rs 1).toNat + off.toInt
    let broken (c : Core) (m : MReg) : Bool := (List.range (elemCount .i32)).any fun j => enabledBy .i32 m c j && Bound.breaches (c.bnd 15) (Ty.i32.value (lane .i32 c 0 j))
    (∃ s, MayIssue (.solo (.vld .i32 0 1 (-512) 0)) s ∧ RowAddress (.solo (.vld .i32 0 1 (-512) 0)) s (addr s.core (-512)) false ∧ addr s.core (-512) = 0x5FFE00) ∧
    (∃ s, MayIssue (o 0 0) s ∧ RowAddress (o 0 0) s (addr s.core 0) true ∧ addr s.core 0 = 0) ∧
    (∃ s, MayIssue (o 511 0) s ∧ addr s.core 511 % 512 ≠ 0) ∧
    (∃ s, MayIssue (o (-512) 0) s ∧ addr s.core (-512) % 512 = 0 ∧ addr s.core (-512) < 0) ∧
    (∃ s, MayIssue (o 0 0) s ∧ addr s.core 0 % 512 = 0 ∧ 0x600000 < addr s.core 0 + 512) ∧
    (∃ s, MayIssue (o 0 0) s ∧ RowAddress (o 0 0) s (addr s.core 0) true ∧ Bound.fmt (s.core.bnd 15) ≠ Ty.i32.code) ∧
    (∃ s, MayIssue (o 0 1) s ∧ RowAddress (o 0 1) s (addr s.core 0) true ∧ Bound.fmt (s.core.bnd 15) = Ty.i32.code ∧ broken s.core 1 = false) ∧
    ∀ n ∈ [0, 1, 2], ∃ s, MayIssue (o 0 0) s ∧ RowAddress (o 0 0) s (addr s.core 0) true ∧ Bound.fmt (s.core.bnd 15) = Ty.i32.code ∧
      broken s.core 0 = true ∧ Bound.mode (s.core.bnd 15) = n := by
  refine ⟨issues_with (bndCore 0 0x600000) _ _ rfl rfl rfl (by unfold RowAddress; decide +kernel), issues_with (bndCore 0 0) _ _ rfl rfl rfl (by unfold RowAddress; decide +kernel),
    issues_with (bndCore 0 0) _ _ rfl rfl rfl (by decide +kernel), issues_with (bndCore 0 0) _ _ rfl rfl rfl (by decide +kernel),
    issues_with (bndCore 0 0x600000) _ _ rfl rfl rfl (by decide +kernel), issues_with (vtCore 0 []) _ _ rfl rfl rfl (by unfold RowAddress; decide +kernel),
    issues_with (bndCore 0 0) _ _ rfl rfl rfl (by unfold RowAddress; decide +kernel), fun n hn => ?_⟩
  simp only [List.mem_cons, List.not_mem_nil, or_false] at hn
  rcases hn with rfl | rfl | rfl
  · exact issues_with (bndCore 0 0) _ _ rfl rfl rfl (by unfold RowAddress; decide +kernel)
  · exact issues_with (bndCore 1 0) _ _ rfl rfl rfl (by unfold RowAddress; decide +kernel)
  · exact issues_with (bndCore 2 0) _ _ rfl rfl rfl (by unfold RowAddress; decide +kernel)

/-- A core with region registers, scalar 1 to 4 and a capability 5 with all rights on object 1 from its start, over 64 KiB. -/
def postCore (g s : SMap Word) : Core := { runningCore with regs := { Regs.initial with g := g, s := s, c := [(5, Cap.make 1 0x1F 0 65536)] } }

/-- A box of whole rows of the scratchpad. -/
def rowsBox (access row n : Nat) : Word := BitVec.ofNat 64 (2 ^ 63 + access * 2 ^ 59 + row * 2 ^ 26 + n * 2 ^ 12 + 32)
/-- The first entry of tile 0. -/
def tileBox (access : Nat) : Word := BitVec.ofNat 64 (2 ^ 63 + 2 ^ 61 + access * 2 ^ 59 + 2 ^ 19 + 2 ^ 4)
/-- Granules of the object of capability 5. -/
def objBox (access lo n : Nat) : Word := BitVec.ofNat 64 (2 ^ 63 + 2 ^ 62 + access * 2 ^ 59 + 5 * 2 ^ 52 + lo * 2 ^ 24 + n)
/-- A reference to the first bytes of that object: to a nest, or to a layout. -/
def refWord (layout : Bool) : Word := BitVec.ofNat 64 (2 ^ 63 + 5 * 2 ^ 56 + if layout then 2 ^ 60 else 0)

/-- A record passes its checks on a core, and the window has, or has not, room for it. -/
def Fits (o : Op) (c : Core) (ws : List Word) (room : Bool) : Bool :=
  match checkRecord (localCtx (begun o (withCore c)).core (ownIds (begun o (withCore c)))) ws with
  | .ok p => c.joinBundle.isNone && c.joinUnit.isNone && (ringCheck (begun o (withCore c)).core p).isNone && c.room false == room
  | .error _ => false

theorem posts_of_fits {o : Op} {c : Core} {ws : List Word} {room : Bool} (h1 : c.acc = []) (h2 : c.pend = 0) (h3 : c.inner = none) (h : Fits o c ws room = true) :
    ∃ s p, MayIssue o s ∧ s.core = c ∧ checkRecord (localCtx (begun o s).core (ownIds (begun o s))) ws = .ok p ∧ c.joinBundle = none ∧ c.joinUnit = none ∧
      ringCheck (begun o s).core p = none ∧ c.room false = room := by
  unfold Fits at h
  split at h
  · rename_i p hp
    simp only [Bool.and_eq_true, Option.isNone_iff_eq_none, beq_iff_eq] at h
    exact ⟨withCore c, p, mayIssue_of_quiet (quiet_withCore h1 h2 h3) o, rfl, hp, h.1.1.1, h.1.1.2, h.1.2, h.2⟩
  · cases h

/-- A ring with one slot of one row, at row 4. -/
def ringOf (mode : Nat) : Ring := ⟨mode, 2, 1, 1, 0, 0, rowsBox 2 4 2, 0, 0, true, []⟩

/-- A record of each posting instruction, as it builds it from its registers (R259), passes its checks. -/
theorem witness_TaskPosts :
    Fits (.solo (.mldst none 1 0 2 1 0 0 false 0)) (postCore [(1, rowsBox 1 0 1)] [(1, 0xB0), (2, 0x10001)])
      (buildRecord ⟨0x01, 0, 0, false, false⟩ [rowsBox 1 0 1, 0] 0xB0 0x10001 (stepsWord [rowsBox 1 0 1, 0] [some 0, some 0]) 0) true = true ∧
    Fits (.solo (.mswap none false 7)) (postCore [] []) (buildRecord ⟨0x02, 0, 7, false, false⟩ [] 0 0 0 0) true = true ∧
    Fits (.solo (.mzero none 1 1 true 0)) (postCore [(1, tileBox 2)] [(1, 0xF00)]) (buildRecord ⟨0x03, 0, 0, true, false⟩ [tileBox 2] 0xF00 0 0 0) true = true ∧
    Fits (.solo (.mstream none 1 2 0 2 1 0 0 false 0)) (postCore [(1, rowsBox 1 0 1), (2, tileBox 3)] [(1, 0xBB), (2, 0x10001)])
      (buildRecord ⟨0x04, 0, 0, false, false⟩ [rowsBox 1 0 1, tileBox 3, 0] 0xBB 0x10001 (stepsWord [rowsBox 1 0 1, tileBox 3, 0] [some 0, none, some 0]) 0) true = true ∧
    Fits (.solo (.mdrain none 1 2 0 2 1 0 false 0)) (postCore [(1, tileBox 1), (2, rowsBox 2 0 1)] [(1, 0xD00), (2, 0x10001)])
      (buildRecord ⟨0x05, 0, 0, false, false⟩ [tileBox 1, rowsBox 2 0 1, 0] 0xD00 0x10001 (stepsWord [tileBox 1, rowsBox 2 0 1, 0] [none, some 0]) 0) true = true ∧
    Fits (.solo (.mepi none 1 2 1 false 0)) (postCore [(1, rowsBox 1 0 1)] [(1, 0x10000), (2, 1)]) (buildRecord ⟨0x06, 1, 0, false, false⟩ [rowsBox 1 0 1] 0x10000 1 0 0) true = true ∧
    Fits (.solo (.smap none 1 0 2 0 2 1 0 0 5 0)) (postCore [(1, rowsBox 1 0 1), (2, rowsBox 2 1 1)] [(1, 0xD0D), (2, 0x10001)])
      (buildRecord ⟨0x10, 1, 0, false, false⟩ [rowsBox 1 0 1, 0, rowsBox 2 1 1, 0] 0xD0D 0x10001
        (stepsWord [rowsBox 1 0 1, 0, rowsBox 2 1 1, 0] [some 0, some 0, some 5]) 0) true = true ∧
    Fits (.solo (.sred none 1 2 2 1 0 0)) (postCore [(1, rowsBox 1 0 1), (2, rowsBox 2 1 1)] [(1, 0xD0D), (2, 0x10001)])
      (buildRecord ⟨0x11, 1, 0, false, false⟩ [rowsBox 1 0 1, rowsBox 2 1 1] 0xD0D 0x10001 (stepsWord [rowsBox 1 0 1, rowsBox 2 1 1] [some 0]) 0) true = true ∧
    Fits (.solo (.xpose none 1 2 2 1 0 0 0)) (postCore [(1, rowsBox 1 0 1), (2, rowsBox 2 1 1)] [(1, 0xD), (2, 0x10001)])
      (buildRecord ⟨0x18, 2, 0, false, false⟩ [rowsBox 1 0 1, rowsBox 2 1 1] 0xD 0x10001 (stepsWord [rowsBox 1 0 1, rowsBox 2 1 1] [some 0, some 0]) 0) true = true ∧
    Fits (.solo (.copy none 1 2 1 0 0 0 true 0)) (postCore [(1, rowsBox 1 0 1), (2, rowsBox 2 1 1)] [(1, 512)])
      (buildRecord ⟨0x20, 3, 0, false, true⟩ [rowsBox 1 0 1, rowsBox 2 1 1] 0 512 0 0) true = true ∧
    Fits (.solo (.gather none 1 2 3 0 0 2 0 false 0)) (postCore [(1, objBox 1 0 1), (2, rowsBox 1 0 1), (3, rowsBox 2 1 1)] [(2, refWord true)])
      (buildRecord ⟨0x21, 3, 0, false, false⟩ [objBox 1 0 1, rowsBox 1 0 1, rowsBox 2 1 1] 0 0 (refWord true) 0) true = true ∧
    Fits (.solo (.scatter none 1 2 3 0 0 0 2 false 0)) (postCore [(1, rowsBox 1 1 1), (2, rowsBox 1 0 1), (3, objBox 2 0 1)] [(2, refWord true)])
      (buildRecord ⟨0x22, 3, 0, false, false⟩ [rowsBox 1 1 1, rowsBox 1 0 1, objBox 2 0 1] 0 0 0 (refWord true)) true = true ∧
    Fits (.solo (.subscr none 1 2 2 1 3 0)) (postCore [(1, objBox 1 0 1), (2, rowsBox 2 4 2)] [(1, 0x100000000), (2, 0x20), (3, refWord false)])
      (buildRecord ⟨0x23, 3, 0, false, false⟩ [objBox 1 0 1, rowsBox 2 4 2] 0x100000000 0x20 (refWord false) 0) true = true ∧
    Fits (.solo (.ringpop none 1 0 0)) { postCore [(1, rowsBox 1 4 1)] [] with eng := { runningCore.eng with rings := [(0, some (ringOf 0))] } }
      (buildRecord ⟨0x30, 5, 0, false, false⟩ [rowsBox 1 4 1] 0 0 0 0) true = true ∧
    Fits (.solo (.ringpush none 1 0 0)) { postCore [(1, rowsBox 2 4 1)] [] with eng := { runningCore.eng with rings := [(0, some (ringOf 1))] } }
      (buildRecord ⟨0x31, 5, 0, false, false⟩ [rowsBox 2 4 1] 0 0 0 0) true = true ∧
    Fits (.solo (.coll none 1 2 0 0 2 true 0)) (postCore [(1, rowsBox 1 0 1), (2, rowsBox 2 1 1)] [(2, refWord false)])
      (buildRecord ⟨0x28, 4, 0, false, true⟩ [rowsBox 1 0 1, rowsBox 2 1 1] 0 0 (refWord false) 0) true = true ∧
    Fits (.solo (.tstart none 1)) (postCore [(1, tileBox 3)] []) (buildRecord ⟨0x3C, 0, 0, true, false⟩ [tileBox 3] 0 0 0 0) true = true ∧
    Fits (.solo (.mswap (some 15) false 7)) { postCore [] [] with board := { Board.initial with rres := 511, units := [⟨0, 0, 0, [], [], [⟨[], []⟩], [], false, false, false, []⟩] } }
      (buildRecord ⟨0x02, 0, 7, false, false⟩ [] 0 0 0 0) false = true ∧
    (∃ s t, MayIssue (.solo (.mzero none 1 1 true 0)) s ∧
      checkRecord (localCtx (begun (.solo (.mzero none 1 1 true 0)) s).core (ownIds (begun (.solo (.mzero none 1 1 true 0)) s)))
        (buildRecord ⟨0x03, 0, 0, true, false⟩ [s.core.rg 1] (s.core.rs 1) 0 0 0) = .error t ∧ t.delivery = .precise) := by
  refine ⟨?_, ?_, ?_, ?_, ?_, ?_, ?_, ?_, ?_, ?_, ?_, ?_, ?_, ?_, ?_, ?_, ?_, ?_,
    withCore runningCore, recordFault 1 0, mayIssue_of_quiet (quiet_withCore rfl rfl rfl) _, by rfl, by rfl⟩ <;> decide +kernel

/-- A guarded unit in a section. -/
def unitIn (n : Nat) : GUnit := ⟨7, n, 0, [], [], [], [], false, false, false, []⟩

/-- A board with an open bundle, and one with units. -/
def bundleBoard (n : Nat) : Board := { Board.initial with bundle := some ⟨n, none⟩ }
def unitBoard (us : List GUnit) : Board := { Board.initial with units := us }

theorem witness_BundlesAndUnits :
    (∃ s, MayIssue (.solo .bundle) s ∧ s.core.inHandler = false ∧ s.core.board.bundle = none) ∧
    (∃ s, MayIssue (.solo .bundle) s ∧ s.core.inHandler = false ∧ s.core.board.bundle.isSome = true) ∧
    (∃ s, MayIssue (.solo .bundle) s ∧ s.core.inHandler = true) ∧
    (∃ s, MayIssue (.solo .bend) s ∧ s.core.inHandler = false ∧ s.core.board.bundle = some ⟨16, none⟩) ∧
    (∃ s, MayIssue (.solo .bend) s ∧ s.core.inHandler = true) ∧
    (∀ x ∈ [(SoloOp.gcheck, 1), (.gexact, 2), (.gend, 3)],
      (∃ s, MayIssue (.solo x.1) s ∧ s.core.inHandler = false ∧ s.core.board.bundle = none ∧ ∃ v, s.core.openUnit = some v ∧ v.guardSeq = 7 ∧ v.sect = x.2) ∧
      (∃ s, MayIssue (.solo x.1) s ∧ s.core.inHandler = false ∧ s.core.openUnit = none) ∧
      (∃ s, MayIssue (.solo x.1) s ∧ s.core.inHandler = false ∧ s.core.board.bundle.isSome = true) ∧
      (∃ s, MayIssue (.solo x.1) s ∧ s.core.inHandler = false ∧ ∃ v, s.core.openUnit = some v ∧ v.sect ≠ x.2) ∧
      ∃ s, MayIssue (.solo x.1) s ∧ s.core.inHandler = true) := by
  have opened (o : SoloOp) (n : Nat) : n = 1 ∨ n = 2 ∨ n = 3 → ∃ s, MayIssue (.solo o) s ∧ s.core.inHandler = false ∧ s.core.board.bundle = none ∧
      ∃ v, s.core.openUnit = some v ∧ v.guardSeq = 7 ∧ v.sect = n := by
    rintro (rfl | rfl | rfl)
    · exact issues_with { runningCore with board := unitBoard [unitIn 1] } _ _ rfl rfl rfl ⟨by decide +kernel, rfl, unitIn 1, rfl, rfl, rfl⟩
    · exact issues_with { runningCore with board := unitBoard [unitIn 2] } _ _ rfl rfl rfl ⟨by decide +kernel, rfl, unitIn 2, rfl, rfl, rfl⟩
    · exact issues_with { runningCore with board := unitBoard [unitIn 3] } _ _ rfl rfl rfl ⟨by decide +kernel, rfl, unitIn 3, rfl, rfl, rfl⟩
  refine ⟨issues_with runningCore _ _ rfl rfl rfl (by decide +kernel), issues_with { runningCore with board := bundleBoard 0 } _ _ rfl rfl rfl (by decide +kernel),
    issues_with handlerCore _ _ rfl rfl rfl (by decide +kernel), issues_with { runningCore with board := bundleBoard 16 } _ _ rfl rfl rfl (by decide +kernel),
    issues_with handlerCore _ _ rfl rfl rfl (by decide +kernel), fun x hx => ?_⟩
  simp only [List.mem_cons, List.not_mem_nil, or_false] at hx
  rcases hx with rfl | rfl | rfl <;>
    exact ⟨opened _ _ (by decide),
      issues_with runningCore _ _ rfl rfl rfl (by decide +kernel), issues_with { runningCore with board := bundleBoard 0 } _ _ rfl rfl rfl (by decide +kernel),
      issues_with { runningCore with board := unitBoard [unitIn 4] } _ _ rfl rfl rfl ⟨by decide +kernel, unitIn 4, rfl, by decide⟩,
      issues_with handlerCore _ _ rfl rfl rfl (by decide +kernel)⟩

/-- A core that may post a `GUARD` with one commit box, and its record. -/
def guardCore (b : Board) : Core := { postCore [(1, BitVec.ofNat 64 (2 ^ 63 + 2 * 2 ^ 59 + 2 ^ 58 + 2 ^ 12 + 32))] [] with board := b }
def guardWords : List Word := buildRecord ⟨0x38, 5, 0, false, false⟩ [BitVec.ofNat 64 (2 ^ 63 + 2 * 2 ^ 59 + 2 ^ 58 + 2 ^ 12 + 32), 0, 0, 0, 0, 0] 0 15 0 0

/-- The fourth unit may open, and a `GUARD` inside a bundle or a unit is well formed. -/
theorem witness_Guards :
    (∀ b ∈ [unitBoard [unitIn 0, unitIn 0, unitIn 0], bundleBoard 0], ∃ p,
      checkRecord (localCtx (begun (.solo (.guard none 15 1 0 0 0 0 0)) (withCore (guardCore b))).core (ownIds (withCore (guardCore b)))) guardWords = .ok p) ∧
    (∃ p, checkRecord (localCtx (guardCore (unitBoard [unitIn 0, unitIn 0, unitIn 0])) (ownIds (withCore (guardCore (unitBoard [unitIn 0, unitIn 0, unitIn 0]))))) guardWords = .ok p ∧
      ringCheck (guardCore (unitBoard [])) p = none ∧ commitRows p ≤ (guardCore (unitBoard [unitIn 0, unitIn 0, unitIn 0])).spareRows ∧
      (guardCore (unitBoard [unitIn 0, unitIn 0, unitIn 0])).room false = true) := by
  refine ⟨fun b hb => ?_, _, by rfl, by decide +kernel⟩
  simp only [List.mem_cons, List.not_mem_nil, or_false] at hb
  rcases hb with rfl | rfl <;> exact ⟨_, by rfl⟩

/-! Records in the scratchpad -/

/-- The bytes of an `MSWAP` record, sealed with number 9. -/
def sealedBytes : Bytes := [2] ++ List.replicate 119 0 ++ [9, 0, 0, 0] ++ [0x44, 0x30, 0x34, 0x14]

/-- A row whose first record it is. -/
def sealedRow : Row := BitVec.ofNat 4096 (2 + 9 * 2 ^ 960 + 0x14343044 * 2 ^ 992)

theorem crc_step {a b : Bytes} {x y : BitVec 32} (h : a.foldl crcByte x = y) : (a ++ b).foldl crcByte x = b.foldl crcByte y := by
  rw [List.foldl_append, h]

/-- Its CRC, sixteen bytes at a time. -/
theorem sealedBytes_crc : crc32c (sealedBytes.take 124) = 0x14343044 := by
  have h0 : ((2 :: List.replicate 15 0 : Bytes)).foldl crcByte 0xFFFFFFFF = 0x5c7b0818 := by decide +kernel
  have h1 : (List.replicate 16 0 : Bytes).foldl crcByte 0x5c7b0818 = 0x0e2368c3 := by decide +kernel
  have h2 : (List.replicate 16 0 : Bytes).foldl crcByte 0x0e2368c3 = 0xef21ff4e := by decide +kernel
  have h3 : (List.replicate 16 0 : Bytes).foldl crcByte 0xef21ff4e = 0x142aca9c := by decide +kernel
  have h4 : (List.replicate 16 0 : Bytes).foldl crcByte 0x142aca9c = 0xcfbec03b := by decide +kernel
  have h5 : (List.replicate 16 0 : Bytes).foldl crcByte 0xcfbec03b = 0x22df136b := by decide +kernel
  have h6 : (List.replicate 16 0 : Bytes).foldl crcByte 0x22df136b = 0xc2b4c164 := by decide +kernel
  have h7 : (List.replicate 8 0 ++ [9, 0, 0, 0] : Bytes).foldl crcByte 0xc2b4c164 = 0xebcbcfbb := by decide +kernel
  have hs : sealedBytes.take 124 = (2 :: List.replicate 15 0) ++ (List.replicate 16 0 ++ (List.replicate 16 0 ++ (List.replicate 16 0 ++ (List.replicate 16 0
      ++ (List.replicate 16 0 ++ (List.replicate 16 0 ++ (List.replicate 8 0 ++ [9, 0, 0, 0]))))))) := by decide +kernel
  rw [crc32c, hs, crc_step h0, crc_step h1, crc_step h2, crc_step h3, crc_step h4, crc_step h5, crc_step h6, h7]
  decide +kernel

theorem sealedBytes_sealed : isSealed sealedBytes 9 = true := by
  unfold isSealed
  rw [sealedBytes_crc]
  decide +kernel

/-- A core that posts from row 0, which holds a record sealed with number 9: cursor, limit or target, and the window. -/
def areaCore (g cur y : Word) : Core :=
  let c := postCore [(1, g)] [(1, cur), (2, y)]
  { c with eng := { c.eng with rows := [(c.phys 0, sealedRow)] } }

theorem quiet_areaCore (g cur y : Word) : Quiet (withCore (areaCore g cur y)) :=
  have h : runningCore.pend = 0 := by decide +kernel
  ⟨rfl, (rfl : (areaCore g cur y).pend = runningCore.pend).trans h, rfl⟩

/-- The area of the first row: four records. -/
def rowArea : Area := ⟨⟨.sp, 1, false, false, 0, 0, 0, 1, 0, 32, 0, 0, 0, 0, true⟩, nullCap, 4⟩

/-- A cursor at record `i`, awaiting number `q`. -/
def cursorAt (i q : Nat) : Word := BitVec.ofNat 64 (i * 2 ^ 48 + q)

/-- A state whose core posts from row 0. -/
def areaState (cur y : Word) : State := withCore (areaCore (rowsBox 1 0 1) cur y)

theorem mayIssue_areaState (cur y : Word) (o : Op) : MayIssue o (areaState cur y) := mayIssue_of_quiet (quiet_areaCore _ _ _) o

/-- The record of row 0 is read. -/
theorem reads_record (s : State) (c : Core) (n : Nat) (h : s.core = c) (h1 : areaBusy c (rowArea.cells 0 n) = false)
    (h2 : ((List.range n).any fun k => c.eng.bad.contains (.row (c.phys ((rowArea.at' 0 + 128 * k) / 512)))) = false) :
    readArea s rowArea 0 n = .bytes (c.spBytes 0 (128 * n)) s := by
  subst h
  unfold readArea
  simp only [h1, h2, Bool.false_eq_true, if_false]
  rfl

/-- The same core with no free entry in its window. -/
def fullCore : Core := { areaCore (rowsBox 1 0 1) (cursorAt 0 9) 1 with
  board := { Board.initial with rres := 511, units := [⟨0, 0, 0, [], [], [⟨[], []⟩], [], false, false, false, []⟩] } }

theorem quiet_fullCore : Quiet (withCore fullCore) := ⟨rfl, (quiet_areaCore (rowsBox 1 0 1) (cursorAt 0 9) 1).2.1, rfl⟩

/-- The same core as it is asked to leave. -/
def askedCore : Core := { areaCore (rowsBox 1 0 1) (cursorAt 0 9) 1 with preemptAsked := true }

theorem quiet_askedCore : Quiet (withCore askedCore) := ⟨rfl, (quiet_areaCore (rowsBox 1 0 1) (cursorAt 0 9) 1).2.1, rfl⟩

theorem not_sealed {bs : Bytes} {q : BitVec 32} (h : (field (wordOfBytes ((bs.drop 120).take 8)) 0 32 : BitVec 32) ≠ q) : isSealed bs q = false := by
  show ((field (wordOfBytes ((bs.drop 120).take 8)) 0 32 : BitVec 32) == q && _) = false
  rw [show ((field (wordOfBytes ((bs.drop 120).take 8)) 0 32 : BitVec 32) == q) = false from beq_false_of_ne h, Bool.false_and]

theorem witness_PostsFromMemory :
    let o (nb : NB) (y : SReg) : Op := .solo (.postm nb 1 1 y)
    let area (nb : NB) (y : SReg) (s : State) : Prop := recordArea (begun (o nb y) s).core (ownIds (begun (o nb y) s)) 1 = .ok rowArea
    let idx (c : Core) : Nat := nfield (c.rs 1) 48 16
    let fresh (s : State) : Prop := area none 2 s ∧ s.core.wait = .none ∧ s.core.room false = true
    (∃ s, MayIssue (o none 2) s ∧ fresh s ∧ s.core.rs 2 = 0) ∧
    (∃ s, MayIssue (o none 2) s ∧ fresh s ∧ s.core.rs 2 ≠ 0 ∧ rowArea.capacity ≤ idx s.core ∧ idx s.core = 4) ∧
    (∃ s, MayIssue (o none 2) s ∧ fresh s ∧ s.core.rs 2 ≠ 0 ∧ idx s.core < rowArea.capacity ∧ s.core.preemptAsked = true) ∧
    (∃ s, MayIssue (o none 2) s ∧ fresh s ∧ s.core.rs 2 ≠ 0 ∧ idx s.core < rowArea.capacity ∧ idx s.core = 3 ∧ s.core.preemptAsked = false ∧
      ∃ bs s1, readArea (begun (o none 2) s) rowArea (idx s.core) 1 = .bytes bs s1 ∧ isSealed bs (field (s.core.rs 1) 0 32) = false) ∧
    (∃ s, MayIssue (o none 2) s ∧ fresh s ∧ s.core.rs 2 = 1 ∧ idx s.core < rowArea.capacity ∧ s.core.preemptAsked = false ∧ s.core.joinBundle = none ∧ s.core.joinUnit = none ∧
      ∃ bs s1 p, readArea (begun (o none 2) s) rowArea (idx s.core) 1 = .bytes bs s1 ∧ isSealed bs (field (s.core.rs 1) 0 32) = true ∧
        ¬ (0x38 ≤ nfield ((recordWords bs)[0]?.getD 0) 0 8 ∧ nfield ((recordWords bs)[0]?.getD 0) 0 8 ≤ 0x3B) ∧
        checkRecord (localCtx s1.core (ownIds s1)) (recordWords bs) = .ok p ∧ ringCheck s1.core p = none) ∧
    (∃ s, MayIssue (o (some 0) 0) s ∧ area (some 0) 0 s ∧ s.core.wait = .none ∧ s.core.room false = false) ∧
    (∃ s t, MayIssue (o none 2) s ∧ recordArea (begun (o none 2) s).core (ownIds (begun (o none 2) s)) 1 = .error t ∧ t.delivery = .precise) := by
  refine ⟨⟨areaState (cursorAt 0 9) 0, mayIssue_areaState _ _ _, ⟨by rfl, by rfl, by decide +kernel⟩, by decide +kernel⟩,
    ⟨areaState (cursorAt 4 9) 1, mayIssue_areaState _ _ _, ⟨by rfl, by rfl, by decide +kernel⟩, by decide +kernel⟩,
    ⟨withCore askedCore, mayIssue_of_quiet quiet_askedCore _,
      ⟨by rfl, by rfl, by decide +kernel⟩, by decide +kernel⟩,
    ⟨areaState (cursorAt 3 9) 1, mayIssue_areaState _ _ _, ⟨by rfl, by rfl, by decide +kernel⟩, by decide +kernel, by decide +kernel, by decide +kernel, by rfl, _, _, by rfl, not_sealed (by decide +kernel)⟩,
    ⟨areaState (cursorAt 0 9) 1, mayIssue_areaState _ _ _, ⟨by rfl, by rfl, by decide +kernel⟩, by decide +kernel, by decide +kernel, by rfl, by decide +kernel, by decide +kernel,
      sealedBytes, _, ⟨[2, 0, 0, 0, 0, 0, 0, 0, 0, 0, 0, 0, 0, 0, 0, 0], [nullCap, nullCap, nullCap, nullCap, nullCap, nullCap, nullCap, nullCap, nullCap]⟩,
      (reads_record _ _ 1 rfl (by decide +kernel) (by decide +kernel)).trans (congrArg (AreaRead.bytes · _) (by decide +kernel)),
      sealedBytes_sealed, by decide +kernel, by rfl, by rfl⟩,
    ⟨withCore fullCore, mayIssue_of_quiet quiet_fullCore _, by rfl, by rfl, by decide +kernel⟩,
    ⟨withCore (areaCore 0 0 0), regionFault 0, mayIssue_of_quiet (quiet_areaCore 0 0 0) _, by rfl, by rfl⟩⟩

/-- A core of tenant 0, whose peer map gives logical chip 5 as chip 3, that posts from row 0. -/
def peerState (c : Core) : State := { withCore c with sched := { State.reset.sched with
  tenants := [(0, { Tenant.initial with peers := [(5, ⟨true, false, false, 3, 0⟩)] })] } }

/-- A target: logical chip, core and count (R405). -/
def targetOf (lid core n : Nat) : Word := BitVec.ofNat 64 (lid + core * 2 ^ 16 + n * 2 ^ 32)

theorem quiet_peerState (cur y : Word) : Quiet (peerState (areaCore (rowsBox 1 0 1) cur y)) := quiet_areaCore (rowsBox 1 0 1) cur y

/-- The same core with an open bundle. -/
def bundleCore : Core := { areaCore (rowsBox 1 0 1) (cursorAt 0 9) (targetOf 5 383 1) with board := bundleBoard 0 }

theorem quiet_bundleCore : Quiet (peerState bundleCore) := ⟨rfl, (quiet_areaCore (rowsBox 1 0 1) (cursorAt 0 9) (targetOf 5 383 1)).2.1, rfl⟩

theorem witness_PostsToOtherCores :
    let o : Op := .solo (.postr none 1 1 2 3 true)
    let y (s : State) : Word := s.core.rs 2
    let idx (s : State) : Nat := nfield (s.core.rs 1) 48 16
    let mapped (s : State) : Prop := (SMap.get PeerEntry.initial (s.tenant (s.tenantOf s.cur)).peers (nfield (y s) 0 10)).valid = true
    let may (s : State) : Prop := s.core.board.bundle = none ∧ s.core.openUnit = none ∧ targetOk s (y s) = true ∧ mapped s ∧
      s.fab.flowsOut.any (endedFlow s.cur (s.tenantOf s.cur) (nfield (y s) 0 10)) = false ∧ recordArea (begun o s).core (ownIds (begun o s)) 1 = .ok rowArea
    (∃ s, MayIssue o s ∧ may s ∧ rowArea.capacity < idx s + nfield (y s) 32 5 ∧ idx s + nfield (y s) 32 5 = 5) ∧
    (∃ s, MayIssue o s ∧ may s ∧ idx s + nfield (y s) 32 5 = rowArea.capacity ∧
      ∃ bs s1, readArea (begun o s) rowArea (idx s) (nfield (y s) 32 5) = .bytes bs s1 ∧ isSealed (bs.take 128) (field (s.core.rs 1) 0 32) = false) ∧
    (∃ s, MayIssue o s ∧ may s ∧ idx s + nfield (y s) 32 5 ≤ rowArea.capacity ∧ s.core.outbound + nfield (y s) 32 5 ≤ 32 ∧
      ∃ bs s1 rs, readArea (begun o s) rowArea (idx s) (nfield (y s) 32 5) = .bytes bs s1 ∧ nfield (y s) 32 5 = 1 ∧ isSealed (bs.take 128) (field (s.core.rs 1) 0 32) = true ∧
        sendRecords (begun o s).core (ownIds (begun o s)) 0 [bs.take 128] = .ok rs) ∧
    (∃ s, MayIssue o s ∧ s.core.board.bundle.isSome = true) ∧
    (∀ n ∈ [0, 17], ∃ s, MayIssue o s ∧ y s = targetOf 5 0 n ∧ targetOk s (y s) = false) ∧ (∃ s, MayIssue o s ∧ y s = targetOf 5 384 16 ∧ targetOk s (y s) = false) ∧
    (∃ s, MayIssue o s ∧ s.core.board.bundle = none ∧ s.core.openUnit = none ∧ targetOk s (y s) = true ∧ ¬ mapped s) := by
  have go (cur v : Word) (p : State → Prop) (h : p (peerState (areaCore (rowsBox 1 0 1) cur v))) : ∃ s, MayIssue (.solo (.postr none 1 1 2 3 true)) s ∧ p s :=
    ⟨_, mayIssue_of_quiet (quiet_peerState cur v) _, h⟩
  refine ⟨go (cursorAt 4 9) (targetOf 5 383 1) _ ⟨⟨by rfl, by rfl, by decide +kernel, by decide +kernel, by rfl, by rfl⟩, by decide +kernel, by decide +kernel⟩,
    go (cursorAt 0 10) (targetOf 5 383 4) _ ⟨⟨by rfl, by rfl, by decide +kernel, by decide +kernel, by rfl, by rfl⟩, by decide +kernel,
      _, _, reads_record _ _ 4 rfl (by decide +kernel) (by decide +kernel), not_sealed (by decide +kernel)⟩,
    go (cursorAt 0 9) (targetOf 5 383 1) _ ⟨⟨by rfl, by rfl, by decide +kernel, by decide +kernel, by rfl, by rfl⟩, by decide +kernel, by decide +kernel, sealedBytes, _,
      [⟨[2, 0, 0, 0, 0, 0, 0, 0, 0, 0, 0, 0, 0, 0, 0, 0], [nullCap, nullCap, nullCap, nullCap, nullCap, nullCap, nullCap, nullCap, nullCap]⟩],
      (reads_record _ _ 1 rfl (by decide +kernel) (by decide +kernel)).trans (congrArg (AreaRead.bytes · _) (by decide +kernel)), by decide +kernel, sealedBytes_sealed, by rfl⟩,
    ⟨_, mayIssue_of_quiet quiet_bundleCore _, by rfl⟩, fun n hn => ?_, go (cursorAt 0 9) (targetOf 5 384 16) _ (by decide +kernel),
    go (cursorAt 0 9) (targetOf 4 383 16) _ (by decide +kernel)⟩
  simp only [List.mem_cons, List.not_mem_nil, or_false] at hn
  rcases hn with rfl | rfl
  · exact go (cursorAt 0 9) (targetOf 5 0 0) _ (by decide +kernel)
  · exact go (cursorAt 0 9) (targetOf 5 0 17) _ (by decide +kernel)

theorem witness_FloatsAndEncodings : Ty.isInt .i8 = true ∧ Ty.isInt .f16 = false ∧ Ty.fmt? .f64 = some .f64 ∧
    (0x7FEFFFFFFFFFFFFF < 2 ^ Fmt.f64.bits ∧ Fmt.f64.value 0x7FEFFFFFFFFFFFFF ≠ .nan) ∧ (1 < 2 ^ Fmt.f64.bits ∧ Fmt.f64.value 1 ≠ .nan) ∧
    (∀ o ∈ [Op.solo (.vtlu .f32 .rdn 607 639 607 15), .solo (.guard (some 15) 15 31 31 31 31 31 31), .solo (.li 31 0xFFFFFFFFFFFFFFFF),
      .slot (.addiSlot 31 31 (-16)), .slot (.vmov 607 639)], o.instr.wellFormed = true) := by
  refine ⟨rfl, rfl, rfl, ⟨by decide +kernel, by decide +kernel⟩, ⟨by decide +kernel, by decide +kernel⟩, ?_⟩
  decide +kernel

/-- A word at the program counter after reset: a step fetches it, reads it and finds one operation. -/
theorem witness_StepRunsDecoded :
    (∃ (s : State) (ws : List Nat) (is : List GInstr), s.inputs = [] ∧ s.turnOfOthers = false ∧ s.clockStopped s.cur = false ∧ s.core.forcedHere = false ∧
      s.core.mayRun = true ∧ fetchGroup (tick s.cur s) (tick s.cur s).core 4 0 false false = .words ws ∧ readGroup (tick s.cur s).core ws = .ok is ∧
      onlyOp (tick s.cur s).core is = some (.solo (.sub 3 1 2))) ∧
    (∃ (s : State) (ob : Obj), Cap.within s.core.fetchCap s.core.pc.toNat 8 = true ∧ s.obj (Cap.obj s.core.fetchCap) = some ob ∧ s.core.pc.toNat + 8 ≤ ob.bytes ∧
      s.core.codeExts.contains (s.core.pc.toNat / extentBytes) = true ∧
      Decode.decode (SMap.getList 0 s.core.code s.core.pc.toNat 8 ++ []) = .ok (⟨true, false, 0, 1, [.solo (.sub 3 1 2)]⟩, []) ∧ s.core.pend = 0 ∧
      xor (s.core.rp 0) false = true) := by
  refine ⟨⟨State.reset.withFetchWord 64 (soloWord 0x01 (t3 3 1 2 0 0)), _, _, by rfl, by decide +kernel, by decide +kernel, by decide +kernel, by decide +kernel, by rfl, by rfl, by rfl⟩,
    ⟨State.reset.withFetchWord 64 (soloWord 0x01 (t3 3 1 2 0 0)), _, by decide +kernel, by rfl, by decide +kernel, by decide +kernel, by rfl, by decide +kernel, by decide +kernel⟩⟩

/-- Canonical maps, with bytes in device memory on both sides of a grain's end. -/
theorem witness_Invariants : MapsCanonical (State.reset.setHbmBytes 65535 [1, 2]) ∧ MemoryCanonical (State.reset.setHbmBytes 65535 [1, 2]) := by
  refine ⟨⟨by decide +kernel, by unfold HostCanonical; decide +kernel, by decide +kernel, fun n => ?_⟩, by decide +kernel⟩
  have h : (State.reset.setHbmBytes 65535 [1, 2]).coreAt n = Core.initial := rfl
  rw [h]
  exact ⟨by decide +kernel, fun k hk => absurd hk (by intro h; cases h), fun e he => absurd he List.not_mem_nil, fun u hu => absurd hu List.not_mem_nil⟩

/-- An object of tenant 1 in frame 64 of device memory: its last byte can be read. -/
theorem witness_MemoryBytes : let s := State.reset.withFetchWord 64 0
    s.portCheck 1 1 0x1FFFFF 1 = .proceed ∧ s.portStopped 1 0x1FFFFF = false ∧ s.poisonFault 1 0x1FFFFF 1 false = false := by decide +kernel

/-- A core whose handler is set up, and one without. -/
def evecCore : Core := { runningCore with pc := 0x2000, sp := { Specials.initial with evec := setField (setBit 0 63 true) 48 14 12287 } }

theorem witness_TakingATrap :
    evecCore.delegable (Trap.precise 0x10 0 7) = true ∧ evecCore.frameBusy = false ∧ (Trap.precise 0x10 0 7).cause ≠ 0x02 ∧ (Trap.precise 0x10 0 7).cause ≠ 0x0F ∧
    (Trap.precise 0x13 0 0).cause = 0x13 ∧ runningCore.delegable (Trap.precise 0x13 0 0) = false ∧ (Trap.precise 0x02 0 0).cause = 0x02 ∧ (Trap.precise 0x0F 0 0).cause = 0x0F := by
  decide +kernel

/-- A box and an absent one, each with a step code. -/
theorem witness_RecordSteps : ∃ boxes : List Word, ∀ k : BitVec 3, ([some k, some k, none] : List (Option Step))[0]? = some (some k) ∧ bit ((boxes[0]?).getD 0) 63 = true ∧
    bit ((boxes[1]?).getD 0) 63 = false := ⟨[2 ^ 63, 0], by decide +kernel⟩

/-! ### Device events -/

/-- The package after reset with device registers as given. -/
def withDev (d : Device) : State := { State.reset with dev := d }

/-- A port in a state, with failures. -/
def portIn (state failures : Nat) : JPort := { JPort.initial with state := state, failures := failures }

theorem witness_ResetsAndLinks :
    (∃ s, DeviceRuns s) ∧
    (∃ s, DeviceRuns s ∧ s.dev.bringUp ≠ 0 ∧ s.dev.pcieUp = false) ∧
    (∃ s, DeviceRuns s ∧ 6 ≤ s.dev.bringUp ∧ (SMap.get JPort.initial s.dev.jports 17).failures = 2 ∧ (SMap.get JPort.initial s.dev.jports 17).state = 7) ∧
    (∀ n ∈ [5, 6], ∃ s, DeviceRuns s ∧ (SMap.get JPort.initial s.dev.jports 17).state = n) ∧
    (∃ s, DeviceRuns s ∧ s.dev.bringUp = 6 ∧ s.dev.ethTried = true ∧ ∀ p < 18, 5 ≤ (SMap.get JPort.initial s.dev.jports p).state) ∧
    (∃ s, DeviceRuns s ∧ s.dev.pcieUp = true ∧ s.dev.fwLock = false ∧ bit (2 ^ 63 : Word) 63 = true ∧ s.verifyImage (nfield (2 ^ 63 : Word) 0 8) ≠ 0) ∧
    (∃ s, DeviceRuns s ∧ s.dev.pcieUp = true ∧ s.dev.fwLock = false ∧ MemoryCanonical s) ∧
    (∃ s, DeviceRuns s ∧ s.dev.fwLock = true) := by
  have up (n : Nat) : ∃ s, DeviceRuns s ∧ (SMap.get JPort.initial s.dev.jports 17).state = n := ⟨withDev { Device.initial with jports := [(17, portIn n 0)] }, (rfl : bit Device.initial.dbgctl 44 = false), rfl⟩
  exact ⟨⟨State.reset, by rfl⟩, ⟨State.reset, by rfl, by decide +kernel, by rfl⟩,
    ⟨withDev { Device.initial with bringUp := 6, jports := [(17, portIn 7 2)] }, by rfl, by decide +kernel, by rfl, by rfl⟩,
    fun n _ => up n, ⟨withDev { Device.initial with bringUp := 6, ethTried := true, jports := (List.range 18).map fun p => (p, portIn 7 1) }, by rfl, by rfl, by rfl, by decide +kernel⟩,
    ⟨withDev { Device.initial with pcieUp := true, fwState := 2 }, by rfl, by rfl, by rfl, by decide +kernel, by decide +kernel⟩,
    ⟨withDev { Device.initial with pcieUp := true, fwState := 2 }, by rfl, by rfl, by rfl, by decide +kernel⟩, ⟨withDev { Device.initial with fwLock := true }, by rfl, by rfl⟩⟩

/-- A package where a program runs (object 1 of tenant 1), the PF has tenant 1 and one queue, whose ring is that object. -/
def hostState (k : HostQueue) : State :=
  let s := State.reset.withFetchWord 64 0
  { s with
    dev := { s.dev with pcieUp := true, fwState := 2 }
    host := { s.host with fns := [(0, ⟨1, 1, 0xFFF, false, [(0, some k)], [], []⟩)] } }

/-- A queue with `2 ^ lg` slots. -/
def queueOf (lg : Nat) : HostQueue := { HostQueue.initial with ring := 1, lgEnt := lg }

theorem readable_hostState (k : HostQueue) (off n : Nat) (h : (hostState k).portCheck 1 1 off n = .proceed) (h1 : (hostState k).portStopped 1 off = false)
    (h2 : (hostState k).poisonFault 1 off n false = false) : Readable (hostState k) 1 1 off n := ⟨⟨_, rfl, rfl⟩, h, h1, h2⟩

/-- The last slot of a ring of 256; a doorbell at the ring's size, and beyond it; and a mailbox in each of its states. -/
theorem witness_HostAccesses :
    (∃ s, DeviceRuns s ∧ ∃ k, s.queueAt 0 0 = some k ∧ 32640 + 128 ≤ 128 * 2 ^ k.lgEnt ∧ 32640 + 128 = 128 * 2 ^ k.lgEnt ∧ Readable s (s.hostFn 0).tenant.toNat k.ring.toNat 32640 128) ∧
    (∃ s, DeviceRuns s ∧ ∃ k bs st a, s.queueAt 0 0 = some k ∧ 32640 + [(1 : Byte)].length ≤ 128 * 2 ^ k.lgEnt ∧
      s.feAccess (s.hostFn 0).tenant.toNat k.ring.toNat 32640 (.write [1]) = .done bs st a) ∧
    (∃ s, DeviceRuns s ∧ ∀ k, s.queueAt 0 0 = some k → 128 * 2 ^ k.lgEnt < 32641 + 128) ∧ (∃ s, DeviceRuns s ∧ s.queueAt 0 1 = none) ∧
    (∃ s, DeviceRuns s ∧ ∃ k, s.queueAt 0 0 = some k ∧ ((0 : BitVec 32) - k.head).toNat = 2 ^ k.lgEnt) ∧
    (∃ s, DeviceRuns s ∧ ∃ k, s.queueAt 0 0 = some k ∧ 2 ^ k.lgEnt < ((1 : BitVec 32) - k.head).toNat) ∧
    (∃ s, FirmwareRuns s ∧ s.fnPresent 0 = true ∧ s.mailByte 0 0x20 ≠ 1 ∧ s.mailByte 0 0x20 ≠ 3) ∧
    (∀ b ∈ [(1 : Byte), 3], ∃ s, FirmwareRuns s ∧ s.fnPresent 256 = true ∧ s.mailByte 256 0x20 = b) ∧
    (∃ s, DeviceRuns s ∧ s.dev.pcieUp = true ∧ s.fnPresent 0 = true) := by
  have mail (b : Byte) : ∃ s, FirmwareRuns s ∧ s.fnPresent 256 = true ∧ s.mailByte 256 0x20 = b :=
    ⟨{ withDev { Device.initial with pcieUp := true, fwState := 2 } with host := { State.reset.host with fns := [(256, ⟨1, 1, 0xFFF, true, [], [(0x20, b)], []⟩)] } },
      ⟨(rfl : bit Device.initial.dbgctl 44 = false), rfl, by show (0 : BitVec 4) ≠ _; decide⟩, by rfl, by rfl⟩
  exact ⟨⟨hostState (queueOf 8), by decide +kernel, queueOf 8, by rfl, by decide, by decide, readable_hostState _ _ _ (by decide +kernel) (by decide +kernel) (by decide +kernel)⟩,
    ⟨hostState (queueOf 8), by decide +kernel, queueOf 8, _, _, _, by rfl, by decide, by rfl⟩,
    ⟨hostState (queueOf 8), by decide +kernel, fun k hk => by cases hk; decide⟩, ⟨hostState (queueOf 8), by decide +kernel, by rfl⟩,
    ⟨hostState { queueOf 8 with head := 0xFFFFFF00 }, by decide +kernel, { queueOf 8 with head := 0xFFFFFF00 }, by rfl, by decide⟩,
    ⟨hostState { queueOf 8 with head := 0xFFFFFF00 }, by decide +kernel, { queueOf 8 with head := 0xFFFFFF00 }, by rfl, by decide⟩,
    ⟨hostState (queueOf 8), ⟨by decide +kernel, by decide +kernel, by decide +kernel⟩, by decide +kernel, by decide +kernel, by decide +kernel⟩, fun b _ => mail b,
    ⟨hostState (queueOf 8), by decide +kernel, by decide +kernel, by decide +kernel⟩⟩

/-! ### Records of the front end -/

/-- A capability for the whole of object 1, with every right. -/
def wholeCap : Cap := Cap.make 1 0x7F 0 2097152

/-- The package of `hostState` whose tenant holds partition 0 and has entry 1 of its table for object 1, whose bytes are given by
physical address. -/
def world (k : HostQueue) (m : SMap Byte) : State :=
  let s := hostState k
  let s1 := s.setTenant 1 { s.tenant 1 with table := [(1, wholeCap)] }
  let s2 := s1.setPartition 0 ⟨1, some 1, false⟩
  { s2 with hbm := { s2.hbm with mem := m } }

/-- The physical address of a byte of object 1. -/
def at1 (off : Nat) : Nat := 64 * 2097152 + off

/-- A reference to a byte of object 1. -/
def ref1 (off : Nat) : Word := BitVec.ofNat 64 (2 ^ 48 + off)

theorem readable_world (k : HostQueue) (m : SMap Byte) (off n : Nat) (h : (world k m).portCheck 1 1 off n = .proceed)
    (h1 : (world k m).portStopped 1 off = false) (h2 : (world k m).poisonFault 1 off n false = false) : Readable (world k m) 1 1 off n := ⟨⟨_, rfl, rfl⟩, h, h1, h2⟩

theorem writable_world (k : HostQueue) (m : SMap Byte) (off n : Nat) (h : (world k m).portCheck 1 1 off n = .proceed)
    (h1 : (world k m).portStopped 1 off = false) (h2 : (world k m).poisonFault 1 off n false = false) (h3 : (world k m).migrating 1 off = false)
    (h4 : Memory.wf m = true) (h5 : 0 < n ∧ off / 65536 = (off + n - 1) / 65536) : Writable (world k m) 1 1 off n :=
  ⟨readable_world k m off n h h1 h2, h3, rfl, rfl, h4, h5⟩

/-- A queue of 256 slots with a record to be read at its head. -/
def headQueue (tried : Bool) (refetch : Nat) : HostQueue := { queueOf 8 with enable := true, tail := 1, tried := tried, refetch := refetch }

/-- A queue that has consumed record 0 and not taken it up. -/
def oneRec (ws : List Word) : HostQueue := { queueOf 8 with recs := [⟨0, ws, none, false, none, false, [(1, wholeCap)], 0⟩] }

theorem consumed_world (ws : List Word) (m : SMap Byte) (p : List Word → Bool) (h : p ws = true) : Consumed (world (oneRec ws) m) 0 0 0 p ws :=
  ⟨oneRec ws, ⟨0, ws, none, false, none, false, [(1, wholeCap)], 0⟩, rfl, by simp [oneRec, queueOf, h], rfl⟩

theorem firmware_world (k : HostQueue) (m : SMap Byte) : FirmwareRuns (world k m) :=
  ⟨(rfl : bit Device.initial.dbgctl 44 = false), rfl, (by decide : (0 : BitVec 4) ≠ 0xF)⟩

/-- A sealed no-op for slot 0, and the same with a bit of word 14 set. -/
def noopWs (bad : Bool) : List Word :=
  List.replicate 14 0 ++ if bad then [1, 0xe66a075400000000] else [0, 0xd71bd36400000000]

theorem noop_sealed (bad : Bool) : recSealed (noopWs bad) 0 = true := by
  have h0 : (List.replicate 16 0 : Bytes).foldl crcByte 0xFFFFFFFF = 0xbd8f6515 := by decide +kernel
  have h1 : (List.replicate 16 0 : Bytes).foldl crcByte 0xbd8f6515 = 0x756ec955 := by decide +kernel
  have h2 : (List.replicate 16 0 : Bytes).foldl crcByte 0x756ec955 = 0xd773c546 := by decide +kernel
  have h3 : (List.replicate 16 0 : Bytes).foldl crcByte 0xd773c546 = 0xfc371498 := by decide +kernel
  have h4 : (List.replicate 16 0 : Bytes).foldl crcByte 0xfc371498 = 0xdfca1de3 := by decide +kernel
  have h5 : (List.replicate 16 0 : Bytes).foldl crcByte 0xdfca1de3 = 0xae0dfb54 := by decide +kernel
  have h6 : (List.replicate 16 0 : Bytes).foldl crcByte 0xae0dfb54 = 0x9706f904 := by decide +kernel
  have h7 : ∀ b : Bool, ((if b then 1 else 0) :: List.replicate 11 0 : Bytes).foldl crcByte 0x9706f904 = if b then 0x1995f8ab else 0x28e42c9b := by decide +kernel
  have hs : ∀ b : Bool, ((noopWs b).take 15).flatMap (fun v => toBytes v 8) ++ toBytes (hostWord (noopWs b) 15) 4 =
      List.replicate 16 0 ++ (List.replicate 16 0 ++ (List.replicate 16 0 ++ (List.replicate 16 0 ++ (List.replicate 16 0 ++ (List.replicate 16 0 ++
      (List.replicate 16 0 ++ ((if b then 1 else 0) :: List.replicate 11 0))))))) := by decide +kernel
  have hc : crc32c (((noopWs bad).take 15).flatMap (fun v => toBytes v 8) ++ toBytes (hostWord (noopWs bad) 15) 4) = if bad then 0xe66a0754 else 0xd71bd364 := by
    rw [crc32c, hs, crc_step h0, crc_step h1, crc_step h2, crc_step h3, crc_step h4, crc_step h5, crc_step h6, h7]
    cases bad <;> decide +kernel
  unfold recSealed
  dsimp only
  rw [hc]
  cases bad <;> decide +kernel

/-- The bytes of `noopWs` at slot 0. -/
def noopMem (bad : Bool) : SMap Byte := if bad then [(at1 112, 1), (at1 124, 0x54), (at1 125, 0x07), (at1 126, 0x6a), (at1 127, 0xe6)]
  else [(at1 124, 0x64), (at1 125, 0xd3), (at1 126, 0x1b), (at1 127, 0xd7)]

theorem atHead_noop (bad tried : Bool) : AtHead (world (headQueue tried 0) (noopMem bad)) 0 0 (headQueue tried 0) (noopWs bad) := by
  refine ⟨rfl, ?_, rfl, readable_world _ _ _ _ ?_ ?_ ?_, ?_⟩ <;> cases bad <;> cases tried <;> decide +kernel

/-- A slot that holds an older lap's record. -/
theorem atHead_stale (tried : Bool) (n : Nat) (h : n ∈ [0, 6, 7]) :
    AtHead (world (headQueue tried n) [(at1 120, 1)]) 0 0 (headQueue tried n) (List.replicate 15 0 ++ [1]) ∧ recSealed (List.replicate 15 0 ++ [1]) 0 = false := by
  simp only [List.mem_cons, List.not_mem_nil, or_false] at h
  refine ⟨⟨rfl, ?_, rfl, readable_world _ _ _ _ ?_ ?_ ?_, ?_⟩, ?_⟩ <;> rcases h with rfl | rfl | rfl <;> cases tried <;> decide +kernel

/-- A record of 16 words. -/
def recOf (ws : List Word) : List Word := ws ++ List.replicate (16 - ws.length) 0

/-- A queue whose record is a wait. -/
def waitQueue (blocked : Bool) (ws : List Word) : HostQueue := { queueOf 8 with blocked := blocked, waitRec := recOf ws }

theorem signal_world (k : HostQueue) (m : SMap Byte) (h : Memory.wf m = true) (h1 : (world k m).resolveRef 1 (ref1 2097144) [0, 1, 2] 8 = some (wholeCap, 2097144))
    (h2 : (world k m).portCheck 1 1 2097144 8 = .proceed) (h3 : (world k m).portStopped 1 2097144 = false)
    (h4 : (world k m).poisonFault 1 2097144 8 false = false) (h5 : (world k m).migrating 1 2097144 = false) :
    SignalWord (world k m) 1 (ref1 2097144) wholeCap 2097144 :=
  ⟨h1, by decide, writable_world k m _ _ h2 h3 h4 h5 h (by decide)⟩

theorem witness_FrontEndRecords_head :
    (∃ s k ws, FirmwareRuns s ∧ AtHead s 0 0 k ws ∧ k.tried = false ∧ recSealed ws k.head = false) ∧
    (∃ s k ws, FirmwareRuns s ∧ AtHead s 0 0 k ws ∧ k.tried = false ∧ recSealed ws k.head = true ∧ s.holdsPartition (tenantFn s 0) = true ∧
      (bit (hostWord ws 0) 8 = true → k.done = k.head) ∧ s.turnOfQueue 0 0 = true ∧ recordOk (s.ownLid (tenantFn s 0)) ws = true ∧ ¬ (recKind ws = 3 ∧ nfield (hostWord ws 1) 0 2 = 2)) ∧
    (∃ s k ws, FirmwareRuns s ∧ AtHead s 0 0 k ws ∧ k.tried = false ∧ recSealed ws k.head = true ∧ s.holdsPartition (tenantFn s 0) = true ∧
      (bit (hostWord ws 0) 8 = true → k.done = k.head) ∧ s.turnOfQueue 0 0 = true ∧ recordOk (s.ownLid (tenantFn s 0)) ws = false) ∧
    (∀ n ∈ [6, 7], ∃ s k ws, FirmwareRuns s ∧ AtHead s 0 0 k ws ∧ k.tried = true ∧ recSealed ws k.head = false ∧ k.refetch = n) := by
  refine ⟨⟨_, _, _, firmware_world _ _, (atHead_stale false 0 (by decide)).1, rfl, (atHead_stale false 0 (by decide)).2⟩,
    ⟨_, _, _, firmware_world _ _, atHead_noop false false, rfl, noop_sealed false, ?_, fun _ => rfl, ?_, ?_, ?_⟩,
    ⟨_, _, _, firmware_world _ _, atHead_noop true false, rfl, noop_sealed true, ?_, fun _ => rfl, ?_, ?_⟩, fun n hn => ?_⟩
  · decide +kernel
  · decide +kernel
  · decide +kernel
  · decide +kernel
  · decide +kernel
  · decide +kernel
  · decide +kernel
  · have hm : n ∈ [0, 6, 7] := List.mem_cons_of_mem _ hn
    exact ⟨_, _, _, firmware_world _ _, (atHead_stale true n hm).1, rfl, (atHead_stale true n hm).2, rfl⟩

/-- A launch of one team of tenant 1 from record 0 of queue 0 of the PF. -/
def aLaunch : Launch := ⟨0, 0, 0, 1, 0, wholeCap, 0, 1, 1, false, false, 0xFFF, 0, [], none, 0, none, 0, true, 1, 0, none, 0, []⟩

/-- A version 5 of group 0 with one member. -/
def oneMember : Group := ⟨[⟨5, 0, [(0, 0)], [.present]⟩], [], []⟩

/-- The package of `world` with group 0 installed. -/
def grouped (ws : List Word) : State :=
  let s := world (oneRec ws) []
  s.setGroup 1 0 (some oneMember)

/-- A member list of two at byte 4096 of object 1: the lowest and the highest window. -/
def listMem : SMap Byte := [(at1 4096, 2), (at1 4108, 0xFF), (at1 4109, 0xFF), (at1 4110, 0x07)]

/-- A membership record that names a version. -/
def memberWs (op ver : Nat) : List Word := recOf [4, BitVec.ofNat 64 (op * 2 ^ 16 + ver * 2 ^ 32), if op = 1 then 0 else ref1 4096, 0]

theorem list_table (op ver : Nat) (h : op = 0 ∨ op = 2) (h' : ver = 0 ∨ ver = 1) :
    MemberTable (world (oneRec (memberWs op ver)) listMem) 1 (hostWord (memberWs op ver) 2) 0 [(0, 0), (1023, 511)] := by
  refine ⟨wholeCap, 4096, ?_, ⟨⟨_, rfl, rfl⟩, ?_, ?_, ?_⟩, ?_, ?_, ?_, ?_, ?_, ?_, ⟨⟨_, rfl, rfl⟩, ?_, ?_, ?_⟩, fun i hi x hx => ?_⟩
  iterate 13 (rcases h with rfl | rfl <;> rcases h' with rfl | rfl <;> decide +kernel)
  obtain rfl | rfl : i = 0 ∨ i = 1 := by simp only [List.length_cons, List.length_nil] at hi; omega
  all_goals subst hx; rcases h with rfl | rfl <;> rcases h' with rfl | rfl <;> decide +kernel

/-- A signal record on the last doubleword of object 1. -/
def signalWs (op : Nat) (bad : Bool) (v : Word) : List Word := recOf [3, BitVec.ofNat 64 (op + if bad then 4 else 0), ref1 2097144, v, 9]

/-- Memory whose last doubleword of object 1 has all bits set. -/
def topMem : SMap Byte := (List.range 8).map fun i => (at1 (2097144 + i), 0xFF)

/-- A copy from byte 0 to byte 8192 of object 1, posted at core 0. -/
def collWs : List Word := recOf [2, 0, 2 ^ 52 + 0 * 2 ^ 24 + 1, 2 ^ 52 + 1 * 2 ^ 24 + 1, 0, ref1 8192]

theorem firmware_of {s : State} (h : s.dev.dbgctl = Device.initial.dbgctl) (h' : s.dev.schedFrozen = 0) (h'' : s.dev.fwState = 2) : FirmwareRuns s :=
  ⟨by show bit s.dev.dbgctl 44 = false; rw [h]; rfl, h'', by rw [h']; decide⟩

theorem ok_of {ε α : Type} {x : Except ε α} (h : x.toBool = true) : ∃ p, x = .ok p := by cases x <;> simp_all [Except.toBool]

theorem witness_FrontEndRecords :
    (∃ s ws, FirmwareRuns s ∧ Consumed s 0 0 0 (recKind · == 0) ws) ∧
    (∃ s ws c off k, FirmwareRuns s ∧ Consumed s 0 0 0 (recKind · == 1) ws ∧ s.queueAt 0 0 = some k ∧
      s.resolveRef (tenantFn s 0) (hostWord ws 1) [5] 8 = some (c, off) ∧ bit (hostWord ws 10) 63 = false ∧ bit (hostWord ws 12) 63 = false ∧
      field (hostWord ws 2) 34 12 &&& ~~~ (s.hostFn 0).partMask = 0 ∧ bit (hostWord ws 2) 32 = false ∧ 1 ≤ nfield (hostWord ws 2) 8 24) ∧
    (∃ s ws, FirmwareRuns s ∧ Consumed s 0 0 0 (recKind · == 1) ws ∧ s.resolveRef (tenantFn s 0) (hostWord ws 1) [5] 8 = none) ∧
    (∃ s la c off, FirmwareRuns s ∧ s.launch 1 = some la ∧ la.eligible = false ∧ la.waitRef = some (c, off) ∧ Readable s la.tenant (Cap.obj c) off 8 ∧
      la.waitVal.toInt ≤ (wordAt s (Cap.obj c) off).toInt) ∧
    (∃ s ws p, FirmwareRuns s ∧ Consumed s 0 0 0 (recKind · == 2) ws ∧ 0 = nfield (hostWord ws 1) 0 9 ∧ CoreRuns s 0 ∧
      checkRecord (collCtx (s.ownLid (tenantFn s 0)) [s.tableCap (tenantFn s 0) (nfield (hostWord ws 2) 52 12),
        s.tableCap (tenantFn s 0) (nfield (hostWord ws 3) 52 12), s.tableCap (tenantFn s 0) (nfield (hostWord ws 5) 48 12)]) (collRecord ws) = .ok p ∧
      (s.hostFn 0).partMask.getLsbD (0 / 32) = true ∧ s.occupied (tenantFn s 0) 0 = true ∧ 1 ≤ (s.coreAt 0).remoteRoom) ∧
    (∃ s ws c off, FirmwareRuns s ∧ Consumed s 0 0 0 (fun w => recKind w == 3 && nfield (hostWord w 1) 0 2 == 0) ws ∧
      SignalWord s (tenantFn s 0) (hostWord ws 2) c off ∧ bit (hostWord ws 1) 2 = false) ∧
    (∃ s ws c off, FirmwareRuns s ∧ Consumed s 0 0 0 (fun w => recKind w == 3 && nfield (hostWord w 1) 0 2 == 0) ws ∧
      SignalWord s (tenantFn s 0) (hostWord ws 2) c off ∧ bit (hostWord ws 1) 2 = true ∧ wordAt s (Cap.obj c) off = BitVec.allOnes 64 ∧ hostWord ws 3 ≠ 0) ∧
    (∃ s ws c off, FirmwareRuns s ∧ Consumed s 0 0 0 (fun w => recKind w == 3 && nfield (hostWord w 1) 0 2 == 1) ws ∧
      SignalWord s (tenantFn s 0) (hostWord ws 2) c off ∧ bit (hostWord ws 1) 2 = true ∧ (hostWord ws 3).toNat < (wordAt s (Cap.obj c) off).toNat) ∧
    (∃ s k c off, FirmwareRuns s ∧ s.queueAt 0 0 = some k ∧ k.waitRec ≠ [] ∧ s.holdsPartition (tenantFn s 0) = true ∧ SignalWord s (tenantFn s 0) (hostWord k.waitRec 2) c off ∧
      bit (hostWord k.waitRec 1) 2 = false ∧ (wordAt s (Cap.obj c) off).toInt < (hostWord k.waitRec 3).toInt) ∧
    (∃ s k c off, FirmwareRuns s ∧ s.queueAt 0 0 = some k ∧ k.waitRec ≠ [] ∧ s.holdsPartition (tenantFn s 0) = true ∧ SignalWord s (tenantFn s 0) (hostWord k.waitRec 2) c off ∧
      (if bit (hostWord k.waitRec 1) 2 = true then (hostWord k.waitRec 3).toNat ≤ (wordAt s (Cap.obj c) off).toNat
       else (hostWord k.waitRec 3).toInt ≤ (wordAt s (Cap.obj c) off).toInt)) ∧
    (∃ s k, FirmwareRuns s ∧ s.queueAt 0 0 = some k ∧ k.waitRec ≠ [] ∧ s.holdsPartition (tenantFn s 0) = true ∧ k.blocked = true ∧ hostWord k.waitRec 4 ≠ 0) ∧
    (∃ s k, FirmwareRuns s ∧ s.queueAt 0 0 = some k ∧ s.holdsPartition (tenantFn s 0) = false) := by
  refine ⟨?_, ?_, ?_, ?_, ?_, ?_, ?_, ?_, ?_, ?_, ?_, ?_⟩
  · exact ⟨_, recOf [0], firmware_world _ _, consumed_world _ [] _ (by decide +kernel)⟩
  · exact ⟨_, recOf [1, ref1 2097144, 1 * 2 ^ 8 + 32], wholeCap, 2097144, _, firmware_world _ _, consumed_world _ [] _ (by decide +kernel), rfl, by rfl, by decide +kernel⟩
  · exact ⟨_, recOf [1, 0, 1 * 2 ^ 8 + 32], firmware_world _ _, consumed_world _ [] _ (by decide +kernel), by rfl⟩
  · exact ⟨(world (queueOf 8) topMem).setLaunch 1 (some { aLaunch with eligible := false, waitRef := some (wholeCap, 2097144), waitVal := BitVec.allOnes 64 }),
      _, wholeCap, 2097144, firmware_of rfl rfl rfl, rfl, rfl, rfl, ⟨⟨_, rfl, rfl⟩, by decide +kernel, by decide +kernel, by decide +kernel⟩, by decide +kernel⟩
  · obtain ⟨p, hp⟩ := ok_of (x := checkRecord (collCtx ((world (oneRec collWs) []).ownLid 1) [(world (oneRec collWs) []).tableCap 1 1,
      (world (oneRec collWs) []).tableCap 1 1, (world (oneRec collWs) []).tableCap 1 1]) (collRecord collWs)) (by decide +kernel)
    exact ⟨_, collWs, p, firmware_world _ _, consumed_world _ [] _ (by decide +kernel), by decide +kernel, by decide +kernel, hp, by decide +kernel⟩
  · exact ⟨_, signalWs 0 false 1, wholeCap, 2097144, firmware_world _ _, consumed_world _ topMem _ (by decide +kernel),
      signal_world _ _ (by decide +kernel) (by rfl) (by decide +kernel) (by decide +kernel) (by decide +kernel) (by decide +kernel), by decide +kernel⟩
  · exact ⟨_, signalWs 0 true 1, wholeCap, 2097144, firmware_world _ _, consumed_world _ topMem _ (by decide +kernel),
      signal_world _ _ (by decide +kernel) (by rfl) (by decide +kernel) (by decide +kernel) (by decide +kernel) (by decide +kernel), by decide +kernel⟩
  · exact ⟨_, signalWs 1 true 1, wholeCap, 2097144, firmware_world _ _, consumed_world _ topMem _ (by decide +kernel),
      signal_world _ _ (by decide +kernel) (by rfl) (by decide +kernel) (by decide +kernel) (by decide +kernel) (by decide +kernel), by decide +kernel⟩
  · exact ⟨world (waitQueue false (signalWs 2 false 0)) topMem, _, wholeCap, 2097144, firmware_world _ _, rfl, by decide, by decide +kernel,
      signal_world _ _ (by decide +kernel) (by rfl) (by decide +kernel) (by decide +kernel) (by decide +kernel) (by decide +kernel), by decide +kernel⟩
  · exact ⟨world (waitQueue true (signalWs 2 true 0)) topMem, _, wholeCap, 2097144, firmware_world _ _, rfl, by decide, by decide +kernel,
      signal_world _ _ (by decide +kernel) (by rfl) (by decide +kernel) (by decide +kernel) (by decide +kernel) (by decide +kernel), by decide +kernel⟩
  · exact ⟨world (waitQueue true (signalWs 2 true 0)) topMem, _, firmware_world _ _, rfl, by decide, by decide +kernel, by decide, by decide +kernel⟩
  · exact ⟨hostState (waitQueue true (signalWs 2 true 0)), _, firmware_of rfl rfl rfl, rfl, by decide +kernel⟩

/-- A queue with one record, in slot 255, that has ended with a status and is not finished. -/
def endedQueue (st : BitVec 8) : HostQueue :=
  { queueOf 8 with recs := [⟨255, recOf [1 + 2 ^ 10], none, true, some (st, 0, none), false, [], 0⟩], head := 256, tail := 256, done := 255 }

theorem consumed_grouped (ws : List Word) (p : List Word → Bool) (h : p ws = true) : Consumed (grouped ws) 0 0 0 p ws :=
  ⟨oneRec ws, ⟨0, ws, none, false, none, false, [(1, wholeCap)], 0⟩, rfl, by simp [oneRec, queueOf, h], rfl⟩

/-- A record that withdraws a member by its index. -/
def memberWs' (m : Nat) : List Word := recOf [4, BitVec.ofNat 64 (2 ^ 16 + 5 * 2 ^ 32), 0, BitVec.ofNat 64 m]

theorem witness_FrontEndRecords_rest :
    (∀ op, op = 0 ∨ op = 2 → ∃ s ws, ∃ tb : BitVec 32 × List (Nat × Nat), ∃ old v : Version, FirmwareRuns s ∧
      Consumed s 0 0 0 (fun w => recKind w == 4 && nfield (hostWord w 1) 16 2 == op) ws ∧ MemberTable s (tenantFn s 0) (hostWord ws 2) tb.1 tb.2 ∧
      (s.newestVersion (tenantFn s 0) (nfield (hostWord ws 1) 0 16)).getD ⟨0, 0, [], []⟩ = old ∧ old.num = field (hostWord ws 1) 32 32 ∧
      v = (if op = 0 then ⟨old.num + 1, tb.1, tb.2, tb.2.map fun w =>
          if (w, MemberState.absentPending) ∈ old.members.zip old.states then .absentPending else .present⟩
        else ⟨old.num + 1, tb.1, old.members ++ tb.2, old.states ++ tb.2.map fun _ => .present⟩) ∧ v.members.length ≤ 1024 ∧
      v.members.eraseDups.length = v.members.length) ∧
    (∀ op, op = 0 ∨ op = 2 → ∃ s ws, ∃ tb : BitVec 32 × List (Nat × Nat), ∃ old : Version, FirmwareRuns s ∧
      Consumed s 0 0 0 (fun w => recKind w == 4 && nfield (hostWord w 1) 16 2 == op) ws ∧ MemberTable s (tenantFn s 0) (hostWord ws 2) tb.1 tb.2 ∧
      (s.newestVersion (tenantFn s 0) (nfield (hostWord ws 1) 0 16)).getD ⟨0, 0, [], []⟩ = old ∧ old.num ≠ field (hostWord ws 1) 32 32 ∧
      (old.members ++ tb.2).length ≤ 1024 ∧ (old.members ++ tb.2).eraseDups.length = (old.members ++ tb.2).length) ∧
    (∃ s ws old v, FirmwareRuns s ∧ Consumed s 0 0 0 (fun w => recKind w == 4 && nfield (hostWord w 1) 16 2 == 1) ws ∧
      (s.newestVersion (tenantFn s 0) (nfield (hostWord ws 1) 0 16)).getD ⟨0, 0, [], []⟩ = old ∧ old.num = field (hostWord ws 1) 32 32 ∧
      v = (⟨old.num + 1, old.timeout, old.members, old.states.set (nfield (hostWord ws 3) 0 16) .withdrawn⟩ : Version) ∧ v.members.length ≤ 1024 ∧
      nfield (hostWord ws 3) 0 16 < old.members.length) ∧
    (∃ s ws old, FirmwareRuns s ∧ Consumed s 0 0 0 (fun w => recKind w == 4 && nfield (hostWord w 1) 16 2 == 1) ws ∧
      (s.newestVersion (tenantFn s 0) (nfield (hostWord ws 1) 0 16)).getD ⟨0, 0, [], []⟩ = old ∧ old.num ≠ field (hostWord ws 1) 32 32 ∧
      old.members.length ≤ 1024 ∧ nfield (hostWord ws 3) 0 16 < old.members.length) ∧
    (∃ s ws old, FirmwareRuns s ∧ Consumed s 0 0 0 (fun w => recKind w == 4 && nfield (hostWord w 1) 16 2 == 1) ws ∧
      (s.newestVersion (tenantFn s 0) (nfield (hostWord ws 1) 0 16)).getD ⟨0, 0, [], []⟩ = old ∧ nfield (hostWord ws 3) 0 16 = old.members.length) ∧
    (∃ s ws, FirmwareRuns s ∧ Consumed s 0 0 0 (fun w => recKind w == 5 && !bit (hostWord w 1) 12) ws ∧
      Cap.obj (s.recCap 0 0 0 (nfield (hostWord ws 1) 0 12)) ≠ 0 ∧
      Cap.has (s.recCap 0 0 0 (nfield (hostWord ws 1) 0 12)) 4 = true ∧ s.frozenOf (tenantFn s 0) = none) ∧
    (∃ s ws, FirmwareRuns s ∧ Consumed s 0 0 0 (fun w => recKind w == 5 && bit (hostWord w 1) 12) ws ∧
      Cap.obj (s.recCap 0 0 0 (nfield (hostWord ws 1) 0 12)) ≠ 0 ∧
      Cap.has (s.recCap 0 0 0 (nfield (hostWord ws 1) 0 12)) 4 = true) ∧
    (∀ st : BitVec 8, st = 0 ∨ st = 3 → ∃ s k r res, FirmwareRuns s ∧ s.queueAt 0 0 = some k ∧ (k.recs.find? fun x => x.idx == 255 && !x.finished) = some r ∧
      r.outcome = some (st, res, none) ∧ r.word12 = none ∧ recKind r.words ≠ 2 ∧ bit (hostWord r.words 0) 10 = true ∧
      Writable s (tenantFn s 0) k.ring.toNat (128 * ((255 : BitVec 32).toNat % 2 ^ k.lgEnt)) 128) ∧
    (∃ s la, FirmwareRuns s ∧ s.launch 1 = some la ∧ la.teamCount ≤ la.ended ∧ la.abort = none ∧ la.doneRef = none ∧ (s.queueAt la.fn la.queue).isSome = true) := by
  refine ⟨?_, ?_, ?_, ?_, ?_, ?_, ?_, ?_, ?_⟩
  · intro op h
    refine ⟨_, memberWs op 0, (0, [(0, 0), (1023, 511)]), _, _, firmware_world _ _, consumed_world _ listMem _ ?_, list_table op 0 h (.inl rfl), rfl, ?_, rfl, ?_, ?_⟩ <;>
      rcases h with rfl | rfl <;> decide +kernel
  · intro op h
    refine ⟨_, memberWs op 1, (0, [(0, 0), (1023, 511)]), _, firmware_world _ _, consumed_world _ listMem _ ?_, list_table op 1 h (.inr rfl), rfl, ?_, ?_, ?_⟩ <;>
      rcases h with rfl | rfl <;> decide +kernel
  · exact ⟨_, memberWs 1 5, _, _, firmware_of rfl rfl rfl, consumed_grouped _ _ (by decide +kernel), rfl, by decide +kernel, rfl, by decide +kernel, by decide +kernel⟩
  · exact ⟨_, memberWs 1 4, _, firmware_of rfl rfl rfl, consumed_grouped _ _ (by decide +kernel), rfl, by decide +kernel⟩
  · exact ⟨_, memberWs' 1, _, firmware_of rfl rfl rfl, consumed_grouped _ _ (by decide +kernel), rfl, by decide +kernel⟩
  · exact ⟨_, recOf [5, 1], firmware_world _ _, consumed_world _ [] _ (by decide +kernel), by decide +kernel⟩
  · exact ⟨_, recOf [5, 2 ^ 12 + 1], firmware_world _ _, consumed_world _ [] _ (by decide +kernel), by decide +kernel⟩
  · intro st h
    refine ⟨world (endedQueue st) [], endedQueue st, ⟨255, recOf [1 + 2 ^ 10], none, true, some (st, 0, none), false, [], 0⟩, 0, firmware_world _ _, rfl, ?_, rfl, rfl, ?_, ?_,
      ⟨⟨⟨_, rfl, rfl⟩, ?_, ?_, ?_⟩, ?_, rfl, rfl, ?_, ?_, ?_⟩⟩
    all_goals rcases h with rfl | rfl
    all_goals first | decide +kernel | rfl
  · exact ⟨(world (queueOf 8) []).setLaunch 1 (some { aLaunch with ended := 1 }), _, firmware_of rfl rfl rfl, rfl, by decide +kernel, rfl, rfl, by decide +kernel⟩

/-! ### Service records -/

/-- A service record. -/
def serviceWs (op : Nat) (ws : List Word) : List Word := recOf (6 :: BitVec.ofNat 64 op :: ws)

theorem asks_world (ws : List Word) (m : SMap Byte) (op : Nat) (h : (recKind ws == 6 && nfield (hostWord ws 1) 0 16 == op) = true) :
    Asks (world (oneRec ws) m) 0 0 0 op ws := ⟨firmware_world _ _, consumed_world ws m _ h⟩

theorem consumed_of {s : State} {ws : List Word} (p : List Word → Bool) (h : s.queueAt 0 0 = some (oneRec ws)) (h' : p ws = true) : Consumed s 0 0 0 p ws :=
  ⟨oneRec ws, ⟨0, ws, none, false, none, false, [(1, wholeCap)], 0⟩, h, by simp [oneRec, queueOf, h'], rfl⟩

theorem asks_of {s : State} {ws : List Word} (op : Nat) (h : s.queueAt 0 0 = some (oneRec ws)) (h1 : s.dev.dbgctl = Device.initial.dbgctl) (h2 : s.dev.schedFrozen = 0)
    (h2b : s.dev.fwState = 2) (h3 : (recKind ws == 6 && nfield (hostWord ws 1) 0 16 == op) = true) : Asks s 0 0 0 op ws := ⟨firmware_of h1 h2 h2b, consumed_of _ h h3⟩

/-- `world` with more functions. -/
def withFns (s : State) (fns : List (Nat × HostFn)) : State := { s with host := { s.host with fns := s.host.fns ++ fns } }

/-- A record that writes a register. -/
def regWs (id i : Nat) (v : Word) : List Word := serviceWs 7 [BitVec.ofNat 64 (id + i * 2 ^ 16), v]

theorem writes_of {s : State} (id i : Nat) (v : Word) (p : Word → Bool) (h : s.queueAt 0 0 = some (oneRec (regWs id i v)))
    (h1 : regRecord id p (regWs id i v) = true) (h2 : nfield (hostWord (regWs id i v) 2) 0 16 = id) (h3 : nfield (hostWord (regWs id i v) 2) 16 16 = i) :
    WritesReg s 0 0 id p i v := ⟨_, consumed_of _ h h1, h2, h3, rfl⟩

theorem witness_Services :
    (∃ s ws i, Asks s 0 0 0 1 ws ∧ s.freeObj = some i ∧ bit (hostWord ws 2) 40 = false) ∧
    (∃ s ws, Asks s 0 0 0 1 ws ∧ bit (hostWord ws 2) 40 = true ∧ field (hostWord ws 2) 28 12 = 0#12 ∧ HasRoom s (1 + nfield (hostWord ws 2) 0 27)) ∧
    (∃ s ws i o, Asks s 0 0 0 2 ws ∧ i = nfield (hostWord ws 2) 0 24 ∧ s.obj i = some o ∧ o.tenant = tenantFn s 0 ∧ ∀ x ∈ o.exts, s.chunkHolds i x.1 = false) ∧
    (∃ s ws, Asks s 0 0 0 2 ws ∧ ∀ o, s.obj (nfield (hostWord ws 2) 0 24) = some o → o.tenant ≠ tenantFn s 0) ∧
    (∃ s ws, ∃ c : Cap, Asks s 0 0 0 3 ws ∧ c = hostWord ws 4 ++ hostWord ws 3 ∧ Cap.wf c = true ∧
      (Cap.obj c = 0 ∨ ∃ o, s.obj (Cap.obj c) = some o ∧ o.tenant = tenantFn s 0)) ∧
    (∃ s ws, ∃ c : Cap, Asks s 0 0 0 3 ws ∧ c = hostWord ws 4 ++ hostWord ws 3 ∧ (Cap.wf c = false ∨
      (Cap.obj c ≠ 0 ∧ ∀ o, s.obj (Cap.obj c) = some o → o.tenant ≠ tenantFn s 0))) ∧
    (∃ s ws c off n, Asks s 0 0 0 4 ws ∧ n = (hostWord ws 4).toNat ∧ s.resolveRec 0 0 0 (hostWord ws 3) [1] n = some (c, off) ∧ s.movedOf 0 0 0 = 0 ∧
      Writable s (tenantFn s 0) (Cap.obj c) off n) ∧
    (∃ s ws c off n, Asks s 0 0 0 5 ws ∧ n = (hostWord ws 4).toNat ∧ s.resolveRec 0 0 0 (hostWord ws 3) [0] n = some (c, off) ∧ s.movedOf 0 0 0 = 0 ∧
      Readable s (tenantFn s 0) (Cap.obj c) off n ∧ off / 65536 = (off + n - 1) / 65536 ∧ HostCanonical s) ∧
    (∃ s ws v, Asks s 0 0 0 6 ws ∧ s.readReg (nfield (hostWord ws 2) 0 16) (nfield (hostWord ws 2) 16 16) = some v) ∧
    (∃ s ws, Asks s 0 0 0 6 ws ∧ s.readReg (nfield (hostWord ws 2) 0 16) (nfield (hostWord ws 2) 16 16) = none) ∧
    (∃ s ws, Asks s 1 0 0 6 ws) := by
  refine ⟨?_, ?_, ?_, ?_, ?_, ?_, ?_, ?_, ?_, ?_, ?_⟩
  · exact ⟨_, serviceWs 1 [2 ^ 27 - 1], 2, asks_world _ [] _ (by decide +kernel), by decide +kernel⟩
  · exact ⟨_, serviceWs 1 [2 ^ 40 + 2], asks_world _ [] _ (by decide +kernel), by decide +kernel, by decide +kernel, by unfold HasRoom; decide +kernel⟩
  · exact ⟨_, serviceWs 2 [1], 1, _, asks_world _ [] _ (by decide +kernel), by decide +kernel, rfl, by decide +kernel⟩
  · exact ⟨_, serviceWs 2 [2 ^ 24 - 1], asks_world _ [] _ (by decide +kernel), fun o h => by rw [show (world _ _).obj _ = none by decide +kernel] at h; cases h⟩
  · exact ⟨_, serviceWs 3 [0xFFF, (Cap.make 1 0x5F 0 2097152).extractLsb' 0 64, (Cap.make 1 0x5F 0 2097152).extractLsb' 64 64], Cap.make 1 0x5F 0 2097152, asks_world _ [] _ (by decide +kernel), by decide +kernel, by decide +kernel,
      .inr ⟨_, rfl, by decide +kernel⟩⟩
  · exact ⟨_, serviceWs 3 [0, (Cap.make 2 1 0 8).extractLsb' 0 64, (Cap.make 2 1 0 8).extractLsb' 64 64], Cap.make 2 1 0 8, asks_world _ [] _ (by decide +kernel),
      by decide +kernel, .inr ⟨by decide +kernel, fun o h => by rw [show (world _ _).obj _ = none by decide +kernel] at h; cases h⟩⟩
  · exact ⟨_, serviceWs 4 [0, ref1 2097144, 8], wholeCap, 2097144, 8, asks_world _ [] _ (by decide +kernel), by decide +kernel, by decide +kernel, by decide +kernel,
      writable_world _ _ _ _ (by rfl) (by decide +kernel) (by decide +kernel) (by decide +kernel) (by decide +kernel) (by decide)⟩
  · exact ⟨_, serviceWs 5 [0, ref1 2097144, 8], wholeCap, 2097144, 8, asks_world _ [] _ (by decide +kernel), by decide +kernel, by decide +kernel, by decide +kernel,
      readable_world _ _ _ _ (by rfl) (by decide +kernel) (by decide +kernel), by decide, by decide +kernel⟩
  · exact ⟨_, serviceWs 6 [4 + 383 * 2 ^ 16], _, asks_world _ [] _ (by decide +kernel), by rfl⟩
  · exact ⟨_, serviceWs 6 [4 + 384 * 2 ^ 16], asks_world _ [] _ (by decide +kernel), by rfl⟩
  · exact ⟨withFns (world (queueOf 8) []) [(1, ⟨1, 1, 0xFFF, true, [(0, some (oneRec (serviceWs 6 [0])))], [], []⟩)], serviceWs 6 [0], firmware_of rfl rfl rfl,
      oneRec (serviceWs 6 [0]), _, by rfl, by rfl, rfl⟩

theorem witness_Services_registers :
    (∃ s, FirmwareRuns s ∧ WritesReg s 0 0 1 (fun _ => true) 11 1 ∧ s.assignOk 1 = true ∧ (s.partition 11).holder = some (nfield (1 : Word) 0 9) ∧
      State.slicing (s.partition 11).assign = State.slicing (1 &&& 0x1FFFFFF81FF)) ∧
    (∃ s, FirmwareRuns s ∧ WritesReg s 0 0 1 (fun _ => true) 11 1 ∧ s.assignOk 1 = true ∧ (s.partition 11).turning = false ∧
      State.slicing (s.partition 11).assign ≠ State.slicing (1 &&& 0x1FFFFFF81FF)) ∧
    (∀ v : Word, v = 1 ∨ v = 16 → ∃ s k, FirmwareRuns s ∧ WritesReg s 0 0 2 (fun _ => true) 63 v ∧ s.queueAt (63 / 64) (63 % 64) = some k ∧ 1 ≤ nfield v 0 5 ∧ nfield v 0 5 ≤ 16) ∧
    (∃ s, ∃ v : Word, FirmwareRuns s ∧ WritesReg s 0 0 3 (fun _ => true) 383 v ∧ nfield v 0 9 = 256) ∧
    (∃ s v, FirmwareRuns s ∧ WritesReg s 0 0 4 (fun _ => true) 383 v) ∧ (∃ s v, FirmwareRuns s ∧ WritesReg s 0 0 5 (fun _ => true) 0 v) ∧
    (∃ s v, FirmwareRuns s ∧ WritesReg s 0 0 6 (fun _ => true) 23 v) ∧
    (∃ s, ∃ v : Word, FirmwareRuns s ∧ WritesReg s 0 0 8 (fun _ => true) 0 v ∧ nfield v 0 16 = 3600) ∧
    (∃ s v, FirmwareRuns s ∧ WritesReg s 0 0 9 (fun w => State.dbgChange s.dev.dbgctl w == 0) 0 v) ∧
    (∃ s v, FirmwareRuns s ∧ WritesReg s 0 0 9 (fun w => State.dbgChange s.dev.dbgctl w == 1) 0 v) ∧
    (∃ s v, FirmwareRuns s ∧ WritesReg s 0 0 9 (fun w => State.dbgChange s.dev.dbgctl w == 2) 0 v) ∧
    (∃ s v, WritesReg s 0 0 9 (fun w => State.dbgChange s.dev.dbgctl w == 3) 0 v) ∧
    (∃ s : State, (s.coreAt 383).run = .broken) := by
  refine ⟨?_, ?_, ?_, ?_, ?_, ?_, ?_, ?_, ?_, ?_, ?_, ?_, ?_⟩
  · exact ⟨(world (oneRec (regWs 1 11 1)) []).setPartition 11 ⟨1, some 1, false⟩, firmware_of rfl rfl rfl, writes_of 1 11 1 _ rfl (by decide +kernel) (by decide +kernel) (by decide +kernel),
      by decide +kernel, by decide +kernel⟩
  · exact ⟨(world (oneRec (regWs 1 11 1)) []).setPartition 11 ⟨0x1000A8001, some 1, false⟩, firmware_of rfl rfl rfl, writes_of 1 11 1 _ rfl (by decide +kernel) (by decide +kernel) (by decide +kernel),
      by decide +kernel, by decide +kernel⟩
  · intro v h
    have hq : let s := { world (oneRec (regWs 2 63 v)) [] with host := { State.reset.host with fns := [(0, ⟨1, 64, 0xFFF, false, [(0, some (oneRec (regWs 2 63 v))), (63, some (queueOf 8))], [], []⟩)] } }
        FirmwareRuns s ∧ WritesReg s 0 0 2 (fun _ => true) 63 v ∧ s.queueAt (63 / 64) (63 % 64) = some (queueOf 8) ∧ 1 ≤ nfield v 0 5 ∧ nfield v 0 5 ≤ 16 := by
      refine ⟨firmware_of rfl rfl rfl, writes_of 2 63 v _ rfl ?_ ?_ ?_, rfl, ?_, ?_⟩ <;> rcases h with rfl | rfl <;> decide +kernel
    exact ⟨_, _, hq⟩
  · exact ⟨world (oneRec (regWs 3 383 256)) [], 256, firmware_of rfl rfl rfl, writes_of _ _ _ _ rfl (by decide +kernel) (by decide +kernel) (by decide +kernel), by decide +kernel⟩
  · exact ⟨world (oneRec (regWs 4 383 0x40024102)) [], _, firmware_of rfl rfl rfl, writes_of _ _ _ _ rfl (by decide +kernel) (by decide +kernel) (by decide +kernel)⟩
  · exact ⟨world (oneRec (regWs 5 0 0x100003219)) [], _, firmware_of rfl rfl rfl, writes_of _ _ _ _ rfl (by decide +kernel) (by decide +kernel) (by decide +kernel)⟩
  · exact ⟨world (oneRec (regWs 6 23 0x1404)) [], _, firmware_of rfl rfl rfl, writes_of _ _ _ _ rfl (by decide +kernel) (by decide +kernel) (by decide +kernel)⟩
  · exact ⟨world (oneRec (regWs 8 0 3600)) [], 3600, firmware_of rfl rfl rfl, writes_of _ _ _ _ rfl (by decide +kernel) (by decide +kernel) (by decide +kernel), by decide +kernel⟩
  · exact ⟨world (oneRec (regWs 9 0 1)) [], _, firmware_of rfl rfl rfl, writes_of _ _ _ _ rfl (by decide +kernel) (by decide +kernel) (by decide +kernel)⟩
  · exact ⟨world (oneRec (regWs 9 0 (2 ^ 43))) [], _, firmware_of rfl rfl rfl, writes_of _ _ _ _ rfl (by decide +kernel) (by decide +kernel) (by decide +kernel)⟩
  · exact ⟨world (oneRec (regWs 9 0 (2 ^ 44))) [], _, firmware_of rfl rfl rfl, writes_of _ _ _ _ rfl (by decide +kernel) (by decide +kernel) (by decide +kernel)⟩
  · exact ⟨{ world (oneRec (regWs 9 0 0)) [] with dev := { Device.initial with dbgctl := 2 ^ 44 } }, _, writes_of _ _ _ _ rfl (by decide +kernel) (by decide +kernel) (by decide +kernel)⟩
  · exact ⟨State.reset.setCore 383 { State.reset.core with run := .broken }, rfl⟩

/-- The package of `world` with another function. -/
def withVf (t : BitVec 9) (ws : List Word) : State := withFns (world (oneRec ws) []) [(256, ⟨t, 0, 0xFFF, true, [], [], []⟩)]

theorem witness_Services_tenants :
    (∃ s ws f i nq lg, Asks s 0 0 0 8 ws ∧ f = nfield (hostWord ws 2) 0 9 ∧ 1 ≤ f ∧ f ≤ 256 ∧ (s.hostFn f).vfEnabled = true ∧ (s.hostFn f).tenant = 0 ∧
      nq = nfield (hostWord ws 2) 9 6 ∧ 1 ≤ nq ∧ nq ≤ 16 ∧ lg = nfield (hostWord ws 2) 15 5 ∧ lg ≤ 16 ∧ HasRoom s 80 ∧ 2 ≤ i ∧ i ≤ 511 ∧
      (s.tenant i).live = false ∧ ∀ j, 2 ≤ j → j < i → (s.tenant j).live = true) ∧
    (∃ s ws f, Asks s 0 0 0 9 ws ∧ f = nfield (hostWord ws 2) 0 9 ∧ f ≠ 0 ∧ (s.hostFn f).tenant ≠ 0) ∧
    (∃ s ws f, Asks s 0 0 0 9 ws ∧ f = nfield (hostWord ws 2) 0 9 ∧ (s.hostFn f).tenant = 0) ∧
    (∃ s ws x lid v e, Asks s 0 0 0 10 ws ∧ x = nfield (hostWord ws 2) 0 9 ∧ lid = nfield (hostWord ws 2) 16 10 ∧ v = hostWord ws 3 ∧
      x ≠ 0 ∧ (s.tenant x).live = true ∧ e = s.peer x lid ∧ ¬ (e.valid = true ∧ e.phys ≠ field v 32 10)) ∧
    (∃ s ws x w, Asks s 0 0 0 11 ws ∧ x = nfield (hostWord ws 2) 0 9 ∧ w = nfield (hostWord ws 2) 16 6 ∧ w = 63 ∧ x ≠ 0 ∧ (s.tenant x).live = true) ∧
    (∃ s ws c off n, Asks s 0 0 0 12 ws ∧ n = (hostWord ws 3).toNat ∧ s.resolveRec 0 0 0 (hostWord ws 2) [0] n = some (c, off) ∧
      Readable s (tenantFn s 0) (Cap.obj c) off n) := by
  refine ⟨?_, ?_, ?_, ?_, ?_, ?_⟩
  · exact ⟨withVf 0 (serviceWs 8 [256 + 16 * 2 ^ 9 + 16 * 2 ^ 15]), _, 256, 2, 16, 16, asks_of _ rfl rfl rfl rfl (by decide +kernel), by decide +kernel, by decide, by decide, by decide +kernel,
      by decide +kernel, by decide +kernel, by decide, by decide, by decide +kernel, by decide, by unfold HasRoom; decide +kernel, by decide, by decide, by decide +kernel, fun j h1 h2 => absurd h2 (by omega)⟩
  · exact ⟨withVf 2 (serviceWs 9 [256]), _, 256, asks_of _ rfl rfl rfl rfl (by decide +kernel), by decide +kernel, by decide, by decide +kernel⟩
  · exact ⟨withVf 0 (serviceWs 9 [256]), _, 256, asks_of _ rfl rfl rfl rfl (by decide +kernel), by decide +kernel, by decide +kernel⟩
  · exact ⟨_, serviceWs 10 [1 + 1023 * 2 ^ 16, 2 ^ 63 + 5 * 2 ^ 32], 1, 1023, _, _, asks_world _ [] _ (by decide +kernel), by decide +kernel, by decide +kernel, rfl, by decide, by decide +kernel, rfl,
      by decide +kernel⟩
  · exact ⟨_, serviceWs 11 [1 + 63 * 2 ^ 16], 1, 63, asks_world _ [] _ (by decide +kernel), by decide +kernel, by decide +kernel, rfl, by decide, by decide +kernel⟩
  · exact ⟨_, serviceWs 12 [ref1 2097088, 64], wholeCap, 2097088, 64, asks_world _ [] _ (by decide +kernel), by decide +kernel, by decide +kernel,
      readable_world _ _ _ _ (by rfl) (by decide +kernel) (by decide +kernel)⟩

/-! ### Placement, power and traps that wait -/

/-- A package with one launch, one or more teams, the last die held by tenant 1, and cores as given. -/
def sched (ls : List (Nat × Launch)) (ts : List (Nat × Team)) (cs : SMap Core) : State :=
  let s := world (queueOf 8) []
  { s with cores := cs, sched := { s.sched with
      partitions := [(11, ⟨1, some 1, false⟩)], launches := ls.map fun e => (e.1, some e.2), nextLaunch := 9, teams := ts.map fun e => (e.1, some e.2), nextTeam := 9 } }

/-- A launch whose teams have a number of members, on the last die alone. -/
def dieLaunch (size : Nat) : Launch := { aLaunch with teamSize := size, teamCount := 2, partMask := 0x800 }

/-- A team of launch 7. -/
def aTeam (st : TeamState) (cs : List Nat) : Team := ⟨7, 0, st, cs, [], 0, false, []⟩

/-- The last die, each core with the same contents. -/
def lastDie (c : Core) : SMap Core := (List.range 32).map fun i => (352 + i, c)

/-- A core of team 5 that stands as given. -/
def member (r : RunState) : Core := { runningCore with team := some 5, run := r }

theorem witness_PlacementPowerTraps_partitions :
    (∃ s, FirmwareRuns s ∧ FixedTo s 11 1 ∧ (s.partition 11).holder = some 1) ∧
    (∃ s, FirmwareRuns s ∧ FixedTo s 11 1 ∧ (s.partition 11).holder ≠ some 1 ∧ (s.partition 11).turning = false) ∧
    (∃ s, FirmwareRuns s ∧ FixedTo s 11 1 ∧ (s.partition 11).holder ≠ some 1 ∧ (s.partition 11).turning = true ∧
      ∀ i < 32, (s.coreAt (32 * 11 + i)).team = none ∧ (s.coreAt (32 * 11 + i)).acc = [] ∧ (s.coreAt (32 * 11 + i)).reds = []) ∧
    (∃ s g, FirmwareRuns s ∧ (s.tenant 1).plugin = some g ∧ g.enabled = true ∧ ∀ d ∈ [11, 0], d < 12 ∧ (s.maskOf 1).getLsbD d = true) ∧
    (∃ s g, FirmwareRuns s ∧ (s.tenant 1).plugin = some g ∧ g.enabled = true ∧ ∃ d ∈ [11, 12], 12 ≤ d ∨ (s.maskOf 1).getLsbD d = false) ∧
    (∃ s, DeviceRuns s) ∧
    (∃ s l k la tm, FirmwareRuns s ∧ OneTeamWaits s l k 11 la tm ∧ la.teamSize = 32) ∧ (∃ s l k la tm, FirmwareRuns s ∧ OneTeamWaits s l k 11 la tm ∧ la.teamSize = 16) ∧
    (∃ s l k lv v la lav tm tv, FirmwareRuns s ∧ OneTeamRotates s l k 11 lv v la lav tm tv) := by
  have plug : ∃ s g, FirmwareRuns s ∧ (s.tenant 1).plugin = some g ∧ g.enabled = true ∧ s.maskOf 1 = 0xFFF :=
    ⟨(world (queueOf 8) []).setTenant 1 { (world (queueOf 8) []).tenant 1 with plugin := some ⟨[], true⟩ }, _, firmware_of rfl rfl rfl, rfl, rfl, by decide +kernel⟩
  have waits (n : Nat) (h : n = 32 ∨ n = 16) : ∃ s l k la tm, FirmwareRuns s ∧ OneTeamWaits s l k 11 la tm ∧ la.teamSize = n :=
    ⟨sched [(7, dieLaunch n)] [(5, aTeam .pending [])] [], 7, 5, dieLaunch n, aTeam .pending [], firmware_of rfl rfl rfl,
      ⟨rfl, rfl, rfl, rfl, (by decide : 5 ≠ 9), rfl, rfl, rfl, (by decide : 0 ≤ 1), rfl, rfl, rfl, rfl, by rcases h with rfl | rfl <;> decide, by rcases h with rfl | rfl <;> decide, (by decide : 0 ≤ 7),
        by rcases h with rfl | rfl <;> decide +kernel, by decide, by rcases h with rfl | rfl <;> decide, fun i hi => by
          have e : (352 + i) / 32 = 11 := by omega
          exact ⟨rfl, by show ((sched _ _ _).partition ((352 + i) / 32)).holder = _; rw [e]; rfl, by show ((sched _ _ _).partition ((352 + i) / 32)).turning = _; rw [e]; rfl⟩⟩, rfl⟩
  refine ⟨?_, ?_, ?_, ?_, ?_, ⟨State.reset, rfl⟩, waits 32 (.inl rfl), waits 16 (.inr rfl), ?_⟩
  · exact ⟨(world (queueOf 8) []).setPartition 11 ⟨1, some 1, true⟩, firmware_of rfl rfl rfl, by unfold FixedTo; decide +kernel, rfl⟩
  · exact ⟨(world (queueOf 8) []).setPartition 11 ⟨1, some 2, false⟩, firmware_of rfl rfl rfl, by unfold FixedTo; decide +kernel, by decide +kernel, rfl⟩
  · exact ⟨(world (queueOf 8) []).setPartition 11 ⟨1, none, true⟩, firmware_of rfl rfl rfl, by unfold FixedTo; decide +kernel, by decide +kernel, rfl, by decide +kernel⟩
  · obtain ⟨s, g, h, h1, h2, h3⟩ := plug
    exact ⟨s, g, h, h1, h2, by rw [h3]; decide⟩
  · obtain ⟨s, g, h, h1, h2, h3⟩ := plug
    exact ⟨s, g, h, h1, h2, 12, by decide, .inl (by decide)⟩
  · exact ⟨sched [(6, { dieLaunch 32 with preemptUs := 7 }), (7, dieLaunch 32)] [(4, { aTeam .placed ((List.range 32).map (352 + ·)) with launch := 6 }), (5, aTeam .pending [])]
      (lastDie { runningCore with team := some 4 }), 7, 5, 6, 4, _, _, _, _, firmware_of rfl rfl rfl,
      ⟨rfl, rfl, rfl, rfl, rfl, by decide, rfl, by decide, by decide, rfl, rfl, rfl, rfl, by decide, rfl, rfl, rfl, rfl, rfl, rfl, rfl, rfl, by decide, by decide, rfl, rfl, rfl, rfl,
        by decide +kernel⟩⟩

theorem witness_PlacementPowerTraps_teams :
    (∃ s tm la, FirmwareRuns s ∧ s.team 5 = some tm ∧ s.launch tm.launch = some la ∧ tm.state = .pending ∧ la.abort = none ∧ la.coplace = false ∧
      tm.cores.length = la.teamSize ∧ tm.cores.Nodup ∧ 383 ∈ tm.cores ∧
      ∀ n ∈ tm.cores, CoreFreeFor s la.tenant n ∧ (s.coreAt n).acc = [] ∧ (s.coreAt n).reds = []) ∧
    (∃ s tm la, FirmwareRuns s ∧ s.team 5 = some tm ∧ s.launch tm.launch = some la ∧ (tm.state = .placed ∨ tm.state = .saving) ∧ s.hasTasks 5 tm = false ∧ s.hasPosts 5 = false ∧
      s.hasFar tm = false ∧ 383 ∈ tm.cores ∧ ∀ n ∈ tm.cores, State.memberDone (s.coreAt n) = true) ∧
    (∃ s tm, FirmwareRuns s ∧ s.team 5 = some tm ∧ (tm.state = .placed ∨ tm.state = .saving) ∧ s.hasTasks 5 tm = false ∧ s.hasPosts 5 = false ∧
      s.hasFar tm = true ∧ 383 ∈ tm.cores ∧ ∀ n ∈ tm.cores, State.memberDone (s.coreAt n) = true) ∧
    (∃ s tm, FirmwareRuns s ∧ s.team 5 = some tm ∧ tm.state = .saving ∧ ∃ n ∈ tm.cores, (s.coreAt n).run = .broken) ∧
    (∃ s tm, FirmwareRuns s ∧ s.team 5 = some tm ∧ tm.state = .saving ∧ tm.cores.Nodup ∧ 383 ∈ tm.cores ∧ (s.coreAt 383).run = .stopped none ∧
      (∃ n ∈ tm.cores, (s.coreAt n).run ≠ .halted) ∧ ∀ n ∈ tm.cores, n < 384 ∧ s.memberStops n = true) ∧
    (∃ s tm, FirmwareRuns s ∧ s.team 5 = some tm ∧ tm.state = .saving ∧ tm.cores.Nodup ∧ 383 ∈ tm.cores ∧ ∀ n ∈ tm.cores, (s.coreAt n).run = .halted) ∧
    (∃ s tm la, FirmwareRuns s ∧ s.team 5 = some tm ∧ s.launch tm.launch = some la ∧ tm.state = .saved ∧ la.coplace = false ∧
      tm.cores.length = la.teamSize ∧ tm.cores.Nodup ∧ 383 ∈ tm.cores ∧ (s.coreAt (1024 + 32 * 5 + 1)).run = .stopped none ∧
      ∀ n ∈ tm.cores, n < 384 ∧ CoreFreeFor s la.tenant n ∧ (s.coreAt n).acc = [] ∧ (s.coreAt n).reds = []) := by
  refine ⟨?_, ?_, ?_, ?_, ?_, ?_, ?_⟩
  · exact ⟨sched [(7, dieLaunch 2)] [(5, aTeam .pending [352, 383])] [], _, _, firmware_of rfl rfl rfl, rfl, rfl, rfl, rfl, rfl, rfl, by decide, by decide, by unfold CoreFreeFor; decide +kernel⟩
  · exact ⟨sched [(7, dieLaunch 2)] [(5, aTeam .placed [352, 383])] (lastDie (member .halted)), _, _, firmware_of rfl rfl rfl, rfl, rfl, .inl rfl, by decide +kernel, by decide +kernel, rfl, by decide, by decide +kernel⟩
  · let s := sched [(7, dieLaunch 2)] [(5, aTeam .placed [352, 383])] (lastDie (member .halted))
    exact ⟨{ s with fab := { s.fab with remDirs := [⟨383, 383, 3, 1, 1, .kept, [], none⟩] } }, _, firmware_of rfl rfl rfl, rfl, .inl rfl, by decide +kernel, by decide +kernel, by decide, by decide, by decide +kernel⟩
  · exact ⟨sched [(7, dieLaunch 2)] [(5, aTeam .saving [352, 383])] (lastDie (member .broken)), _, firmware_of rfl rfl rfl, rfl, rfl, 383, by decide, rfl⟩
  · exact ⟨sched [(7, dieLaunch 2)] [(5, aTeam .saving [352, 383])] (lastDie (member (.stopped none))), _, firmware_of rfl rfl rfl, rfl, rfl, by decide, by decide, rfl, ⟨383, by decide, by decide +kernel⟩, by decide +kernel⟩
  · exact ⟨sched [(7, dieLaunch 2)] [(5, aTeam .saving [352, 383])] (lastDie (member .halted)), _, firmware_of rfl rfl rfl, rfl, rfl, by decide, by decide, by decide +kernel⟩
  · exact ⟨sched [(7, dieLaunch 2)] [(5, aTeam .saved [352, 383])] [(1184, member (.stopped none)), (1185, member (.stopped none))], _, _, firmware_of rfl rfl rfl, rfl, rfl, rfl, rfl, rfl,
      by decide, by decide, rfl, by unfold CoreFreeFor; decide +kernel⟩

/-- An island as given. -/
def withIsland (i : Nat) (x : Island) (hot : BitVec 12) : State := withDev { Device.initial with fwState := 2, islands := [(i, x)], thermal := hot, pwrcap := 600 }

/-- A core of the package as given. -/
def coreIs (n : Nat) (c : Core) : State := { withDev { Device.initial with fwState := 2 } with cores := [(n, c)] }

/-- A handler is set up and a trap waits. -/
def trapCore (r : List (Master × Trap)) (x : Option Trap) (told : List Master) : Core :=
  { evecCore with frozen := r.map Prod.fst, frozenTraps := r, waitingTrap := x, told := told }

/-- A collective task of the front end faulted, and its engine froze. -/
def postedCore (x : Trap) : Core :=
  let c := trapCore [(.engine .walker, x)] none [.engine .walker]
  let e : Entry := ⟨0, ⟨[], []⟩, .executing, true, false, false, none, some (1, 0, 4), [], [], [], [], none, 0, [], none, [], Progress.fresh⟩
  { c with board := { c.board with entries := [e] } }

theorem witness_PlacementPowerTraps_rest :
    (∃ s, DeviceRuns s ∧ (s.island 23).busy = true ∧ (s.island 23).pending = none) ∧
    (∃ s watts, FirmwareRuns s ∧ s.dev.pwrcap < watts ∧ (s.island 23).busy = false ∧ (s.island 23).pending = none ∧ 4 < (s.island 23).fcode ∧
      ∀ j < 24, 4 < State.Island.target (s.island j) → s.islandClass 23 ≤ s.islandClass j) ∧
    (∃ s, DeviceRuns s ∧ 11 < 12 ∧ 105 < 106) ∧ (∃ s, DeviceRuns s ∧ 94 < 95 ∧ bit s.dev.thermal 11 = true) ∧
    (∃ s, CoreRuns s 383 ∧ s.mayRetain 383 = true) ∧
    (∃ s, CoreRuns s 383 ∧ (s.coreAt 383).eng.retention = true ∧ (SMap.get [] (s.coreAt 383).eng.queues 0 ≠ [] ∨ (s.coreAt 383).stopping = true ∨ (s.island (383 / 16)).retLg = 0)) ∧
    (∃ s x, CoreRuns s 383 ∧ (s.coreAt 383).nextTrap = some x ∧ (s.coreAt 383).atBoundary = true ∧ (s.coreAt 383).delegable x = true ∧ (s.coreAt 383).frameBusy = false) ∧
    (∃ s x l la, CoreRuns s 383 ∧ (s.coreAt 383).nextTrap = some x ∧ (s.coreAt 383).atBoundary = true ∧ (s.coreAt 383).delegable x = false ∧ x.cause ≠ 0x13 ∧
      s.launchOf 383 = some (l, la)) ∧
    (∃ s m, CoreRuns s 383 ∧ m ∈ (s.coreAt 383).frozen ∧ m ∉ (s.coreAt 383).told) ∧
    (∃ s q x, CoreRuns s 383 ∧ FirmwareRuns s ∧ ((s.coreAt 383).frozenTraps.find? fun y => y.1 == .engine q) = some (.engine q, x) ∧ .engine q ∈ (s.coreAt 383).told ∧
      (s.coreAt 383).postedBy x.seq = none) ∧
    (∃ s q x y, CoreRuns s 383 ∧ FirmwareRuns s ∧ ((s.coreAt 383).frozenTraps.find? fun y => y.1 == .engine q) = some (.engine q, x) ∧ .engine q ∈ (s.coreAt 383).told ∧
      (s.coreAt 383).postedBy x.seq = some y) ∧
    (∃ s x, CoreRuns s 383 ∧ FirmwareRuns s ∧ ((s.coreAt 383).frozenTraps.find? fun y => y.1 == .thread) = some (.thread, x) ∧
      .thread ∈ (s.coreAt 383).told ∧ (s.coreAt 383).delegable x = true ∧ (s.coreAt 383).frameBusy = false) := by
  let x : Trap := Trap.of .boundary 0x0C 0 0
  refine ⟨?_, ?_, ⟨State.reset, rfl, by decide, by decide⟩, ?_, ?_, ?_, ?_, ?_, ?_, ?_, ?_, ?_⟩
  · exact ⟨withIsland 23 { Island.initial with busy := true } 0, rfl, rfl, rfl⟩
  · exact ⟨withIsland 23 Island.initial 0, 601, firmware_of rfl rfl rfl, by decide, rfl, rfl, by decide +kernel, by decide +kernel⟩
  · exact ⟨withIsland 23 Island.initial (2 ^ 11), rfl, by decide, by decide +kernel⟩
  · exact ⟨coreIs 383 runningCore, by decide +kernel, by decide +kernel⟩
  · exact ⟨coreIs 383 { runningCore with run := .stopped none, eng := { Engines.initial with retention := true } }, by decide +kernel, rfl, .inr (.inl rfl)⟩
  · exact ⟨coreIs 383 (trapCore [] (some x) []), x, by decide +kernel, by decide +kernel, by decide +kernel, by decide +kernel, by decide +kernel⟩
  · exact ⟨sched [(7, dieLaunch 2)] [(5, aTeam .placed [352, 383])] (lastDie { member .running with waitingTrap := some x }), x, 7, _, by decide +kernel, by decide +kernel, by decide +kernel,
      by decide +kernel, by decide, rfl⟩
  · exact ⟨coreIs 383 (trapCore [(.thread, x)] none []), .thread, by decide +kernel, by decide, by decide⟩
  · exact ⟨coreIs 383 (trapCore [(.engine .matrix, x)] none [.engine .matrix]), .matrix, x, by decide +kernel, firmware_of rfl rfl rfl, by decide +kernel, by decide, rfl⟩
  · exact ⟨coreIs 383 (postedCore x), .walker, x, _, by decide +kernel, firmware_of rfl rfl rfl, by decide +kernel, by decide, rfl⟩
  · exact ⟨coreIs 383 (trapCore [(.thread, x)] none [.thread]), x, by decide +kernel, firmware_of rfl rfl rfl, by decide +kernel, by decide, by decide +kernel, by decide +kernel⟩

/-! ### The access unit and memory -/

/-- The package of `hostState` without its host side: core 383, of tenant 1's team, as given. -/
def memState (c : Core) : State :=
  let s := State.reset.withFetchWord 64 0
  { s with cores := [(383, c)], dev := { s.dev with fwState := 2 } }

/-- The last doubleword of object 1. -/
def accOp (kind : AccKind) (phase : AccPhase) : AccOp := ⟨4, 4, 0, 0, kind, Cap.make 1 0x1F 0 4194304, 2097144, 8, .rlx, .core, 7, 0, 0, phase, 5⟩

/-- A core with one access in its access unit. -/
def accCore (kind : AccKind) (phase : AccPhase) : Core := { runningCore with acc := [accOp kind phase] }

theorem readable_mem (c : Core) (h : (memState c).portCheck 1 1 2097144 8 = .proceed) (h1 : (memState c).portStopped 1 2097144 = false)
    (h2 : (memState c).poisonFault 1 2097144 8 false = false) : Readable (memState c) 1 1 2097144 8 := ⟨⟨_, rfl, rfl⟩, h, h1, h2⟩

theorem writable_mem (c : Core) (h : (memState c).portCheck 1 1 2097144 8 = .proceed) (h1 : (memState c).portStopped 1 2097144 = false)
    (h2 : (memState c).poisonFault 1 2097144 8 false = false) (h3 : (memState c).migrating 1 2097144 = false) (h4 : (memState c).frozenOf 1 = none)
    (h5 : MemoryCanonical (memState c)) : Writable (memState c) 1 1 2097144 8 := ⟨readable_mem c h h1 h2, h3, rfl, h4, h5, by decide, by decide⟩

/-- A store to the first byte behind an extent. -/
def farOp : AccOp := { accOp .store .sent with addr := 2097152 }

/-- A reduction in the combining buffer. -/
def aRed (entered flushing sent : Bool) : RedEntry := ⟨5, 5, 0, [], 0, .add, .i64, Cap.make 1 0x1F 0 4194304, 2097144, 8, .core, .rlx, 5, 4, entered, flushing, sent, 0⟩

theorem witness_MemoryEvents_access :
    (∃ s k o es, CoreRuns s 383 ∧ (s.coreAt 383).accOp k = some o ∧ o.phase = .queued ∧ o.kind ≠ .fence ∧ (s.coreAt 383).accHalted = false ∧
      es = s.scalarEntries 383 k o.cap o.addr o.len o.updates o.marked ∧ es ≠ [] ∧ (∀ x ∈ s.hbm.dir, ∀ e ∈ es, x.conflicts e = false) ∧ s.hbm.dir.length + es.length ≤ 16384) ∧
    (∃ s k o e es x, CoreRuns s 383 ∧ (s.coreAt 383).accOp k = some o ∧ o.phase = .queued ∧ o.kind ≠ .fence ∧ (s.coreAt 383).accHalted = false ∧
      (s.coreAt 383).wait ≠ .sigwait k ∧ s.scalarEntries 383 k o.cap o.addr o.len o.updates o.marked = e :: es ∧ s.hbm.dir.find? (·.conflicts e) = some x) ∧
    (∃ s k o, CoreRuns s 383 ∧ (s.coreAt 383).accOp k = some o ∧ o.phase = .entered ∧ o.kind ≠ .fence ∧ (s.coreAt 383).haltedBefore o.rank = false ∧
      (s.coreAt 383).mayPerform o = true ∧ (s.obj o.objId).map Obj.route = some .local) ∧
    (∃ s k r, CoreRuns s 383 ∧ (s.coreAt 383).accOp k = none ∧ (s.coreAt 383).redEntry k = some r ∧ r.entered = true ∧ r.flushing = true ∧
      r.sent = false ∧ (s.coreAt 383).haltedBefore r.rank = false ∧ (s.coreAt 383).mayFlush r = true ∧ (s.obj (Cap.obj r.cap)).map Obj.route = some .local) ∧
    (∃ s k o ty d, SentOp s 383 k o ∧ o.kind = .load ty d ∧ Readable s (s.tenantOf 383) o.objId o.addr (Ty.bytes ty)) ∧
    (∃ s k o, SentOp s 383 k o ∧ o.kind = .store ∧ Writable s (s.tenantOf 383) o.objId o.addr o.len) ∧
    (∃ s k o op ty d bs, SentOp s 383 k o ∧ o.kind = .rmw op ty d ∧ Writable s (s.tenantOf 383) o.objId o.addr (rmwWidth op ty / 8) ∧
      State.rmwBytes op ty (readBytes s o.objId o.addr (rmwWidth op ty / 8)) o.data o.cmp = some bs) ∧
    (∃ s k o e x, SentOp s 383 k o ∧ s.obj o.objId = some x ∧ x.route = .local ∧ s.portCheck (s.tenantOf 383) o.objId o.addr o.request.len = .pageFault e) ∧
    (∃ s k o x, SentOp s 383 k o ∧ o.kind ≠ .fence ∧ (s.coreAt 383).wait ≠ .sigwait k ∧ s.obj o.objId = some x ∧ x.route = .local ∧
      s.portCheck (s.tenantOf 383) o.objId o.addr o.request.len = .objectFault) ∧
    (∃ s k r bs, CoreRuns s 383 ∧ (s.coreAt 383).accOp k = none ∧ (s.coreAt 383).redEntry k = some r ∧ r.sent = true ∧
      Writable s (s.tenantOf 383) (Cap.obj r.cap) r.addr (rmwWidth r.op r.t / 8) ∧
      State.rmwBytes r.op r.t (readBytes s (Cap.obj r.cap) r.addr (rmwWidth r.op r.t / 8)) (r.data.setWidth 128) 0 = some bs) ∧
    (∃ s k o ty d, CoreRuns s 383 ∧ (s.coreAt 383).accOp k = some o ∧ o.phase = .performed ∧ o.kind = .load ty d ∧ (s.coreAt 383).wait ≠ .sigwait k) ∧
    (∃ s k o d, CoreRuns s 383 ∧ (s.coreAt 383).accOp k = some o ∧ o.phase = .performed ∧ o.kind = .loadRegion d ∧ (s.coreAt 383).wait ≠ .sigwait k) ∧
    (∃ s k o op ty d, CoreRuns s 383 ∧ (s.coreAt 383).accOp k = some o ∧ o.phase = .performed ∧ o.kind = .rmw op ty d ∧ op ≠ .cas2 ∧ (s.coreAt 383).wait ≠ .sigwait k) ∧
    (∃ s k o ty b d, CoreRuns s 383 ∧ (s.coreAt 383).wait = .sigwait k ∧ (s.coreAt 383).accOp k = some o ∧ o.phase = .entered ∧ o.kind = .wait ty b d ∧
      (s.coreAt 383).haltedBefore o.rank = false ∧ (s.coreAt 383).mayPerform o = true ∧ Readable s (s.tenantOf 383) o.objId o.addr 8) ∧
    (∃ s k o base, CoreRuns s 383 ∧ (s.coreAt 383).accOp k = some o ∧ o.phase = .sent ∧ o.kind ≠ .fence ∧ (s.coreAt 383).wait ≠ .sigwait k ∧
      (s.obj o.objId).map Obj.route = some (.host base)) := by
  refine ⟨?_, ?_, ?_, ?_, ?_, ?_, ?_, ?_, ?_, ?_, ?_, ?_, ?_, ?_, ?_⟩
  · exact ⟨memState (accCore .store .queued), 4, accOp .store .queued, _, by decide +kernel, by decide +kernel, rfl, by decide, rfl, rfl, by decide +kernel, by decide +kernel, by decide +kernel⟩
  · obtain ⟨e, es, h⟩ : ∃ e es, (memState (accCore .store .queued)).scalarEntries 383 4 (Cap.make 1 0x1F 0 4194304) 2097144 8 true false = e :: es := ⟨_, _, by rfl⟩
    let m := memState (accCore .store .queued)
    exact ⟨{ m with hbm := { m.hbm with dir := m.scalarEntries 0 0 (Cap.make 1 0x1F 0 4194304) 2097144 8 false false } }, 4, accOp .store .queued, _, _, _, by decide +kernel, by decide +kernel, rfl,
      by decide, rfl, by decide +kernel, by rfl, by rfl⟩
  · exact ⟨memState (accCore .store .entered), 4, accOp .store .entered, by decide +kernel, by decide +kernel, rfl, by decide, by decide +kernel, by decide +kernel, by decide +kernel⟩
  · exact ⟨memState { runningCore with reds := [aRed true true false] }, 5, aRed true true false, by decide +kernel, by decide +kernel, by decide +kernel, rfl, rfl, rfl, by decide +kernel, by decide +kernel, by decide +kernel⟩
  · exact ⟨memState (accCore (.load .i64 31) .sent), 4, accOp (.load .i64 31) .sent, .i64, 31, ⟨by decide +kernel, by decide +kernel, rfl⟩, rfl,
      readable_mem _ (by rfl) (by decide +kernel) (by decide +kernel)⟩
  · exact ⟨memState (accCore .store .sent), 4, accOp .store .sent, ⟨by decide +kernel, by decide +kernel, rfl⟩, rfl,
      writable_mem _ (by rfl) (by decide +kernel) (by decide +kernel) (by decide +kernel) (by decide +kernel) (by decide +kernel)⟩
  · exact ⟨memState (accCore (.rmw .sigadd .n64 31) .sent), 4, accOp (.rmw .sigadd .n64 31) .sent, .sigadd, .n64, 31, [7, 0, 0, 0, 0, 0, 0, 0], ⟨by decide +kernel, by decide +kernel, rfl⟩, rfl,
      writable_mem _ (by rfl) (by decide +kernel) (by decide +kernel) (by decide +kernel) (by decide +kernel) (by decide +kernel), by decide +kernel⟩
  · exact ⟨(memState { runningCore with acc := [farOp] }).setObj 1 (some ⟨1, 2, 0xFFF, .local, [(0, ⟨some 64, none⟩)]⟩), 4, farOp, 1, _, ⟨by decide +kernel, by decide +kernel, rfl⟩, rfl, rfl, by decide +kernel⟩
  · exact ⟨memState { runningCore with acc := [farOp] }, 4, farOp, _, ⟨by decide +kernel, by decide +kernel, rfl⟩, by decide, by decide +kernel, rfl, rfl, by rfl⟩
  · exact ⟨memState { runningCore with reds := [aRed true true true] }, 5, aRed true true true, [5, 0, 0, 0, 0, 0, 0, 0], by decide +kernel, by decide +kernel, by decide +kernel, rfl,
      writable_mem _ (by rfl) (by decide +kernel) (by decide +kernel) (by decide +kernel) (by decide +kernel) (by decide +kernel), by decide +kernel⟩
  · exact ⟨memState (accCore (.load .i8 31) .performed), 4, accOp (.load .i8 31) .performed, _, _, by decide +kernel, by decide +kernel, rfl, rfl, by decide +kernel⟩
  · exact ⟨memState (accCore (.loadRegion 15) .performed), 4, accOp (.loadRegion 15) .performed, _, by decide +kernel, by decide +kernel, rfl, rfl, by decide +kernel⟩
  · exact ⟨memState (accCore (.rmw .max .i32 31) .performed), 4, accOp (.rmw .max .i32 31) .performed, _, _, _, by decide +kernel, by decide +kernel, rfl, rfl, by decide, by decide +kernel⟩
  · exact ⟨memState { accCore (.wait .i64 0 31) .entered with wait := .sigwait 4 }, 4, accOp (.wait .i64 0 31) .entered, _, _, _, by decide +kernel, rfl, by decide +kernel, rfl, rfl, by decide +kernel,
      by decide +kernel, readable_mem _ (by rfl) (by decide +kernel) (by decide +kernel)⟩
  · exact ⟨(memState (accCore .store .sent)).setObj 1 (some ⟨1, 1, 0xFFF, .host 4096, []⟩), 4, accOp .store .sent, 4096, by decide +kernel, by decide +kernel, rfl, by decide, by decide +kernel, by decide +kernel⟩

/-- Object 1 in two frames, and its second extent as given. -/
def withExt (s : State) (e : Extent) : State := s.setObj 1 (some ⟨1, 2, 0xFFF, .local, [(0, ⟨some 64, none⟩), (1, e)]⟩)

/-- A core whose thread fetches from object 1, with nothing in its instruction cache. -/
def codeCore : Core := { runningCore with fetchCap := Cap.make 1 0x20 0 2097152 }

/-- An entry of a window, settled, without dependences. -/
def anEntry (seq : BitVec 32) (ws : List Word) (st : EState) : Entry :=
  ⟨seq, ⟨ws, List.replicate 9 (Cap.make 1 0x1F 0 2097152)⟩, st, true, false, false, none, none, [], [], [], [], none, 0, [], none, [], Progress.fresh⟩

/-- A core with one entry in its window, which stands alone in queue `q`. -/
def taskCore (e : Entry) (q : Option Nat) : Core :=
  { runningCore with
    board := { Board.initial with entries := [e], nextSeq := e.seq + 1 }
    eng := { Engines.initial with queues := match q with | some k => [(k, [e.seq])] | none => [] } }

/-- A copy record of 512 bytes from row 0 of the scratchpad to granule 511 of object 1, on channel 0. -/
def copyWs : List Word := [0x20 + 3 * 2 ^ 8, rowsBox 1 0 1, BitVec.ofNat 64 (2 ^ 63 + 2 ^ 62 + 2 * 2 ^ 59 + 511 * 2 ^ 24 + 1), 0, 0, 0, 0, 0, 512, 0, 0, 0, 0, 0, 0, 0]

theorem witness_MemoryEvents_rest :
    (∃ s line e o f, CoreRuns s 383 ∧ PlainMemory s ∧ (s.coreAt 383).run = .running ∧ e = line * 128 / 2097152 ∧ (s.coreAt 383).codeExts.contains e = false ∧
      (s.coreAt 383).codeLines.contains line = false ∧ s.obj (Cap.obj (s.coreAt 383).fetchCap) = some o ∧ (o.ext e).frame = some f ∧
      s.portCheck (s.tenantOf 383) (Cap.obj (s.coreAt 383).fetchCap) (line * 128) 128 = .proceed ∧ (s.coreAt 383).code = []) ∧
    (∃ s, CoreRuns s 383 ∧ (s.coreAt 383).run = .running ∧ (s.coreAt 383).codeExts.contains (16383 * 128 / 2097152) = true ∧
      (s.coreAt 383).codeLines.contains 16383 = false ∧ s.portCheck (s.tenantOf 383) (Cap.obj (s.coreAt 383).fetchCap) (16383 * 128) 128 = .proceed) ∧
    (∃ s, CoreRuns s 383) ∧
    (∃ s o f, DeviceRuns s ∧ 383 < 384 ∧ s.obj 1 = some o ∧ (o.ext 0).frame = some f) ∧ (∃ s, DeviceRuns s ∧ 384 ≤ 384) ∧
    (∃ s, FirmwareRuns s ∧ s.chunkHolds 1 0 = false) ∧ (∃ s, FirmwareRuns s ∧ s.chunkHolds 1 0 = true) ∧
    (∃ s seq e es, CoreRuns s 383 ∧ (s.coreAt 383).entry seq = some e ∧ s.taskEntered 383 e = false ∧ entryReady (s.coreAt 383) e (s.collReady 383 e) = true ∧
      s.farFeet 383 e.post = [] ∧ s.fab.remDirs = [] ∧ es = s.nextEntries (s.taskEntries 383 e) ∧ (∀ x ∈ s.hbm.dir, ∀ e ∈ es, x.conflicts e = false) ∧ s.hbm.dir.length + es.length ≤ 16128) ∧
    (∃ s o, FirmwareRuns s ∧ MemoryCanonical s ∧ s.obj 1 = some o ∧ 1 < o.size ∧ (o.ext 1).frame = none ∧ o.route = .local ∧ HasRoom s 1) ∧
    (∃ s o f, FirmwareRuns s ∧ s.obj 1 = some o ∧ o.route = .local ∧ o.ext 1 = ⟨some f, none⟩ ∧ (State.stacksOf o.stackMask).contains 11 = true ∧ HasRoom s 1) ∧
    (∃ s o old new, FirmwareRuns s ∧ PlainMemory s ∧ s.obj 1 = some o ∧ o.ext 1 = ⟨some old, some new⟩ ∧ old ≠ new ∧ s.frozenOf o.tenant = none ∧
      s.chunkHolds 1 1 = false) ∧
    (∃ s, FirmwareRuns s ∧ s.frameOwner 393215 = none ∧ s.hbm.retired.any (·.1 == 393215) = false) ∧
    (∃ s, DeviceRuns s ∧ SMap.get false s.hbm.poisoned 5 = false) ∧
    (∃ s, CoreRuns s 383 ∧ 13311 < 13312 ∧ .row 13311 ∉ (s.coreAt 383).eng.bad) ∧
    (∃ s x a, CoreRuns s 383 ∧ (s.coreAt 383).team = some x ∧ (s.team x).isSome = true ∧
      (s.coreAt 383).arrivals.find? (fun a => a.pt == 15 && !a.registered) = some a ∧ a.leave = false ∧ (s.coreAt 383).mayRegister a = true) ∧
    (∀ x ∈ [0, 1, 2, 3], ∃ s, CoreRuns s 383 ∧ s.fwRuns = true ∧ (s.coreAt 383).wait = .sysc x) ∧
    (∃ s mask rose, CoreRuns s 383 ∧ (s.coreAt 383).wait = .wfe mask rose ∧ (s.coreAt 383).run = .running ∧ ∃ i < 16, mask.getLsbD i = true ∧ (s.coreAt 383).mb i ≠ 0) ∧
    (∃ s, CoreRuns s 383 ∧ (s.coreAt 383).wait = .wfe 0 true ∧ (s.coreAt 383).run = .running) ∧
    (∃ s mask, CoreRuns s 383 ∧ (s.coreAt 383).wait = .wfe mask false ∧ (s.coreAt 383).run = .running ∧ (s.coreAt 383).preempting = true) := by
  refine ⟨?_, ?_, ⟨memState runningCore, by decide +kernel⟩, ?_, ⟨State.reset, rfl, by decide⟩, ?_, ?_, ?_, ?_, ?_, ?_, ?_, ⟨State.reset, rfl, by decide +kernel⟩, ⟨memState runningCore, by decide +kernel, by decide, by decide +kernel⟩,
    ?_, ?_, ?_, ?_, ?_⟩
  · exact ⟨memState codeCore, 16383, 0, _, 64, by decide +kernel, by unfold PlainMemory; decide +kernel, rfl, by decide, by decide +kernel, by decide +kernel, rfl, by decide +kernel, by decide +kernel, rfl⟩
  · exact ⟨memState { codeCore with codeExts := [0] }, by decide +kernel, rfl, by decide +kernel, by decide +kernel, by decide +kernel⟩
  · exact ⟨memState runningCore, _, 64, rfl, by decide, rfl, by decide +kernel⟩
  · exact ⟨memState runningCore, firmware_of rfl rfl rfl, by decide +kernel⟩
  · exact ⟨memState (taskCore { anEntry 3 copyWs .executing with prog := { Progress.fresh with begun := true, lim := 512, exts := (0, 1) } } (some 3)), firmware_of rfl rfl rfl, by decide +kernel⟩
  · exact ⟨memState (taskCore (anEntry 3 copyWs .waiting) none), 3, anEntry 3 copyWs .waiting, _, by decide +kernel, by decide +kernel, by decide +kernel, by decide +kernel, by decide +kernel, rfl, rfl, fun x h => (nomatch (show x ∈ ([] : List DirEntry) from h)),
      by decide +kernel⟩
  · exact ⟨withExt (memState runningCore) ⟨none, none⟩, _, firmware_of rfl rfl rfl, by decide +kernel, rfl, by decide +kernel, by decide +kernel, rfl, by unfold HasRoom; decide +kernel⟩
  · exact ⟨withExt (memState runningCore) ⟨some 65, none⟩, _, 65, firmware_of rfl rfl rfl, rfl, rfl, by decide +kernel, by decide +kernel, by unfold HasRoom; decide +kernel⟩
  · exact ⟨withExt (memState runningCore) ⟨some 65, some 66⟩, _, 65, 66, firmware_of rfl rfl rfl, by unfold PlainMemory; decide +kernel, rfl, by decide +kernel, by decide, by decide +kernel, by decide +kernel⟩
  · exact ⟨memState runningCore, firmware_of rfl rfl rfl, by decide +kernel, by decide +kernel⟩
  · exact ⟨memState { runningCore with arrivals := [⟨15, false, 0, 63, [], [], 0, false⟩] }, 0, _, by decide +kernel, rfl, by decide +kernel, rfl, rfl, by decide +kernel⟩
  · intro x hx
    refine ⟨memState { runningCore with wait := .sysc x }, ⟨by decide, ?_⟩, by rfl, rfl⟩
    simp only [List.mem_cons, List.not_mem_nil, or_false] at hx
    rcases hx with rfl | rfl | rfl | rfl <;> decide +kernel
  · exact ⟨memState { runningCore with wait := .wfe 0x8000 false, sp := { Specials.initial with mb := [(15, 1)] } }, 0x8000, false, by decide +kernel, rfl, rfl, 15, by decide, by decide, by decide +kernel⟩
  · exact ⟨memState { runningCore with wait := .wfe 0 true }, by decide +kernel, rfl, rfl⟩
  · exact ⟨memState { runningCore with wait := .wfe 1 false, preemptAsked := true }, 1, by decide +kernel, rfl, rfl, by decide +kernel⟩

/-! ### Windows -/

/-- A copy record that waits for mailbox 15 and raises mailboxes 0 and 15. -/
def waitWs : List Word := copyWs.set 12 (BitVec.ofNat 64 (0x8000 * 2 ^ 48 + 0x8001 * 2 ^ 32))

/-- A record of group 0's member on core 383: one transfer of 248 bytes from row 0. -/
def stepWs : List Word := [0x28 + 4 * 2 ^ 8, rowsBox 1 0 1, rowsBox 2 8 1, 0, 0, 0, 0, 0, BitVec.ofNat 64 (7 * 2 ^ 32), BitVec.ofNat 64 (2 ^ 63), 0, 0, 0, 0, 0, 0]

/-- A package whose tenant 1 has group 0, with the first core of the team's home as its one member. -/
def groupState (v : Version) (c : Core) : State :=
  let s := memState c
  (s.setTenant 1 { s.tenant 1 with peers := [(0, ⟨true, false, false, 0, 0⟩), (5, ⟨true, false, false, 5, 0⟩)] }).setGroup 1 0 (some ⟨[v], [], []⟩)

/-- A version of a group with one member. -/
def soloVersion : Version := ⟨1, 50, [(0, 0)], [.present]⟩

/-- A guard record that names tolerance 15. -/
def guardWs : List Word := [0x38 + 5 * 2 ^ 8, 0, 0, 0, 0, 0, 0, 0, 15, 0, 0, 0, 0, 0, 0, 0]

/-- A core with one guarded unit and its record. -/
def unitCore (u : GUnit) : Core := { taskCore (anEntry 7 guardWs .unit) none with
  board := { Board.initial with entries := [anEntry 7 guardWs .unit], nextSeq := 8, units := [u] } }

/-- A record from another chip. -/
def remoteMsg : PostMsg := ⟨5, 0, 1, false, [⟨[3], [0]⟩]⟩

/-- A `RINGPOP` of ring 15, which is not open. -/
def popWs : List Word := [0x30 + 5 * 2 ^ 8, rowsBox 1 0 1, 0, 0, 0, 0, 0, 0, 15, 0, 0, 0, 0, 0, 0, 0]

/-- A package where a copy may be released to a queue of 15. -/
def fullQueue : State :=
  let m := memState { taskCore (anEntry 3 copyWs .waiting) none with eng := { Engines.initial with queues := [(3, List.replicate 15 0)] } }
  { m with hbm := { m.hbm with dir := m.taskEntries 383 (anEntry 3 copyWs .waiting) } }

theorem witness_WindowEvents :
    (∃ ws is o, ∃ s : State, s.freezing 0 = false ∧ (tick 0 { s with cur := 0 }).core.forcedHere = false ∧ (tick 0 { s with cur := 0 }).core.mayRun = true ∧
      fetchGroup (tick 0 { s with cur := 0 }) (tick 0 { s with cur := 0 }).core 4 0 false false = .words ws ∧
      readGroup (tick 0 { s with cur := 0 }).core ws = .ok is ∧ onlyOp (tick 0 { s with cur := 0 }).core is = some o) ∧
    (∃ s : State, s.freezing 383 = false ∧ (s.coreAt 383).forcedHere = true ∧ ∀ m r, (s.coreAt 383).wait ≠ .wfe m r) ∧
    (∃ s : State, s.freezing 383 = false ∧ (s.coreAt 383).forcedHere = true ∧ (s.coreAt 383).wait = .wfe 1 false) ∧
    (∃ s, CoreRuns s 383) ∧
    (∃ s seq e, CoreRuns s 383 ∧ (s.coreAt 383).entry seq = some e ∧ entryReady (s.coreAt 383) e (s.collReady 383 e) = true) ∧
    (∃ s q e, CoreRuns s 383 ∧ q ≠ .board ∧ (SMap.get [] (s.coreAt 383).eng.queues (queueNo q)).length < 16 ∧ .engine q ∉ (s.coreAt 383).frozen ∧
      (s.coreAt 383).stopping = false ∧ firstReady (s.coreAt 383) (s.releasable 383 q) = some e ∧ e.post.kind ≠ 0x28) ∧
    (∃ s q e v, CoreRuns s 383 ∧ q ≠ .board ∧ (SMap.get [] (s.coreAt 383).eng.queues (queueNo q)).length < 16 ∧ .engine q ∉ (s.coreAt 383).frozen ∧
      (s.coreAt 383).stopping = false ∧ firstReady (s.coreAt 383) (s.releasable 383 q) = some e ∧ e.post.kind = 0x28 ∧
      s.collVersion (s.tenantOf 383) (nfield (e.post.word 8) 0 16) = some v) ∧
    (∃ s seq e, CoreRuns s 383 ∧ (s.coreAt 383).entry seq = some e ∧ e.state = .executing ∧ e.prog.fin = true ∧ e.fault = none ∧
      .engine e.queue ∉ (s.coreAt 383).frozen) ∧
    (∃ s seq e, CoreRuns s 383 ∧ (s.coreAt 383).entry seq = some e ∧ e.state = .completed ∧ e.bundleHead = none ∧ e.seg = none ∧
      (s.coreAt 383).board.held = [] ∧ e.inSection = false ∧ SMap.wf 0 e.wtr = true ∧ s.fab.remDirs = [] ∧ e.wtr ≠ [] ∧ e.post.sigMask.getLsbD 15 = true) ∧
    (∃ s g u, CoreRuns s 383 ∧ (s.coreAt 383).unit g = some u ∧ unitReady (s.coreAt 383) u = true ∧ unitPasses (s.coreAt 383) u = true ∧ SMap.wf 0 u.spec = true) ∧
    (∃ s g u, CoreRuns s 383 ∧ (s.coreAt 383).unit g = some u ∧ unitReady (s.coreAt 383) u = true ∧ unitPasses (s.coreAt 383) u = false ∧ u.exacts = [] ∧ u.captured = []) ∧
    (∃ s g u, CoreRuns s 383 ∧ (s.coreAt 383).unit g = some u ∧ unitReady (s.coreAt 383) u = true ∧ unitPasses (s.coreAt 383) u = false ∧ u.exacts = [] ∧
      u.captured ≠ [] ∧ (∀ p ∈ u.captured, p.kind ∉ [0x23, 0x30, 0x31, 0x38]) ∧ ∀ v ∈ (s.coreAt 383).board.units, v.failed = false) ∧
    (∃ s, ∃ m : PostMsg, ∃ r : RemoteRec, CoreRuns s 383 ∧ s.fab.net = [] ∧ m.srcChip ≠ s.dev.chip ∧ (s.coreAt 383).team.isSome = true ∧ s.tenantOf 383 = m.tenant ∧ m.recs = [r] ∧
      1 ≤ (s.coreAt 383).remoteRoom ∧ ringCheck (s.coreAt 383) ⟨r.words, r.caps⟩ = none) ∧
    (∃ s : State, ∃ m : PostMsg, s.fab.net = [] ∧ m.srcChip ≠ s.dev.chip ∧ (s.coreAt 383).remoteRoom < m.recs.length) ∧
    (∃ s, ∃ m : PostMsg, ∃ r : RemoteRec, ∃ x, CoreRuns s 383 ∧ s.fab.net = [] ∧ m.srcChip ≠ s.dev.chip ∧ (s.coreAt 383).team.isSome = true ∧ s.tenantOf 383 = m.tenant ∧
      m.recs = [r] ∧ 1 ≤ (s.coreAt 383).remoteRoom ∧ ringCheck (s.coreAt 383) ⟨r.words, r.caps⟩ = some x) ∧
    (∃ s, CoreRuns s 383 ∧ externallyStalled s 383 = false) ∧
    (∃ s, CoreRuns s 383 ∧ (s.coreAt 383).board.stalledReported = false ∧ externallyStalled s 383 = true) ∧
    (∀ k ∈ [0x02, 0x04, 0x05, 0x07, 0x0C, 0x0F, 0x12#8], ∃ s seq e f, CoreRuns s 383 ∧ (s.coreAt 383).entry seq = some e ∧ e.state = .executing ∧ e.fault = none ∧
      e.inSection = false ∧ e.origin = none ∧ TaskFault.cause f = k) := by
  refine ⟨?_, ?_, ?_, ⟨memState runningCore, by decide +kernel⟩, ?_, ?_, ?_, ?_, ?_, ?_, ?_, ?_, ?_, ?_, ?_,
    ⟨memState runningCore, by decide +kernel, by decide +kernel⟩, ?_, ?_⟩
  · exact ⟨_, _, _, State.reset.withFetchWord 64 (soloWord 0x01 (t3 3 1 2 0 0)), by decide +kernel, by decide +kernel, by decide +kernel, by rfl, by rfl, by rfl⟩
  · exact ⟨memState { runningCore with preemptForced := true }, by decide +kernel, by decide +kernel, fun _ _ h => nomatch (show Wait.none = .wfe _ _ from h)⟩
  · exact ⟨memState { runningCore with preemptForced := true, wait := .wfe 1 false }, by decide +kernel, by decide +kernel, by rfl⟩
  · exact ⟨memState (taskCore (anEntry 3 copyWs .waiting) none), 3, _, by decide +kernel, rfl, by decide +kernel⟩
  · exact ⟨fullQueue, .copy 0, anEntry 3 copyWs .waiting, by decide +kernel, by decide, by decide +kernel, (List.not_mem_nil), rfl, by decide +kernel, by decide +kernel⟩

  · exact ⟨groupState soloVersion (taskCore (anEntry 3 (stepWs.set 9 0) .waiting) none), .walker, anEntry 3 (stepWs.set 9 0) .waiting, soloVersion, by decide +kernel, by decide, by decide +kernel, by decide +kernel, rfl, by decide +kernel,
      by decide +kernel, by decide +kernel⟩
  · exact ⟨memState (taskCore { anEntry 3 copyWs .executing with prog := { Progress.fresh with begun := true, fin := true } } (some 3)), 3, _, by decide +kernel, rfl, rfl, rfl, rfl, by decide +kernel⟩
  · exact ⟨memState (taskCore { anEntry 3 waitWs .completed with wtr := [(5, 13000)] } none), 3, _, by decide +kernel, rfl, rfl, by decide +kernel, rfl, rfl, by decide +kernel, by decide +kernel, rfl, by decide, by decide +kernel⟩
  · exact ⟨memState (unitCore { unitIn 0 with spec := [(5, 13000)] }), 7, { unitIn 0 with spec := [(5, 13000)] }, by decide +kernel, rfl, by decide +kernel, by decide +kernel, by decide +kernel⟩
  · exact ⟨memState (unitCore { unitIn 0 with breach := true }), 7, { unitIn 0 with breach := true }, by decide +kernel, rfl, by decide +kernel, by decide +kernel, rfl, rfl⟩
  · exact ⟨memState (unitCore { unitIn 0 with breach := true, captured := [⟨copyWs, []⟩] }), 7, { unitIn 0 with breach := true, captured := [⟨copyWs, []⟩] }, by decide +kernel, rfl, by decide +kernel,
      by decide +kernel, rfl, by decide, by decide +kernel, by decide +kernel⟩
  · exact ⟨memState { runningCore with board := { Board.initial with rres := 1 } }, remoteMsg, _, by decide +kernel, rfl, by decide +kernel, rfl, by decide +kernel, rfl, by decide +kernel, by decide +kernel⟩
  · exact ⟨memState { runningCore with board := { Board.initial with rres := 0 } }, remoteMsg, rfl, by decide +kernel, by decide +kernel⟩
  · exact ⟨memState { runningCore with board := { Board.initial with rres := 1 } }, ⟨5, 0, 1, false, [⟨popWs, [0]⟩]⟩, _, _, by decide +kernel, rfl, by decide +kernel, rfl,
      by decide +kernel, rfl, by decide +kernel, by rfl⟩
  · exact ⟨memState (taskCore (anEntry 3 waitWs .waiting) none), by decide +kernel, rfl, by decide +kernel⟩
  · exact fun k _ => ⟨memState (taskCore (anEntry 3 copyWs .executing) (some 3)), 3, _, ⟨k, 0, 0⟩, by decide +kernel, rfl, rfl, rfl, by decide +kernel, rfl, rfl⟩

/-! ### Strata -/

/-- The package of `memState` whose tenant 1 stands with its generation home as given, with the stamps of physical grains. -/
def genState (g : GenHome) (stamps : SMap Word) : State :=
  let s := (memState { runningCore with stamp := if g.history = [] then 1 else 2 }).setTenant 1 { (memState runningCore).tenant 1 with gen := g }
  { s with hbm := { s.hbm with stamps := stamps, waits := [⟨11, 1, 1, 0⟩] } }

/-- Generation 1 frozen; opened as a cut, in a phase. -/
def frozenGen (opened : Bool) (hist : List GenRec) : GenHome := { GenHome.initial with current := if opened then 2 else 1, frozen := some 1, opened := opened, history := hist }

theorem witness_StrataEvents :
    (∃ s f, DeviceRuns s ∧ (s.tenant 1).gen.frozen = some f ∧ (s.tenant 1).gen.opened = false ∧ 0 ∈ s.genChips 1 ∧ 0 ∉ (s.tenant 1).gen.acks) ∧
    (∃ s, ∃ v : Word, CoreRuns s 383 ∧ (s.coreAt 383).team.isSome = true ∧ (s.tenant (s.tenantOf 383)).gen.opened = true ∧
      v.toNat = (s.tenant (s.tenantOf 383)).gen.current.toNat) ∧
    (∃ s f, DeviceRuns s ∧ (s.tenant 1).gen.frozen = some f ∧ (s.tenant 1).gen.opened = true ∧ 0 ∈ s.genChips 1 ∧ 0 ∉ (s.tenant 1).gen.cuts ∧ 0 = s.dev.chip ∧
      s.cutDone 1 f = true) ∧
    (∃ s u f, DeviceRuns s ∧ MemoryCanonical s ∧ s.draining 1 = some f ∧ ((undrainedGrains s 1).find? fun u => u.obj == 1 && u.grain == 31) = some u ∧
      (∀ v ∈ undrainedGrains s 1, State.grainStack v.phys = State.grainStack u.phys → State.drainsBefore v u = false) ∧
      SMap.wf 0 s.hbm.lower = true ∧ ∀ a, s.hbm.lowerNext ≤ a → SMap.get 0 s.hbm.lower a = 0) ∧
    (∃ s f, DeviceRuns s ∧ s.draining 1 = some f ∧ undrainedGrains s 1 = []) ∧
    (∃ s f, DeviceRuns s ∧ (s.tenant 1).gen.opened = true ∧ (s.tenant 1).gen.frozen = some f) ∧
    (∃ s w f, DeviceRuns s ∧ (s.hbm.waits.find? fun w => w.stack == 11 && ((s.tenant w.tenant).gen.frozen).isSome) = some w ∧
      (s.tenant w.tenant).gen.frozen = some f) := by
  refine ⟨?_, ?_, ?_, ?_, ?_, ?_, ?_⟩
  · exact ⟨genState (frozenGen false []) [], 1, rfl, rfl, rfl, by decide +kernel, by decide +kernel⟩
  · exact ⟨genState (frozenGen true []) [], 2, by decide +kernel, rfl, by decide +kernel, by decide +kernel⟩
  · exact ⟨genState (frozenGen true [⟨1, .cutting, 0⟩]) [], 1, rfl, rfl, rfl, by decide +kernel, by decide +kernel, rfl, by decide +kernel⟩
  · exact ⟨genState (frozenGen true [⟨1, .draining, 0⟩]) [(2079, 1)], ⟨false, 1, 31, 2079⟩, 1, rfl, by decide +kernel, by decide +kernel, by decide +kernel, by decide +kernel, by decide +kernel, fun _ _ => rfl⟩
  · exact ⟨genState (frozenGen true [⟨1, .draining, 0⟩]) [], 1, rfl, by decide +kernel, by decide +kernel⟩
  · exact ⟨genState (frozenGen true [⟨1, .draining, 0⟩]) [], 1, rfl, rfl, rfl⟩
  · exact ⟨genState (frozenGen false []) [], ⟨11, 1, 1, 0⟩, 1, rfl, by decide +kernel, rfl⟩

/-! ### Engines -/

/-- Task 3 at the head of its queue, with the core's engines as given. -/
def engState (ws : List Word) (st : EState) (q : Nat) (f : Engines → Engines) : State :=
  let c := taskCore (anEntry 3 ws st) (some q)
  memState { c with eng := f c.eng }

/-- A record of the matrix, stream or transpose engine over boxes 0, 1 and 2. -/
def engWs (kind engine : Nat) (boxes : List Word) (w7 w8 : Word) : List Word := buildRecord ⟨kind, engine, 0, false, false⟩ boxes w7 w8 0 0

/-- All entries of tile 3 in an access. -/
def wholeTile (access : Nat) : Word := BitVec.ofNat 64 (2 ^ 63 + 2 ^ 61 + access * 2 ^ 59 + 3 * 2 ^ 34 + 128 * 2 ^ 19 + 128 * 2 ^ 4)

theorem taskStarts_of {s : State} {seq : BitVec 32} {kind : Nat} {e : Entry} (h : CoreRuns s 383) (h1 : s.mayStart 383 seq kind = some e) (h2 : e.post.gwEn = false)
    (h3 : e.prog.redo = 0) (h4 : e.wtr = []) : TaskStarts s 383 seq kind e := ⟨h, h1, h2, h3, h4⟩

theorem matrixStarts_of {s : State} {seq : BitVec 32} {kind : Nat} {e : Entry} (h : CoreRuns s 383) (h1 : s.mayStart 383 seq kind = some e) (h2 : e.post.gwEn = false)
    (h3 : e.prog.redo = 0) (h4 : e.wtr = []) (h5 : e.post.tileStart = false) (h6 : consumesBad e none (s.coreAt 383) = false) : MatrixStarts s 383 seq kind e :=
  ⟨⟨h, h1, h2, h3, h4⟩, h5, h6⟩

theorem witness_EngineTasks_matrix :
    (∃ s e, MatrixStarts s 383 3 0x01 e ∧ (s.coreAt 383).eng.shadow.borrowed = false ∧ e.post.ext 0 = 128) ∧
    (∃ s e, MatrixStarts s 383 3 0x01 e ∧ (s.coreAt 383).eng.shadow.borrowed = true ∧ e.inSection = false ∧ e.origin = none) ∧
    (∃ s e, MatrixStarts s 383 3 0x02 e ∧ loadsPending (s.coreAt 383) = false) ∧
    (∃ s e, MatrixStarts s 383 3 0x03 e ∧ (Machine.tileBox e.post 0).tile = 3) ∧
    (∃ s e, CoreRuns s 383 ∧ s.mayStart 383 3 0x03 = some e ∧ e.prog.redo = 0 ∧ e.wtr = [] ∧ e.post.tileStart = false ∧
      consumesBad e none (s.coreAt 383) = false ∧ e.post.gwEn = true ∧ e.prog.guard = none ∧ s.tagFree 383 = true ∧ Readable s (s.tenantOf 383) (Cap.obj (e.post.cap 6)) e.post.gwOff 4 ∧
      natOfBytes (readBytes s (Cap.obj (e.post.cap 6)) e.post.gwOff 4) = 0) ∧
    (∃ s e grp kn b, MatrixStarts s 383 3 0x04 e ∧ grp = (groupOf e.post.tb).getD 1 ∧ kn = ceilDiv (e.post.ext 0) grp * grp ∧ b = Machine.tileBox e.post 1 ∧
      (s.coreAt 383).eng.active.ty = some e.post.tb ∧ (s.coreAt 383).eng.active.mx = e.post.mx ∧ e.post.ext 0 ≤ (s.coreAt 383).eng.active.np * grp ∧
      b.colCnt ≤ (s.coreAt 383).eng.active.nc ∧ (s.coreAt 383).intMode b.tile = (e.post.ta == .i8 || e.post.ta == .n8) ∧ b.colLo + b.colCnt = 128 ∧
      SMap.wf 0 (s.coreAt 383).eng.acc = true) ∧
    (∃ s e b, MatrixStarts s 383 3 0x05 e ∧ e.post.epiEn = false ∧ e.post.rnd = .rne ∧ e.post.box 1 = some b ∧ b.bndEn = false ∧
      colBit e.post 1 + e.post.td.width * e.post.ext 0 = 4096 ∧ RowsApart (fun m => e.wrow (walkRow e.post 1 m)) (e.post.ext 1)) ∧
    (∃ s e ws, MatrixStarts s 383 3 0x06 e ∧ Epi.validAll ws = true ∧
      ws = (List.range (e.post.ext 0)).map fun i => field ((s.coreAt 383).prow (e.rrow (walkRow e.post 0 0))) (colBit e.post 0 + 32 * i) 32) ∧
    (∃ s e, MatrixStarts s 383 3 0x06 e ∧ e.inSection = false ∧ e.origin = none ∧ Epi.validAll ((List.range (e.post.ext 0)).map fun i =>
      field ((s.coreAt 383).prow (e.rrow (walkRow e.post 0 0))) (colBit e.post 0 + 32 * i) 32) = false) ∧
    (∃ s e, TaskStarts s 383 3 0x3C e ∧ e.post.engine = 0 ∧ e.post.tileStart = true ∧ e.post.box 0 = none ∧ consumesBad e none (s.coreAt 383) = false ∧
      (s.coreAt 383).eng.segment.started.any (·.seq == 3) = false) := by
  refine ⟨?_, ?_, ?_, ?_, ?_, ?_, ?_, ?_, ?_, ?_⟩
  · exact ⟨engState (engWs 1 0 [rowsBox 1 0 1, 0] 0xB0 0x10080) .queued 0 id, anEntry 3 (engWs 1 0 [rowsBox 1 0 1, 0] 0xB0 0x10080) .queued, matrixStarts_of (by decide +kernel) (by decide +kernel) (by decide +kernel) rfl rfl (by decide +kernel) (by decide +kernel),
      by decide +kernel, by decide +kernel⟩
  · exact ⟨engState (engWs 1 0 [rowsBox 1 0 1, 0] 0xB0 0x10080) .queued 0 (fun g => { g with plane1 := { g.plane1 with borrowed := true } }), anEntry 3 (engWs 1 0 [rowsBox 1 0 1, 0] 0xB0 0x10080) .queued,
      matrixStarts_of (by decide +kernel) (by decide +kernel) (by decide +kernel) rfl rfl (by decide +kernel) (by decide +kernel), by decide +kernel, by decide +kernel, rfl⟩
  · exact ⟨engState (engWs 2 0 [] 0 0) .queued 0 id, anEntry 3 (engWs 2 0 [] 0 0) .queued, matrixStarts_of (by decide +kernel) (by decide +kernel) (by decide +kernel) rfl rfl (by decide +kernel) (by decide +kernel), by decide +kernel⟩
  · exact ⟨engState (engWs 3 0 [wholeTile 2] 0xF00 0) .queued 0 id, anEntry 3 (engWs 3 0 [wholeTile 2] 0xF00 0) .queued,
      matrixStarts_of (by decide +kernel) (by decide +kernel) (by decide +kernel) rfl rfl (by decide +kernel) (by decide +kernel), by decide +kernel⟩
  · exact ⟨engState ((engWs 3 0 [wholeTile 2] 0xF00 0).set 11 (BitVec.ofNat 64 (2 ^ 63 + 2097148))) .queued 0 id, anEntry 3 ((engWs 3 0 [wholeTile 2] 0xF00 0).set 11 (BitVec.ofNat 64 (2 ^ 63 + 2097148))) .queued,
      by decide +kernel, by decide +kernel, rfl, rfl, by decide +kernel, by decide +kernel, by decide +kernel, rfl, by decide +kernel, ⟨⟨_, rfl, rfl⟩, by decide +kernel, by decide +kernel, by decide +kernel⟩, by decide +kernel⟩
  · exact ⟨engState (engWs 4 0 [rowsBox 1 0 1, wholeTile 3, 0] 0xBB 0x10080) .queued 0 (fun g => { g with plane0 := ⟨some (Ty.ofCode 0xB), false, 128, 128, [], [], true, false⟩ }),
      anEntry 3 (engWs 4 0 [rowsBox 1 0 1, wholeTile 3, 0] 0xBB 0x10080) .queued, _, _, _, matrixStarts_of (by decide +kernel) (by decide +kernel) (by decide +kernel) rfl rfl (by decide +kernel) (by decide +kernel),
      rfl, rfl, rfl, by decide +kernel, by decide +kernel, by decide +kernel, by decide +kernel, by decide +kernel, by decide +kernel, by decide +kernel⟩
  · exact ⟨engState (engWs 5 0 [wholeTile 1, rowsBox 2 0 1, 0] 0xD00 0x10080) .queued 0 id, anEntry 3 (engWs 5 0 [wholeTile 1, rowsBox 2 0 1, 0] 0xD00 0x10080) .queued, _,
      matrixStarts_of (by decide +kernel) (by decide +kernel) (by decide +kernel) rfl rfl (by decide +kernel) (by decide +kernel), by decide +kernel, by decide +kernel, rfl, by decide +kernel, by decide +kernel,
      fun a b ha hb _ => by have h : (anEntry 3 (engWs 5 0 [wholeTile 1, rowsBox 2 0 1, 0] 0xD00 0x10080) .queued).post.ext 1 = 1 := by decide +kernel
                            omega⟩
  · exact ⟨engState (engWs 6 0 [rowsBox 1 0 1] 0xF000000 1) .queued 0 id, anEntry 3 (engWs 6 0 [rowsBox 1 0 1] 0xF000000 1) .queued, _,
      matrixStarts_of (by decide +kernel) (by decide +kernel) (by decide +kernel) rfl rfl (by decide +kernel) (by decide +kernel), by decide +kernel, rfl⟩
  · exact ⟨engState (engWs 6 0 [rowsBox 1 0 1] 0xF000000 1) .queued 0 (fun g => { g with rows := [(0, 0xFFFFFFFF)] }), anEntry 3 (engWs 6 0 [rowsBox 1 0 1] 0xF000000 1) .queued,
      matrixStarts_of (by decide +kernel) (by decide +kernel) (by decide +kernel) rfl rfl (by decide +kernel) (by decide +kernel), by decide +kernel, rfl, by decide +kernel⟩
  · exact ⟨engState (buildRecord ⟨0x3C, 0, 0, true, false⟩ [] 0 0 0 0) .queued 0 id, anEntry 3 (buildRecord ⟨0x3C, 0, 0, true, false⟩ [] 0 0 0 0) .queued,
      taskStarts_of (by decide +kernel) (by decide +kernel) (by decide +kernel) rfl rfl, by decide +kernel, by decide +kernel, by decide +kernel, by decide +kernel, by decide +kernel⟩

/-- A swap that runs at the head of the matrix queue. -/
def rollState (ts : Bool) (f : Engines → Engines) : State := engState (buildRecord ⟨2, 0, 0, ts, false⟩ [] 0 0 0 0) .executing 0 f

theorem witness_EngineTasks_rest :
    (∃ s e b, TaskStarts s 383 3 0x10 e ∧ e.readsBad none (s.coreAt 383) = false ∧ e.post.epiEn = false ∧ e.post.rnd = .rne ∧ e.post.box 2 = some b ∧
      b.bndEn = false ∧ colBit e.post 2 + e.post.td.width * e.post.ext 0 = 4096 ∧ RowsApart (fun m => e.wrow (walkRow e.post 2 m)) (e.post.ext 1) ∧
      ∀ i j, i < e.post.ext 1 → j < e.post.ext 1 → e.rrow (walkRow e.post 0 i) = e.wrow (walkRow e.post 2 j) → i = j) ∧
    (∃ s e b, TaskStarts s 383 3 0x11 e ∧ e.readsBad none (s.coreAt 383) = false ∧ e.post.subop / 8 = 0 ∧ e.post.box 1 = some b ∧ b.space = .sp ∧
      1 ≤ b.colCnt ∧ b.colLo + b.colCnt = 32) ∧
    (∃ s e, TaskStarts s 383 3 0x18 e ∧ e.readsBad none (s.coreAt 383) = false ∧ colBit e.post 1 + e.post.ta.width * e.post.ext 1 = 4096 ∧
      RowsApart (fun j => e.wrow (walkRow e.post 1 j)) (e.post.ext 0)) ∧
    (∃ s e, CoreRuns s 383 ∧ (s.coreAt 383).entry 3 = some e ∧ e.post.kind = 0x30 ∧ entryReady (s.coreAt 383) e true = true) ∧
    (∃ s e, CoreRuns s 383 ∧ (s.coreAt 383).entry 3 = some e ∧ e.post.kind = 0x31 ∧ entryReady (s.coreAt 383) e true = true) ∧
    (∃ s e q, CoreRuns s 383 ∧ (SMap.get [] (s.coreAt 383).eng.queues 0).head? = some q ∧ (s.coreAt 383).entry q = some e ∧ e.state = .executing ∧
      e.fault = none ∧ e.prog.guard ≠ some 0 ∧ .engine .matrix ∉ (s.coreAt 383).frozen ∧ discardedTiles e = [] ∧ e.post.kind ≠ 0x05 ∧ e.prog.fin = false ∧
      replayable (s.coreAt 383) [] = true ∧ (s.coreAt 383).eng.segment.replays = 0 ∧ (s.coreAt 383).eng.segment.started = [] ∧
      consumesBad e e.prog.clamp { s.coreAt 383 with eng := { (s.coreAt 383).eng with selector := (s.coreAt 383).eng.segment.selector } } = false) ∧
    (∃ s e q, CoreRuns s 383 ∧ (SMap.get [] (s.coreAt 383).eng.queues 0).head? = some q ∧ (s.coreAt 383).entry q = some e ∧ e.state = .executing ∧
      e.fault = none ∧ e.prog.guard ≠ some 0 ∧ .engine .matrix ∉ (s.coreAt 383).frozen ∧ (s.coreAt 383).eng.segment.retained = false ∧ e.inSection = false ∧ e.origin = none) ∧
    (∃ s e, CoreRuns s 383 ∧ (s.coreAt 383).entry 3 = some e ∧ e.state = .executing ∧ e.fault = none ∧ (e.post.engine = 1 ∨ e.post.engine = 2) ∧
      e.post.isSubscr = false ∧ e.prog.guard ≠ some 0 ∧ e.prog.redo = 0 ∧ e.disjoint = true) ∧
    (∃ s : State, ∃ e, (s.coreAt 383).entry 3 = some e ∧ e.prog.guard = some 0) ∧
    (∃ s e, CoreRuns s 383 ∧ (s.coreAt 383).entry 3 = some e ∧ e.state = .executing ∧ e.fault = none ∧ (e.post.engine = 1 ∨ e.post.engine = 2) ∧
      e.post.isSubscr = false ∧ e.prog.guard ≠ some 0 ∧ (e.prog.redo ≠ 0 ∨ e.disjoint = false) ∧ e.inSection = false ∧ e.origin = none) := by
  have apart (e : Entry) (q i : Nat) (h : e.post.ext i = 1) : RowsApart (fun m => e.wrow (walkRow e.post q m)) (e.post.ext i) := fun a b ha hb _ => by omega
  refine ⟨?_, ?_, ?_, ?_, ?_, ?_, ?_, ?_, ⟨memState (taskCore { anEntry 3 copyWs .executing with prog := { Progress.fresh with guard := some 0 } } (some 3)), _, rfl, rfl⟩, ?_⟩
  · exact ⟨engState (engWs 0x10 1 [rowsBox 1 0 1, 0, rowsBox 2 1 1] 0xD0D 0x10080) .queued 1 id, anEntry 3 (engWs 0x10 1 [rowsBox 1 0 1, 0, rowsBox 2 1 1] 0xD0D 0x10080) .queued, _,
      taskStarts_of (by decide +kernel) (by decide +kernel) (by decide +kernel) rfl rfl, by decide +kernel, by decide +kernel, by decide +kernel, rfl, by decide +kernel, by decide +kernel,
      apart _ _ _ (by decide +kernel), fun i j hi hj _ => by
        have h : (anEntry 3 (engWs 0x10 1 [rowsBox 1 0 1, 0, rowsBox 2 1 1] 0xD0D 0x10080) .queued).post.ext 1 = 1 := by decide +kernel
        omega⟩
  · exact ⟨engState (engWs 0x11 1 [rowsBox 1 0 1, rowsBox 2 1 1] 0xD0D 0x10080) .queued 1 id, anEntry 3 (engWs 0x11 1 [rowsBox 1 0 1, rowsBox 2 1 1] 0xD0D 0x10080) .queued, _,
      taskStarts_of (by decide +kernel) (by decide +kernel) (by decide +kernel) rfl rfl, by decide +kernel, by decide +kernel, rfl, by decide +kernel, by decide +kernel, by decide +kernel⟩
  · exact ⟨engState (engWs 0x18 2 [rowsBox 1 0 128, rowsBox 2 128 1] 0xD 0x800001) .queued 2 id, anEntry 3 (engWs 0x18 2 [rowsBox 1 0 128, rowsBox 2 128 1] 0xD 0x800001) .queued,
      taskStarts_of (by decide +kernel) (by decide +kernel) (by decide +kernel) rfl rfl, by decide +kernel, by decide +kernel, apart _ _ _ (by decide +kernel)⟩
  · exact ⟨engState (engWs 0x30 5 [rowsBox 1 4 1] 0 0) .waiting 8 id, _, by decide +kernel, rfl, by decide +kernel, by decide +kernel⟩
  · exact ⟨engState (engWs 0x31 5 [rowsBox 2 4 1] 0 0) .waiting 8 id, _, by decide +kernel, rfl, by decide +kernel, by decide +kernel⟩
  · exact ⟨rollState false (fun g => { g with segment := { Segment.initial with retained := true } }), _, 3, by decide +kernel, rfl, rfl, rfl, rfl, by decide +kernel, by decide +kernel, by decide +kernel, by decide +kernel, rfl,
      by decide +kernel, rfl, rfl, by decide +kernel⟩
  · exact ⟨rollState false id, _, 3, by decide +kernel, rfl, rfl, rfl, rfl, by decide +kernel, by decide +kernel, rfl, by decide +kernel, rfl⟩
  · exact ⟨engState (engWs 0x18 2 [rowsBox 1 0 1, rowsBox 2 1 1] 0xD 0x10001) .executing 2 id, _, by decide +kernel, rfl, rfl, rfl, by decide +kernel, by decide +kernel, by decide +kernel, rfl, by decide +kernel⟩
  · exact ⟨engState (engWs 0x18 2 [rowsBox 1 1 1, rowsBox 2 1 1] 0xD 0x10001) .executing 2 id, _, by decide +kernel, rfl, rfl, rfl, by decide +kernel, by decide +kernel, by decide +kernel, .inr (by decide +kernel), by decide +kernel, rfl⟩

/-! ### Copies and rings -/

/-- `engState` with device memory as given. -/
def engMem (e : Entry) (q : Nat) (f : Engines → Engines) (m : SMap Byte) : State :=
  let c := taskCore e (some q)
  let s := memState { c with eng := f c.eng }
  { s with hbm := { s.hbm with mem := m } }

/-- Bytes of object 1, from its last 64 or 128 on. -/
def tailMem (bs : List (Nat × Byte)) : SMap Byte := bs.map fun b => (at1 (2097024 + b.1), b.2)

/-- A layout of one element of four bytes through an index table, in the last 64 bytes. -/
def layoutMem : SMap Byte := tailMem [(64, 0x11), (86, 1)]

/-- A nest of one transfer of 512 bytes, from an offset to an offset. -/
def nestBytes (src dst : Nat) : Bytes := toBytes (0x20001 : Word) 8 ++ toBytes (BitVec.ofNat 64 src) 8 ++ toBytes (BitVec.ofNat 64 dst) 8 ++ toBytes (0 : Word) 8 ++
  toBytes (BitVec.ofNat 64 (2 ^ 48)) 8 ++ List.replicate 88 0

/-- A reference to a record in the last bytes: a layout, or a nest. -/
def tailRef (layout : Bool) : Word := BitVec.ofNat 64 (2 ^ 63 + if layout then 2 ^ 60 + 2097088 else 2097024)

/-- A task that has begun. -/
def begunEntry (ws : List Word) (at' lim : Nat) : Entry := { anEntry 3 ws .executing with prog := { Progress.fresh with begun := true, at' := at', lim := lim, recs := [[], []] } }

/-- A request of channel 0 for 64 bytes. -/
def aRequest (src dst : Nat) : CopyReq := ⟨4031, 0, 0, 64, src, dst, none, none, false⟩

/-- A copy from granule 510 to granule 511 of object 1, and one to row 0. -/
def memCopyWs : List Word := copyWs.set 1 (objBox 1 510 1)
def padCopyWs : List Word := (copyWs.set 1 (objBox 1 511 1)).set 2 (rowsBox 2 0 1)

/-- A subscription of ring 15, filled from or drained to granule 511 of object 1, and its ring. -/
def subscrWs (boxed : Bool) : List Word :=
  buildRecord ⟨0x23, 3, 0, false, false⟩ [if boxed then objBox 1 511 1 else 0, rowsBox 2 4 2] 0x100000000 0x2F (if boxed then tailRef false else 0) 0
def tideRing (mode : Nat) (nest : Bytes) : Ring := ⟨mode, 2, 1, 1, 0, 1, rowsBox 2 4 2, 3, 0, true, nest⟩

/-- A package with ring 15. -/
def ringState (boxed : Bool) (st : EState) (r : Ring) : State :=
  engMem (anEntry 3 (subscrWs boxed) st) 3 (fun g => { g with rings := [(15, some r)] }) (tailMem [(0, 0x01), (2, 0x02), (9, 0xF0), (10, 0x1F), (38, 1)])

/-- A gather and a scatter. -/
def gatherWs : List Word := buildRecord ⟨0x21, 3, 0, false, false⟩ [objBox 1 0 1, rowsBox 1 0 1, rowsBox 2 1 1] 0 0 (tailRef true) 0
def scatterWs : List Word := buildRecord ⟨0x22, 3, 0, false, false⟩ [rowsBox 1 1 1, rowsBox 1 0 1, objBox 2 0 1] 0 0 0 (tailRef true)

theorem witness_CopiesAndRings_starts :
    (∃ s e, TaskStarts s 383 3 0x20 e ∧ e.post.hasRef 9 = false ∧ e.post.hasRef 10 = false) ∧
    (∃ s e w r, TaskStarts s 383 3 0x21 e ∧ s.tagFree 383 = true ∧ e.post.hasRef 9 = true ∧ e.post.refLayout 9 = true ∧ e.post.hasRef 10 = false ∧
      Readable s (s.tenantOf 383) (Cap.obj (e.post.cap 7)) (e.post.refOff 9) 64 ∧ r = readBytes s (Cap.obj (e.post.cap 7)) (e.post.refOff 9) 64 ∧
      copyWalk e.post [r, []] none = .ok w ∧ e.prog.fin = false) ∧
    (∃ s e w r, TaskStarts s 383 3 0x22 e ∧ s.tagFree 383 = true ∧ e.post.hasRef 9 = false ∧ e.post.refLayout 10 = true ∧ e.post.hasRef 10 = true ∧
      Readable s (s.tenantOf 383) (Cap.obj (e.post.cap 8)) (e.post.refOff 10) 64 ∧ r = readBytes s (Cap.obj (e.post.cap 8)) (e.post.refOff 10) 64 ∧
      copyWalk e.post [[], r] none = .ok w ∧ e.prog.fin = false) ∧
    (∃ s e k r, CoreRuns s 383 ∧ s.mayStart 383 3 0x23 = some e ∧ e.post.gwEn = false ∧ k = nfield (e.post.word 8) 0 4 ∧ (s.coreAt 383).ring k = some r ∧
      r.mode = 2 ∧ e.post.box 0 = none) ∧
    (∃ s e k r bs x, CoreRuns s 383 ∧ s.mayStart 383 3 0x23 = some e ∧ e.post.gwEn = false ∧ k = nfield (e.post.word 8) 0 4 ∧ (s.coreAt 383).ring k = some r ∧
      s.tagFree 383 = true ∧ r.mode ≠ 2 ∧ (∃ b, e.post.box 0 = some b) ∧ (s.obj (Cap.obj (e.post.cap 0))).map Obj.route = some .local ∧ e.post.hasRef 9 = true ∧
      e.post.refLayout 9 = false ∧ Readable s (s.tenantOf 383) (Cap.obj (e.post.cap 7)) (e.post.refOff 9) 128 ∧
      bs = readBytes s (Cap.obj (e.post.cap 7)) (e.post.refOff 9) 128 ∧ Nest.parse bs = some x ∧ State.nestFits r (x.clamp none) = true) := by
  refine ⟨?_, ?_, ?_, ?_, ?_⟩
  · exact ⟨engState copyWs .queued 3 id, anEntry 3 copyWs .queued, taskStarts_of (by decide +kernel) (by decide +kernel) (by decide +kernel) rfl rfl, by decide +kernel, by decide +kernel⟩
  · obtain ⟨w, hw⟩ := ok_of (x := copyWalk (anEntry 3 gatherWs .queued).post
      [readBytes (engMem (anEntry 3 gatherWs .queued) 3 id layoutMem) 1 2097088 64, []] none) (by decide +kernel)
    exact ⟨engMem (anEntry 3 gatherWs .queued) 3 id layoutMem,
      anEntry 3 gatherWs .queued, w, _,
      taskStarts_of (by decide +kernel) (by decide +kernel) (by decide +kernel) rfl rfl, by decide +kernel, by decide +kernel, by decide +kernel, by decide +kernel,
      ⟨⟨_, rfl, rfl⟩, by decide +kernel, by decide +kernel, by decide +kernel⟩, rfl, hw, rfl⟩
  · obtain ⟨w, hw⟩ := ok_of (x := copyWalk (anEntry 3 scatterWs .queued).post
      [[], readBytes (engMem (anEntry 3 scatterWs .queued) 3 id layoutMem) 1 2097088 64] none) (by decide +kernel)
    exact ⟨engMem (anEntry 3 scatterWs .queued) 3 id layoutMem,
      anEntry 3 scatterWs .queued, w, _,
      taskStarts_of (by decide +kernel) (by decide +kernel) (by decide +kernel) rfl rfl, by decide +kernel, by decide +kernel, by decide +kernel, by decide +kernel,
      ⟨⟨_, rfl, rfl⟩, by decide +kernel, by decide +kernel, by decide +kernel⟩, rfl, hw, rfl⟩
  · exact ⟨ringState false .queued (tideRing 2 []), anEntry 3 (subscrWs false) .queued, 15, _, by decide +kernel, by decide +kernel, by decide +kernel, by decide +kernel, rfl, rfl, by decide +kernel⟩
  · exact ⟨ringState true .queued (tideRing 0 []), anEntry 3 (subscrWs true) .queued, 15, _, _, _, by decide +kernel, by decide +kernel, by decide +kernel, by decide +kernel, rfl, by decide +kernel, by decide, ⟨_, rfl⟩,
      by decide +kernel, by decide +kernel, by decide +kernel, ⟨⟨_, rfl, rfl⟩, by decide +kernel, by decide +kernel, by decide +kernel⟩, rfl, by rfl, by decide +kernel⟩

/-- A channel with a task that has begun, and the requests given. -/
def chanState (ws : List Word) (at' lim : Nat) (rs : List CopyReq) : State := engMem (begunEntry ws at' lim) 3 (fun g => { g with copyReqs := rs }) []

/-- A task whose chunk has been translated: one run from byte 0 to granule 511. -/
def planEntry (ws : List Word) : Entry :=
  let e := begunEntry ws 0 512
  { e with prog := { e.prog with plan := [⟨0, 0, 2093056, 512⟩] } }
def planState (ws : List Word) : State := engMem (planEntry ws) 3 id []

/-- The walk of a plain copy. -/
def denseWalk (n : Nat) : CopyWalk := ⟨.dense, .dense, n⟩

theorem injective_id {f : Nat → Nat} (h : ∀ n, f n = n) : Injective f := fun a b hab => by rw [h, h] at hab; exact hab

theorem witness_CopiesAndRings_runs :
    (∃ s e w a d len idx m, CoreRuns s 383 ∧ s.channelTask 383 0 = some (e, w) ∧ e.prog.lim ≤ e.prog.at' ∧ e.prog.at' < w.total ∧
      State.chanReqs (s.coreAt 383) 0 = [] ∧ (s.coreAt 383).stopping = false ∧ s.copyStep 383 e w e.prog.idx e.prog.at' = .move a d len idx s ∧ 0 < len ∧
      s.onlyPad e = false ∧ m = min len (min (extentBytes - a % extentBytes) (extentBytes - d % extentBytes)) ∧
      s.sideCheck 383 e (copySlots e.post).1 a m = .proceed ∧ s.sideCheck 383 e (copySlots e.post).2 d m = .proceed) ∧
    (∃ s e w a d len idx m x, CoreRuns s 383 ∧ s.channelTask 383 0 = some (e, w) ∧ e.prog.lim ≤ e.prog.at' ∧ State.chanReqs (s.coreAt 383) 0 = [] ∧
      (s.coreAt 383).stopping = false ∧ s.copyStep 383 e w e.prog.idx e.prog.at' = .move a d len idx s ∧ s.onlyPad e = false ∧
      m = min len (min (extentBytes - a % extentBytes) (extentBytes - d % extentBytes)) ∧
      s.sideCheck 383 e (copySlots e.post).1 a m = .proceed ∧ s.sideCheck 383 e (copySlots e.post).2 d m = .pageFault x) ∧
    (∃ s e w, CoreRuns s 383 ∧ s.channelTask 383 0 = some (e, w) ∧ e.prog.lim ≤ e.prog.at' ∧ State.chanReqs (s.coreAt 383) 0 = [] ∧
      (s.coreAt 383).stopping = false ∧ e.prog.at' < w.total ∧ e.readsBad none (s.coreAt 383) = false ∧ s.copyStep 383 e w e.prog.idx e.prog.at' = .overrun ∧ e.inSection = false ∧ e.origin = none) ∧
    (∃ s e w k q i b, CoreRuns s 383 ∧ s.requestReady 383 0 = some (e, w, k) ∧ s.tagFree 383 = true ∧ (∀ x < 4, x ≠ 0 → s.requestReady 383 x = none) ∧
      (e.prog.plan.find? fun r => decide (r.walk ≤ k) && decide (k < r.walk + r.len)) = some q ∧ i = k - q.walk ∧ e.post.box (copySlots e.post).1 = some b ∧
      s.sideOf b (e.post.cap (copySlots e.post).1) = .sp) ∧
    (∃ s e w k q i b o, CoreRuns s 383 ∧ s.requestReady 383 0 = some (e, w, k) ∧ s.tagFree 383 = true ∧ (∀ x < 4, x ≠ 0 → s.requestReady 383 x = none) ∧
      (e.prog.plan.find? fun r => decide (r.walk ≤ k) && decide (k < r.walk + r.len)) = some q ∧ i = k - q.walk ∧ e.post.box (copySlots e.post).1 = some b ∧
      s.sideOf b (e.post.cap (copySlots e.post).1) = .mem o) ∧
    (∃ s e w r bx by' o o', OldestRequest s 383 0 e w r ∧ e.post.box (copySlots e.post).1 = some bx ∧ e.post.box (copySlots e.post).2 = some by' ∧
      s.sideOf bx (e.post.cap (copySlots e.post).1) = .mem o ∧ s.sideOf by' (e.post.cap (copySlots e.post).2) = .mem o' ∧
      Readable s (s.tenantOf 383) o r.src r.len ∧ Writable s (s.tenantOf 383) o' r.dst r.len) ∧
    (∃ s e w r bx by' o, OldestRequest s 383 0 e w r ∧ e.post.box (copySlots e.post).1 = some bx ∧ e.post.box (copySlots e.post).2 = some by' ∧
      s.sideOf bx (e.post.cap (copySlots e.post).1) = .mem o ∧ s.sideOf by' (e.post.cap (copySlots e.post).2) = .sp ∧
      Readable s (s.tenantOf 383) o r.src r.len ∧ r.dst % 512 + r.len = 512) ∧
    (∃ s r e off lo hi pad, RingItem s 383 15 true r e off lo hi pad ∧ Readable s (s.tenantOf 383) (Cap.obj (e.post.cap 0)) off (hi - lo) ∧ Injective (s.coreAt 383).phys) ∧
    (∃ s r e off lo hi pad, RingItem s 383 15 false r e off lo hi pad ∧ Writable s (s.tenantOf 383) (Cap.obj (e.post.cap 0)) off (hi - lo)) := by
  refine ⟨?_, ?_, ?_, ?_, ?_, ?_, ?_, ?_, ?_⟩
  · exact ⟨chanState copyWs 0 0 [], begunEntry copyWs 0 0, denseWalk 512, 0, 2093056, 512, none, 512, by decide +kernel, by decide +kernel, by decide, by decide, rfl, rfl, by rfl, by decide, by decide +kernel,
      by decide, by decide +kernel, by decide +kernel⟩
  · exact ⟨(chanState copyWs 0 0 []).setObj 1 (some ⟨1, 1, 0xFFF, .local, []⟩), begunEntry copyWs 0 0, denseWalk 512, 0, 2093056, 512, none, 512, 0, by decide +kernel, by decide +kernel, by decide, rfl, rfl, by rfl,
      by decide +kernel, by decide, by decide +kernel, by decide +kernel⟩
  · exact ⟨chanState (copyWs.set 8 513) 512 512 [], begunEntry (copyWs.set 8 513) 512 512, denseWalk 513, by decide +kernel, by decide +kernel, by decide, rfl, rfl, by decide, by decide +kernel, by rfl, by decide +kernel, rfl⟩
  · exact ⟨planState copyWs, planEntry copyWs, denseWalk 512, 0, ⟨0, 0, 2093056, 512⟩, 0, _, by decide +kernel, by decide +kernel, by decide +kernel, by decide +kernel, by rfl, rfl, rfl,
      by decide +kernel⟩
  · exact ⟨planState memCopyWs, planEntry memCopyWs, denseWalk 512, 0, ⟨0, 0, 2093056, 512⟩, 0, _, 1, by decide +kernel, by decide +kernel, by decide +kernel, by decide +kernel, by rfl, rfl, rfl,
      by decide +kernel⟩
  · exact ⟨chanState memCopyWs 0 512 [aRequest 2088960 2097088], begunEntry memCopyWs 0 512, denseWalk 512, _, _, _, 1, 1,
      ⟨by decide +kernel, by decide +kernel, rfl, rfl, rfl, rfl, by decide⟩, rfl, rfl, by decide +kernel, by decide +kernel, ⟨⟨_, rfl, rfl⟩, by decide +kernel, by decide +kernel, by decide +kernel⟩,
      ⟨⟨⟨_, rfl, rfl⟩, by decide +kernel, by decide +kernel, by decide +kernel⟩, by decide +kernel, rfl, by decide +kernel, by decide +kernel, by decide, by decide⟩⟩
  · exact ⟨chanState padCopyWs 0 512 [aRequest 2097088 448], begunEntry padCopyWs 0 512, denseWalk 512, _, _, _, 1,
      ⟨by decide +kernel, by decide +kernel, rfl, rfl, rfl, rfl, by decide⟩, rfl, rfl, by decide +kernel, by decide +kernel, ⟨⟨_, rfl, rfl⟩, by decide +kernel, by decide +kernel, by decide +kernel⟩, by decide⟩
  · exact ⟨ringState true .executing (tideRing 0 (nestBytes 2093056 0)), _, anEntry 3 (subscrWs true) .executing, 2093056, 0, 512, 2048,
      ⟨by decide +kernel, rfl, by decide +kernel, rfl, rfl, by decide, rfl, by decide +kernel, rfl, by decide +kernel, rfl, by decide +kernel, _, _, 2093056, by rfl, by rfl, by decide +kernel, by decide +kernel, by decide,
        by decide +kernel, by decide +kernel, by decide +kernel, by decide +kernel, by decide +kernel, by decide +kernel⟩,
      ⟨⟨_, rfl, rfl⟩, by decide +kernel, by decide +kernel, by decide +kernel⟩, injective_id fun _ => rfl⟩
  · exact ⟨ringState true .executing (tideRing 1 (nestBytes 0 2093056)), _, anEntry 3 (subscrWs true) .executing, 2093056, 0, 512, 2048,
      ⟨by decide +kernel, rfl, by decide +kernel, rfl, rfl, by decide, rfl, by decide +kernel, rfl, by decide +kernel, rfl, by decide +kernel, _, _, 2093056, by rfl, by rfl, by decide +kernel, by decide +kernel, by decide,
        by decide +kernel, by decide +kernel, by decide +kernel, by decide +kernel, by decide +kernel, by decide +kernel⟩,
      ⟨⟨⟨_, rfl, rfl⟩, by decide +kernel, by decide +kernel, by decide +kernel⟩, by decide +kernel, rfl, by decide +kernel, by decide +kernel, by decide, by decide⟩⟩

/-! ### The fabric -/

/-- A package whose tenant 1 knows chip 5 as 5, with its fabric as given. -/
def fabState (v : Version) (c : Core) (f : Fabric → Fabric) : State := let s := groupState v c; { s with fab := f s.fab }

/-- A flow from core 383 to chip 5, and a message of it. -/
def aFlow (cls : Fin 4) : FlowId := ⟨0, 383, 5, cls, false⟩
def aMsg (cls : Fin 4) (b : MsgBody) : FlowMsg := ⟨aFlow cls, 6, 383, 1, b⟩

/-- Its sending side, with that message kept. -/
def outFlow (cls : Fin 4) (b : MsgBody) (hold : BitVec 4) (held : Bool) : FlowOut := ⟨aFlow cls, 7, [⟨aMsg cls b, 1, 5, hold, 4, false, none⟩], held, []⟩

/-- A package that keeps the message for its answer. -/
def sentState (c : Core) (cls : Fin 4) (b : MsgBody) (hold : BitVec 4) (held : Bool) : State := fabState soloVersion c fun f => { f with flowsOut := [outFlow cls b hold held] }

/-- A message of chip 5 about the last 64 bytes of object 1. -/
def farMsg (op : RemOp) : FlowMsg := ⟨⟨5, 3, 0, 1, false⟩, 0, 3, 1, .access (Cap.make 1 0x5F 0 2097152) 1 2097088 op false false⟩

/-- A read of eight bytes. -/
def farRead : MsgBody := .access wholeCap 1 0 (.read 8) false false

theorem witness_FabricEvents_flows :
    (∃ s, FirmwareRuns s ∧ (s.peer 1 5).valid = true ∧ (s.tenant 1).gen.frozen = none ∧ ∀ o ∈ s.fab.flowsOut, ∀ u ∈ o.unacked, ¬ (u.tenant = 1 ∧ u.lid = 5)) ∧
    (∃ s, FirmwareRuns s ∧ (s.peer 1 5).valid = true ∧ (s.tenant 1).gen.frozen = none ∧
      ∃ o ∈ s.fab.flowsOut, o.held = false ∧ ∃ u ∈ o.unacked, u.tenant = 1 ∧ u.lid = 5) ∧
    (∃ s m cap x off k marked task, NewMessage s m ∧ m.body = .access cap x off (.read k) marked task ∧ Cap.has cap 6 = true ∧ Readable s x (Cap.obj cap) off k) ∧
    (∃ s m cap x off bs marked task, NewMessage s m ∧ m.body = .access cap x off (.write bs) marked task ∧ Cap.has cap 6 = true ∧ Writable s x (Cap.obj cap) off bs.length) ∧
    (∃ s f seq u home p, Awaits s 383 f seq u ∧ u.msg.body = .post home p ∧ s.fab.control = []) ∧
    (∃ s f seq u, Awaits s 383 f seq u ∧ 3 ∈ [1, 2, 3#4] ∧ ∀ home y l, u.msg.body = .line home y l → s.lineGone (s.ownerAt 383 u) (BitVec.ofNat 32 u.party) (u.lid, home) = false) ∧
    (∃ s f seq u o, Awaits s 383 f seq u ∧ (u.hold = 1 ∨ u.hold = 2) ∧ s.flowOut f = some o ∧ o.held = false) ∧
    (∃ s f seq u o, Awaits s 383 f seq u ∧ u.hold = 3 ∧ s.ungrouped u = true ∧ s.flowOut f = some o ∧ o.held = false) ∧
    (∃ s f o, CoreRuns s 383 ∧ s.fwRuns = true ∧ s.fab.control = [] ∧ f.srcChip = s.dev.chip ∧ f.srcCore = 383 ∧ s.flowOut f = some o ∧ o.held = true ∧ o.unacked = []) ∧
    (∃ s f o u k a cap x off op marked, CoreRuns s 383 ∧ s.fwRuns = true ∧ s.fab.control = [] ∧ f.srcChip = s.dev.chip ∧ f.srcCore = 383 ∧ s.flowOut f = some o ∧ o.held = true ∧ o.unacked = [u] ∧
      u.msg.body = .access cap x off op marked false ∧ u.isTask = false ∧ s.ownerAt 383 u = 383 ∧ u.party = k ∧ (s.coreAt 383).accOp k = some a ∧
      a.kind ≠ .fence ∧ a.phase = .sent ∧ (s.coreAt 383).wait ≠ .sigwait k ∧ ∀ q ∈ s.fab.asks, q.msg ≠ (u.msg.flow, u.msg.seq)) ∧
    (∃ s o f, CoreRuns s 383 ∧ (s.coreAt 383).outPosts = [o] ∧ o.sent = none ∧ (s.coreAt 383).settledBefore o.after = true ∧
      f = s.flowTo 383 o.msg.tenant o.lid 0 o.ordered ∧ (s.peer o.msg.tenant o.lid).valid = true ∧ (s.peer o.msg.tenant o.lid).drain = false ∧ s.flowOut f = none) := by
  refine ⟨?_, ?_, ?_, ?_, ?_, ?_, ?_, ?_, ?_, ?_, ?_⟩
  · exact ⟨groupState soloVersion runningCore, firmware_of rfl rfl rfl, by decide +kernel, by decide +kernel, fun o h => (nomatch (show o ∈ ([] : List FlowOut) from h))⟩
  · exact ⟨sentState runningCore 1 farRead 0 false, firmware_of rfl rfl rfl, rfl, rfl, _, List.mem_singleton_self _, rfl, _, List.mem_singleton_self _, rfl, rfl⟩
  · exact ⟨groupState soloVersion runningCore, farMsg (.read 64), _, _, _, _, _, _, ⟨rfl, rfl, by decide, rfl, by decide +kernel, by decide +kernel, by decide +kernel⟩, rfl, by decide +kernel,
      ⟨⟨_, rfl, rfl⟩, by decide +kernel, by decide +kernel, by decide +kernel⟩⟩
  · exact ⟨groupState soloVersion runningCore, farMsg (.write (List.replicate 64 1)), _, _, _, _, _, _, ⟨rfl, rfl, by decide, rfl, by decide +kernel, by decide +kernel, by decide +kernel⟩, rfl, by decide +kernel,
      ⟨⟨⟨_, rfl, rfl⟩, by decide +kernel, by decide +kernel, by decide +kernel⟩, by decide +kernel, rfl, by decide +kernel, by decide +kernel, by decide +kernel, by decide +kernel⟩⟩
  · exact ⟨sentState runningCore 0 (.post 3 remoteMsg) 0 false, aFlow 0, 6, _, _, _, ⟨by decide +kernel, rfl, rfl, by decide +kernel, rfl, rfl, rfl⟩, rfl, rfl⟩
  · exact ⟨sentState runningCore 0 (.post 3 remoteMsg) 0 false, aFlow 0, 6, _, ⟨by decide +kernel, rfl, rfl, by decide +kernel, rfl, rfl, rfl⟩, by decide, fun _ _ _ h => nomatch (show MsgBody.post 3 remoteMsg = .line _ _ _ from h)⟩
  · exact ⟨sentState runningCore 1 farRead 2 false, aFlow 1, 6, _, _, ⟨by decide +kernel, rfl, rfl, by decide +kernel, rfl, rfl, rfl⟩, .inr rfl, rfl, rfl⟩
  · exact ⟨sentState runningCore 0 (.post 3 remoteMsg) 3 false, aFlow 0, 6, _, _, ⟨by decide +kernel, rfl, rfl, by decide +kernel, rfl, rfl, rfl⟩, rfl, by decide +kernel, rfl, rfl⟩
  · exact ⟨fabState soloVersion runningCore fun f => { f with flowsOut := [⟨aFlow 1, 7, [], true, [(1, 5)]⟩] }, aFlow 1, _, by decide +kernel, rfl, rfl, rfl, rfl, rfl, rfl, rfl⟩
  · exact ⟨sentState (accCore (.load .i64 31) .sent) 1 farRead 0 true, aFlow 1, _, _, 4, _, _, _, _, _, _, by decide +kernel, rfl, rfl, rfl, rfl, rfl, rfl, rfl, rfl, rfl, rfl, rfl, rfl, by decide, rfl, by decide +kernel,
      fun q h => (nomatch (show q ∈ ([] : List Ask) from h))⟩
  · exact ⟨groupState soloVersion { runningCore with outPosts := [⟨5, 3, true, remoteMsg, 0, none⟩] }, _, _, by decide +kernel, rfl, rfl, by decide +kernel, rfl, by decide +kernel, by decide +kernel, rfl⟩

/-- A version with core 383 of chip 5 as its second member. -/
def duoVersion : Version := ⟨1, 50, [(0, 0), (5, 383)], [.present, .present]⟩

/-- An open step of group 0 in a version, with its settlements. -/
def aStep (v : Version) (ys : List Settle) (ended : Bool) : CollStep := ⟨383, 3, 1, 0, 7, 0, v, 0, ys, 0, [], [], ended, false, false, none, false⟩

/-- A line of member 1: its first line of 64 bytes, or its end line. -/
def aLine (endLine : Bool) : Line := ⟨0, 1, 7, 1, 0, 448, 0, if endLine then 0x80 else 0x4000, if endLine then [1, 0, 0, 0] else List.replicate 64 9, 1⟩

/-- A package with one step open. -/
def stepState (ws : List Word) (st : EState) (x : CollStep) (cs : List ChunkLine) (m : SMap Byte) : State :=
  let s := fabState x.version (taskCore (anEntry 3 ws st) (some 7)) fun f => { f with steps := [x], chunks := cs }
  { s with hbm := { s.hbm with mem := m } }

theorem witness_FabricEvents_steps :
    (∃ s e x, CoreRuns s 383 ∧ s.fab.flowsOut = [] ∧ s.fab.chunks = [] ∧ s.openStep 383 3 = some x ∧ (s.coreAt 383).entry 3 = some e ∧ e.post.kind = 0x28 ∧
      e.state = .executing ∧ e.fault = none ∧ e.origin = none ∧ x.endsSent = true ∧ x.closes = true ∧ x.dropped = false ∧ bit (e.post.word 7) 32 = false) ∧
    (∃ s e x, CoreRuns s 383 ∧ s.fab.flowsOut = [] ∧ s.openStep 383 3 = some x ∧ (s.coreAt 383).entry 3 = some e ∧ e.post.kind = 0x28 ∧ e.state = .executing ∧ e.fault = none ∧
      (s.coreAt 383).stopping = false ∧ .engine .walker ∉ (s.coreAt 383).frozen ∧ x.version.stateOf x.own = .withdrawn ∧ x.atOnce = false ∧ x.unacked ≠ []) ∧
    (∃ s e x y b, CoreRuns s 383 ∧ s.fab.flowsOut = [] ∧ s.mayStart 383 3 0x28 = some e ∧ e.state = .queued ∧ e.post.gwEn = false ∧ e.prog.fin = false ∧
      e.post.hasRef 9 = true ∧ e.post.refLayout 9 = false ∧ Readable s (s.tenantOf 383) (Cap.obj (e.post.cap 7)) (e.post.refOff 9) 128 ∧
      Nest.parse (readBytes s (Cap.obj (e.post.cap 7)) (e.post.refOff 9) 128) = some y ∧ State.collNestOk e.post y = true ∧ y.transfers = 1 ∧ 1 ≤ y.len ∧
      y.len ≤ 248 ∧ s.openStep 383 3 = some x ∧ x.walkAt = 0 ∧ x.endsSent = false ∧ x.dropped = false ∧ x.own = 0 ∧ x.version.members.length = 1 ∧
      x.atOnce = false ∧ x.version.stateOf 0 ≠ .withdrawn ∧ s.tagFree 383 = true ∧ x.settles = [⟨0, none, [], [], false⟩] ∧ x.sent = [] ∧ x.unacked = [] ∧ e.post.box 0 = some b ∧
      s.sideOf b (e.post.cap 0) = .sp ∧ y.src + y.len ≤ b.size) ∧
    (∃ s l, LineComes s 383 l (s.collVersion (s.tenantOf 383) l.group) ∧ Line.isEnd l = false ∧ s.lineStep 383 l = none ∧ s.stepClosed 383 l = false ∧
      s.earlyStale 383 l = false ∧ s.fab.chunks = [] ∧ 2 ≤ nfield (s.coreAt 383).board.cwcfg (8 * l.chan.val) 7) ∧
    (∃ s l x, LineComes s 383 l (some x.version) ∧ Line.isEnd l = true ∧ s.lineStep 383 l = some x ∧ State.staleLine x l = false ∧ StepStays s 383 x.seq x) ∧
    (∃ s e x y k b, CoreRuns s 383 ∧ StepStays s 383 3 x ∧ x.core = 383 ∧ x.seq = 3 ∧ (s.coreAt 383).entry 3 = some e ∧ e.fault = none ∧ s.fab.chunks = [k] ∧
      k.core = 383 ∧ k.msg = none ∧ k.line.group = x.group ∧ k.line.step = x.step ∧ k.line.version = x.version.num ∧
      x.settle k.line.sender = some y ∧ y.timedOut = false ∧ State.appliesNow x k.line = true ∧ s.lineWindowed 383 x k.line = false ∧
      e.post.box 1 = some b ∧ s.sideOf b (e.post.cap 1) = .sp ∧ nfield (e.post.word 7) 20 4 = 0 ∧ k.line.toOff + k.line.payload.length = b.size ∧
      1 ≤ b.colCnt ∧ b.colLo + b.colCnt ≤ 32 ∧ b.space = .sp ∧ Injective e.wrow) ∧
    (∃ s x, CoreRuns s 383 ∧ StepStays s 383 3 x ∧ x.version.timeout ≠ 0 ∧ x.timerRuns = true) := by
  refine ⟨?_, ?_, ?_, ?_, ?_, ?_, ?_⟩
  · exact ⟨stepState stepWs .executing (aStep soloVersion [⟨0, some 0, [], [], false⟩] true) [] [], _, aStep soloVersion [⟨0, some 0, [], [], false⟩] true, by decide +kernel, rfl, rfl, rfl, rfl, by decide +kernel,
      rfl, rfl, rfl, rfl, by decide +kernel, rfl, by decide +kernel⟩
  · let x : CollStep := { aStep { duoVersion with states := [.withdrawn, .present] } [⟨0, none, [], [], false⟩, ⟨1, none, [], [], false⟩] false with unacked := [(1, 0)] }
    exact ⟨stepState stepWs .executing x [] [], _, x, by decide +kernel, rfl, rfl, rfl, by decide +kernel, rfl, rfl, by decide +kernel, by decide +kernel, by decide, rfl, by decide⟩
  · exact ⟨stepState (stepWs.set 9 (tailRef false)) .queued (aStep soloVersion [⟨0, none, [], [], false⟩] false) [] (tailMem [(0, 0x09), (1, 0xF8), (38, 1)]), anEntry 3 (stepWs.set 9 (tailRef false)) .queued,
      aStep soloVersion [⟨0, none, [], [], false⟩] false, _, _, by decide +kernel, rfl, by decide +kernel, rfl, by decide +kernel, rfl, by decide +kernel, by decide +kernel,
      ⟨⟨_, rfl, rfl⟩, by decide +kernel, by decide +kernel, by decide +kernel⟩, by rfl, by decide +kernel, by decide +kernel, by decide +kernel, by decide +kernel, rfl, rfl, rfl, rfl, rfl, rfl, rfl, by decide +kernel,
      by decide +kernel, rfl, rfl, rfl, rfl, by decide +kernel, by decide +kernel⟩
  · exact ⟨groupState duoVersion runningCore, aLine false, ⟨by decide +kernel, rfl, rfl, fun w h => by cases h; decide +kernel⟩, by decide +kernel, by decide +kernel, by decide +kernel, by decide +kernel, rfl,
      by decide +kernel⟩
  · exact ⟨stepState stepWs .executing (aStep duoVersion [⟨0, none, [], [], false⟩, ⟨1, none, [], [], false⟩] false) [] [], aLine true,
      aStep duoVersion [⟨0, none, [], [], false⟩, ⟨1, none, [], [], false⟩] false, ⟨by decide +kernel, rfl, rfl, fun w h => by cases h; decide +kernel⟩, by decide +kernel, by decide +kernel, by decide +kernel,
      rfl, rfl, rfl⟩
  · exact ⟨stepState stepWs .executing (aStep duoVersion [⟨0, some 0, [], [], false⟩, ⟨1, none, [], [], false⟩] false) [⟨383, aLine false, none, true⟩] [], _,
      aStep duoVersion [⟨0, some 0, [], [], false⟩, ⟨1, none, [], [], false⟩] false, _, ⟨383, aLine false, none, true⟩, _, by decide +kernel, ⟨rfl, rfl, rfl⟩, rfl, rfl, rfl, rfl, rfl,
      rfl, rfl, rfl, rfl, rfl, rfl, rfl, by decide +kernel, by decide +kernel, rfl, by decide +kernel, by decide +kernel, by decide +kernel, by decide +kernel, by decide +kernel, by decide +kernel,
      injective_id fun _ => rfl⟩
  · exact ⟨stepState stepWs .executing (aStep duoVersion [⟨0, none, [], [], false⟩, ⟨1, none, [], [], false⟩] false) [] [],
      aStep duoVersion [⟨0, none, [], [], false⟩, ⟨1, none, [], [], false⟩] false, by decide +kernel, ⟨rfl, rfl, rfl⟩, by decide, by decide +kernel⟩

/-- A window of the switches over object 1, whose home is this chip. -/
def aWindow : RedWindow := ⟨BitVec.ofNat 64 (2 ^ 40 + 1), BitVec.ofNat 64 (511 * 2 ^ 36)⟩

/-- A slot of the switches for the last doubleword of object 1. -/
def aKey : SwitchKey := ⟨1, 63, 2097144, .add, .i64, none⟩

/-- A package with that window, and the slots given. -/
def switchState (ys : List SwitchSlot) : State :=
  let s := memState runningCore
  let t := s.setTenant 1 { s.tenant 1 with windows := [(63, some aWindow)] }
  { t with fab := { t.fab with switches := ys } }

theorem witness_FabricEvents_groups :
    (∃ s a w rest, DeviceRuns s ∧ s.collGroup 1 0 = some a ∧ a.waiting = w :: rest ∧ w.version.num = 2 ∧ s.mayInstall 1 0 a = true ∧ w.msg = none ∧
      a.asked = [] ∧ ∀ st ∈ w.version.states, st ≠ .withdrawn) ∧
    (∃ s w v, DeviceRuns s ∧ s.memberAt 1 0 1 = some w ∧ s.ownLid 1 w.1 = false ∧ s.collVersion 1 0 = some v ∧ s.fab.flowsOut = [] ∧
      ∀ y ∈ s.fab.steps, ¬ (y.tenant = 1 ∧ y.group = 0)) ∧
    (∃ s, ∃ k : SwitchKey, ∃ c : Contribution, ∃ w, DeviceRuns s ∧ k.coll = none ∧ s.slotWindow k = some w ∧ nfield w.w1 8 28 * 4096 ≤ k.off ∧
      k.off + State.slotBytes k = (nfield w.w1 36 28 + 1) * 4096 ∧ 512 = c.member ∧
      ∀ y, s.switchSlot k = some y → ∀ d ∈ y.got, ¬ (d.member = c.member ∧ d.line = c.line)) ∧
    (∃ s k y w, DeviceRuns s ∧ k.coll = none ∧ s.switchSlot k = some y ∧ y.window = w ∧ State.windowHome w = s.dev.chip ∧ k.op ≠ .cas2 ∧
      (∀ c ∈ y.got, 512 ≤ c.member) ∧ Writable s k.tenant (State.windowObj w) k.off (rmwWidth k.op k.t / 8)) := by
  refine ⟨?_, ?_, ?_, ?_⟩
  · exact ⟨(groupState soloVersion runningCore).setGroup 1 0 (some ⟨[soloVersion], [⟨{ duoVersion with num := 2 }, none⟩], []⟩), _, _, _, rfl, rfl, rfl, rfl, by decide +kernel, rfl, rfl, by decide +kernel⟩
  · exact ⟨groupState duoVersion runningCore, (5, 383), duoVersion, rfl, by decide +kernel, by decide +kernel, by decide +kernel, rfl, fun y h => (nomatch (show y ∈ ([] : List CollStep) from h))⟩
  · refine ⟨switchState [⟨aKey, aWindow, [⟨512, 5, 0, 0, 1⟩]⟩], aKey, ⟨512, 5, 0, 1, 1⟩, aWindow, rfl, rfl, by decide +kernel, by decide +kernel, by decide +kernel, rfl, fun y h => ?_⟩
    rw [show (switchState [⟨aKey, aWindow, [⟨512, 5, 0, 0, 1⟩]⟩]).switchSlot aKey = some ⟨aKey, aWindow, [⟨512, 5, 0, 0, 1⟩]⟩ by decide +kernel] at h
    cases h
    decide +kernel
  · exact ⟨switchState [⟨aKey, aWindow, [⟨512, 5, 0, 0, 1⟩]⟩], aKey, _, _, rfl, rfl, by rfl, rfl, by decide +kernel, by decide, by decide +kernel,
      ⟨⟨⟨_, rfl, rfl⟩, by decide +kernel, by decide +kernel, by decide +kernel⟩, by decide +kernel, rfl, by decide +kernel, by decide +kernel, by decide +kernel, by decide +kernel⟩⟩

/-! ### Completions of waits and snapshots, and what holds a record -/

theorem witness_SystemOperations_waits :
    (∃ s, MayIssue (.solo (.fence .ar .sys)) s) ∧
    (∃ s, MayIssue (.solo (.twait 1)) s ∧ s.core.board.bundle = none ∧ (∀ v ∈ s.core.board.units, v.sect = 0) ∧
      ∃ e ∈ s.core.board.entries, e.remote = false ∧ ∀ e ∈ s.core.board.entries, e.remote = false → (1 : BitVec 6).getLsbD e.post.engine = false) ∧
    ∃ s e, MayIssue (.solo (.twait 8)) s ∧ s.core.board.bundle = none ∧ (∀ v ∈ s.core.board.units, v.sect = 0) ∧
      e ∈ s.core.board.entries ∧ e.remote = false ∧ (8 : BitVec 6).getLsbD e.post.engine = true := by
  refine ⟨⟨_, witness_completes _⟩, ?_, ?_⟩
  · exact issues_with (taskCore (anEntry 3 copyWs .waiting) none) _ _ rfl rfl rfl ⟨rfl, by decide +kernel, _, .head _, rfl, by decide +kernel⟩
  · exact ⟨_, anEntry 3 copyWs .waiting, mayIssue_of_quiet (quiet_withCore (c := taskCore (anEntry 3 copyWs .waiting) none) rfl rfl rfl) _, rfl, by decide +kernel,
      .head _, rfl, by decide +kernel⟩

/-- The package of `world` where core 0 runs for tenant 1, knows that object 1 is here, and stands before a `SIGWAIT` for a value. -/
def sigCore (v : Word) : Core := { regCore [(1, 2097144), (2, v)] [(5, wholeCap)] with routeCache := [(1, some .local)] }
def sigState (v : Word) : State :=
  let s := world (queueOf 8) topMem
  { s with cores := [(0, sigCore v)], sched := { s.sched with launches := [(7, some aLaunch)], teams := [(0, some ⟨7, 0, .placed, [0], [0], 0, false, []⟩)] } }

/-- The word is the greatest of the unsigned numbers, and -1 of the signed. -/
theorem witness_ReadModifyWrites_sigwait : let i (t : Ty) : Op := .solo (.sigwait t .acq .sys 3 5 1 2 0)
    (∃ s, MayIssue (i .n64) s ∧ s.core.wait = .none ∧ ReadsAtOnce (i .n64) s ⟨.wait .n64 (s.core.rs 2) 3, s.core.rc 5, 2097144, 8, .acq, .sys, 0, 0, [0]⟩ ∧
      (s.core.rs 2).toNat ≤ (wordAt s (Cap.obj (s.core.rc 5)) 2097144).toNat) ∧
    ∃ s, MayIssue (i .i64) s ∧ s.core.wait = .none ∧ ReadsAtOnce (i .i64) s ⟨.wait .i64 (s.core.rs 2) 3, s.core.rc 5, 2097144, 8, .acq, .sys, 0, 0, [0]⟩ ∧
      ¬ (s.core.rs 2).toInt ≤ (wordAt s (Cap.obj (s.core.rc 5)) 2097144).toInt := by
  refine ⟨⟨sigState (2 ^ 64 - 1), mayIssue_of_quiet ⟨rfl, rfl, rfl⟩ _, rfl, ⟨?_, ?_, ?_, ⟨⟨_, rfl, rfl⟩, ?_, ?_, ?_⟩, ?_, ?_, ?_, ?_⟩, ?_⟩,
    ⟨sigState 0, mayIssue_of_quiet ⟨rfl, rfl, rfl⟩ _, rfl, ⟨?_, ?_, ?_, ⟨⟨_, rfl, rfl⟩, ?_, ?_, ?_⟩, ?_, ?_, ?_, ?_⟩, ?_⟩⟩
  all_goals first | decide +kernel | (unfold Permitted; decide +kernel) | (unfold Unhindered; decide +kernel)

theorem witness_StrataEvents_snapshots :
    (∀ q ∈ [SoloOp.snap 3 4 5, .snapNw 3 4 5], ∃ s, MayIssue (.solo q) s ∧ Cap.obj (s.core.rc 4) ≠ 0 ∧ Cap.has (s.core.rc 4) 4 = true ∧
      s.core.settledBefore s.core.nextOp = true ∧ s.core.wait = .snap ∧ (homeOf s).asker = .core s.cur ∧ (homeOf s).opened = true ∧ (homeOf s).frozen = some 1) ∧
    (∃ s, MayIssue (.solo (.snapq 3 4 1)) s ∧ Cap.obj (s.core.rc 4) ≠ 0 ∧ Cap.has (s.core.rc 4) 4 = true ∧ s.core.rs 1 = (homeOf s).current ∧ s.core.rs 1 ≠ 0) ∧
    ∃ s, MayIssue (.solo (.snapNw 3 4 5)) s ∧ MaySnap s 4 ∧ s.core.settledBefore s.core.nextOp = true ∧ (homeOf s).frozen = none := by
  refine ⟨fun q _ => ?_, ?_, ?_⟩
  · exact ⟨withGen (snapCore .snap) { GenHome.initial with frozen := some 1, asker := .core 0, opened := true }, mayIssue_of_quiet (quiet_withGen rfl rfl rfl) _, by decide +kernel⟩
  · exact ⟨withGen (snapCore .none) { GenHome.initial with current := 5 }, mayIssue_of_quiet (quiet_withGen rfl rfl rfl) _, by decide +kernel⟩
  · exact ⟨withGen (snapCore .none) GenHome.initial, mayIssue_of_quiet (quiet_withGen rfl rfl rfl) _, by unfold MaySnap; decide +kernel, by decide +kernel⟩

theorem witness_HostAccesses_registers :
    (∃ s, DeviceRuns s ∧ (s.queueAt 0 0).isSome = true) ∧
    (∃ s, DeviceRuns s ∧ ∃ k, s.queueAt 0 0 = some k ∧ k.enable = true ∧ k.halted = true) ∧
    (∃ s, DeviceRuns s ∧ s.fnPresent 0 = true ∧ s.mailByte 0 0x20 ≠ 1 ∧ s.mailByte 0 0x20 ≠ 3) ∧
    (∃ s, DeviceRuns s ∧ 1 ≤ 256 ∧ s.dev.pcieUp = true ∧ bit (1 : Word) 0 = true) ∧
    (∃ s, DeviceRuns s ∧ 3 < 4 ∧ s.fnPresent 0 = true) ∧
    (∃ s, DeviceRuns s ∧ s.devWritable true = true ∧ 383 < 384 ∧ nfield (256 : Word) 0 9 ≤ 256) ∧
    (∃ s, DeviceRuns s ∧ s.devWritable true = false) ∧ ∃ s : State, s.devWritable true = true := by
  have h (k : HostQueue) : DeviceRuns (hostState k) := (rfl : bit Device.initial.dbgctl 44 = false)
  exact ⟨⟨_, h (queueOf 8), rfl⟩, ⟨_, h { queueOf 8 with enable := true, halted := true }, _, rfl, rfl, rfl⟩, ⟨_, h (queueOf 8), by decide +kernel⟩,
    ⟨_, h (queueOf 8), by decide, rfl, by decide⟩, ⟨_, h (queueOf 8), by decide, by decide +kernel⟩, ⟨_, h (queueOf 8), by decide +kernel⟩,
    ⟨withDev Device.initial, (rfl : bit Device.initial.dbgctl 44 = false), by decide +kernel⟩, ⟨hostState (queueOf 8), by decide +kernel⟩⟩

/-- Two queues with a record at their heads; that of queue 1 has been read ahead. -/
def aheadQueue : HostQueue := { headQueue false 0 with cached := [(0, noopWs false)] }
def twoHeads : State :=
  let s := world (headQueue false 0) (noopMem false)
  { s with sched := { s.sched with hostTurn := 0 }
           host := { s.host with fns := [(0, ⟨1, 2, 0xFFF, false, [(0, some (headQueue false 0)), (1, some aheadQueue)], [], []⟩)] } }

theorem ahead_ready : twoHeads.queueReady 0 aheadQueue = true := by
  show (State.considers aheadQueue && (recSealed (noopWs false) 0 && !twoHeads.heldRecord 0 aheadQueue (noopWs false))) = true
  rw [noop_sealed]
  decide +kernel

theorem turn_not_come : twoHeads.turnOfQueue 0 0 = false := by
  have h : twoHeads.turnOfQueue 0 0 = ((!(decide (twoHeads.visitsTo 0 < twoHeads.visitsTo 0) && twoHeads.queueReady 0 (headQueue false 0)) &&
    (!(decide (twoHeads.visitsTo 1 < twoHeads.visitsTo 0) && twoHeads.queueReady 0 aheadQueue) && true)) && true) := rfl
  rw [h, ahead_ready, Bool.and_assoc]
  have h1 : decide (twoHeads.visitsTo 1 < twoHeads.visitsTo 0) = true := by decide +kernel
  simp [h1]

/-- A record is held whose tenant has no partition; and one waits whose turn has not come, since another queue with a record stands before it. -/
theorem witness_FrontEndRecords_held :
    (∃ s k ws, FirmwareRuns s ∧ AtHead s 0 0 k ws ∧ k.tried = false ∧ recSealed ws k.head = true ∧ recKind ws ≠ 6 ∧ s.holdsPartition (tenantFn s 0) = false) ∧
    ∃ s k ws, FirmwareRuns s ∧ AtHead s 0 0 k ws ∧ k.tried = false ∧ recSealed ws k.head = true ∧ s.heldRecord 0 k ws = false ∧ s.turnOfQueue 0 0 = false := by
  refine ⟨⟨(world (headQueue false 0) (noopMem false)).setPartition 0 ⟨1, none, false⟩, headQueue false 0, noopWs false, firmware_of rfl rfl rfl,
      ⟨rfl, ?_, rfl, ⟨⟨_, rfl, rfl⟩, ?_, ?_, ?_⟩, ?_⟩, rfl, noop_sealed false, ?_, ?_⟩,
    ⟨twoHeads, headQueue false 0, noopWs false, firmware_of rfl rfl rfl, ⟨rfl, ?_, rfl, ⟨⟨_, rfl, rfl⟩, ?_, ?_, ?_⟩, ?_⟩, rfl, noop_sealed false, ?_, turn_not_come⟩⟩
  all_goals decide +kernel
end Sys2Proof.Tests
end

/-! ### A representable value rounds to its own encoding (R45, R51) -/

namespace Sys2Proof.Machine

open Sys2Proof.Bits

/-- A magnitude that is already in units of `2^q` leaves no remainder. -/
@[simp] theorem quantum_self (m : Nat) (q : Int) : quantum m q q = (m, 0, 0) := by simp [quantum]

namespace Fmt

/-- A sign and a code make the encoding that they were taken from. -/
theorem enc_split (f : Fmt) {x : Nat} (h : x < 2 ^ f.bits) : f.enc (f.split x).1 (f.split x).2 = x := by
  have hb : 2 ^ f.bits = 2 ^ (f.bits - 1) * 2 := (Nat.two_pow_pred_mul_two (Nat.succ_pos _)).symm
  simp only [enc, split, Nat.mod_eq_of_lt h, decide_eq_true_eq]
  by_cases hs : 2 ^ (f.bits - 1) ≤ x
  · rw [if_pos hs, Nat.mod_eq_sub_mod hs, Nat.mod_eq_of_lt (by omega), Nat.sub_add_cancel hs]
  · rw [if_neg hs, Nat.mod_eq_of_lt (by omega), Nat.add_zero]

/-- What an encoding stands for (R45): a zero or a subnormal, a normal, an infinity, or a NaN. -/
theorem value_cases (f : Fmt) (x : Nat) :
    ((f.split x).2 ≤ f.top ∧ (f.split x).2 < 2 ^ f.fracBits ∧ f.value x = .fin (f.split x).1 (f.split x).2 (f.emin - f.fracBits)) ∨
    (∃ k fr, (f.split x).2 ≤ f.top ∧ fr < 2 ^ f.fracBits ∧ (f.split x).2 = k * 2 ^ f.fracBits + (2 ^ f.fracBits + fr) ∧
      f.value x = .fin (f.split x).1 (2 ^ f.fracBits + fr) (f.emin + k - f.fracBits)) ∨
    (f.hasInf = true ∧ (f.split x).2 = f.infCode ∧ f.value x = .inf (f.split x).1) ∨ f.value x = .nan := by
  unfold value
  generalize f.split x = p
  obtain ⟨neg, code⟩ := p
  dsimp only
  by_cases ht : code ≤ f.top
  · simp only [if_pos ht]
    have hfr : code % 2 ^ f.fracBits < 2 ^ f.fracBits := Nat.mod_lt _ (Nat.two_pow_pos _)
    by_cases h0 : code / 2 ^ f.fracBits = 0
    · have hlt : code < 2 ^ f.fracBits := (Nat.div_eq_zero_iff_lt (Nat.two_pow_pos _)).1 h0
      exact .inl ⟨ht, hlt, by rw [if_pos h0, Nat.mod_eq_of_lt hlt]⟩
    · obtain ⟨k, hk⟩ := Nat.exists_eq_succ_of_ne_zero h0
      have hc := Nat.div_add_mod' code (2 ^ f.fracBits)
      refine .inr (.inl ⟨k, _, ht, hfr, ?_, ?_⟩)
      · rw [← Nat.add_assoc, ← Nat.succ_mul, ← hk, hc]
      · rw [if_neg h0, hk, show ((k.succ : Nat) : Int) - f.bias - f.fracBits = f.emin + k - f.fracBits by simp only [emin]; omega]
  · simp only [if_neg ht]
    by_cases hi : (f.hasInf && code == f.infCode) = true
    · obtain ⟨h1, h2⟩ := Bool.and_eq_true_iff.1 hi
      exact .inr (.inr (.inl ⟨h1, eq_of_beq h2, by rw [if_pos hi]⟩))
    · exact .inr (.inr (.inr (by rw [if_neg hi])))

/-- A magnitude given in the unit of its own binade `k`, and not above the largest finite code, is exact: nothing is rounded, in any
mode. -/
theorem roundFin_exact (f : Fmt) (mode : Rnd) (neg : Bool) (m k : Nat) (g : BitVec 32)
    (hk : max ((Nat.log2 m : Int) + (f.emin + k - f.fracBits)) f.emin = f.emin + k) (ht : k * 2 ^ f.fracBits + m ≤ f.top) :
    f.roundFin mode neg m (f.emin + k - f.fracBits) g = ⟨f.enc neg (k * 2 ^ f.fracBits + m), 0, g⟩ := by
  have hc : (f.emin + k + f.bias - 1).toNat = k := by simp only [emin]; omega
  simp only [roundFin, hk, quantum_self, hc, ht, and_self, if_true]

/-- A magnitude below the smallest normal stands in the lowest binade. -/
theorem binade_subnormal (f : Fmt) {m : Nat} (h : m < 2 ^ f.fracBits) (h0 : m ≠ 0) :
    max ((Nat.log2 m : Int) + (f.emin + (0 : Nat) - f.fracBits)) f.emin = f.emin + (0 : Nat) := by
  have := (Nat.log2_lt h0).2 h
  omega

/-- A magnitude with the implicit one stands in the binade of its exponent. -/
theorem binade_normal (f : Fmt) {fr : Nat} (k : Nat) (h : fr < 2 ^ f.fracBits) :
    max ((Nat.log2 (2 ^ f.fracBits + fr) : Int) + (f.emin + k - f.fracBits)) f.emin = f.emin + k := by
  have hl : Nat.log2 (2 ^ f.fracBits + fr) = f.fracBits :=
    (Nat.log2_eq_iff (by have := Nat.two_pow_pos f.fracBits; omega)).2 ⟨Nat.le_add_right _ _, by rw [Nat.pow_succ]; omega⟩
  rw [hl]
  omega

/-- The value of an encoding that is no NaN rounds to that encoding, with no flag and no draw. -/
theorem round_value (f : Fmt) (mode : Rnd) (g : BitVec 32) {x : Nat} (hx : x < 2 ^ f.bits) (hn : f.value x ≠ .nan) :
    f.round mode (f.value x) g = ⟨x, 0, g⟩ := by
  have he := f.enc_split hx
  rcases f.value_cases x with ⟨ht, hlt, hv⟩ | ⟨k, fr, ht, hfr, hc, hv⟩ | ⟨hi, hc, hv⟩ | hv
  · rw [hv]
    by_cases h0 : (f.split x).2 = 0
    · rw [h0] at he ⊢
      simp [round, he]
    · have hr := f.roundFin_exact mode (f.split x).1 _ 0 g (f.binade_subnormal hlt h0) (by simpa using ht)
      simpa [round, h0, he] using hr
  · have hr := f.roundFin_exact mode (f.split x).1 _ k g (f.binade_normal k hfr) (hc ▸ ht)
    have hm : 2 ^ f.fracBits + fr ≠ 0 := by have := Nat.two_pow_pos f.fracBits; omega
    rw [← hc, he] at hr
    rw [hv, round, if_neg hm, hr]
  · rw [hc] at he
    simp [hv, round, hi, he]
  · exact absurd hv hn

end Fmt

end Sys2Proof.Machine

namespace Sys2Proof

/-- Settles O10: every encoding that is no NaN is a zero, a magnitude in the unit of its own binade, or an infinity, and each of these is
exact in its format. -/
theorem roundingKeepsRepresentable : Obligations.RoundingKeepsRepresentable := by
  unfold Obligations.RoundingKeepsRepresentable
  exact fun _ f r g _ _ hx hn => f.round_value r g hx hn

end Sys2Proof

/-! ### Reductions into a scalar register (R62, R252) -/

namespace Sys2Proof.Machine

open Sys2Proof.Bits

namespace Core

@[simp] theorem rs_drew (c : Core) (gens : List (BitVec 32)) (f : FFlags) (r : SReg) : (c.drew gens f).rs r = c.rs r := rfl

/-- A scalar result, with the generators it has drawn from and the flags it raises. -/
theorem leaves_ws_drew {c b : Core} {n : Nat} (h : Leaves {} n c b) (d : SReg) (v : Word) (gens : List (BitVec 32)) (f : FFlags) :
    Leaves { s := [d.val], flags := f, draws := true } n c ((b.ws d v).drew gens f) :=
  have l := leaves_ws h d v f
  { scalars := l.scalars, predicates := l.predicates, masks := l.masks, caps := l.caps, regions := l.regions, branches := l.branches
    vectors := l.vectors, specials := l.specials, fflags := l.fflags, flags := l.flags, setFlags := l.setFlags
    seed := fun _ => l.seed (.inl rfl), cleared := l.cleared, generators := fun hw => absurd hw (by simp), rowMap := l.rowMap
    scratchpad := l.scratchpad, accumulators := l.accumulators, window := l.window, queue := l.queue }

/-- A scalar result with draws names no next group. -/
theorem straight_ws_drew (c : Core) (y : Bool) (d : SReg) (v : Word) (gens : List (BitVec 32)) (f : FFlags) :
    Straight c (((c.begin' y).ws d v).drew gens f) := by
  constructor <;> simp [drew, raise]

/-- What the core holds after a scalar result with draws and the end of its group. -/
theorem ended_ws_drew (w : Nat) (b : Core) (d : SReg) (v : Word) (gens : List (BitVec 32)) (f : FFlags) (hs : b.grp.seed = none) :
    (((b.ws d v).drew gens f).endGroup w).rs d = (if d.val = 0 then 0 else v) ∧ (((b.ws d v).drew gens f).endGroup w).sp.gens = gens := by
  obtain ⟨ls, bp, next, bb, e, -⟩ := endGroup_shape w ((b.ws d v).drew gens f)
  have hg : ((b.ws d v).drew gens f).grp.seed = none := by simpa [drew, raise] using hs
  rw [e]
  refine ⟨?_, ?_⟩
  · show ((b.ws d v).drew gens f).rs d = _
    simp
  · simp only [ended, commitGroup, hg]
    rfl

end Core

/-- What a reduction does, from the tree it folds. -/
theorem reduces_of {i : Instr} {o : Op} {op : State → OpRes} {t : Ty} {d : SReg} {a : VReg} {m : MReg} {e : Nat}
    {f : Core → Nat → Nat → BitVec 32 → Rounded} (hx : ∀ s, exec i s = issueAlone o op s) (hop : op = reduce t d a m e f)
    (hf : ∀ c y, f (c.begin' y) = f c) : Reduces i o t d a m e f := by
  subst hop
  refine completes_of hx fun s _ _ => ?_
  have b : (begun o s).core = s.core.begin' ((needs o s).cls == .Y) := by simp [begun]
  refine ⟨_, rfl, rfl, fun _ _ => State.byteAt_congr rfl _ _, fun _ n hn => by simp [begun, State.coreAt_on, hn], ?_, ?_, ?_⟩
  · simp only [State.core_on, b, hf, Core.begin'_rm, Core.begin'_rv, Core.begin'_sp]
    exact Core.leaves_ws_drew (Core.leaves_begin' _ _ _) d _ _ _
  · simp only [State.core_on, b]
    exact Core.straight_ws_drew _ _ _ _ _ _
  · simp only [finished, State.core_on, b, hf, Core.begin'_rm, Core.begin'_rv, Core.begin'_sp]
    exact Core.ended_ws_drew _ _ d _ _ _ (Core.begin'_seed _ _)

/-! ### Combines as the results of a lane (R62, R239) -/

/-- The result of an integer lane wraps. -/
theorem laneResult_int {t : Ty} (h : t.fmt? = none) (r : Rnd) (n : Int) (x : FVal × FFlags) (g : BitVec 32) :
    laneResult t r n x g = plain (bitsOfInt t.width n) g := by
  simp only [laneResult, h]; rfl

/-- The result of a float lane is rounded once. -/
theorem laneResult_float {t : Ty} {q : Fmt} (h : t.fmt? = some q) (r : Rnd) (n : Int) (x : FVal × FFlags) (g : BitVec 32) :
    laneResult t r n x g = roundPair q r x g := by
  simp only [laneResult, h]

/-- An element of a float type stands for the value of its encoding. -/
theorem value_of_fmt {t : Ty} {q : Fmt} (h : t.fmt? = some q) (x : Nat) : t.value x = q.value x := by
  simp only [Ty.value, h]

/-- An ordering combine is a lane's result in the nearest mode. -/
theorem pick_eq_laneResult (t : Ty) (fi : Int → Int → Int) (ff : FVal → FVal → FVal) (x y : Nat) (g : BitVec 32) :
    pick t fi ff x y g = laneResult t .rne (fi (t.int x) (t.int y)) (ff (t.value x) (t.value y), 0) g := by
  cases h : t.fmt? with
  | none => simp only [pick, h, laneResult_int h]
  | some q => simp [pick, h, laneResult_float h, value_of_fmt h, roundPair]

/-- The sum, from the identity of its type (R62): 0 of the integers, -0 of the floats. -/
theorem opVredSum_eq {t : Ty} {e : Nat} (h0 : t.fmt? = none → e = 0) (h1 : ∀ q, t.fmt? = some q → e = q.enc true 0) (d : SReg) (a : VReg)
    (m : MReg) : opVredSum t d a m = reduce t d a m e
      fun c x y => laneResult t (vtRnd c) (t.int x + t.int y) (FVal.add (vtRnd c) (t.value x) (t.value y)) := by
  cases h : t.fmt? with
  | none =>
    simp only [opVredSum, h, h0 h]
    congr 1; funext c x y g
    rw [laneResult_int h]
  | some q =>
    simp only [opVredSum, h, h1 q h]
    congr 1; funext c x y g
    rw [laneResult_float h, value_of_fmt h, value_of_fmt h]

/-- The lesser of two integers, by the test that a lane makes. -/
theorem ite_lt_eq_min (x y : Int) : (if y < x then y else x) = min x y := by
  split <;> omega

/-- The greater of two integers, by the test that a lane makes. -/
theorem ite_lt_eq_max (x y : Int) : (if x < y then y else x) = max x y := by
  split <;> omega

/-- The minimum, from the top of the type. -/
theorem opVredMin_eq (t : Ty) (d : SReg) (a : VReg) (m : MReg) :
    opVredMin t d a m = reduce t d a m (edge t false)
      fun _ x y => laneResult t .rne (min (t.int x) (t.int y)) (FVal.min (t.value x) (t.value y), 0) := by
  unfold opVredMin
  congr 1; funext _ x y g
  rw [pick_eq_laneResult, ite_lt_eq_min]

/-- The maximum, from the bottom of the type. -/
theorem opVredMax_eq (t : Ty) (d : SReg) (a : VReg) (m : MReg) :
    opVredMax t d a m = reduce t d a m (edge t true)
      fun _ x y => laneResult t .rne (max (t.int x) (t.int y)) (FVal.max (t.value x) (t.value y), 0) := by
  unfold opVredMax
  congr 1; funext _ x y g
  rw [pick_eq_laneResult, ite_lt_eq_max]

end Sys2Proof.Machine

namespace Sys2Proof

open Machine

/-- Settles O33: every reduction is the halving tree from its identity, with a combine that is a lane's result, a bitwise operation, or a
clamped sum; a scalar result with draws then gives its frame. -/
theorem vectorReductions : Obligations.VectorReductions := by
  unfold Obligations.VectorReductions
  intro t d a m ident
  refine ⟨?sum, ?min, ?max, ?and, ?or, ?xor, ?sums⟩
  case sum =>
    have hsum := opVredSum_eq (t := t) (e := ident 0 fun q => q.enc true 0) (fun h => by simp [ident, h]) (fun q h => by simp [ident, h]) d a m
    exact reduces_of (fun _ => rfl) hsum fun c y => by simp only [vtRnd_begin']
  case min => exact reduces_of (fun _ => rfl) (opVredMin_eq t d a m) fun _ _ => rfl
  case max => exact reduces_of (fun _ => rfl) (opVredMax_eq t d a m) fun _ _ => rfl
  case and | or | xor | sums => exact reduces_of (fun _ => rfl) rfl fun _ _ => rfl

end Sys2Proof
